-- ==== Sys2Proof/Word.lean ====
section
/-! DEFINITION. The word types of the Raleri 1600 (spec/08 R250, spec/06 R197). -/

namespace Sys2Proof

/-- A scalar register, a special register or a far pointer: 64 bits. -/
abbrev W64 := BitVec 64

/-- An instruction word, PC, or the offset and tag of a local pointer: 32 bits. -/
abbrev W32 := BitVec 32

/-- A vector register or a link word: 512 bits. -/
abbrev Vec := BitVec 512

/-- One byte of memory. -/
abbrev Byte := BitVec 8

end Sys2Proof
end

