-- ==== Sys2Proof/Syntax.lean ====
section
/-! DEFINITION. The instructions and steps of the Raleri 1600: one constructor for each row of the opcode table
(spec/opcode_table.json). The rows with words carry the fields of their encodings (spec/08 to spec/15); the rows
without words are the events of the machine (spec/95), each carrying what its occurrence names.

Field names: rd, rs1, rs2 the register fields [14:10], [19:15], [24:20] or the part of them that the row uses; imm an
immediate; p bit [2], "expects a prefix word" (R251); agents are 22-bit agent numbers (R195), clusters are die × 2048 +
cluster index, functions are 0 for the physical function and 1 to 63 for a VF. -/

namespace Sys2Proof

inductive Instr where
  /-- PREFIX (R258): A prefix word passes its checks, loads the prefix latch and advances PC by 4. -/
  | pfx (f : BitVec 1) (e : BitVec 2) (n : BitVec 1) (g : BitVec 3) (s : BitVec 2) (r : BitVec 3)
  /-- ADD (R296): Adds two scalar registers, optionally as .w or saturating. -/
  | add (w : BitVec 1) (rs2 : BitVec 5) (rs1 : BitVec 5) (rd : BitVec 5) (p : BitVec 1)
  /-- SUB (R296): Subtracts rs2 from rs1. -/
  | sub (w : BitVec 1) (rs2 : BitVec 5) (rs1 : BitVec 5) (rd : BitVec 5) (p : BitVec 1)
  /-- AND (R296): Bitwise AND of two scalar registers. -/
  | and (w : BitVec 1) (rs2 : BitVec 5) (rs1 : BitVec 5) (rd : BitVec 5) (p : BitVec 1)
  /-- OR (R296): Bitwise OR of two scalar registers. -/
  | or (w : BitVec 1) (rs2 : BitVec 5) (rs1 : BitVec 5) (rd : BitVec 5) (p : BitVec 1)
  /-- XOR (R296): Bitwise XOR of two scalar registers. -/
  | xor (w : BitVec 1) (rs2 : BitVec 5) (rs1 : BitVec 5) (rd : BitVec 5) (p : BitVec 1)
  /-- SHL (R296): Shifts rs1 left by rs2 mod n, optionally saturating. -/
  | shl (w : BitVec 1) (rs2 : BitVec 5) (rs1 : BitVec 5) (rd : BitVec 5) (p : BitVec 1)
  /-- SHR (R296): Logical right shift. -/
  | shr (w : BitVec 1) (rs2 : BitVec 5) (rs1 : BitVec 5) (rd : BitVec 5) (p : BitVec 1)
  /-- SHA (R296): Arithmetic right shift. -/
  | sha (w : BitVec 1) (rs2 : BitVec 5) (rs1 : BitVec 5) (rd : BitVec 5) (p : BitVec 1)
  /-- MIN (R296): Signed minimum. -/
  | min (w : BitVec 1) (rs2 : BitVec 5) (rs1 : BitVec 5) (rd : BitVec 5) (p : BitVec 1)
  /-- MAX (R296): Signed maximum. -/
  | max (w : BitVec 1) (rs2 : BitVec 5) (rs1 : BitVec 5) (rd : BitVec 5) (p : BitVec 1)
  /-- MINN (R296): Natural minimum. -/
  | minn (w : BitVec 1) (rs2 : BitVec 5) (rs1 : BitVec 5) (rd : BitVec 5) (p : BitVec 1)
  /-- MAXN (R296): Natural maximum. -/
  | maxn (w : BitVec 1) (rs2 : BitVec 5) (rs1 : BitVec 5) (rd : BitVec 5) (p : BitVec 1)
  /-- MUL (R296): Signed multiply, low n bits or saturated. -/
  | mul (w : BitVec 1) (rs2 : BitVec 5) (rs1 : BitVec 5) (rd : BitVec 5) (p : BitVec 1)
  /-- MULH (R296): High half of the signed product. -/
  | mulh (w : BitVec 1) (rs2 : BitVec 5) (rs1 : BitVec 5) (rd : BitVec 5) (p : BitVec 1)
  /-- MULHN (R296): High half of the natural product. -/
  | mulhn (w : BitVec 1) (rs2 : BitVec 5) (rs1 : BitVec 5) (rd : BitVec 5) (p : BitVec 1)
  /-- DIV (R296): Signed division toward zero; all ones on divide by zero. -/
  | div (w : BitVec 1) (rs2 : BitVec 5) (rs1 : BitVec 5) (rd : BitVec 5) (p : BitVec 1)
  /-- DIVN (R296): Natural division. -/
  | divn (w : BitVec 1) (rs2 : BitVec 5) (rs1 : BitVec 5) (rd : BitVec 5) (p : BitVec 1)
  /-- REM (R296): Signed remainder. -/
  | rem (w : BitVec 1) (rs2 : BitVec 5) (rs1 : BitVec 5) (rd : BitVec 5) (p : BitVec 1)
  /-- REMN (R296): Natural remainder. -/
  | remn (w : BitVec 1) (rs2 : BitVec 5) (rs1 : BitVec 5) (rd : BitVec 5) (p : BitVec 1)
  /-- CLZ (R296): Counts leading zero bits. -/
  | clz (w : BitVec 1) (rs1 : BitVec 5) (rd : BitVec 5) (p : BitVec 1)
  /-- CTZ (R296): Counts trailing zero bits. -/
  | ctz (w : BitVec 1) (rs1 : BitVec 5) (rd : BitVec 5) (p : BitVec 1)
  /-- POPC (R296): Counts set bits. -/
  | popc (w : BitVec 1) (rs1 : BitVec 5) (rd : BitVec 5) (p : BitVec 1)
  /-- ANDN (R296): rs1 AND NOT rs2. -/
  | andn (w : BitVec 1) (rs2 : BitVec 5) (rs1 : BitVec 5) (rd : BitVec 5) (p : BitVec 1)
  /-- ORN (R296): rs1 OR NOT rs2. -/
  | orn (w : BitVec 1) (rs2 : BitVec 5) (rs1 : BitVec 5) (rd : BitVec 5) (p : BitVec 1)
  /-- ADDI (R297): Adds a sign-extended 12-bit immediate. -/
  | addi (imm : BitVec 12) (rs1 : BitVec 5) (rd : BitVec 5) (p : BitVec 1)
  /-- ANDI (R297): ANDs with an immediate. -/
  | andi (imm : BitVec 12) (rs1 : BitVec 5) (rd : BitVec 5) (p : BitVec 1)
  /-- ORI (R297): ORs with an immediate. -/
  | ori (imm : BitVec 12) (rs1 : BitVec 5) (rd : BitVec 5) (p : BitVec 1)
  /-- XORI (R297): XORs with an immediate. -/
  | xori (imm : BitVec 12) (rs1 : BitVec 5) (rd : BitVec 5) (p : BitVec 1)
  /-- SHLI (R298): Shift left by an immediate amount. -/
  | shli (w : BitVec 1) (h : BitVec 6) (rs1 : BitVec 5) (rd : BitVec 5) (p : BitVec 1)
  /-- SHRI (R298): Logical right shift by an immediate. -/
  | shri (w : BitVec 1) (h : BitVec 6) (rs1 : BitVec 5) (rd : BitVec 5) (p : BitVec 1)
  /-- SHAI (R298): Arithmetic right shift by an immediate. -/
  | shai (w : BitVec 1) (h : BitVec 6) (rs1 : BitVec 5) (rd : BitVec 5) (p : BitVec 1)
  /-- LEA (R299): Forms rs1 plus a scaled displacement without accessing memory. -/
  | lea (imm : BitVec 10) (c : BitVec 2) (rs1 : BitVec 5) (rd : BitVec 5) (p : BitVec 1)
  /-- LDI (R300): Loads a 32-bit immediate, zero- or sign-extended (double word). -/
  | ldi (x : BitVec 1) (imm : BitVec 32) (rd : BitVec 5) (p : BitVec 1)
  /-- LDIH (R300): Sets the upper 32 bits of a register to an immediate (double word). -/
  | ldih (imm : BitVec 32) (rd : BitVec 5) (p : BitVec 1)
  /-- BND (R301): Checks rs1 below rs2, raising BOUNDS otherwise. -/
  | bnd (rs2 : BitVec 5) (rs1 : BitVec 5) (rd : BitVec 5) (p : BitVec 1)
  /-- BNDI (R301): Checks rs1 below an immediate limit. -/
  | bndi (imm : BitVec 12) (rs1 : BitVec 5) (rd : BitVec 5) (p : BitVec 1)
  /-- MULI (R297): Multiplies by an immediate. -/
  | muli (imm : BitVec 12) (rs1 : BitVec 5) (rd : BitVec 5) (p : BitVec 1)
  /-- ADDI_W (R297): 32-bit add of an immediate. -/
  | addiW (imm : BitVec 12) (rs1 : BitVec 5) (rd : BitVec 5) (p : BitVec 1)
  /-- BDSET (R302): Writes or clears a buffer descriptor (double word). -/
  | bdset (lr : BitVec 1) (esz : BitVec 3) (rs2 : BitVec 5) (rs1 : BitVec 5) (clr : BitVec 1) (n : BitVec 3) (leni : BitVec 24) (p : BitVec 1)
  /-- CMP (R303): Compares two registers under a condition into a predicate. -/
  | cmp (w : BitVec 1) (c : BitVec 3) (rs2 : BitVec 5) (rs1 : BitVec 5) (rd : BitVec 3) (p : BitVec 1)
  /-- CMPI (R303): Compares a register with a 9-bit immediate into a predicate. -/
  | cmpi (imm : BitVec 9) (c : BitVec 3) (rs1 : BitVec 5) (rd : BitVec 3) (p : BitVec 1)
  /-- PLOG (R304): Computes a predicate from two predicates through a lookup table. -/
  | plog (l : BitVec 4) (rs2 : BitVec 3) (rs1 : BitVec 3) (rd : BitVec 3) (p : BitVec 1)
  /-- SEL (R305): Selects one of two registers by a predicate. -/
  | sel (n : BitVec 1) (c : BitVec 3) (rs2 : BitVec 5) (rs1 : BitVec 5) (rd : BitVec 5) (p : BitVec 1)
  /-- PMOV_TO_SCALAR (R306): Copies the predicate file into a scalar register. -/
  | pmovToScalar (rd : BitVec 5) (p : BitVec 1)
  /-- PMOV_FROM_SCALAR (R306): Sets p1 to p7 from a scalar register. -/
  | pmovFromScalar (rs1 : BitVec 5) (p : BitVec 1)
  /-- BR (R307): Branches on a predicate. -/
  | br (imm : BitVec 18) (n : BitVec 1) (c : BitVec 3)
  /-- J (R307): Unconditional PC-relative jump. -/
  | j (imm : BitVec 22)
  /-- JR (R307): Jumps to the address in a register. -/
  | jr (rs1 : BitVec 5) (p : BitVec 1)
  /-- CALL (R309): Calls a PC-relative target, moving the register window and spilling if needed. -/
  | call (imm : BitVec 22)
  /-- CALLR (R309): Calls the address in a register. -/
  | callr (rs1 : BitVec 5) (p : BitVec 1)
  /-- RET (R309): Returns to s23, moving the window back and filling if needed. -/
  | ret (p : BitVec 1)
  /-- LOOP (R308): Decrements a counter register and branches while it exceeds 1. -/
  | loop (imm : BitVec 18) (c : BitVec 3)
  /-- REPF (R270): Replays the following block of instructions COUNT times with advancing register fields. -/
  | repf (n : BitVec 12) (rs1 : BitVec 2) (v : BitVec 4) (l : BitVec 4)
  /-- LDB (R314): Loads a sign-extended byte from local memory. -/
  | ldb (imm : BitVec 12) (rs1 : BitVec 5) (rd : BitVec 5) (p : BitVec 1)
  /-- LDBN (R314): Loads a zero-extended byte. -/
  | ldbn (imm : BitVec 12) (rs1 : BitVec 5) (rd : BitVec 5) (p : BitVec 1)
  /-- LDH (R314): Loads a sign-extended halfword. -/
  | ldh (imm : BitVec 12) (rs1 : BitVec 5) (rd : BitVec 5) (p : BitVec 1)
  /-- LDHN (R314): Loads a zero-extended halfword. -/
  | ldhn (imm : BitVec 12) (rs1 : BitVec 5) (rd : BitVec 5) (p : BitVec 1)
  /-- LDW (R314): Loads a sign-extended word, with event-unit side effects where addressed. -/
  | ldw (imm : BitVec 12) (rs1 : BitVec 5) (rd : BitVec 5) (p : BitVec 1)
  /-- LDWN (R314): Loads a zero-extended word. -/
  | ldwn (imm : BitVec 12) (rs1 : BitVec 5) (rd : BitVec 5) (p : BitVec 1)
  /-- LDD (R314): Loads a doubleword. -/
  | ldd (imm : BitVec 12) (rs1 : BitVec 5) (rd : BitVec 5) (p : BitVec 1)
  /-- STB (R314): Stores a byte. -/
  | stb (imm : BitVec 12) (rs1 : BitVec 5) (rd : BitVec 5) (p : BitVec 1)
  /-- STH (R314): Stores a halfword. -/
  | sth (imm : BitVec 12) (rs1 : BitVec 5) (rd : BitVec 5) (p : BitVec 1)
  /-- STW (R314): Stores a word, with event-unit side effects where addressed. -/
  | stw (imm : BitVec 12) (rs1 : BitVec 5) (rd : BitVec 5) (p : BitVec 1)
  /-- STD (R314): Stores a doubleword. -/
  | std (imm : BitVec 12) (rs1 : BitVec 5) (rd : BitVec 5) (p : BitVec 1)
  /-- LDX (R315): Loads an element through a buffer descriptor with a bounds check. -/
  | ldx (x : BitVec 1) (n : BitVec 3) (rs1 : BitVec 5) (rd : BitVec 5) (p : BitVec 1)
  /-- STX (R315): Stores an element through a buffer descriptor. -/
  | stx (n : BitVec 3) (rs1 : BitVec 5) (rd : BitVec 5) (p : BitVec 1)
  /-- TAGS (R316): Sets the tags of a run of granules to the pointer's tag. -/
  | tags (f : BitVec 1) (rs2 : BitVec 5) (rs1 : BitVec 5) (p : BitVec 1)
  /-- TAGR (R316): Reads the tag of a granule. -/
  | tagr (f : BitVec 1) (rs1 : BitVec 5) (rd : BitVec 5) (p : BitVec 1)
  /-- TAGP (R316): Replaces the tag field of a pointer. -/
  | tagp (f : BitVec 1) (rs2 : BitVec 5) (rs1 : BitVec 5) (rd : BitVec 5) (p : BitVec 1)
  /-- PROBE (R317): Evaluates the access check into a predicate without trapping. -/
  | probe (imm : BitVec 8) (k : BitVec 1) (f : BitVec 1) (rs1 : BitVec 5) (s : BitVec 2) (rd : BitVec 3) (p : BitVec 1)
  /-- BCOPY (R320): Queues a cluster-copy-engine transfer, possibly converting formats. -/
  | bcopy (rs2 : BitVec 5) (rs1 : BitVec 5) (rd : BitVec 5) (p : BitVec 1)
  /-- LDF (R318): Loads once the words are full. -/
  | ldf (imm : BitVec 10) (z : BitVec 1) (rs1 : BitVec 5) (rd : BitVec 5) (p : BitVec 1)
  /-- LDFC (R318): Loads once full and sets the words empty. -/
  | ldfc (imm : BitVec 10) (z : BitVec 1) (rs1 : BitVec 5) (rd : BitVec 5) (p : BitVec 1)
  /-- STF (R318): Stores and sets the words full. -/
  | stf (imm : BitVec 10) (z : BitVec 1) (rs1 : BitVec 5) (rd : BitVec 5) (p : BitVec 1)
  /-- FEC (R319): Sets a run of words empty. -/
  | fec (rs2 : BitVec 5) (rs1 : BitVec 5) (p : BitVec 1)
  /-- FEQ (R319): Reads a word's full bit into a predicate. -/
  | feq (rs1 : BitVec 5) (rd : BitVec 3) (p : BitVec 1)
  /-- AMO_ADD (R325): Atomic wrapping add. -/
  | amoAdd (g : BitVec 3) (s : BitVec 5) (rs1 : BitVec 5) (o : BitVec 2) (w : BitVec 1) (r : BitVec 2) (p : BitVec 1)
  /-- AMO_AND (R325): Atomic AND. -/
  | amoAnd (g : BitVec 3) (s : BitVec 5) (rs1 : BitVec 5) (o : BitVec 2) (w : BitVec 1) (r : BitVec 2) (p : BitVec 1)
  /-- AMO_OR (R325): Atomic OR. -/
  | amoOr (g : BitVec 3) (s : BitVec 5) (rs1 : BitVec 5) (o : BitVec 2) (w : BitVec 1) (r : BitVec 2) (p : BitVec 1)
  /-- AMO_XOR (R325): Atomic XOR. -/
  | amoXor (g : BitVec 3) (s : BitVec 5) (rs1 : BitVec 5) (o : BitVec 2) (w : BitVec 1) (r : BitVec 2) (p : BitVec 1)
  /-- AMO_MIN (R325): Atomic signed minimum. -/
  | amoMin (g : BitVec 3) (s : BitVec 5) (rs1 : BitVec 5) (o : BitVec 2) (w : BitVec 1) (r : BitVec 2) (p : BitVec 1)
  /-- AMO_MAX (R325): Atomic signed maximum. -/
  | amoMax (g : BitVec 3) (s : BitVec 5) (rs1 : BitVec 5) (o : BitVec 2) (w : BitVec 1) (r : BitVec 2) (p : BitVec 1)
  /-- AMO_MINN (R325): Atomic natural minimum. -/
  | amoMinn (g : BitVec 3) (s : BitVec 5) (rs1 : BitVec 5) (o : BitVec 2) (w : BitVec 1) (r : BitVec 2) (p : BitVec 1)
  /-- AMO_MAXN (R325): Atomic natural maximum. -/
  | amoMaxn (g : BitVec 3) (s : BitVec 5) (rs1 : BitVec 5) (o : BitVec 2) (w : BitVec 1) (r : BitVec 2) (p : BitVec 1)
  /-- AMO_SWAP (R325): Atomic swap. -/
  | amoSwap (g : BitVec 3) (s : BitVec 5) (rs1 : BitVec 5) (o : BitVec 2) (w : BitVec 1) (r : BitVec 2) (p : BitVec 1)
  /-- CAS (R325): Atomic compare-and-swap. -/
  | cas (g : BitVec 3) (s : BitVec 5) (rs1 : BitVec 5) (o : BitVec 2) (w : BitVec 1) (r : BitVec 2) (p : BitVec 1)
  /-- FENCE (R327): Orders accesses as a release, acquire or both over a scope. -/
  | fence (g : BitVec 3) (s : BitVec 5) (o : BitVec 2)
  /-- QINIT (R329): Initialises a hardware queue descriptor. -/
  | qinit (q : BitVec 5) (rs2 : BitVec 5) (rs1 : BitVec 5) (rd : BitVec 3) (p : BitVec 1)
  /-- QENQ (R329): Enqueues a scalar or vector entry. -/
  | qenq (q : BitVec 5) (rs1 : BitVec 5) (v : BitVec 1) (rd : BitVec 3) (p : BitVec 1)
  /-- QDEQ (R329): Dequeues an entry, counting failures towards a forced yield. -/
  | qdeq (q : BitVec 5) (v : BitVec 1) (c : BitVec 3) (rd : BitVec 5) (p : BitVec 1)
  /-- QCNT (R329): Returns the number of entries in a queue. -/
  | qcnt (q : BitVec 5) (rd : BitVec 5) (p : BitVec 1)
  /-- OLDEST (R331): Waits until the ordered task is oldest, commits and makes it write-through. -/
  | oldest
  /-- RDS (R412): Reads a special register. -/
  | rds (n : BitVec 12) (rd : BitVec 5) (p : BitVec 1)
  /-- WRS (R412): Writes a special register. -/
  | wrs (n : BitVec 12) (rs1 : BitVec 5) (p : BitVec 1)
  /-- TRAP (R432): Raises SOFT with a code, resuming after the instruction. -/
  | trap (c : BitVec 12)
  /-- ERET (R433): Returns from a trap handler, restoring level and prefix latch. -/
  | eret
  /-- TEND (R433): Ends the running task, committing an ordered task. -/
  | tend
  /-- YIELD (R472): Yields the task, saving its state in a yield block. -/
  | yield
  /-- TSPAWN (R433): Adds a task-table entry. -/
  | tspawn (rs2 : BitVec 5) (rs1 : BitVec 5) (rd : BitVec 3)
  /-- BRK (R432): Records a breakpoint hit, halting under halt-at-hit. -/
  | brk (c : BitVec 12)
  /-- TRC (R432): Emits a user trace record. -/
  | trc (t : BitVec 7) (rs2 : BitVec 5) (rs1 : BitVec 5) (p : BitVec 1)
  /-- CNT (R432): Reads a core counter. -/
  | cnt (c : BitVec 2) (rd : BitVec 5) (p : BitVec 1)
  /-- CNT_SEL (R462): Selects an event for a core counter and clears it. -/
  | cntSel (c : BitVec 2) (rs1 : BitVec 5) (p : BitVec 1)
  /-- VLD (R349): Loads 64 raw bytes into a vector register. -/
  | vld (imm : BitVec 10) (rs1 : BitVec 5) (rd : BitVec 5) (p : BitVec 1)
  /-- VLD_DEC (R350): Loads 16 elements decoded to F32 under the bay format. -/
  | vldDec (imm : BitVec 10) (rs1 : BitVec 5) (rd : BitVec 5) (p : BitVec 1)
  /-- VST (R349): Stores 64 raw bytes. -/
  | vst (imm : BitVec 10) (rs1 : BitVec 5) (rd : BitVec 5) (p : BitVec 1)
  /-- VST_CNV (R351): Stores 16 lanes converted into the bay format. -/
  | vstCnv (imm : BitVec 10) (rs1 : BitVec 5) (rd : BitVec 5) (p : BitVec 1)
  /-- VLDS (R353): Strided vector load. -/
  | vlds (imm : BitVec 12) (rs1 : BitVec 5) (rd : BitVec 5) (p : BitVec 1)
  /-- VSTS (R353): Strided vector store. -/
  | vsts (imm : BitVec 12) (rs1 : BitVec 5) (rd : BitVec 5) (p : BitVec 1)
  /-- VGATH (R354): Indexed vector gather. -/
  | vgath (rs2 : BitVec 5) (rs1 : BitVec 5) (rd : BitVec 5) (p : BitVec 1)
  /-- VSCAT (R354): Indexed vector scatter. -/
  | vscat (rs2 : BitVec 5) (rs1 : BitVec 5) (rd : BitVec 5) (p : BitVec 1)
  /-- VADD (R339): Lane-wise add. -/
  | vadd (t : BitVec 4) (rs2 : BitVec 5) (rs1 : BitVec 5) (rd : BitVec 5) (p : BitVec 1)
  /-- VSUB (R339): Lane-wise subtract. -/
  | vsub (t : BitVec 4) (rs2 : BitVec 5) (rs1 : BitVec 5) (rd : BitVec 5) (p : BitVec 1)
  /-- VMUL (R339): Lane-wise multiply. -/
  | vmul (t : BitVec 4) (rs2 : BitVec 5) (rs1 : BitVec 5) (rd : BitVec 5) (p : BitVec 1)
  /-- VMIN (R339): Lane-wise minimum. -/
  | vmin (t : BitVec 4) (rs2 : BitVec 5) (rs1 : BitVec 5) (rd : BitVec 5) (p : BitVec 1)
  /-- VMAX (R339): Lane-wise maximum. -/
  | vmax (t : BitVec 4) (rs2 : BitVec 5) (rs1 : BitVec 5) (rd : BitVec 5) (p : BitVec 1)
  /-- VABS (R339): Lane-wise absolute value. -/
  | vabs (t : BitVec 4) (rs1 : BitVec 5) (rd : BitVec 5) (p : BitVec 1)
  /-- VNEG (R339): Lane-wise negation. -/
  | vneg (t : BitVec 4) (rs1 : BitVec 5) (rd : BitVec 5) (p : BitVec 1)
  /-- VFMA (R340): Fused multiply-add into vd. -/
  | vfma (t : BitVec 4) (rs2 : BitVec 5) (rs1 : BitVec 5) (rd : BitVec 5) (p : BitVec 1)
  /-- VFMS (R340): Fused multiply-subtract. -/
  | vfms (t : BitVec 4) (rs2 : BitVec 5) (rs1 : BitVec 5) (rd : BitVec 5) (p : BitVec 1)
  /-- VFNMA (R340): Negated fused multiply plus vd. -/
  | vfnma (t : BitVec 4) (rs2 : BitVec 5) (rs1 : BitVec 5) (rd : BitVec 5) (p : BitVec 1)
  /-- VAND (R345): Bitwise AND over 512 bits. -/
  | vand (rs2 : BitVec 5) (rs1 : BitVec 5) (rd : BitVec 5) (p : BitVec 1)
  /-- VOR (R345): Bitwise OR over 512 bits. -/
  | vor (rs2 : BitVec 5) (rs1 : BitVec 5) (rd : BitVec 5) (p : BitVec 1)
  /-- VXOR (R345): Bitwise XOR over 512 bits. -/
  | vxor (rs2 : BitVec 5) (rs1 : BitVec 5) (rd : BitVec 5) (p : BitVec 1)
  /-- VANDN (R345): Bitwise AND NOT over 512 bits. -/
  | vandn (rs2 : BitVec 5) (rs1 : BitVec 5) (rd : BitVec 5) (p : BitVec 1)
  /-- VCMP (R343): Lane-wise compare into a mask. -/
  | vcmp (t : BitVec 4) (c : BitVec 3) (rs2 : BitVec 5) (rs1 : BitVec 5) (rd : BitVec 3) (p : BitVec 1)
  /-- VSEL (R345): Lane-wise select by a mask. -/
  | vsel (m : BitVec 3) (rs2 : BitVec 5) (rs1 : BitVec 5) (rd : BitVec 5) (p : BitVec 1)
  /-- VRED_ADD (R347): Masked tree-sum reduction into a scalar. -/
  | vredAdd (t : BitVec 4) (q : BitVec 3) (rs1 : BitVec 5) (rd : BitVec 5) (p : BitVec 1)
  /-- VRED_MAX (R347): Masked maximum reduction. -/
  | vredMax (t : BitVec 4) (q : BitVec 3) (rs1 : BitVec 5) (rd : BitVec 5) (p : BitVec 1)
  /-- VRED_MIN (R347): Masked minimum reduction. -/
  | vredMin (t : BitVec 4) (q : BitVec 3) (rs1 : BitVec 5) (rd : BitVec 5) (p : BitVec 1)
  /-- VCVT (R348): Converts lanes between register types. -/
  | vcvt (s : BitVec 4) (p : BitVec 2) (t : BitVec 4) (rs1 : BitVec 5) (rd : BitVec 5) (p_part2 : BitVec 1)
  /-- VBCST (R345): Broadcasts a scalar into every lane. -/
  | vbcst (rs1 : BitVec 5) (rd : BitVec 5) (p : BitVec 1)
  /-- VEXT (R345): Extracts one lane into a scalar. -/
  | vext (x : BitVec 1) (rs2 : BitVec 5) (rs1 : BitVec 5) (rd : BitVec 5) (p : BitVec 1)
  /-- VPERM (R345): Permutes lanes by an index vector. -/
  | vperm (rs2 : BitVec 5) (rs1 : BitVec 5) (rd : BitVec 5) (p : BitVec 1)
  /-- VMSK_AND (R346): ANDs two masks. -/
  | vmskAnd (rs2 : BitVec 3) (rs1 : BitVec 3) (rd : BitVec 3) (p : BitVec 1)
  /-- VMSK_OR (R346): ORs two masks. -/
  | vmskOr (rs2 : BitVec 3) (rs1 : BitVec 3) (rd : BitVec 3) (p : BitVec 1)
  /-- VMSK_XOR (R346): XORs two masks. -/
  | vmskXor (rs2 : BitVec 3) (rs1 : BitVec 3) (rd : BitVec 3) (p : BitVec 1)
  /-- VMSK_ANDN (R346): ANDs a mask with the inverse of another. -/
  | vmskAndn (rs2 : BitVec 3) (rs1 : BitVec 3) (rd : BitVec 3) (p : BitVec 1)
  /-- VMSK_TOS (R346): Copies a mask to a scalar. -/
  | vmskTos (rs1 : BitVec 3) (rd : BitVec 5) (p : BitVec 1)
  /-- VMSK_FROMS (R346): Sets a mask from a scalar. -/
  | vmskFroms (rs1 : BitVec 5) (rd : BitVec 3) (p : BitVec 1)
  /-- VMSK_POPC (R346): Counts set mask bits. -/
  | vmskPopc (rs1 : BitVec 3) (rd : BitVec 5) (p : BitVec 1)
  /-- VMSK_FIRST (R346): Finds the lowest set mask bit. -/
  | vmskFirst (rs1 : BitVec 3) (rd : BitVec 5) (p : BitVec 1)
  /-- VEXP2 (R342): Lane-wise 2^x, correctly rounded. -/
  | vexp2 (t : BitVec 4) (rs1 : BitVec 5) (rd : BitVec 5) (p : BitVec 1)
  /-- VLOG2 (R342): Lane-wise log2. -/
  | vlog2 (t : BitVec 4) (rs1 : BitVec 5) (rd : BitVec 5) (p : BitVec 1)
  /-- VRCP (R342): Lane-wise reciprocal. -/
  | vrcp (t : BitVec 4) (rs1 : BitVec 5) (rd : BitVec 5) (p : BitVec 1)
  /-- VRSQ (R342): Lane-wise reciprocal square root. -/
  | vrsq (t : BitVec 4) (rs1 : BitVec 5) (rd : BitVec 5) (p : BitVec 1)
  /-- VTANH (R342): Lane-wise tanh. -/
  | vtanh (t : BitVec 4) (rs1 : BitVec 5) (rd : BitVec 5) (p : BitVec 1)
  /-- VSCL (R341): Scales lanes by powers of two. -/
  | vscl (t : BitVec 4) (rs2 : BitVec 5) (rs1 : BitVec 5) (rd : BitVec 5) (p : BitVec 1)
  /-- VIDX (R345): Fills lanes with an arithmetic sequence. -/
  | vidx (rs2 : BitVec 5) (rs1 : BitVec 5) (rd : BitVec 5) (p : BitVec 1)
  /-- VDOT (R344): Adds 4-way byte dot products into i32 lanes. -/
  | vdot (m : BitVec 2) (rs2 : BitVec 5) (rs1 : BitVec 5) (rd : BitVec 5) (p : BitVec 1)
  /-- VMOV (R345): Copies a vector register. -/
  | vmov (rs1 : BitVec 5) (rd : BitVec 5) (p : BitVec 1)
  /-- SBIND (R355): Binds a stream port to an affine pattern (double word). -/
  | sbind (mode : BitVec 2) (dir : BitVec 1) (port : BitVec 2) (rs2 : BitVec 5) (rs1 : BitVec 5) (stride : BitVec 26)
  /-- SUNB (R359): Drains or discards and unbinds a stream port. -/
  | sunb (port : BitVec 2)
  /-- SSTAT (R359): Reads a stream port's status. -/
  | sstat (p : BitVec 2) (rd : BitVec 5) (p_part2 : BitVec 1)
  /-- LRD (R361): Pops a word from lw, optionally forwarding it to le. -/
  | lrd (f : BitVec 1) (rd : BitVec 5) (p : BitVec 1)
  /-- LWR (R361): Pushes a vector into le. -/
  | lwr (rs1 : BitVec 5) (p : BitVec 1)
  /-- LSTAT (R361): Reads the link occupancy counts. -/
  | lstat (rd : BitVec 5) (p : BitVec 1)
  /-- TMMA (R375): Gang-issued tile multiply-accumulate into an accumulator (double word). -/
  | tmma (rs2 : BitVec 5) (rs1 : BitVec 5) (kc : BitVec 2) (tb : BitVec 1) (ta : BitVec 1) (acc : BitVec 2) (z : BitVec 1) (rb : BitVec 2) (ra : BitVec 2)
  /-- TZERO (R380): Clears an accumulator. -/
  | tzero (c : BitVec 2)
  /-- TLD (R381): Loads an accumulator slice, decoding the bay format. -/
  | tld (rs1 : BitVec 5) (c : BitVec 2)
  /-- TST (R381): Stores an accumulator slice, converting into the bay format. -/
  | tst (rs1 : BitVec 5) (c : BitVec 2)
  /-- TACT_RELU (R382): Applies relu to an accumulator. -/
  | tactRelu (f : BitVec 1) (c : BitVec 2)
  /-- TACT_GELU (R382): Applies gelu to an accumulator. -/
  | tactGelu (f : BitVec 1) (c : BitVec 2)
  /-- TACT_SILU (R382): Applies silu to an accumulator. -/
  | tactSilu (f : BitVec 1) (c : BitVec 2)
  /-- TSTAT (R383): Reads tile status and clears TNAN and TOF. -/
  | tstat (rd : BitVec 5)
  /-- TWAIT (R383): Stalls until the tile queue is empty. -/
  | twait
  /-- REC_ON (R394): Starts record mode on a fresh log segment. -/
  | recordOn (rs2 : BitVec 5) (rs1 : BitVec 5)
  /-- REC_ON_CHAIN (R394): Chains a new log segment with a LINK record. -/
  | recordOnChain (rs2 : BitVec 5) (rs1 : BitVec 5)
  /-- REC_OFF (R395): Ends record mode. -/
  | recordOff
  /-- REC_MARK (R395): Appends a MARK record. -/
  | recordMark (rs1 : BitVec 5)
  /-- REVERSE (R407): Walks the log backwards running adjoints into gradient bays (double word). -/
  | reverse (m : BitVec 1) (mv : BitVec 12) (z : BitVec 1)
  /-- SEND (R414): Sends flits over the flume in a planned slot (double word). -/
  | send (slot : BitVec 11) (km1 : BitVec 4) (vs : BitVec 5) (route : BitVec 29)
  /-- RSEL (R417): Arms a receive selection on a link for planned cycles (double word). -/
  | rsel (slot : BitVec 11) (km1 : BitVec 4) (rs1 : BitVec 5) (mcid : BitVec 5) (ce : BitVec 1) (link : BitVec 4)
  /-- SYNC (R418): Waits for the exchange to drain and arrives at the end-of-exchange barrier. -/
  | sync
  /-- SYNCV (R418): Arrives at the end-of-exchange barrier with a vote. -/
  | syncv (o : BitVec 1) (rs1 : BitVec 3) (rd : BitVec 3)
  /-- GCALL (R421): Calls a sluice into another polder. -/
  | gcall (rs1 : BitVec 5)
  /-- GRET (R423): Returns from a gate call. -/
  | gret
  /-- AWSET (R420): Stages an argument window (double word). -/
  | awset (lr : BitVec 1) (n : BitVec 1) (clr : BitVec 1) (w : BitVec 1) (r : BitVec 1) (rs2 : BitVec 5) (rs1 : BitVec 5) (leni : BitVec 17)
  /-- FLD (R429): Far load through L1 and page tables. -/
  | fld (x : BitVec 1) (z : BitVec 2) (rs2 : BitVec 5) (rs1 : BitVec 5) (rd : BitVec 5) (p : BitVec 1)
  /-- FST (R429): Far store. -/
  | fst (z : BitVec 2) (rs2 : BitVec 5) (rs1 : BitVec 5) (rd : BitVec 5) (p : BitVec 1)
  /-- FFLUSH (R429): Releases (and with INV invalidates) L1 and berm lines of a range. -/
  | fflush (imm : BitVec 1) (g : BitVec 3) (rs2 : BitVec 5) (rs1 : BitVec 5) (p : BitVec 1)
  /-- FPUSH (R430): Starts a landing push into a cluster bay or TCM. -/
  | fpush (s : BitVec 1) (r : BitVec 1) (rs2 : BitVec 5) (rs1 : BitVec 5) (rd : BitVec 5) (p : BitVec 1)
  /-- FPF (R429): Prefetches far lines, never faulting. -/
  | fpf (rs2 : BitVec 5) (rs1 : BitVec 5) (p : BitVec 1)
  /-- PGINV (R429): Removes a page's translations and lines for a polder within a scope. -/
  | pginv (g : BitVec 3) (rs2 : BitVec 5) (rs1 : BitVec 5) (p : BitVec 1)
  /-- FQDEQ (R431): Removes the oldest fault record into a vector register. -/
  | fqdeq (c : BitVec 3) (rd : BitVec 5) (p : BitVec 1)
  /-- REPLAY (R431): Replays the access waiting on a fault record. -/
  | replay (rs1 : BitVec 5) (rd : BitVec 3) (p : BitVec 1)
  /-- TERM (R431): Ends the job owning a fault record. -/
  | term (rs1 : BitVec 5) (rd : BitVec 3) (p : BitVec 1)
  /-- NOP (R267): The all-zero hint word, a no-op. -/
  | nop
  /-- HINT (R267): Any other hint-space word, executed as a no-op. -/
  | hint (h : BitVec 22) (p : BitVec 1) (tail : Option (BitVec 30))
  /-- DEFERRED_TRAP (R323): A pending engine fault is taken at the first suitable instruction boundary. -/
  | deferredTrap (a : BitVec 22)
  /-- SCRUB_END (R22): A scrub finishes and waiting accesses proceed against the new owner. -/
  | scrubEnd (kind : BitVec 2) (n : BitVec 32)
  /-- BARRIER_RELEASE (R85): A cluster barrier reaches COUNT, advances its phase and wakes sleepers. -/
  | barrierRelease (c : BitVec 15) (n : BitVec 3)
  /-- MUTEX_HANDOFF (R88): The next waiter acquires a freed mutex in the following cycle. -/
  | mutexHandoff (c : BitVec 15) (m : BitVec 4)
  /-- FULL_WAKE (R318): A sleeping LDF or LDFC wakes once its words are full. -/
  | fullWake (a : BitVec 22)
  /-- ECC_WRITEBACK (R96): A corrected word is written back in the bank's next idle cycle. -/
  | eccWriteback (key : BitVec 48)
  /-- CONVERSION_DRAINED (R135): Accesses through affected ways have completed and way processing begins. -/
  | conversionDrained (d : BitVec 4)
  /-- CONVERSION_WAY_DONE (R135): One affected way finishes its 262,144-cycle processing. -/
  | conversionWayDone (d : BitVec 4)
  /-- PURGE_DONE (R144): All berms, L1s and translation caches have dropped the slot; PURGE clears. -/
  | purgeDone (k : BitVec 6)
  /-- WALK_START (R46): A translation miss obtains a walk slot and starts or joins a walk. -/
  | walkStart (a : BitVec 22)
  /-- WALK_COMPLETE (R43): A page walk finishes, caching the leaf or faulting. -/
  | walkComplete (a : BitVec 22)
  /-- FAULT_INSERT_RETRY (R51): A faulting walk retries insertion into a full ring every 64 cycles. -/
  | faultInsertRetry (a : BitVec 22)
  /-- FLUSH (R154): Writes back the dirty berm sectors of a range. -/
  | flush (f : BitVec 6)
  /-- FLUSH_INVAL (R154): Writes back and invalidates berm and L1 lines of a range. -/
  | flushInval (f : BitVec 6)
  /-- FLUSH_COMPLETE (R154): A flush command's effects reach HBM and COOKIE is written. -/
  | flushComplete (f : BitVec 6)
  /-- LAUNCH (R227): A LAUNCH record is validated, placed, loaded and started. -/
  | launch (f : BitVec 6)
  /-- LAUNCH_RESUMED (R227): A launch waiting for free clusters continues once they free. -/
  | launchResumed (f : BitVec 6)
  /-- KILL (R230): A KILL record ends or removes the job with a matching JOBID. -/
  | kill (f : BitVec 6)
  /-- COMPLETION_INTERRUPT (R242): A rate-limited completion interrupt naming a function is sent. -/
  | completionInterrupt (f : BitVec 6)
  /-- SLICE_END (R235): A function's slice expires and its stands are held at the next boundary. -/
  | sliceEnd (f : BitVec 6)
  /-- SWITCH (R236): Landing cores save the outgoing and load the incoming function state. -/
  | switch (f : BitVec 6) (g : BitVec 6)
  /-- SWITCH_DONE (R236): A switch completes and the incoming stands run. -/
  | switchDone (f : BitVec 6) (g : BitVec 6)
  /-- VF_RESET_STAND_STOP (R243): A stand not at a boundary 2 ms after reset is stopped. -/
  | vfResetStandStop (f : BitVec 6)
  /-- VF_RESET_DONE (R243): The reset ends, GEN increments and STATE returns to idle. -/
  | vfResetDone (f : BitVec 6)
  /-- DIE_EARLY_RELEASE (R249): A die finished with its part of start-up is released to early service. -/
  | dieEarlyRelease (d : BitVec 4)
  /-- TASK_START (R203): An idle core starts its lowest-key ready or yielded entry. -/
  | taskStart (a : BitVec 22)
  /-- GANG_START (R207): A gang task starts once every group core is free. -/
  | gangStart (a : BitVec 22)
  /-- WRITE_THROUGH (R173): An ordered task, now oldest, commits and becomes write-through. -/
  | writeThrough (a : BitVec 22)
  /-- ORDERED_COMMIT (R175): At TEND the oldest ordered task writes its buffer and spawns. -/
  | orderedCommit (a : BitVec 22)
  /-- CORE_ARRIVE (R212): An idle core arrives at the end-of-work barrier. -/
  | coreArrive (a : BitVec 22)
  /-- BARRIER_GROUP_RELEASE (R211): The sync tree releases a barrier group, starting exchange or work. -/
  | barrierGroupRelease (a : BitVec 22)
  /-- DISSEMINATION_ROUND (R215): A round of the multi-module dissemination barrier completes. -/
  | disseminationRound (f : BitVec 6) (d : BitVec 4)
  /-- RAMP_SLOT_BEGIN (R456): A cluster's ramp slot begins its work phase. -/
  | rampSlotBegin (c : BitVec 15)
  /-- EXCHANGE_WATCHDOG (R213): XT reaches 0xFFFF before the routine arrives. -/
  | exchangeWatchdog (a : BitVec 22)
  /-- NO_PROGRESS (R217): All members blocked for 4,096 cycles trap waiting members. -/
  | noProgress (f : BitVec 6) (d : BitVec 4)
  /-- SEND_INJECT (R414): A stalled SEND reaches its slot and injects its flits. -/
  | sendInject (a : BitVec 22)
  /-- FPUSH_SLOT (R430): A slotted push reaches its slot and starts moving. -/
  | fpushSlot (a : BitVec 22)
  /-- PUSH_COMPLETE (R430): A landing push writes its last word and raises its counter. -/
  | pushComplete (a : BitVec 22)
  /-- COPY_START (R322): The copy engine begins the next queued copy. -/
  | copyStart (c : BitVec 15)
  /-- COPY_COMPLETE (R322): A copy writes its last beat and ORs its flags. -/
  | copyComplete (c : BitVec 15)
  /-- COPY_STOP (R323): A copy stops at a failing beat and posts a deferred trap. -/
  | copyStop (c : BitVec 15)
  /-- STREAM_FETCH (R357): An IN port fetches an item. -/
  | streamFetch (a : BitVec 22) (port : BitVec 2)
  /-- STREAM_WRITE (R358): An OUT port writes a held item. -/
  | streamWrite (a : BitVec 22) (port : BitVec 2)
  /-- TILE_JOIN_TIMEOUT (R378): A member waits TIMEOUT cycles without a join. -/
  | tileJoinTimeout (a : BitVec 22)
  /-- TILE_COMPLETE (R368): A tile instruction completes and the next in the queue begins. -/
  | tileComplete (a : BitVec 22)
  /-- TILE_FAULT_STOP (R385): An operand beat fault stops the TMMA for the group. -/
  | tileFaultStop (a : BitVec 22)
  /-- LINK_WIDTH_RESTORE (R460): A 64-cycle handshake restores link width before release. -/
  | linkWidthRestore (l : BitVec 20)
  /-- BUDGET_EXHAUSTED (R425): A call exceeding its budget is discarded. -/
  | budgetExhausted (a : BitVec 22)
  /-- UNWIND (R425): A core discards gate frames at its next instruction boundary. -/
  | unwind (a : BitVec 22)
  /-- ADJOINT_STEP_DONE (R404): The adjoint of one log record finishes after its fixed cycle count, and the REVERSE walk moves LOGP to the next record or stops at the log start or a matching MARK. -/
  | adjointStepDone (a : BitVec 22)
  /-- REGISTER_WRITE (R412): Write to a register that has no behaviour of its own, with its refusal checks. -/
  | registerWrite (addr : BitVec 41) (val : BitVec 64)
  /-- WSP_WRITE (R55): Places the window spill area, retagging granules that change hands. -/
  | wspWrite (val : BitVec 64)
  /-- DSD_WRITE (R55): Places the domain save stack and spill area, retagging granules. -/
  | dsdWrite (val : BitVec 64)
  /-- BFMT_WRITE (R71): Changes a bay's format from the next cycle and counts in WGEN. -/
  | bfmtWrite (c : BitVec 15) (b : BitVec 4) (val : BitVec 64)
  /-- BOWN_WRITE (R72): Changes a bay's owner, scrubbing it and invalidating its queues. -/
  | bownWrite (c : BitVec 15) (b : BitVec 4) (val : BitVec 64)
  /-- TOWN_WRITE (R73): Changes TCM-half owners, scrubbing the half. -/
  | townWrite (c : BitVec 15) (k : BitVec 5) (val : BitVec 64)
  /-- LTOWN_WRITE (R233): Changes a landing core's TCM-half owner, scrubbing it. -/
  | ltownWrite (l : BitVec 10) (val : BitVec 64)
  /-- SEGMENT_OWNER_WRITE (R21): Changes a berm segment's owner, scrubbing it. -/
  | segmentOwnerWrite (d : BitVec 4) (k : BitVec 11) (val : BitVec 64)
  /-- ARRIVE (R85): Arrives at a cluster barrier and sleeps until release. -/
  | arrive (n : BitVec 3) (rd : BitVec 5)
  /-- ARRIVE_NB (R85): Arrives at a barrier without sleeping, returning a token. -/
  | arriveNb (n : BitVec 3) (rd : BitVec 5)
  /-- WAIT_LATCH (R83): Stores a barrier token for this core. -/
  | waitLatch (n : BitVec 3) (rs : BitVec 5)
  /-- WAIT (R86): Waits for the barrier phase to pass the latched token. -/
  | wait (n : BitVec 3) (rd : BitVec 5)
  /-- BARRIER_CFG_WRITE (R85): Sets a barrier's COUNT. -/
  | barrierCfgWrite (n : BitVec 3) (rs : BitVec 5)
  /-- MUTEX_LOCK (R88): Locks a mutex or joins its waiting list. -/
  | mutexLock (m : BitVec 4) (rd : BitVec 5)
  /-- MUTEX_UNLOCK (R88): Unlocks a mutex held by the core. -/
  | mutexUnlock (m : BitVec 4)
  /-- EVENT_WAIT (R90): Sleeps until an event is set, then clears it. -/
  | eventWait (e : BitVec 5) (rd : BitVec 5)
  /-- EVENT_SET (R90): Sets an event, waking its first sleeper. -/
  | eventSet (e : BitVec 5)
  /-- REMOTE_EVENT_SEND (R90): Sends an event message to another cluster of the stand. -/
  | remoteEventSend (rs : BitVec 5)
  /-- REMOTE_EVENT_ARRIVAL (R90): An event message arrives and sets the target event. -/
  | remoteEventArrival
  /-- SELF_TEST_DONE (R245): A self-test ends, returning the unit to service or retiring it. -/
  | selfTestDone (kind : BitVec 3) (n : BitVec 32) (pass : BitVec 1)
  /-- WAYMASK_WRITE (R134): Starts a berm way conversion to a new cache-way count. -/
  | waymaskWrite (d : BitVec 4) (val : BitVec 64)
  /-- KSLOT_CLEAR (R144): Clearing V of a key slot starts its purge. -/
  | kslotClear (k : BitVec 6) (val : BitVec 64)
  /-- HFTINV_WRITE (R153): Drops the hub's cached host-frame-table byte. -/
  | hftinvWrite (val : BitVec 64)
  /-- HOST_WINDOW_ACCESS (R151): A host access to the host-coherent window or BAR. -/
  | hostWindowAccess (f : BitVec 6) (off : BitVec 24) (wr : BitVec 1) (sz : BitVec 2) (data : BitVec 64)
  /-- HOST_APERTURE_ACCESS (R152): A host access to HBM through a function's aperture. -/
  | hostApertureAccess (f : BitVec 6) (pa : BitVec 41) (wr : BitVec 1) (sz : BitVec 2) (data : BitVec 64)
  /-- FLUSH_TAIL_WRITE (R154): The host posts flush commands by writing the ring tail. -/
  | flushTailWrite (f : BitVec 6) (val : BitVec 64)
  /-- LAUNCH_TAIL_WRITE (R223): The host writes the launch tail and the hub examines the ring. -/
  | launchTailWrite (f : BitVec 6) (val : BitVec 64)
  /-- COMPLETION_HEAD_WRITE (R224): The host frees completion slots, releasing held completions. -/
  | completionHeadWrite (f : BitVec 6) (val : BitVec 64)
  /-- FABRIC_LAUNCH (R226): A scale-fabric launch packet is checked and queued. -/
  | fabricLaunch (f : BitVec 6) (src : BitVec 12) (rec : BitVec 512)
  /-- CAUSE_INTERRUPT (R242): A rate-limited, merged cause-table interrupt is sent. -/
  | causeInterrupt
  /-- FORCED_EVICTION (R237): 2 ms without a boundary forces eviction of a stand. -/
  | forcedEviction (f : BitVec 6) (jid : BitVec 32)
  /-- EVICTION_OVERRUN (R240): A cluster not done 100 µs into eviction is fenced and the job contained. -/
  | evictionOverrun (c : BitVec 15)
  /-- VF_RESET (R243): Writing VFCTL.RESET starts a function reset. -/
  | vfReset (f : BitVec 6)
  /-- PEER_WITHDRAW_RECEIVED (R244): A peer module continues a collective with one member fewer. -/
  | peerWithdrawReceived (f : BitVec 6) (d : BitVec 4)
  /-- VF_PAUSE (R239): Setting PAUSE stops the function's stands at boundaries. -/
  | vfPause (f : BitVec 6)
  /-- VF_UNPAUSE (R239): Clearing PAUSE lets the stands run on. -/
  | vfUnpause (f : BitVec 6)
  /-- SUPPLY_OUT_OF_RANGE (R7): Supply outside 44–54 V for 10 µs fences all array dies. -/
  | supplyOutOfRange
  /-- SUPPLY_RESTORED (R7): Supply in range for 1 s; dies self-test and return to service. -/
  | supplyRestored
  /-- SUPPLY_SHUTDOWN (R7): Supply below 36 V or above 60 V switches the module off. -/
  | supplyShutdown
  /-- INLET_OVER_40 (R8): Coolant above 40 °C halves clocks at boundaries. -/
  | inletOver40
  /-- INLET_OVER_45 (R8): Coolant above 45 °C fences every array die. -/
  | inletOver45
  /-- INLET_RESTORED (R8): Coolant back in range for 10 s restores clocks or dies. -/
  | inletRestored
  /-- POWER_CEILING_ENGAGE (R458): The 1 ms average above 8.4 kW halves clocks. -/
  | powerCeilingEngage
  /-- POWER_CEILING_RELEASE (R458): Below 7.6 kW for 10 ms restores clocks. -/
  | powerCeilingRelease
  /-- COLD_START (R247): Power-on or host command runs the full start sequence. -/
  | coldStart
  /-- WARM_START (R248): A warm start reloads training results and retests flagged units. -/
  | warmStart
  /-- START_COMPLETE (R249): The whole start completes; stands move to 2.25 GHz at boundaries. -/
  | startComplete
  /-- FLIT_DROP (R416): A flit in a cycle its guard table does not give is dropped. -/
  | flitDrop
  /-- RSEL_DELIVERY (R417): A flit is written at an armed selection and marked full. -/
  | rselDelivery
  /-- FLIT_EJECT_UNSELECTED (R417): An ejected flit meets no armed selection and is discarded. -/
  | flitEjectUnselected
  /-- GOVERNOR_WINDOW (R457): Each 64-cycle window sets the floor and runs ballast. -/
  | governorWindow (est : BitVec 32)
  /-- RAMP_CHECK (R459): A pinned stand's rise is measured and any violation recorded. -/
  | rampCheck (f : BitVec 6) (jid : BitVec 32) (rise : BitVec 32)
  /-- LINK_NARROW (R460): The governor narrows an idle flume link. -/
  | linkNarrow (l : BitVec 20) (wd : BitVec 2)
  /-- REVOKE_WRITE (R426): Storing a handle to REVOKE signals a hard revoke. -/
  | revokeWrite (val : BitVec 64)
  /-- POLDER_DEATH (R426): Setting DEAD signals cores to discard the polder's frames. -/
  | polderDeath (pol : BitVec 12)
  /-- SCALE_ATOMIC_COMBINE (R157): A scale switch combines posted window atomics. -/
  | scaleAtomicCombine
  /-- WINDOW_ATOMIC_ACK (R158): The home module acknowledges a posted atomic. -/
  | windowAtomicAck
  /-- OWN_GUEST_CLAIM (R441): A VF claims a counter bank or trace unit. -/
  | ownGuestClaim (f : BitVec 6) (u : BitVec 2) (n : BitVec 16)
  /-- OWN_HOST_CLAIM (R441): The physical function takes a bank or unit. -/
  | ownHostClaim (u : BitVec 2) (n : BitVec 16)
  /-- OWN_RELEASE (R441): The holder or physical function frees a bank or unit. -/
  | ownRelease (f : BitVec 6) (u : BitVec 2) (n : BitVec 16)
  /-- CSTAT_CLEAR (R442): Clears lost-bank bits or the lost count. -/
  | cstatClear (f : BitVec 6) (hi : BitVec 1) (val : BitVec 64)
  /-- COUNTER_SELECT_WRITE (R443): Selects a counter's event and zeroes it. -/
  | counterSelectWrite (f : BitVec 6) (u : BitVec 2) (n : BitVec 16) (i : BitVec 4) (val : BitVec 64)
  /-- TRACE_RECORD_WRITE (R439): The aggregator writes a trace record to a buffer, or drops it. -/
  | traceRecordWrite
  /-- DEBUG_STOP (R453): Holds the stand at its next end-of-exchange release. -/
  | debugStop
  /-- DEBUG_RESUME (R453): Lets a stopped or halted stand run on. -/
  | debugResume
  /-- SNAP_ON (R453): Starts snapshot mode. -/
  | snapOn
  /-- SNAP_OFF (R453): Ends snapshot mode. -/
  | snapOff
  /-- DEBUG_REPLAY (R452): Restores a snapshot and replays the superstep under halt-at-hit. -/
  | debugReplay (ssn : BitVec 32)
  /-- HALT_ALL (R453): Makes every BRK halt until RESUME. -/
  | haltAll
  /-- SNAPSHOT (R451): The stand's state is copied at an end-of-exchange release. -/
  | snapshot (f : BitVec 6) (jid : BitVec 32)
  /-- DSTAT_READ (R453): Reading DSTAT returns debug state and clears ERR. -/
  | dstatRead
  /-- STATE_WINDOW_WRITE (R453): Writes a stopped core's architectural state. -/
  | stateWindowWrite (off : BitVec 16) (val : BitVec 64)
  /-- FLIT_CHECK_ERROR (R246): A flume link detects a flit check error, is fenced, starts its 4,096-cycle self-test and the job of its stand ends CONTAINED. -/
  | flitCheckError (l : BitVec 20)
  /-- REMOTE_ACCESS_ARRIVAL (R143): A far access or a posted window atomic from a peer module arrives over the scale links and is performed, encrypted or decrypted, at this module's home memory port. -/
  | remoteAccessArrival (pa : BitVec 41) (op : BitVec 4) (sz : BitVec 2) (key : BitVec 6) (data : BitVec 128)
  /-- FABRIC_ID_ASSIGN (R41): The scale-fabric manager assigns the module its fabric id, after which a HOME equal to that id means the local module. -/
  | fabricIdAssign (id : BitVec 12)
  deriving DecidableEq, Repr

end Sys2Proof
end

