-- ==== Sys2Proof/WellFormed.lean ====
section
/-! DEFINITION. Which instructions are well formed: no reserved field value (ILLEGAL 1), no operand in a field that the
form reserves (ILLEGAL 2), no vector field above 15 (ILLEGAL 8); spec/08 R254, R262, and the instruction chapters. -/

namespace Sys2Proof

/-- A vector register field accepts 0 to 15 (R254). -/
def isVec (r : BitVec 5) : Bool := r.toNat < 16

/-- .f32, .bf16 and .f16 (R335). -/
def tyFloat (t : BitVec 4) : Bool := t.toNat ≤ 2

/-- The signed integer types .i8, .i16 and .i32 (R335). -/
def tySigned (t : BitVec 4) : Bool := 5 ≤ t.toNat && t.toNat ≤ 7

/-- Every integer type (R335). -/
def tyInt (t : BitVec 4) : Bool := 5 ≤ t.toNat && t.toNat ≤ 10

/-- Element width in bits of a type code (R335). -/
def tyWidth (t : BitVec 4) : Nat :=
  match t.toNat with
  | 0 => 32 | 1 => 16 | 2 => 16 | 3 => 8 | 4 => 8 | 5 => 8 | 6 => 16 | 7 => 32 | 8 => 8 | 9 => 16 | 10 => 32 | _ => 32

/-- No field of the instruction holds a value that its description reserves (ILLEGAL 1). -/
def Instr.valueOk : Instr → Bool
  | .shli w h _ _ _ | .shri w h _ _ _ | .shai w h _ _ _ => w = 0 || h.toNat < 32
  | .cmp _ c _ _ _ _ => c.toNat ≤ 5
  | .cmpi _ c _ _ _ => c.toNat ≤ 5
  | .loop _ c => c ≠ 0
  | .repf n _ _ _ => n ≠ 0
  | .vadd t _ _ _ _ | .vsub t _ _ _ _ | .vmul t _ _ _ _ | .vmin t _ _ _ _ | .vmax t _ _ _ _ => tyFloat t || tyInt t
  | .vabs t _ _ _ | .vneg t _ _ _ => tyFloat t || tySigned t
  | .vfma t _ _ _ _ | .vfms t _ _ _ _ | .vfnma t _ _ _ _ | .vscl t _ _ _ _ => tyFloat t
  | .vexp2 t _ _ _ | .vlog2 t _ _ _ | .vrcp t _ _ _ | .vrsq t _ _ _ | .vtanh t _ _ _ => tyFloat t
  | .vcmp t c _ _ _ _ => (tyFloat t || tyInt t) && c.toNat ≤ 3
  | .vredAdd t _ _ _ _ | .vredMax t _ _ _ _ | .vredMin t _ _ _ _ => tyFloat t || tyInt t
  | .vcvt s part t _ _ _ =>
    s.toNat ≤ 10 && t.toNat ≤ 10 &&
      part.toNat < (if tyWidth s ≤ tyWidth t then tyWidth t / tyWidth s else tyWidth s / tyWidth t)
  | .vdot m _ _ _ _ => m.toNat ≤ 2
  | .sbind mode _ _ _ _ _ => mode.toNat ≤ 1
  | .rsel _ _ _ _ _ link => link.toNat ≤ 8
  | .fld x z _ _ _ _ => !(x = 1 && z = 3)
  | .fpush s r _ _ _ _ => !(s = 1 && r = 1)
  | .pfx _ _ _ _ s r => s.toNat ≤ 2 && r.toNat ≤ 6
  | _ => true

/-- No operand stands in a field that the form reserves (ILLEGAL 2). -/
def Instr.reservedOk : Instr → Bool
  | .bdset lr _ rs2 _ _ _ leni _ => if lr = 1 then leni = 0 else rs2 = 0
  | .awset lr _ _ _ _ rs2 _ leni => if lr = 1 then leni = 0 else rs2 = 0
  | .hint h p none => !(h = 0 && p = 0)
  | _ => true

/-- Every field that names a vector register names one of v0 to v15 (ILLEGAL 8). -/
def Instr.vectorOk : Instr → Bool
  | .vld _ _ rd _ | .vldDec _ _ rd _ | .vst _ _ rd _ | .vstCnv _ _ rd _ => isVec rd
  | .vlds _ _ rd _ | .vsts _ _ rd _ => isVec rd
  | .vgath rs2 _ rd _ | .vscat rs2 _ rd _ => isVec rs2 && isVec rd
  | .vadd _ b a d _ | .vsub _ b a d _ | .vmul _ b a d _ | .vmin _ b a d _ | .vmax _ b a d _ => isVec b && isVec a && isVec d
  | .vabs _ a d _ | .vneg _ a d _ => isVec a && isVec d
  | .vfma _ b a d _ | .vfms _ b a d _ | .vfnma _ b a d _ | .vscl _ b a d _ => isVec b && isVec a && isVec d
  | .vexp2 _ a d _ | .vlog2 _ a d _ | .vrcp _ a d _ | .vrsq _ a d _ | .vtanh _ a d _ => isVec a && isVec d
  | .vand b a d _ | .vor b a d _ | .vxor b a d _ | .vandn b a d _ => isVec b && isVec a && isVec d
  | .vcmp _ _ b a _ _ => isVec b && isVec a
  | .vsel _ b a d _ => isVec b && isVec a && isVec d
  | .vredAdd _ _ a _ _ | .vredMax _ _ a _ _ | .vredMin _ _ a _ _ => isVec a
  | .vcvt _ _ _ a d _ => isVec a && isVec d
  | .vbcst _ d _ => isVec d
  | .vext _ _ a _ _ => isVec a
  | .vperm b a d _ => isVec b && isVec a && isVec d
  | .vidx _ _ d _ => isVec d
  | .vdot _ b a d _ => isVec b && isVec a && isVec d
  | .vmov a d _ => isVec a && isVec d
  | .lrd _ d _ => isVec d
  | .lwr a _ => isVec a
  | .send _ _ vs _ => isVec vs
  | .qenq _ a v _ _ => v = 0 || isVec a
  | .qdeq _ v _ d _ => v = 0 || isVec d
  | .fqdeq _ d _ => isVec d
  | _ => true

/-- The instruction passes every check that its fields alone decide. -/
def Instr.wellFormed (i : Instr) : Bool := i.valueOk && i.reservedOk && i.vectorOk

end Sys2Proof
end

