-- ==== Sys2Proof/Decode.lean ====
section
/-! DEFINITION. The decoder of the Raleri 1600: from bytes to an instruction or a named rejection (spec/08 R250 to
R268 and the encodings of spec/10 to spec/15), and after it the encoder of the same tables. The checks that need the
state of the core (the prefix latch, the classes present, the fields a prefix holds) are in Machine/Fetch.lean. -/

namespace Sys2Proof

/-- Why a string of bytes is no instruction, by the check of R262 that fails. -/
inductive Reject where
  /-- Fewer bytes than a word or a double word needs. -/
  | short
  /-- A tail word where an instruction begins (ILLEGAL 9). -/
  | tailWord
  /-- A prefix word with a reserved code or a non-zero bit in [31:14] (ILLEGAL 13). -/
  | badPfx
  /-- A reserved major (ILLEGAL 0). -/
  | reservedMajor
  /-- The length selector disagrees with the length of the major (ILLEGAL 12). -/
  | badLength
  /-- A head that no tail follows (ILLEGAL 10). -/
  | noTail
  /-- P = 1 on a major that takes no prefix (ILLEGAL 14). -/
  | pBit
  /-- A reserved selector or field value (ILLEGAL 1). -/
  | selector
  /-- A non-zero reserved bit (ILLEGAL 2). -/
  | reserved
  /-- A vector register field of 16 or more (ILLEGAL 8). -/
  | vector
  deriving DecidableEq, Repr

/-- Bits [lo + n − 1 : lo] of a word. -/
def bitsAt (w : W32) (lo n : Nat) : BitVec n := w.extractLsb' lo n

/-- The majors that R265 marks reserved. -/
def reservedMajor (m : Nat) : Bool :=
  (0x15 ≤ m && m ≤ 0x17) || (0x56 ≤ m && m ≤ 0x5F) || (0x66 ≤ m && m ≤ 0x67) || (0x78 ≤ m && m ≤ 0x7E)

/-- The majors whose length R265 gives as D. -/
def doubleMajor (m : Nat) : Bool :=
  m == 0x09 || m == 0x0A || m == 0x0F || m == 0x60 || m == 0x68 || m == 0x6F || m == 0x70 || m == 0x71 || m == 0x75

/-- The majors whose prefix column in R265 is "—". -/
def noPfxMajor (m : Nat) : Bool :=
  m == 0x18 || m == 0x19 || m == 0x1B || m == 0x1E || m == 0x1F || m == 0x35 || m == 0x37 ||
  (0x3A ≤ m && m ≤ 0x3D) || m == 0x60 || m == 0x61 || (0x68 ≤ m && m ≤ 0x75)

/-- Every segment (lo, n) of the word is zero (R254). -/
def zeros (w : W32) (segs : List (Nat × Nat)) : Bool := segs.all fun s => (w.extractLsb' s.1 s.2).toNat == 0

/-- The checks of R262 on a word whose row is known: reserved field values, reserved bits, vector fields. -/
def accept (w : W32) (segs : List (Nat × Nat)) (i : Instr) : Except Reject Instr :=
  if i.valueOk = false then .error .selector
  else if zeros w segs = false || i.reservedOk = false then .error .reserved
  else if i.vectorOk = false then .error .vector
  else .ok i

/-- The same for a double word, with the reserved segments of head and tail. -/
def accept2 (h t : W32) (hs ts : List (Nat × Nat)) (i : Instr) : Except Reject Instr :=
  if i.valueOk = false then .error .selector
  else if zeros h hs = false || zeros t ts = false || i.reservedOk = false then .error .reserved
  else if i.vectorOk = false then .error .vector
  else .ok i

/-- Major 0x00, by the selector in bits [30:25] (R266). -/
def decMajor00 (w : W32) : Except Reject Instr :=
  match (bitsAt w 25 6).toNat with
  | 0 => accept w [] (.add (bitsAt w 31 1) (bitsAt w 20 5) (bitsAt w 15 5) (bitsAt w 10 5) (bitsAt w 2 1))
  | 1 => accept w [] (.sub (bitsAt w 31 1) (bitsAt w 20 5) (bitsAt w 15 5) (bitsAt w 10 5) (bitsAt w 2 1))
  | 2 => accept w [] (.and (bitsAt w 31 1) (bitsAt w 20 5) (bitsAt w 15 5) (bitsAt w 10 5) (bitsAt w 2 1))
  | 3 => accept w [] (.or (bitsAt w 31 1) (bitsAt w 20 5) (bitsAt w 15 5) (bitsAt w 10 5) (bitsAt w 2 1))
  | 4 => accept w [] (.xor (bitsAt w 31 1) (bitsAt w 20 5) (bitsAt w 15 5) (bitsAt w 10 5) (bitsAt w 2 1))
  | 5 => accept w [] (.shl (bitsAt w 31 1) (bitsAt w 20 5) (bitsAt w 15 5) (bitsAt w 10 5) (bitsAt w 2 1))
  | 6 => accept w [] (.shr (bitsAt w 31 1) (bitsAt w 20 5) (bitsAt w 15 5) (bitsAt w 10 5) (bitsAt w 2 1))
  | 7 => accept w [] (.sha (bitsAt w 31 1) (bitsAt w 20 5) (bitsAt w 15 5) (bitsAt w 10 5) (bitsAt w 2 1))
  | 8 => accept w [] (.min (bitsAt w 31 1) (bitsAt w 20 5) (bitsAt w 15 5) (bitsAt w 10 5) (bitsAt w 2 1))
  | 9 => accept w [] (.max (bitsAt w 31 1) (bitsAt w 20 5) (bitsAt w 15 5) (bitsAt w 10 5) (bitsAt w 2 1))
  | 10 => accept w [] (.minn (bitsAt w 31 1) (bitsAt w 20 5) (bitsAt w 15 5) (bitsAt w 10 5) (bitsAt w 2 1))
  | 11 => accept w [] (.maxn (bitsAt w 31 1) (bitsAt w 20 5) (bitsAt w 15 5) (bitsAt w 10 5) (bitsAt w 2 1))
  | 12 => accept w [] (.mul (bitsAt w 31 1) (bitsAt w 20 5) (bitsAt w 15 5) (bitsAt w 10 5) (bitsAt w 2 1))
  | 13 => accept w [] (.mulh (bitsAt w 31 1) (bitsAt w 20 5) (bitsAt w 15 5) (bitsAt w 10 5) (bitsAt w 2 1))
  | 14 => accept w [] (.mulhn (bitsAt w 31 1) (bitsAt w 20 5) (bitsAt w 15 5) (bitsAt w 10 5) (bitsAt w 2 1))
  | 15 => accept w [] (.div (bitsAt w 31 1) (bitsAt w 20 5) (bitsAt w 15 5) (bitsAt w 10 5) (bitsAt w 2 1))
  | 16 => accept w [] (.divn (bitsAt w 31 1) (bitsAt w 20 5) (bitsAt w 15 5) (bitsAt w 10 5) (bitsAt w 2 1))
  | 17 => accept w [] (.rem (bitsAt w 31 1) (bitsAt w 20 5) (bitsAt w 15 5) (bitsAt w 10 5) (bitsAt w 2 1))
  | 18 => accept w [] (.remn (bitsAt w 31 1) (bitsAt w 20 5) (bitsAt w 15 5) (bitsAt w 10 5) (bitsAt w 2 1))
  | 19 => accept w [(20, 5)] (.clz (bitsAt w 31 1) (bitsAt w 15 5) (bitsAt w 10 5) (bitsAt w 2 1))
  | 20 => accept w [(20, 5)] (.ctz (bitsAt w 31 1) (bitsAt w 15 5) (bitsAt w 10 5) (bitsAt w 2 1))
  | 21 => accept w [(20, 5)] (.popc (bitsAt w 31 1) (bitsAt w 15 5) (bitsAt w 10 5) (bitsAt w 2 1))
  | 22 => accept w [] (.andn (bitsAt w 31 1) (bitsAt w 20 5) (bitsAt w 15 5) (bitsAt w 10 5) (bitsAt w 2 1))
  | 23 => accept w [] (.orn (bitsAt w 31 1) (bitsAt w 20 5) (bitsAt w 15 5) (bitsAt w 10 5) (bitsAt w 2 1))
  | _ => .error .selector

/-- Major 0x01. -/
def decMajor01 (w : W32) : Except Reject Instr := accept w [] (.addi (bitsAt w 20 12) (bitsAt w 15 5) (bitsAt w 10 5) (bitsAt w 2 1))

/-- Major 0x02. -/
def decMajor02 (w : W32) : Except Reject Instr := accept w [] (.andi (bitsAt w 20 12) (bitsAt w 15 5) (bitsAt w 10 5) (bitsAt w 2 1))

/-- Major 0x03. -/
def decMajor03 (w : W32) : Except Reject Instr := accept w [] (.ori (bitsAt w 20 12) (bitsAt w 15 5) (bitsAt w 10 5) (bitsAt w 2 1))

/-- Major 0x04. -/
def decMajor04 (w : W32) : Except Reject Instr := accept w [] (.xori (bitsAt w 20 12) (bitsAt w 15 5) (bitsAt w 10 5) (bitsAt w 2 1))

/-- Major 0x05. -/
def decMajor05 (w : W32) : Except Reject Instr := accept w [(27, 5)] (.shli (bitsAt w 26 1) (bitsAt w 20 6) (bitsAt w 15 5) (bitsAt w 10 5) (bitsAt w 2 1))

/-- Major 0x06. -/
def decMajor06 (w : W32) : Except Reject Instr := accept w [(27, 5)] (.shri (bitsAt w 26 1) (bitsAt w 20 6) (bitsAt w 15 5) (bitsAt w 10 5) (bitsAt w 2 1))

/-- Major 0x07. -/
def decMajor07 (w : W32) : Except Reject Instr := accept w [(27, 5)] (.shai (bitsAt w 26 1) (bitsAt w 20 6) (bitsAt w 15 5) (bitsAt w 10 5) (bitsAt w 2 1))

/-- Major 0x08. -/
def decMajor08 (w : W32) : Except Reject Instr := accept w [] (.lea (bitsAt w 22 10) (bitsAt w 20 2) (bitsAt w 15 5) (bitsAt w 10 5) (bitsAt w 2 1))

/-- Major 0x0B. -/
def decMajor0B (w : W32) : Except Reject Instr := accept w [(25, 7)] (.bnd (bitsAt w 20 5) (bitsAt w 15 5) (bitsAt w 10 5) (bitsAt w 2 1))

/-- Major 0x0C. -/
def decMajor0C (w : W32) : Except Reject Instr := accept w [] (.bndi (bitsAt w 20 12) (bitsAt w 15 5) (bitsAt w 10 5) (bitsAt w 2 1))

/-- Major 0x0D. -/
def decMajor0D (w : W32) : Except Reject Instr := accept w [] (.muli (bitsAt w 20 12) (bitsAt w 15 5) (bitsAt w 10 5) (bitsAt w 2 1))

/-- Major 0x0E. -/
def decMajor0E (w : W32) : Except Reject Instr := accept w [] (.addiW (bitsAt w 20 12) (bitsAt w 15 5) (bitsAt w 10 5) (bitsAt w 2 1))

/-- Major 0x10. -/
def decMajor10 (w : W32) : Except Reject Instr := accept w [(13, 2), (29, 3)] (.cmp (bitsAt w 28 1) (bitsAt w 25 3) (bitsAt w 20 5) (bitsAt w 15 5) (bitsAt w 10 3) (bitsAt w 2 1))

/-- Major 0x11. -/
def decMajor11 (w : W32) : Except Reject Instr := accept w [(13, 2)] (.cmpi (bitsAt w 23 9) (bitsAt w 20 3) (bitsAt w 15 5) (bitsAt w 10 3) (bitsAt w 2 1))

/-- Major 0x12. -/
def decMajor12 (w : W32) : Except Reject Instr := accept w [(13, 2), (18, 2), (23, 2), (29, 3)] (.plog (bitsAt w 25 4) (bitsAt w 20 3) (bitsAt w 15 3) (bitsAt w 10 3) (bitsAt w 2 1))

/-- Major 0x13. -/
def decMajor13 (w : W32) : Except Reject Instr := accept w [(29, 3)] (.sel (bitsAt w 28 1) (bitsAt w 25 3) (bitsAt w 20 5) (bitsAt w 15 5) (bitsAt w 10 5) (bitsAt w 2 1))

/-- Major 0x14, by the selector in bits [25:25] (R266). -/
def decMajor14 (w : W32) : Except Reject Instr :=
  match (bitsAt w 25 1).toNat with
  | 0 => accept w [(15, 10), (26, 6)] (.pmovToScalar (bitsAt w 10 5) (bitsAt w 2 1))
  | 1 => accept w [(10, 5), (20, 5), (26, 6)] (.pmovFromScalar (bitsAt w 15 5) (bitsAt w 2 1))
  | _ => .error .selector

/-- Major 0x18. -/
def decMajor18 (w : W32) : Except Reject Instr := accept w [] (.br (bitsAt w 14 18) (bitsAt w 13 1) (bitsAt w 10 3))

/-- Major 0x19. -/
def decMajor19 (w : W32) : Except Reject Instr := accept w [] (.j (bitsAt w 10 22))

/-- Major 0x1A. -/
def decMajor1A (w : W32) : Except Reject Instr := accept w [(10, 5), (20, 12)] (.jr (bitsAt w 15 5) (bitsAt w 2 1))

/-- Major 0x1B. -/
def decMajor1B (w : W32) : Except Reject Instr := accept w [] (.call (bitsAt w 10 22))

/-- Major 0x1C. -/
def decMajor1C (w : W32) : Except Reject Instr := accept w [(10, 5), (20, 12)] (.callr (bitsAt w 15 5) (bitsAt w 2 1))

/-- Major 0x1D. -/
def decMajor1D (w : W32) : Except Reject Instr := accept w [(10, 22)] (.ret (bitsAt w 2 1))

/-- Major 0x1E. -/
def decMajor1E (w : W32) : Except Reject Instr := accept w [(13, 1)] (.loop (bitsAt w 14 18) (bitsAt w 10 3))

/-- Major 0x1F. -/
def decMajor1F (w : W32) : Except Reject Instr := accept w [] (.repf (bitsAt w 20 12) (bitsAt w 18 2) (bitsAt w 14 4) (bitsAt w 10 4))

/-- Major 0x20. -/
def decMajor20 (w : W32) : Except Reject Instr := accept w [] (.ldb (bitsAt w 20 12) (bitsAt w 15 5) (bitsAt w 10 5) (bitsAt w 2 1))

/-- Major 0x21. -/
def decMajor21 (w : W32) : Except Reject Instr := accept w [] (.ldbn (bitsAt w 20 12) (bitsAt w 15 5) (bitsAt w 10 5) (bitsAt w 2 1))

/-- Major 0x22. -/
def decMajor22 (w : W32) : Except Reject Instr := accept w [] (.ldh (bitsAt w 20 12) (bitsAt w 15 5) (bitsAt w 10 5) (bitsAt w 2 1))

/-- Major 0x23. -/
def decMajor23 (w : W32) : Except Reject Instr := accept w [] (.ldhn (bitsAt w 20 12) (bitsAt w 15 5) (bitsAt w 10 5) (bitsAt w 2 1))

/-- Major 0x24. -/
def decMajor24 (w : W32) : Except Reject Instr := accept w [] (.ldw (bitsAt w 20 12) (bitsAt w 15 5) (bitsAt w 10 5) (bitsAt w 2 1))

/-- Major 0x25. -/
def decMajor25 (w : W32) : Except Reject Instr := accept w [] (.ldwn (bitsAt w 20 12) (bitsAt w 15 5) (bitsAt w 10 5) (bitsAt w 2 1))

/-- Major 0x26. -/
def decMajor26 (w : W32) : Except Reject Instr := accept w [] (.ldd (bitsAt w 20 12) (bitsAt w 15 5) (bitsAt w 10 5) (bitsAt w 2 1))

/-- Major 0x27. -/
def decMajor27 (w : W32) : Except Reject Instr := accept w [] (.stb (bitsAt w 20 12) (bitsAt w 15 5) (bitsAt w 10 5) (bitsAt w 2 1))

/-- Major 0x28. -/
def decMajor28 (w : W32) : Except Reject Instr := accept w [] (.sth (bitsAt w 20 12) (bitsAt w 15 5) (bitsAt w 10 5) (bitsAt w 2 1))

/-- Major 0x29. -/
def decMajor29 (w : W32) : Except Reject Instr := accept w [] (.stw (bitsAt w 20 12) (bitsAt w 15 5) (bitsAt w 10 5) (bitsAt w 2 1))

/-- Major 0x2A. -/
def decMajor2A (w : W32) : Except Reject Instr := accept w [] (.std (bitsAt w 20 12) (bitsAt w 15 5) (bitsAt w 10 5) (bitsAt w 2 1))

/-- Major 0x2B. -/
def decMajor2B (w : W32) : Except Reject Instr := accept w [(20, 5), (29, 3)] (.ldx (bitsAt w 28 1) (bitsAt w 25 3) (bitsAt w 15 5) (bitsAt w 10 5) (bitsAt w 2 1))

/-- Major 0x2C. -/
def decMajor2C (w : W32) : Except Reject Instr := accept w [(20, 5), (28, 4)] (.stx (bitsAt w 25 3) (bitsAt w 15 5) (bitsAt w 10 5) (bitsAt w 2 1))

/-- Major 0x2D, by the selector in bits [26:25] (R266). -/
def decMajor2D (w : W32) : Except Reject Instr :=
  match (bitsAt w 25 2).toNat with
  | 0 => accept w [(10, 5), (28, 4)] (.tags (bitsAt w 27 1) (bitsAt w 20 5) (bitsAt w 15 5) (bitsAt w 2 1))
  | 1 => accept w [(20, 5), (28, 4)] (.tagr (bitsAt w 27 1) (bitsAt w 15 5) (bitsAt w 10 5) (bitsAt w 2 1))
  | 2 => accept w [(28, 4)] (.tagp (bitsAt w 27 1) (bitsAt w 20 5) (bitsAt w 15 5) (bitsAt w 10 5) (bitsAt w 2 1))
  | _ => .error .selector

/-- Major 0x2E. -/
def decMajor2E (w : W32) : Except Reject Instr := accept w [(20, 2)] (.probe (bitsAt w 24 8) (bitsAt w 23 1) (bitsAt w 22 1) (bitsAt w 15 5) (bitsAt w 13 2) (bitsAt w 10 3) (bitsAt w 2 1))

/-- Major 0x2F. -/
def decMajor2F (w : W32) : Except Reject Instr := accept w [(25, 7)] (.bcopy (bitsAt w 20 5) (bitsAt w 15 5) (bitsAt w 10 5) (bitsAt w 2 1))

/-- Major 0x30, by the selector in bits [20:20] (R266). -/
def decMajor30 (w : W32) : Except Reject Instr :=
  match (bitsAt w 20 1).toNat with
  | 0 => accept w [] (.ldf (bitsAt w 22 10) (bitsAt w 21 1) (bitsAt w 15 5) (bitsAt w 10 5) (bitsAt w 2 1))
  | 1 => accept w [] (.ldfc (bitsAt w 22 10) (bitsAt w 21 1) (bitsAt w 15 5) (bitsAt w 10 5) (bitsAt w 2 1))
  | _ => .error .selector

/-- Major 0x31. -/
def decMajor31 (w : W32) : Except Reject Instr := accept w [(20, 1)] (.stf (bitsAt w 22 10) (bitsAt w 21 1) (bitsAt w 15 5) (bitsAt w 10 5) (bitsAt w 2 1))

/-- Major 0x32, by the selector in bits [25:25] (R266). -/
def decMajor32 (w : W32) : Except Reject Instr :=
  match (bitsAt w 25 1).toNat with
  | 0 => accept w [(10, 5), (26, 6)] (.fec (bitsAt w 20 5) (bitsAt w 15 5) (bitsAt w 2 1))
  | 1 => accept w [(13, 2), (20, 5), (26, 6)] (.feq (bitsAt w 15 5) (bitsAt w 10 3) (bitsAt w 2 1))
  | _ => .error .selector

/-- Major 0x33, by the selector in bits [28:25] (R266). -/
def decMajor33 (w : W32) : Except Reject Instr :=
  match (bitsAt w 25 4).toNat with
  | 0 => accept w [] (.amoAdd (bitsAt w 29 3) (bitsAt w 20 5) (bitsAt w 15 5) (bitsAt w 13 2) (bitsAt w 12 1) (bitsAt w 10 2) (bitsAt w 2 1))
  | 1 => accept w [] (.amoAnd (bitsAt w 29 3) (bitsAt w 20 5) (bitsAt w 15 5) (bitsAt w 13 2) (bitsAt w 12 1) (bitsAt w 10 2) (bitsAt w 2 1))
  | 2 => accept w [] (.amoOr (bitsAt w 29 3) (bitsAt w 20 5) (bitsAt w 15 5) (bitsAt w 13 2) (bitsAt w 12 1) (bitsAt w 10 2) (bitsAt w 2 1))
  | 3 => accept w [] (.amoXor (bitsAt w 29 3) (bitsAt w 20 5) (bitsAt w 15 5) (bitsAt w 13 2) (bitsAt w 12 1) (bitsAt w 10 2) (bitsAt w 2 1))
  | 4 => accept w [] (.amoMin (bitsAt w 29 3) (bitsAt w 20 5) (bitsAt w 15 5) (bitsAt w 13 2) (bitsAt w 12 1) (bitsAt w 10 2) (bitsAt w 2 1))
  | 5 => accept w [] (.amoMax (bitsAt w 29 3) (bitsAt w 20 5) (bitsAt w 15 5) (bitsAt w 13 2) (bitsAt w 12 1) (bitsAt w 10 2) (bitsAt w 2 1))
  | 6 => accept w [] (.amoMinn (bitsAt w 29 3) (bitsAt w 20 5) (bitsAt w 15 5) (bitsAt w 13 2) (bitsAt w 12 1) (bitsAt w 10 2) (bitsAt w 2 1))
  | 7 => accept w [] (.amoMaxn (bitsAt w 29 3) (bitsAt w 20 5) (bitsAt w 15 5) (bitsAt w 13 2) (bitsAt w 12 1) (bitsAt w 10 2) (bitsAt w 2 1))
  | 8 => accept w [] (.amoSwap (bitsAt w 29 3) (bitsAt w 20 5) (bitsAt w 15 5) (bitsAt w 13 2) (bitsAt w 12 1) (bitsAt w 10 2) (bitsAt w 2 1))
  | _ => .error .selector

/-- Major 0x34. -/
def decMajor34 (w : W32) : Except Reject Instr := accept w [(25, 4)] (.cas (bitsAt w 29 3) (bitsAt w 20 5) (bitsAt w 15 5) (bitsAt w 13 2) (bitsAt w 12 1) (bitsAt w 10 2) (bitsAt w 2 1))

/-- Major 0x35. -/
def decMajor35 (w : W32) : Except Reject Instr := accept w [(10, 3), (15, 5), (25, 4)] (.fence (bitsAt w 29 3) (bitsAt w 20 5) (bitsAt w 13 2))

/-- Major 0x36, by the selector in bits [26:25] (R266). -/
def decMajor36 (w : W32) : Except Reject Instr :=
  match (bitsAt w 25 2).toNat with
  | 0 => accept w [(13, 2)] (.qinit (bitsAt w 27 5) (bitsAt w 20 5) (bitsAt w 15 5) (bitsAt w 10 3) (bitsAt w 2 1))
  | 1 => accept w [(14, 1), (20, 5)] (.qenq (bitsAt w 27 5) (bitsAt w 15 5) (bitsAt w 13 1) (bitsAt w 10 3) (bitsAt w 2 1))
  | 2 => accept w [(15, 5), (24, 1)] (.qdeq (bitsAt w 27 5) (bitsAt w 23 1) (bitsAt w 20 3) (bitsAt w 10 5) (bitsAt w 2 1))
  | 3 => accept w [(15, 10)] (.qcnt (bitsAt w 27 5) (bitsAt w 10 5) (bitsAt w 2 1))
  | _ => .error .selector

/-- Major 0x37. -/
def decMajor37 (w : W32) : Except Reject Instr := accept w [(10, 22)] (.oldest)

/-- Major 0x38. -/
def decMajor38 (w : W32) : Except Reject Instr := accept w [(15, 5)] (.rds (bitsAt w 20 12) (bitsAt w 10 5) (bitsAt w 2 1))

/-- Major 0x39. -/
def decMajor39 (w : W32) : Except Reject Instr := accept w [(10, 5)] (.wrs (bitsAt w 20 12) (bitsAt w 15 5) (bitsAt w 2 1))

/-- Major 0x3A. -/
def decMajor3A (w : W32) : Except Reject Instr := accept w [(10, 10)] (.trap (bitsAt w 20 12))

/-- Major 0x3B. -/
def decMajor3B (w : W32) : Except Reject Instr := accept w [(10, 22)] (.eret)

/-- Major 0x3C, by the selector in bits [26:25] (R266). -/
def decMajor3C (w : W32) : Except Reject Instr :=
  match (bitsAt w 25 2).toNat with
  | 0 => accept w [(10, 15), (27, 5)] (.tend)
  | 1 => accept w [(10, 15), (27, 5)] (.yield)
  | 2 => accept w [(13, 2), (27, 5)] (.tspawn (bitsAt w 20 5) (bitsAt w 15 5) (bitsAt w 10 3))
  | _ => .error .selector

/-- Major 0x3D. -/
def decMajor3D (w : W32) : Except Reject Instr := accept w [(10, 10)] (.brk (bitsAt w 20 12))

/-- Major 0x3E. -/
def decMajor3E (w : W32) : Except Reject Instr := accept w [(10, 5)] (.trc (bitsAt w 25 7) (bitsAt w 20 5) (bitsAt w 15 5) (bitsAt w 2 1))

/-- Major 0x3F, by the selector in bits [27:27] (R266). -/
def decMajor3F (w : W32) : Except Reject Instr :=
  match (bitsAt w 27 1).toNat with
  | 0 => accept w [(15, 10), (28, 4)] (.cnt (bitsAt w 25 2) (bitsAt w 10 5) (bitsAt w 2 1))
  | 1 => accept w [(10, 5), (20, 5), (28, 4)] (.cntSel (bitsAt w 25 2) (bitsAt w 15 5) (bitsAt w 2 1))
  | _ => .error .selector

/-- Major 0x40, by the selector in bits [21:20] (R266). -/
def decMajor40 (w : W32) : Except Reject Instr :=
  match (bitsAt w 20 2).toNat with
  | 0 => accept w [] (.vld (bitsAt w 22 10) (bitsAt w 15 5) (bitsAt w 10 5) (bitsAt w 2 1))
  | 1 => accept w [] (.vldDec (bitsAt w 22 10) (bitsAt w 15 5) (bitsAt w 10 5) (bitsAt w 2 1))
  | _ => .error .selector

/-- Major 0x41, by the selector in bits [21:20] (R266). -/
def decMajor41 (w : W32) : Except Reject Instr :=
  match (bitsAt w 20 2).toNat with
  | 0 => accept w [] (.vst (bitsAt w 22 10) (bitsAt w 15 5) (bitsAt w 10 5) (bitsAt w 2 1))
  | 1 => accept w [] (.vstCnv (bitsAt w 22 10) (bitsAt w 15 5) (bitsAt w 10 5) (bitsAt w 2 1))
  | _ => .error .selector

/-- Major 0x42. -/
def decMajor42 (w : W32) : Except Reject Instr := accept w [] (.vlds (bitsAt w 20 12) (bitsAt w 15 5) (bitsAt w 10 5) (bitsAt w 2 1))

/-- Major 0x43. -/
def decMajor43 (w : W32) : Except Reject Instr := accept w [] (.vsts (bitsAt w 20 12) (bitsAt w 15 5) (bitsAt w 10 5) (bitsAt w 2 1))

/-- Major 0x44. -/
def decMajor44 (w : W32) : Except Reject Instr := accept w [(25, 7)] (.vgath (bitsAt w 20 5) (bitsAt w 15 5) (bitsAt w 10 5) (bitsAt w 2 1))

/-- Major 0x45. -/
def decMajor45 (w : W32) : Except Reject Instr := accept w [(25, 7)] (.vscat (bitsAt w 20 5) (bitsAt w 15 5) (bitsAt w 10 5) (bitsAt w 2 1))

/-- Major 0x46, by the selector in bits [27:25] (R266). -/
def decMajor46 (w : W32) : Except Reject Instr :=
  match (bitsAt w 25 3).toNat with
  | 0 => accept w [] (.vadd (bitsAt w 28 4) (bitsAt w 20 5) (bitsAt w 15 5) (bitsAt w 10 5) (bitsAt w 2 1))
  | 1 => accept w [] (.vsub (bitsAt w 28 4) (bitsAt w 20 5) (bitsAt w 15 5) (bitsAt w 10 5) (bitsAt w 2 1))
  | 2 => accept w [] (.vmul (bitsAt w 28 4) (bitsAt w 20 5) (bitsAt w 15 5) (bitsAt w 10 5) (bitsAt w 2 1))
  | 3 => accept w [] (.vmin (bitsAt w 28 4) (bitsAt w 20 5) (bitsAt w 15 5) (bitsAt w 10 5) (bitsAt w 2 1))
  | 4 => accept w [] (.vmax (bitsAt w 28 4) (bitsAt w 20 5) (bitsAt w 15 5) (bitsAt w 10 5) (bitsAt w 2 1))
  | 5 => accept w [(20, 5)] (.vabs (bitsAt w 28 4) (bitsAt w 15 5) (bitsAt w 10 5) (bitsAt w 2 1))
  | 6 => accept w [(20, 5)] (.vneg (bitsAt w 28 4) (bitsAt w 15 5) (bitsAt w 10 5) (bitsAt w 2 1))
  | _ => .error .selector

/-- Major 0x47, by the selector in bits [26:25] (R266). -/
def decMajor47 (w : W32) : Except Reject Instr :=
  match (bitsAt w 25 2).toNat with
  | 0 => accept w [(27, 1)] (.vfma (bitsAt w 28 4) (bitsAt w 20 5) (bitsAt w 15 5) (bitsAt w 10 5) (bitsAt w 2 1))
  | 1 => accept w [(27, 1)] (.vfms (bitsAt w 28 4) (bitsAt w 20 5) (bitsAt w 15 5) (bitsAt w 10 5) (bitsAt w 2 1))
  | 2 => accept w [(27, 1)] (.vfnma (bitsAt w 28 4) (bitsAt w 20 5) (bitsAt w 15 5) (bitsAt w 10 5) (bitsAt w 2 1))
  | _ => .error .selector

/-- Major 0x48, by the selector in bits [27:25] (R266). -/
def decMajor48 (w : W32) : Except Reject Instr :=
  match (bitsAt w 25 3).toNat with
  | 0 => accept w [(28, 4)] (.vand (bitsAt w 20 5) (bitsAt w 15 5) (bitsAt w 10 5) (bitsAt w 2 1))
  | 1 => accept w [(28, 4)] (.vor (bitsAt w 20 5) (bitsAt w 15 5) (bitsAt w 10 5) (bitsAt w 2 1))
  | 2 => accept w [(28, 4)] (.vxor (bitsAt w 20 5) (bitsAt w 15 5) (bitsAt w 10 5) (bitsAt w 2 1))
  | 3 => accept w [(28, 4)] (.vandn (bitsAt w 20 5) (bitsAt w 15 5) (bitsAt w 10 5) (bitsAt w 2 1))
  | _ => .error .selector

/-- Major 0x49. -/
def decMajor49 (w : W32) : Except Reject Instr := accept w [(13, 2)] (.vcmp (bitsAt w 28 4) (bitsAt w 25 3) (bitsAt w 20 5) (bitsAt w 15 5) (bitsAt w 10 3) (bitsAt w 2 1))

/-- Major 0x4A. -/
def decMajor4A (w : W32) : Except Reject Instr := accept w [(28, 4)] (.vsel (bitsAt w 25 3) (bitsAt w 20 5) (bitsAt w 15 5) (bitsAt w 10 5) (bitsAt w 2 1))

/-- Major 0x4B, by the selector in bits [26:25] (R266). -/
def decMajor4B (w : W32) : Except Reject Instr :=
  match (bitsAt w 25 2).toNat with
  | 0 => accept w [(23, 2), (27, 1)] (.vredAdd (bitsAt w 28 4) (bitsAt w 20 3) (bitsAt w 15 5) (bitsAt w 10 5) (bitsAt w 2 1))
  | 1 => accept w [(23, 2), (27, 1)] (.vredMax (bitsAt w 28 4) (bitsAt w 20 3) (bitsAt w 15 5) (bitsAt w 10 5) (bitsAt w 2 1))
  | 2 => accept w [(23, 2), (27, 1)] (.vredMin (bitsAt w 28 4) (bitsAt w 20 3) (bitsAt w 15 5) (bitsAt w 10 5) (bitsAt w 2 1))
  | _ => .error .selector

/-- Major 0x4C. -/
def decMajor4C (w : W32) : Except Reject Instr := accept w [(24, 1), (27, 1)] (.vcvt (bitsAt w 28 4) (bitsAt w 25 2) (bitsAt w 20 4) (bitsAt w 15 5) (bitsAt w 10 5) (bitsAt w 2 1))

/-- Major 0x4D. -/
def decMajor4D (w : W32) : Except Reject Instr := accept w [(20, 12)] (.vbcst (bitsAt w 15 5) (bitsAt w 10 5) (bitsAt w 2 1))

/-- Major 0x4E. -/
def decMajor4E (w : W32) : Except Reject Instr := accept w [(26, 6)] (.vext (bitsAt w 25 1) (bitsAt w 20 5) (bitsAt w 15 5) (bitsAt w 10 5) (bitsAt w 2 1))

/-- Major 0x4F. -/
def decMajor4F (w : W32) : Except Reject Instr := accept w [(25, 7)] (.vperm (bitsAt w 20 5) (bitsAt w 15 5) (bitsAt w 10 5) (bitsAt w 2 1))

/-- Major 0x50, by the selector in bits [27:25] (R266). -/
def decMajor50 (w : W32) : Except Reject Instr :=
  match (bitsAt w 25 3).toNat with
  | 0 => accept w [(13, 2), (18, 2), (23, 2), (28, 4)] (.vmskAnd (bitsAt w 20 3) (bitsAt w 15 3) (bitsAt w 10 3) (bitsAt w 2 1))
  | 1 => accept w [(13, 2), (18, 2), (23, 2), (28, 4)] (.vmskOr (bitsAt w 20 3) (bitsAt w 15 3) (bitsAt w 10 3) (bitsAt w 2 1))
  | 2 => accept w [(13, 2), (18, 2), (23, 2), (28, 4)] (.vmskXor (bitsAt w 20 3) (bitsAt w 15 3) (bitsAt w 10 3) (bitsAt w 2 1))
  | 3 => accept w [(13, 2), (18, 2), (23, 2), (28, 4)] (.vmskAndn (bitsAt w 20 3) (bitsAt w 15 3) (bitsAt w 10 3) (bitsAt w 2 1))
  | 4 => accept w [(18, 7), (28, 4)] (.vmskTos (bitsAt w 15 3) (bitsAt w 10 5) (bitsAt w 2 1))
  | 5 => accept w [(13, 2), (20, 5), (28, 4)] (.vmskFroms (bitsAt w 15 5) (bitsAt w 10 3) (bitsAt w 2 1))
  | 6 => accept w [(18, 7), (28, 4)] (.vmskPopc (bitsAt w 15 3) (bitsAt w 10 5) (bitsAt w 2 1))
  | 7 => accept w [(18, 7), (28, 4)] (.vmskFirst (bitsAt w 15 3) (bitsAt w 10 5) (bitsAt w 2 1))
  | _ => .error .selector

/-- Major 0x51, by the selector in bits [27:25] (R266). -/
def decMajor51 (w : W32) : Except Reject Instr :=
  match (bitsAt w 25 3).toNat with
  | 0 => accept w [(20, 5)] (.vexp2 (bitsAt w 28 4) (bitsAt w 15 5) (bitsAt w 10 5) (bitsAt w 2 1))
  | 1 => accept w [(20, 5)] (.vlog2 (bitsAt w 28 4) (bitsAt w 15 5) (bitsAt w 10 5) (bitsAt w 2 1))
  | 2 => accept w [(20, 5)] (.vrcp (bitsAt w 28 4) (bitsAt w 15 5) (bitsAt w 10 5) (bitsAt w 2 1))
  | 3 => accept w [(20, 5)] (.vrsq (bitsAt w 28 4) (bitsAt w 15 5) (bitsAt w 10 5) (bitsAt w 2 1))
  | 4 => accept w [(20, 5)] (.vtanh (bitsAt w 28 4) (bitsAt w 15 5) (bitsAt w 10 5) (bitsAt w 2 1))
  | _ => .error .selector

/-- Major 0x52. -/
def decMajor52 (w : W32) : Except Reject Instr := accept w [(25, 3)] (.vscl (bitsAt w 28 4) (bitsAt w 20 5) (bitsAt w 15 5) (bitsAt w 10 5) (bitsAt w 2 1))

/-- Major 0x53. -/
def decMajor53 (w : W32) : Except Reject Instr := accept w [(25, 7)] (.vidx (bitsAt w 20 5) (bitsAt w 15 5) (bitsAt w 10 5) (bitsAt w 2 1))

/-- Major 0x54. -/
def decMajor54 (w : W32) : Except Reject Instr := accept w [(27, 5)] (.vdot (bitsAt w 25 2) (bitsAt w 20 5) (bitsAt w 15 5) (bitsAt w 10 5) (bitsAt w 2 1))

/-- Major 0x55. -/
def decMajor55 (w : W32) : Except Reject Instr := accept w [(20, 12)] (.vmov (bitsAt w 15 5) (bitsAt w 10 5) (bitsAt w 2 1))

/-- Major 0x61. -/
def decMajor61 (w : W32) : Except Reject Instr := accept w [(10, 15), (27, 5)] (.sunb (bitsAt w 25 2))

/-- Major 0x62. -/
def decMajor62 (w : W32) : Except Reject Instr := accept w [(15, 10), (27, 5)] (.sstat (bitsAt w 25 2) (bitsAt w 10 5) (bitsAt w 2 1))

/-- Major 0x63. -/
def decMajor63 (w : W32) : Except Reject Instr := accept w [(15, 10), (26, 6)] (.lrd (bitsAt w 25 1) (bitsAt w 10 5) (bitsAt w 2 1))

/-- Major 0x64. -/
def decMajor64 (w : W32) : Except Reject Instr := accept w [(10, 5), (20, 12)] (.lwr (bitsAt w 15 5) (bitsAt w 2 1))

/-- Major 0x65. -/
def decMajor65 (w : W32) : Except Reject Instr := accept w [(15, 17)] (.lstat (bitsAt w 10 5) (bitsAt w 2 1))

/-- Major 0x69. -/
def decMajor69 (w : W32) : Except Reject Instr := accept w [(12, 20)] (.tzero (bitsAt w 10 2))

/-- Major 0x6A. -/
def decMajor6A (w : W32) : Except Reject Instr := accept w [(12, 3), (20, 12)] (.tld (bitsAt w 15 5) (bitsAt w 10 2))

/-- Major 0x6B. -/
def decMajor6B (w : W32) : Except Reject Instr := accept w [(12, 3), (20, 12)] (.tst (bitsAt w 15 5) (bitsAt w 10 2))

/-- Major 0x6C, by the selector in bits [26:25] (R266). -/
def decMajor6C (w : W32) : Except Reject Instr :=
  match (bitsAt w 25 2).toNat with
  | 0 => accept w [(12, 13), (28, 4)] (.tactRelu (bitsAt w 27 1) (bitsAt w 10 2))
  | 1 => accept w [(12, 13), (28, 4)] (.tactGelu (bitsAt w 27 1) (bitsAt w 10 2))
  | 2 => accept w [(12, 13), (28, 4)] (.tactSilu (bitsAt w 27 1) (bitsAt w 10 2))
  | _ => .error .selector

/-- Major 0x6D, by the selector in bits [25:25] (R266). -/
def decMajor6D (w : W32) : Except Reject Instr :=
  match (bitsAt w 25 1).toNat with
  | 0 => accept w [(15, 10), (26, 6)] (.tstat (bitsAt w 10 5))
  | 1 => accept w [(10, 15), (26, 6)] (.twait)
  | _ => .error .selector

/-- Major 0x6E, by the selector in bits [26:25] (R266). -/
def decMajor6E (w : W32) : Except Reject Instr :=
  match (bitsAt w 25 2).toNat with
  | 0 => if bitsAt w 27 1 = 1 then accept w [(10, 5), (28, 4)] (.recordOnChain (bitsAt w 20 5) (bitsAt w 15 5)) else accept w [(10, 5), (28, 4)] (.recordOn (bitsAt w 20 5) (bitsAt w 15 5))
  | 1 => accept w [(10, 15), (27, 5)] (.recordOff)
  | 2 => accept w [(10, 5), (20, 5), (27, 5)] (.recordMark (bitsAt w 15 5))
  | _ => .error .selector

/-- Major 0x72, by the selector in bits [25:25] (R266). -/
def decMajor72 (w : W32) : Except Reject Instr :=
  match (bitsAt w 25 1).toNat with
  | 0 => accept w [(10, 15), (26, 6)] (.sync)
  | 1 => accept w [(13, 2), (18, 7), (27, 5)] (.syncv (bitsAt w 26 1) (bitsAt w 15 3) (bitsAt w 10 3))
  | _ => .error .selector

/-- Major 0x73. -/
def decMajor73 (w : W32) : Except Reject Instr := accept w [(10, 5), (20, 12)] (.gcall (bitsAt w 15 5))

/-- Major 0x74. -/
def decMajor74 (w : W32) : Except Reject Instr := accept w [(10, 22)] (.gret)

/-- Major 0x76, by the selector in bits [27:25] (R266). -/
def decMajor76 (w : W32) : Except Reject Instr :=
  match (bitsAt w 25 3).toNat with
  | 0 => accept w [(31, 1)] (.fld (bitsAt w 30 1) (bitsAt w 28 2) (bitsAt w 20 5) (bitsAt w 15 5) (bitsAt w 10 5) (bitsAt w 2 1))
  | 1 => accept w [(30, 2)] (.fst (bitsAt w 28 2) (bitsAt w 20 5) (bitsAt w 15 5) (bitsAt w 10 5) (bitsAt w 2 1))
  | 2 => accept w [(10, 5)] (.fflush (bitsAt w 31 1) (bitsAt w 28 3) (bitsAt w 20 5) (bitsAt w 15 5) (bitsAt w 2 1))
  | 3 => accept w [(30, 2)] (.fpush (bitsAt w 29 1) (bitsAt w 28 1) (bitsAt w 20 5) (bitsAt w 15 5) (bitsAt w 10 5) (bitsAt w 2 1))
  | 4 => accept w [(10, 5), (28, 4)] (.fpf (bitsAt w 20 5) (bitsAt w 15 5) (bitsAt w 2 1))
  | 5 => accept w [(10, 5), (31, 1)] (.pginv (bitsAt w 28 3) (bitsAt w 20 5) (bitsAt w 15 5) (bitsAt w 2 1))
  | _ => .error .selector

/-- Major 0x77, by the selector in bits [26:25] (R266). -/
def decMajor77 (w : W32) : Except Reject Instr :=
  match (bitsAt w 25 2).toNat with
  | 0 => accept w [(15, 5), (23, 2), (27, 5)] (.fqdeq (bitsAt w 20 3) (bitsAt w 10 5) (bitsAt w 2 1))
  | 1 => accept w [(13, 2), (20, 5), (27, 5)] (.replay (bitsAt w 15 5) (bitsAt w 10 3) (bitsAt w 2 1))
  | 2 => accept w [(13, 2), (20, 5), (27, 5)] (.term (bitsAt w 15 5) (bitsAt w 10 3) (bitsAt w 2 1))
  | _ => .error .selector

/-- A single word of a major that is neither reserved nor a hint (R266). -/
def decodeSingle (w : W32) : Except Reject Instr :=
  match (bitsAt w 3 7).toNat with
  | 0x00 => decMajor00 w
  | 0x01 => decMajor01 w
  | 0x02 => decMajor02 w
  | 0x03 => decMajor03 w
  | 0x04 => decMajor04 w
  | 0x05 => decMajor05 w
  | 0x06 => decMajor06 w
  | 0x07 => decMajor07 w
  | 0x08 => decMajor08 w
  | 0x0B => decMajor0B w
  | 0x0C => decMajor0C w
  | 0x0D => decMajor0D w
  | 0x0E => decMajor0E w
  | 0x10 => decMajor10 w
  | 0x11 => decMajor11 w
  | 0x12 => decMajor12 w
  | 0x13 => decMajor13 w
  | 0x14 => decMajor14 w
  | 0x18 => decMajor18 w
  | 0x19 => decMajor19 w
  | 0x1A => decMajor1A w
  | 0x1B => decMajor1B w
  | 0x1C => decMajor1C w
  | 0x1D => decMajor1D w
  | 0x1E => decMajor1E w
  | 0x1F => decMajor1F w
  | 0x20 => decMajor20 w
  | 0x21 => decMajor21 w
  | 0x22 => decMajor22 w
  | 0x23 => decMajor23 w
  | 0x24 => decMajor24 w
  | 0x25 => decMajor25 w
  | 0x26 => decMajor26 w
  | 0x27 => decMajor27 w
  | 0x28 => decMajor28 w
  | 0x29 => decMajor29 w
  | 0x2A => decMajor2A w
  | 0x2B => decMajor2B w
  | 0x2C => decMajor2C w
  | 0x2D => decMajor2D w
  | 0x2E => decMajor2E w
  | 0x2F => decMajor2F w
  | 0x30 => decMajor30 w
  | 0x31 => decMajor31 w
  | 0x32 => decMajor32 w
  | 0x33 => decMajor33 w
  | 0x34 => decMajor34 w
  | 0x35 => decMajor35 w
  | 0x36 => decMajor36 w
  | 0x37 => decMajor37 w
  | 0x38 => decMajor38 w
  | 0x39 => decMajor39 w
  | 0x3A => decMajor3A w
  | 0x3B => decMajor3B w
  | 0x3C => decMajor3C w
  | 0x3D => decMajor3D w
  | 0x3E => decMajor3E w
  | 0x3F => decMajor3F w
  | 0x40 => decMajor40 w
  | 0x41 => decMajor41 w
  | 0x42 => decMajor42 w
  | 0x43 => decMajor43 w
  | 0x44 => decMajor44 w
  | 0x45 => decMajor45 w
  | 0x46 => decMajor46 w
  | 0x47 => decMajor47 w
  | 0x48 => decMajor48 w
  | 0x49 => decMajor49 w
  | 0x4A => decMajor4A w
  | 0x4B => decMajor4B w
  | 0x4C => decMajor4C w
  | 0x4D => decMajor4D w
  | 0x4E => decMajor4E w
  | 0x4F => decMajor4F w
  | 0x50 => decMajor50 w
  | 0x51 => decMajor51 w
  | 0x52 => decMajor52 w
  | 0x53 => decMajor53 w
  | 0x54 => decMajor54 w
  | 0x55 => decMajor55 w
  | 0x61 => decMajor61 w
  | 0x62 => decMajor62 w
  | 0x63 => decMajor63 w
  | 0x64 => decMajor64 w
  | 0x65 => decMajor65 w
  | 0x69 => decMajor69 w
  | 0x6A => decMajor6A w
  | 0x6B => decMajor6B w
  | 0x6C => decMajor6C w
  | 0x6D => decMajor6D w
  | 0x6E => decMajor6E w
  | 0x72 => decMajor72 w
  | 0x73 => decMajor73 w
  | 0x74 => decMajor74 w
  | 0x76 => decMajor76 w
  | 0x77 => decMajor77 w
  | _ => .error .reservedMajor

/-- A head and its tail, of a major whose length is D (R255). -/
def decodeDouble (h t : W32) : Except Reject Instr :=
  match (bitsAt h 3 7).toNat with
  | 0x09 => accept2 h t [(18, 14)] [] (.ldi (bitsAt h 17 1) (bitsAt t 2 30 ++ bitsAt h 15 2) (bitsAt h 10 5) (bitsAt h 2 1))
  | 0x0A => accept2 h t [(17, 15)] [] (.ldih (bitsAt t 2 30 ++ bitsAt h 15 2) (bitsAt h 10 5) (bitsAt h 2 1))
  | 0x0F => accept2 h t [(28, 4)] [(26, 6)] (.bdset (bitsAt h 27 1) (bitsAt h 24 3) (bitsAt h 19 5) (bitsAt h 14 5) (bitsAt h 13 1) (bitsAt h 10 3) (bitsAt t 2 24) (bitsAt h 2 1))
  | 0x60 => accept2 h t [(25, 7)] [(2, 4)] (.sbind (bitsAt h 23 2) (bitsAt h 22 1) (bitsAt h 20 2) (bitsAt h 15 5) (bitsAt h 10 5) (bitsAt t 6 26))
  | 0x68 => accept2 h t [(10, 6)] [(7, 25)] (.tmma (bitsAt h 27 5) (bitsAt h 22 5) (bitsAt h 20 2) (bitsAt h 19 1) (bitsAt h 18 1) (bitsAt h 16 2) (bitsAt t 6 1) (bitsAt t 4 2) (bitsAt t 2 2))
  | 0x6F => accept2 h t [(24, 8)] [(2, 30)] (.reverse (bitsAt h 23 1) (bitsAt h 11 12) (bitsAt h 10 1))
  | 0x70 => accept2 h t [(10, 2)] [(31, 1)] (.send (bitsAt h 21 11) (bitsAt h 17 4) (bitsAt h 12 5) (bitsAt t 2 29))
  | 0x71 => accept2 h t [(10, 2)] [(16, 16), (6, 4)] (.rsel (bitsAt h 21 11) (bitsAt h 17 4) (bitsAt h 12 5) (bitsAt t 11 5) (bitsAt t 10 1) (bitsAt t 2 4))
  | 0x75 => accept2 h t [(25, 7)] [(19, 13)] (.awset (bitsAt h 24 1) (bitsAt h 23 1) (bitsAt h 22 1) (bitsAt h 21 1) (bitsAt h 20 1) (bitsAt h 15 5) (bitsAt h 10 5) (bitsAt t 2 17))
  | _ => .error .reservedMajor

/-- The word that four bytes hold, the byte of bits [7:0] first (R250). -/
def wordOf (b0 b1 b2 b3 : Byte) : W32 := b3 ++ b2 ++ b1 ++ b0

/-- A prefix word (R256, R257). -/
def decodePfx (w : W32) : Except Reject Instr :=
  if (bitsAt w 14 18).toNat ≠ 0 ∨ (bitsAt w 2 3).toNat = 7 ∨ (bitsAt w 5 2).toNat = 3 then .error .badPfx
  else .ok (.pfx (bitsAt w 13 1) (bitsAt w 11 2) (bitsAt w 10 1) (bitsAt w 7 3) (bitsAt w 5 2) (bitsAt w 2 3))

/-- A word of the hint space without a tail: NOP or HINT (R267). -/
def decodeHint (w : W32) : Instr := if w = 0x3F8 then .nop else .hint (bitsAt w 10 22) (bitsAt w 2 1) none

/-- The instruction at the head of a word, given the word that follows it (none when fewer bytes follow): the checks of
R262 that look at the words alone, in the order R262 gives them. -/
def decodeWords (w : W32) (t : Option W32) : Except Reject Instr :=
  match (bitsAt w 0 2).toNat with
  | 3 => .error .tailWord
  | 1 => decodePfx w
  | sel =>
    let m := (bitsAt w 3 7).toNat
    if reservedMajor m then .error .reservedMajor
    else if m ≠ 0x7F ∧ doubleMajor m ≠ (sel == 2) then .error .badLength
    else if sel = 2 then
      match t with
      | none => .error .short
      | some t =>
        if (bitsAt t 0 2).toNat ≠ 3 then .error .noTail
        else if m = 0x7F then .ok (.hint (bitsAt w 10 22) (bitsAt w 2 1) (some (bitsAt t 2 30)))
        else if noPfxMajor m && bitsAt w 2 1 == 1 then .error .pBit
        else decodeDouble w t
    else if m = 0x7F then .ok (decodeHint w)
    else if noPfxMajor m && bitsAt w 2 1 == 1 then .error .pBit
    else decodeSingle w

/-- The instruction that begins a string of bytes, and the bytes after it. -/
def decode (bs : List Byte) : Except Reject (Instr × List Byte) :=
  match bs with
  | b0 :: b1 :: b2 :: b3 :: rest =>
    let w := wordOf b0 b1 b2 b3
    if (bitsAt w 0 2).toNat = 2 then
      match rest with
      | c0 :: c1 :: c2 :: c3 :: rest' => (decodeWords w (some (wordOf c0 c1 c2 c3))).map fun i => (i, rest')
      | _ => (decodeWords w none).map fun i => (i, rest)
    else (decodeWords w none).map fun i => (i, rest)
  | _ => .error .short

/-! ## The encoder, from the same tables -/

/-- The words of an instruction: one or two. -/
inductive Words where
  | one (w : W32)
  | two (h t : W32)
  deriving DecidableEq, Repr

/-- The words of an instruction, written from the encoding tables; none for an event, which has no words. -/
def encode : Instr → Option Words
  | .pfx f e n g s r => some (.one ((0 : BitVec 18) ++ f ++ e ++ n ++ g ++ s ++ r ++ (0x1 : BitVec 2)))
  | .add w rs2 rs1 rd p => some (.one (w ++ (0 : BitVec 6) ++ rs2 ++ rs1 ++ rd ++ (0 : BitVec 7) ++ p ++ (0 : BitVec 2)))
  | .sub w rs2 rs1 rd p => some (.one (w ++ (0x1 : BitVec 6) ++ rs2 ++ rs1 ++ rd ++ (0 : BitVec 7) ++ p ++ (0 : BitVec 2)))
  | .and w rs2 rs1 rd p => some (.one (w ++ (0x2 : BitVec 6) ++ rs2 ++ rs1 ++ rd ++ (0 : BitVec 7) ++ p ++ (0 : BitVec 2)))
  | .or w rs2 rs1 rd p => some (.one (w ++ (0x3 : BitVec 6) ++ rs2 ++ rs1 ++ rd ++ (0 : BitVec 7) ++ p ++ (0 : BitVec 2)))
  | .xor w rs2 rs1 rd p => some (.one (w ++ (0x4 : BitVec 6) ++ rs2 ++ rs1 ++ rd ++ (0 : BitVec 7) ++ p ++ (0 : BitVec 2)))
  | .shl w rs2 rs1 rd p => some (.one (w ++ (0x5 : BitVec 6) ++ rs2 ++ rs1 ++ rd ++ (0 : BitVec 7) ++ p ++ (0 : BitVec 2)))
  | .shr w rs2 rs1 rd p => some (.one (w ++ (0x6 : BitVec 6) ++ rs2 ++ rs1 ++ rd ++ (0 : BitVec 7) ++ p ++ (0 : BitVec 2)))
  | .sha w rs2 rs1 rd p => some (.one (w ++ (0x7 : BitVec 6) ++ rs2 ++ rs1 ++ rd ++ (0 : BitVec 7) ++ p ++ (0 : BitVec 2)))
  | .min w rs2 rs1 rd p => some (.one (w ++ (0x8 : BitVec 6) ++ rs2 ++ rs1 ++ rd ++ (0 : BitVec 7) ++ p ++ (0 : BitVec 2)))
  | .max w rs2 rs1 rd p => some (.one (w ++ (0x9 : BitVec 6) ++ rs2 ++ rs1 ++ rd ++ (0 : BitVec 7) ++ p ++ (0 : BitVec 2)))
  | .minn w rs2 rs1 rd p => some (.one (w ++ (0xa : BitVec 6) ++ rs2 ++ rs1 ++ rd ++ (0 : BitVec 7) ++ p ++ (0 : BitVec 2)))
  | .maxn w rs2 rs1 rd p => some (.one (w ++ (0xb : BitVec 6) ++ rs2 ++ rs1 ++ rd ++ (0 : BitVec 7) ++ p ++ (0 : BitVec 2)))
  | .mul w rs2 rs1 rd p => some (.one (w ++ (0xc : BitVec 6) ++ rs2 ++ rs1 ++ rd ++ (0 : BitVec 7) ++ p ++ (0 : BitVec 2)))
  | .mulh w rs2 rs1 rd p => some (.one (w ++ (0xd : BitVec 6) ++ rs2 ++ rs1 ++ rd ++ (0 : BitVec 7) ++ p ++ (0 : BitVec 2)))
  | .mulhn w rs2 rs1 rd p => some (.one (w ++ (0xe : BitVec 6) ++ rs2 ++ rs1 ++ rd ++ (0 : BitVec 7) ++ p ++ (0 : BitVec 2)))
  | .div w rs2 rs1 rd p => some (.one (w ++ (0xf : BitVec 6) ++ rs2 ++ rs1 ++ rd ++ (0 : BitVec 7) ++ p ++ (0 : BitVec 2)))
  | .divn w rs2 rs1 rd p => some (.one (w ++ (0x10 : BitVec 6) ++ rs2 ++ rs1 ++ rd ++ (0 : BitVec 7) ++ p ++ (0 : BitVec 2)))
  | .rem w rs2 rs1 rd p => some (.one (w ++ (0x11 : BitVec 6) ++ rs2 ++ rs1 ++ rd ++ (0 : BitVec 7) ++ p ++ (0 : BitVec 2)))
  | .remn w rs2 rs1 rd p => some (.one (w ++ (0x12 : BitVec 6) ++ rs2 ++ rs1 ++ rd ++ (0 : BitVec 7) ++ p ++ (0 : BitVec 2)))
  | .clz w rs1 rd p => some (.one (w ++ (0x260 : BitVec 11) ++ rs1 ++ rd ++ (0 : BitVec 7) ++ p ++ (0 : BitVec 2)))
  | .ctz w rs1 rd p => some (.one (w ++ (0x280 : BitVec 11) ++ rs1 ++ rd ++ (0 : BitVec 7) ++ p ++ (0 : BitVec 2)))
  | .popc w rs1 rd p => some (.one (w ++ (0x2a0 : BitVec 11) ++ rs1 ++ rd ++ (0 : BitVec 7) ++ p ++ (0 : BitVec 2)))
  | .andn w rs2 rs1 rd p => some (.one (w ++ (0x16 : BitVec 6) ++ rs2 ++ rs1 ++ rd ++ (0 : BitVec 7) ++ p ++ (0 : BitVec 2)))
  | .orn w rs2 rs1 rd p => some (.one (w ++ (0x17 : BitVec 6) ++ rs2 ++ rs1 ++ rd ++ (0 : BitVec 7) ++ p ++ (0 : BitVec 2)))
  | .addi imm rs1 rd p => some (.one (imm ++ rs1 ++ rd ++ (0x1 : BitVec 7) ++ p ++ (0 : BitVec 2)))
  | .andi imm rs1 rd p => some (.one (imm ++ rs1 ++ rd ++ (0x2 : BitVec 7) ++ p ++ (0 : BitVec 2)))
  | .ori imm rs1 rd p => some (.one (imm ++ rs1 ++ rd ++ (0x3 : BitVec 7) ++ p ++ (0 : BitVec 2)))
  | .xori imm rs1 rd p => some (.one (imm ++ rs1 ++ rd ++ (0x4 : BitVec 7) ++ p ++ (0 : BitVec 2)))
  | .shli w h rs1 rd p => some (.one ((0 : BitVec 5) ++ w ++ h ++ rs1 ++ rd ++ (0x5 : BitVec 7) ++ p ++ (0 : BitVec 2)))
  | .shri w h rs1 rd p => some (.one ((0 : BitVec 5) ++ w ++ h ++ rs1 ++ rd ++ (0x6 : BitVec 7) ++ p ++ (0 : BitVec 2)))
  | .shai w h rs1 rd p => some (.one ((0 : BitVec 5) ++ w ++ h ++ rs1 ++ rd ++ (0x7 : BitVec 7) ++ p ++ (0 : BitVec 2)))
  | .lea imm c rs1 rd p => some (.one (imm ++ c ++ rs1 ++ rd ++ (0x8 : BitVec 7) ++ p ++ (0 : BitVec 2)))
  | .bnd rs2 rs1 rd p => some (.one ((0 : BitVec 7) ++ rs2 ++ rs1 ++ rd ++ (0xb : BitVec 7) ++ p ++ (0 : BitVec 2)))
  | .bndi imm rs1 rd p => some (.one (imm ++ rs1 ++ rd ++ (0xc : BitVec 7) ++ p ++ (0 : BitVec 2)))
  | .muli imm rs1 rd p => some (.one (imm ++ rs1 ++ rd ++ (0xd : BitVec 7) ++ p ++ (0 : BitVec 2)))
  | .addiW imm rs1 rd p => some (.one (imm ++ rs1 ++ rd ++ (0xe : BitVec 7) ++ p ++ (0 : BitVec 2)))
  | .cmp w c rs2 rs1 rd p => some (.one ((0 : BitVec 3) ++ w ++ c ++ rs2 ++ rs1 ++ (0 : BitVec 2) ++ rd ++ (0x10 : BitVec 7) ++ p ++ (0 : BitVec 2)))
  | .cmpi imm c rs1 rd p => some (.one (imm ++ c ++ rs1 ++ (0 : BitVec 2) ++ rd ++ (0x11 : BitVec 7) ++ p ++ (0 : BitVec 2)))
  | .plog l rs2 rs1 rd p => some (.one ((0 : BitVec 3) ++ l ++ (0 : BitVec 2) ++ rs2 ++ (0 : BitVec 2) ++ rs1 ++ (0 : BitVec 2) ++ rd ++ (0x12 : BitVec 7) ++ p ++ (0 : BitVec 2)))
  | .sel n c rs2 rs1 rd p => some (.one ((0 : BitVec 3) ++ n ++ c ++ rs2 ++ rs1 ++ rd ++ (0x13 : BitVec 7) ++ p ++ (0 : BitVec 2)))
  | .pmovToScalar rd p => some (.one ((0 : BitVec 17) ++ rd ++ (0x14 : BitVec 7) ++ p ++ (0 : BitVec 2)))
  | .pmovFromScalar rs1 p => some (.one ((0x20 : BitVec 12) ++ rs1 ++ (0x14 : BitVec 12) ++ p ++ (0 : BitVec 2)))
  | .br imm n c => some (.one (imm ++ n ++ c ++ (0xc0 : BitVec 10)))
  | .j imm => some (.one (imm ++ (0xc8 : BitVec 10)))
  | .jr rs1 p => some (.one ((0 : BitVec 12) ++ rs1 ++ (0x1a : BitVec 12) ++ p ++ (0 : BitVec 2)))
  | .call imm => some (.one (imm ++ (0xd8 : BitVec 10)))
  | .callr rs1 p => some (.one ((0 : BitVec 12) ++ rs1 ++ (0x1c : BitVec 12) ++ p ++ (0 : BitVec 2)))
  | .ret p => some (.one ((0x1d : BitVec 29) ++ p ++ (0 : BitVec 2)))
  | .loop imm c => some (.one (imm ++ (0 : BitVec 1) ++ c ++ (0xf0 : BitVec 10)))
  | .repf n rs1 v l => some (.one (n ++ rs1 ++ v ++ l ++ (0xf8 : BitVec 10)))
  | .ldb imm rs1 rd p => some (.one (imm ++ rs1 ++ rd ++ (0x20 : BitVec 7) ++ p ++ (0 : BitVec 2)))
  | .ldbn imm rs1 rd p => some (.one (imm ++ rs1 ++ rd ++ (0x21 : BitVec 7) ++ p ++ (0 : BitVec 2)))
  | .ldh imm rs1 rd p => some (.one (imm ++ rs1 ++ rd ++ (0x22 : BitVec 7) ++ p ++ (0 : BitVec 2)))
  | .ldhn imm rs1 rd p => some (.one (imm ++ rs1 ++ rd ++ (0x23 : BitVec 7) ++ p ++ (0 : BitVec 2)))
  | .ldw imm rs1 rd p => some (.one (imm ++ rs1 ++ rd ++ (0x24 : BitVec 7) ++ p ++ (0 : BitVec 2)))
  | .ldwn imm rs1 rd p => some (.one (imm ++ rs1 ++ rd ++ (0x25 : BitVec 7) ++ p ++ (0 : BitVec 2)))
  | .ldd imm rs1 rd p => some (.one (imm ++ rs1 ++ rd ++ (0x26 : BitVec 7) ++ p ++ (0 : BitVec 2)))
  | .stb imm rs1 rd p => some (.one (imm ++ rs1 ++ rd ++ (0x27 : BitVec 7) ++ p ++ (0 : BitVec 2)))
  | .sth imm rs1 rd p => some (.one (imm ++ rs1 ++ rd ++ (0x28 : BitVec 7) ++ p ++ (0 : BitVec 2)))
  | .stw imm rs1 rd p => some (.one (imm ++ rs1 ++ rd ++ (0x29 : BitVec 7) ++ p ++ (0 : BitVec 2)))
  | .std imm rs1 rd p => some (.one (imm ++ rs1 ++ rd ++ (0x2a : BitVec 7) ++ p ++ (0 : BitVec 2)))
  | .ldx x n rs1 rd p => some (.one ((0 : BitVec 3) ++ x ++ n ++ (0 : BitVec 5) ++ rs1 ++ rd ++ (0x2b : BitVec 7) ++ p ++ (0 : BitVec 2)))
  | .stx n rs1 rd p => some (.one ((0 : BitVec 4) ++ n ++ (0 : BitVec 5) ++ rs1 ++ rd ++ (0x2c : BitVec 7) ++ p ++ (0 : BitVec 2)))
  | .tags f rs2 rs1 p => some (.one ((0 : BitVec 4) ++ f ++ (0 : BitVec 2) ++ rs2 ++ rs1 ++ (0x2d : BitVec 12) ++ p ++ (0 : BitVec 2)))
  | .tagr f rs1 rd p => some (.one ((0 : BitVec 4) ++ f ++ (0x20 : BitVec 7) ++ rs1 ++ rd ++ (0x2d : BitVec 7) ++ p ++ (0 : BitVec 2)))
  | .tagp f rs2 rs1 rd p => some (.one ((0 : BitVec 4) ++ f ++ (0x2 : BitVec 2) ++ rs2 ++ rs1 ++ rd ++ (0x2d : BitVec 7) ++ p ++ (0 : BitVec 2)))
  | .probe imm k f rs1 s rd p => some (.one (imm ++ k ++ f ++ (0 : BitVec 2) ++ rs1 ++ s ++ rd ++ (0x2e : BitVec 7) ++ p ++ (0 : BitVec 2)))
  | .bcopy rs2 rs1 rd p => some (.one ((0 : BitVec 7) ++ rs2 ++ rs1 ++ rd ++ (0x2f : BitVec 7) ++ p ++ (0 : BitVec 2)))
  | .ldf imm z rs1 rd p => some (.one (imm ++ z ++ (0 : BitVec 1) ++ rs1 ++ rd ++ (0x30 : BitVec 7) ++ p ++ (0 : BitVec 2)))
  | .ldfc imm z rs1 rd p => some (.one (imm ++ z ++ (0x1 : BitVec 1) ++ rs1 ++ rd ++ (0x30 : BitVec 7) ++ p ++ (0 : BitVec 2)))
  | .stf imm z rs1 rd p => some (.one (imm ++ z ++ (0 : BitVec 1) ++ rs1 ++ rd ++ (0x31 : BitVec 7) ++ p ++ (0 : BitVec 2)))
  | .fec rs2 rs1 p => some (.one ((0 : BitVec 7) ++ rs2 ++ rs1 ++ (0x32 : BitVec 12) ++ p ++ (0 : BitVec 2)))
  | .feq rs1 rd p => some (.one ((0x20 : BitVec 12) ++ rs1 ++ (0 : BitVec 2) ++ rd ++ (0x32 : BitVec 7) ++ p ++ (0 : BitVec 2)))
  | .amoAdd g s rs1 o w r p => some (.one (g ++ (0 : BitVec 4) ++ s ++ rs1 ++ o ++ w ++ r ++ (0x33 : BitVec 7) ++ p ++ (0 : BitVec 2)))
  | .amoAnd g s rs1 o w r p => some (.one (g ++ (0x1 : BitVec 4) ++ s ++ rs1 ++ o ++ w ++ r ++ (0x33 : BitVec 7) ++ p ++ (0 : BitVec 2)))
  | .amoOr g s rs1 o w r p => some (.one (g ++ (0x2 : BitVec 4) ++ s ++ rs1 ++ o ++ w ++ r ++ (0x33 : BitVec 7) ++ p ++ (0 : BitVec 2)))
  | .amoXor g s rs1 o w r p => some (.one (g ++ (0x3 : BitVec 4) ++ s ++ rs1 ++ o ++ w ++ r ++ (0x33 : BitVec 7) ++ p ++ (0 : BitVec 2)))
  | .amoMin g s rs1 o w r p => some (.one (g ++ (0x4 : BitVec 4) ++ s ++ rs1 ++ o ++ w ++ r ++ (0x33 : BitVec 7) ++ p ++ (0 : BitVec 2)))
  | .amoMax g s rs1 o w r p => some (.one (g ++ (0x5 : BitVec 4) ++ s ++ rs1 ++ o ++ w ++ r ++ (0x33 : BitVec 7) ++ p ++ (0 : BitVec 2)))
  | .amoMinn g s rs1 o w r p => some (.one (g ++ (0x6 : BitVec 4) ++ s ++ rs1 ++ o ++ w ++ r ++ (0x33 : BitVec 7) ++ p ++ (0 : BitVec 2)))
  | .amoMaxn g s rs1 o w r p => some (.one (g ++ (0x7 : BitVec 4) ++ s ++ rs1 ++ o ++ w ++ r ++ (0x33 : BitVec 7) ++ p ++ (0 : BitVec 2)))
  | .amoSwap g s rs1 o w r p => some (.one (g ++ (0x8 : BitVec 4) ++ s ++ rs1 ++ o ++ w ++ r ++ (0x33 : BitVec 7) ++ p ++ (0 : BitVec 2)))
  | .cas g s rs1 o w r p => some (.one (g ++ (0 : BitVec 4) ++ s ++ rs1 ++ o ++ w ++ r ++ (0x34 : BitVec 7) ++ p ++ (0 : BitVec 2)))
  | .fence g s o => some (.one (g ++ (0 : BitVec 4) ++ s ++ (0 : BitVec 5) ++ o ++ (0x1a8 : BitVec 13)))
  | .qinit q rs2 rs1 rd p => some (.one (q ++ (0 : BitVec 2) ++ rs2 ++ rs1 ++ (0 : BitVec 2) ++ rd ++ (0x36 : BitVec 7) ++ p ++ (0 : BitVec 2)))
  | .qenq q rs1 v rd p => some (.one (q ++ (0x20 : BitVec 7) ++ rs1 ++ (0 : BitVec 1) ++ v ++ rd ++ (0x36 : BitVec 7) ++ p ++ (0 : BitVec 2)))
  | .qdeq q v c rd p => some (.one (q ++ (0x4 : BitVec 3) ++ v ++ c ++ (0 : BitVec 5) ++ rd ++ (0x36 : BitVec 7) ++ p ++ (0 : BitVec 2)))
  | .qcnt q rd p => some (.one (q ++ (0xc00 : BitVec 12) ++ rd ++ (0x36 : BitVec 7) ++ p ++ (0 : BitVec 2)))
  | .oldest => some (.one ((0x1b8 : BitVec 32)))
  | .rds n rd p => some (.one (n ++ (0 : BitVec 5) ++ rd ++ (0x38 : BitVec 7) ++ p ++ (0 : BitVec 2)))
  | .wrs n rs1 p => some (.one (n ++ rs1 ++ (0x39 : BitVec 12) ++ p ++ (0 : BitVec 2)))
  | .trap c => some (.one (c ++ (0x1d0 : BitVec 20)))
  | .eret => some (.one ((0x1d8 : BitVec 32)))
  | .tend => some (.one ((0x1e0 : BitVec 32)))
  | .yield => some (.one ((0x20001e0 : BitVec 32)))
  | .tspawn rs2 rs1 rd => some (.one ((0x2 : BitVec 7) ++ rs2 ++ rs1 ++ (0 : BitVec 2) ++ rd ++ (0x1e0 : BitVec 10)))
  | .brk c => some (.one (c ++ (0x1e8 : BitVec 20)))
  | .trc t rs2 rs1 p => some (.one (t ++ rs2 ++ rs1 ++ (0x3e : BitVec 12) ++ p ++ (0 : BitVec 2)))
  | .cnt c rd p => some (.one ((0 : BitVec 5) ++ c ++ (0 : BitVec 10) ++ rd ++ (0x3f : BitVec 7) ++ p ++ (0 : BitVec 2)))
  | .cntSel c rs1 p => some (.one ((0x1 : BitVec 5) ++ c ++ (0 : BitVec 5) ++ rs1 ++ (0x3f : BitVec 12) ++ p ++ (0 : BitVec 2)))
  | .vld imm rs1 rd p => some (.one (imm ++ (0 : BitVec 2) ++ rs1 ++ rd ++ (0x40 : BitVec 7) ++ p ++ (0 : BitVec 2)))
  | .vldDec imm rs1 rd p => some (.one (imm ++ (0x1 : BitVec 2) ++ rs1 ++ rd ++ (0x40 : BitVec 7) ++ p ++ (0 : BitVec 2)))
  | .vst imm rs1 rd p => some (.one (imm ++ (0 : BitVec 2) ++ rs1 ++ rd ++ (0x41 : BitVec 7) ++ p ++ (0 : BitVec 2)))
  | .vstCnv imm rs1 rd p => some (.one (imm ++ (0x1 : BitVec 2) ++ rs1 ++ rd ++ (0x41 : BitVec 7) ++ p ++ (0 : BitVec 2)))
  | .vlds imm rs1 rd p => some (.one (imm ++ rs1 ++ rd ++ (0x42 : BitVec 7) ++ p ++ (0 : BitVec 2)))
  | .vsts imm rs1 rd p => some (.one (imm ++ rs1 ++ rd ++ (0x43 : BitVec 7) ++ p ++ (0 : BitVec 2)))
  | .vgath rs2 rs1 rd p => some (.one ((0 : BitVec 7) ++ rs2 ++ rs1 ++ rd ++ (0x44 : BitVec 7) ++ p ++ (0 : BitVec 2)))
  | .vscat rs2 rs1 rd p => some (.one ((0 : BitVec 7) ++ rs2 ++ rs1 ++ rd ++ (0x45 : BitVec 7) ++ p ++ (0 : BitVec 2)))
  | .vadd t rs2 rs1 rd p => some (.one (t ++ (0 : BitVec 3) ++ rs2 ++ rs1 ++ rd ++ (0x46 : BitVec 7) ++ p ++ (0 : BitVec 2)))
  | .vsub t rs2 rs1 rd p => some (.one (t ++ (0x1 : BitVec 3) ++ rs2 ++ rs1 ++ rd ++ (0x46 : BitVec 7) ++ p ++ (0 : BitVec 2)))
  | .vmul t rs2 rs1 rd p => some (.one (t ++ (0x2 : BitVec 3) ++ rs2 ++ rs1 ++ rd ++ (0x46 : BitVec 7) ++ p ++ (0 : BitVec 2)))
  | .vmin t rs2 rs1 rd p => some (.one (t ++ (0x3 : BitVec 3) ++ rs2 ++ rs1 ++ rd ++ (0x46 : BitVec 7) ++ p ++ (0 : BitVec 2)))
  | .vmax t rs2 rs1 rd p => some (.one (t ++ (0x4 : BitVec 3) ++ rs2 ++ rs1 ++ rd ++ (0x46 : BitVec 7) ++ p ++ (0 : BitVec 2)))
  | .vabs t rs1 rd p => some (.one (t ++ (0xa0 : BitVec 8) ++ rs1 ++ rd ++ (0x46 : BitVec 7) ++ p ++ (0 : BitVec 2)))
  | .vneg t rs1 rd p => some (.one (t ++ (0xc0 : BitVec 8) ++ rs1 ++ rd ++ (0x46 : BitVec 7) ++ p ++ (0 : BitVec 2)))
  | .vfma t rs2 rs1 rd p => some (.one (t ++ (0 : BitVec 3) ++ rs2 ++ rs1 ++ rd ++ (0x47 : BitVec 7) ++ p ++ (0 : BitVec 2)))
  | .vfms t rs2 rs1 rd p => some (.one (t ++ (0x1 : BitVec 3) ++ rs2 ++ rs1 ++ rd ++ (0x47 : BitVec 7) ++ p ++ (0 : BitVec 2)))
  | .vfnma t rs2 rs1 rd p => some (.one (t ++ (0x2 : BitVec 3) ++ rs2 ++ rs1 ++ rd ++ (0x47 : BitVec 7) ++ p ++ (0 : BitVec 2)))
  | .vand rs2 rs1 rd p => some (.one ((0 : BitVec 7) ++ rs2 ++ rs1 ++ rd ++ (0x48 : BitVec 7) ++ p ++ (0 : BitVec 2)))
  | .vor rs2 rs1 rd p => some (.one ((0x1 : BitVec 7) ++ rs2 ++ rs1 ++ rd ++ (0x48 : BitVec 7) ++ p ++ (0 : BitVec 2)))
  | .vxor rs2 rs1 rd p => some (.one ((0x2 : BitVec 7) ++ rs2 ++ rs1 ++ rd ++ (0x48 : BitVec 7) ++ p ++ (0 : BitVec 2)))
  | .vandn rs2 rs1 rd p => some (.one ((0x3 : BitVec 7) ++ rs2 ++ rs1 ++ rd ++ (0x48 : BitVec 7) ++ p ++ (0 : BitVec 2)))
  | .vcmp t c rs2 rs1 rd p => some (.one (t ++ c ++ rs2 ++ rs1 ++ (0 : BitVec 2) ++ rd ++ (0x49 : BitVec 7) ++ p ++ (0 : BitVec 2)))
  | .vsel m rs2 rs1 rd p => some (.one ((0 : BitVec 4) ++ m ++ rs2 ++ rs1 ++ rd ++ (0x4a : BitVec 7) ++ p ++ (0 : BitVec 2)))
  | .vredAdd t q rs1 rd p => some (.one (t ++ (0 : BitVec 5) ++ q ++ rs1 ++ rd ++ (0x4b : BitVec 7) ++ p ++ (0 : BitVec 2)))
  | .vredMax t q rs1 rd p => some (.one (t ++ (0x4 : BitVec 5) ++ q ++ rs1 ++ rd ++ (0x4b : BitVec 7) ++ p ++ (0 : BitVec 2)))
  | .vredMin t q rs1 rd p => some (.one (t ++ (0x8 : BitVec 5) ++ q ++ rs1 ++ rd ++ (0x4b : BitVec 7) ++ p ++ (0 : BitVec 2)))
  | .vcvt s p t rs1 rd p_part2 => some (.one (s ++ (0 : BitVec 1) ++ p ++ (0 : BitVec 1) ++ t ++ rs1 ++ rd ++ (0x4c : BitVec 7) ++ p_part2 ++ (0 : BitVec 2)))
  | .vbcst rs1 rd p => some (.one ((0 : BitVec 12) ++ rs1 ++ rd ++ (0x4d : BitVec 7) ++ p ++ (0 : BitVec 2)))
  | .vext x rs2 rs1 rd p => some (.one ((0 : BitVec 6) ++ x ++ rs2 ++ rs1 ++ rd ++ (0x4e : BitVec 7) ++ p ++ (0 : BitVec 2)))
  | .vperm rs2 rs1 rd p => some (.one ((0 : BitVec 7) ++ rs2 ++ rs1 ++ rd ++ (0x4f : BitVec 7) ++ p ++ (0 : BitVec 2)))
  | .vmskAnd rs2 rs1 rd p => some (.one ((0 : BitVec 9) ++ rs2 ++ (0 : BitVec 2) ++ rs1 ++ (0 : BitVec 2) ++ rd ++ (0x50 : BitVec 7) ++ p ++ (0 : BitVec 2)))
  | .vmskOr rs2 rs1 rd p => some (.one ((0x4 : BitVec 9) ++ rs2 ++ (0 : BitVec 2) ++ rs1 ++ (0 : BitVec 2) ++ rd ++ (0x50 : BitVec 7) ++ p ++ (0 : BitVec 2)))
  | .vmskXor rs2 rs1 rd p => some (.one ((0x8 : BitVec 9) ++ rs2 ++ (0 : BitVec 2) ++ rs1 ++ (0 : BitVec 2) ++ rd ++ (0x50 : BitVec 7) ++ p ++ (0 : BitVec 2)))
  | .vmskAndn rs2 rs1 rd p => some (.one ((0xc : BitVec 9) ++ rs2 ++ (0 : BitVec 2) ++ rs1 ++ (0 : BitVec 2) ++ rd ++ (0x50 : BitVec 7) ++ p ++ (0 : BitVec 2)))
  | .vmskTos rs1 rd p => some (.one ((0x200 : BitVec 14) ++ rs1 ++ rd ++ (0x50 : BitVec 7) ++ p ++ (0 : BitVec 2)))
  | .vmskFroms rs1 rd p => some (.one ((0xa0 : BitVec 12) ++ rs1 ++ (0 : BitVec 2) ++ rd ++ (0x50 : BitVec 7) ++ p ++ (0 : BitVec 2)))
  | .vmskPopc rs1 rd p => some (.one ((0x300 : BitVec 14) ++ rs1 ++ rd ++ (0x50 : BitVec 7) ++ p ++ (0 : BitVec 2)))
  | .vmskFirst rs1 rd p => some (.one ((0x380 : BitVec 14) ++ rs1 ++ rd ++ (0x50 : BitVec 7) ++ p ++ (0 : BitVec 2)))
  | .vexp2 t rs1 rd p => some (.one (t ++ (0 : BitVec 8) ++ rs1 ++ rd ++ (0x51 : BitVec 7) ++ p ++ (0 : BitVec 2)))
  | .vlog2 t rs1 rd p => some (.one (t ++ (0x20 : BitVec 8) ++ rs1 ++ rd ++ (0x51 : BitVec 7) ++ p ++ (0 : BitVec 2)))
  | .vrcp t rs1 rd p => some (.one (t ++ (0x40 : BitVec 8) ++ rs1 ++ rd ++ (0x51 : BitVec 7) ++ p ++ (0 : BitVec 2)))
  | .vrsq t rs1 rd p => some (.one (t ++ (0x60 : BitVec 8) ++ rs1 ++ rd ++ (0x51 : BitVec 7) ++ p ++ (0 : BitVec 2)))
  | .vtanh t rs1 rd p => some (.one (t ++ (0x80 : BitVec 8) ++ rs1 ++ rd ++ (0x51 : BitVec 7) ++ p ++ (0 : BitVec 2)))
  | .vscl t rs2 rs1 rd p => some (.one (t ++ (0 : BitVec 3) ++ rs2 ++ rs1 ++ rd ++ (0x52 : BitVec 7) ++ p ++ (0 : BitVec 2)))
  | .vidx rs2 rs1 rd p => some (.one ((0 : BitVec 7) ++ rs2 ++ rs1 ++ rd ++ (0x53 : BitVec 7) ++ p ++ (0 : BitVec 2)))
  | .vdot m rs2 rs1 rd p => some (.one ((0 : BitVec 5) ++ m ++ rs2 ++ rs1 ++ rd ++ (0x54 : BitVec 7) ++ p ++ (0 : BitVec 2)))
  | .vmov rs1 rd p => some (.one ((0 : BitVec 12) ++ rs1 ++ rd ++ (0x55 : BitVec 7) ++ p ++ (0 : BitVec 2)))
  | .sunb port => some (.one ((0 : BitVec 5) ++ port ++ (0x308 : BitVec 25)))
  | .sstat p rd p_part2 => some (.one ((0 : BitVec 5) ++ p ++ (0 : BitVec 10) ++ rd ++ (0x62 : BitVec 7) ++ p_part2 ++ (0 : BitVec 2)))
  | .lrd f rd p => some (.one ((0 : BitVec 6) ++ f ++ (0 : BitVec 10) ++ rd ++ (0x63 : BitVec 7) ++ p ++ (0 : BitVec 2)))
  | .lwr rs1 p => some (.one ((0 : BitVec 12) ++ rs1 ++ (0x64 : BitVec 12) ++ p ++ (0 : BitVec 2)))
  | .lstat rd p => some (.one ((0 : BitVec 17) ++ rd ++ (0x65 : BitVec 7) ++ p ++ (0 : BitVec 2)))
  | .tzero c => some (.one ((0 : BitVec 20) ++ c ++ (0x348 : BitVec 10)))
  | .tld rs1 c => some (.one ((0 : BitVec 12) ++ rs1 ++ (0 : BitVec 3) ++ c ++ (0x350 : BitVec 10)))
  | .tst rs1 c => some (.one ((0 : BitVec 12) ++ rs1 ++ (0 : BitVec 3) ++ c ++ (0x358 : BitVec 10)))
  | .tactRelu f c => some (.one ((0 : BitVec 4) ++ f ++ (0 : BitVec 15) ++ c ++ (0x360 : BitVec 10)))
  | .tactGelu f c => some (.one ((0 : BitVec 4) ++ f ++ (0x2000 : BitVec 15) ++ c ++ (0x360 : BitVec 10)))
  | .tactSilu f c => some (.one ((0 : BitVec 4) ++ f ++ (0x4000 : BitVec 15) ++ c ++ (0x360 : BitVec 10)))
  | .tstat rd => some (.one ((0 : BitVec 17) ++ rd ++ (0x368 : BitVec 10)))
  | .twait => some (.one ((0x2000368 : BitVec 32)))
  | .recordOn rs2 rs1 => some (.one ((0 : BitVec 7) ++ rs2 ++ rs1 ++ (0x370 : BitVec 15)))
  | .recordOnChain rs2 rs1 => some (.one ((0x4 : BitVec 7) ++ rs2 ++ rs1 ++ (0x370 : BitVec 15)))
  | .recordOff => some (.one ((0x2000370 : BitVec 32)))
  | .recordMark rs1 => some (.one ((0x40 : BitVec 12) ++ rs1 ++ (0x370 : BitVec 15)))
  | .sync => some (.one ((0x390 : BitVec 32)))
  | .syncv o rs1 rd => some (.one ((0 : BitVec 5) ++ o ++ (0x80 : BitVec 8) ++ rs1 ++ (0 : BitVec 2) ++ rd ++ (0x390 : BitVec 10)))
  | .gcall rs1 => some (.one ((0 : BitVec 12) ++ rs1 ++ (0x398 : BitVec 15)))
  | .gret => some (.one ((0x3a0 : BitVec 32)))
  | .fld x z rs2 rs1 rd p => some (.one ((0 : BitVec 1) ++ x ++ z ++ (0 : BitVec 3) ++ rs2 ++ rs1 ++ rd ++ (0x76 : BitVec 7) ++ p ++ (0 : BitVec 2)))
  | .fst z rs2 rs1 rd p => some (.one ((0 : BitVec 2) ++ z ++ (0x1 : BitVec 3) ++ rs2 ++ rs1 ++ rd ++ (0x76 : BitVec 7) ++ p ++ (0 : BitVec 2)))
  | .fflush imm g rs2 rs1 p => some (.one (imm ++ g ++ (0x2 : BitVec 3) ++ rs2 ++ rs1 ++ (0x76 : BitVec 12) ++ p ++ (0 : BitVec 2)))
  | .fpush s r rs2 rs1 rd p => some (.one ((0 : BitVec 2) ++ s ++ r ++ (0x3 : BitVec 3) ++ rs2 ++ rs1 ++ rd ++ (0x76 : BitVec 7) ++ p ++ (0 : BitVec 2)))
  | .fpf rs2 rs1 p => some (.one ((0x4 : BitVec 7) ++ rs2 ++ rs1 ++ (0x76 : BitVec 12) ++ p ++ (0 : BitVec 2)))
  | .pginv g rs2 rs1 p => some (.one ((0 : BitVec 1) ++ g ++ (0x5 : BitVec 3) ++ rs2 ++ rs1 ++ (0x76 : BitVec 12) ++ p ++ (0 : BitVec 2)))
  | .fqdeq c rd p => some (.one ((0 : BitVec 9) ++ c ++ (0 : BitVec 5) ++ rd ++ (0x77 : BitVec 7) ++ p ++ (0 : BitVec 2)))
  | .replay rs1 rd p => some (.one ((0x20 : BitVec 12) ++ rs1 ++ (0 : BitVec 2) ++ rd ++ (0x77 : BitVec 7) ++ p ++ (0 : BitVec 2)))
  | .term rs1 rd p => some (.one ((0x40 : BitVec 12) ++ rs1 ++ (0 : BitVec 2) ++ rd ++ (0x77 : BitVec 7) ++ p ++ (0 : BitVec 2)))
  | .nop => some (.one ((0x3f8 : BitVec 32)))
  | .hint h p none => some (.one (h ++ (0x7F : BitVec 7) ++ p ++ (0 : BitVec 2)))
  | .hint h p (some t) => some (.two (h ++ (0x7F : BitVec 7) ++ p ++ (2 : BitVec 2)) (t ++ (3 : BitVec 2)))
  | .ldi x imm rd p => some (.two ((0 : BitVec 14) ++ x ++ imm.extractLsb' 0 2 ++ rd ++ (0x09 : BitVec 7) ++ p ++ (2 : BitVec 2))
      (imm.extractLsb' 2 30 ++ (3 : BitVec 2)))
  | .ldih imm rd p => some (.two ((0 : BitVec 15) ++ imm.extractLsb' 0 2 ++ rd ++ (0x0A : BitVec 7) ++ p ++ (2 : BitVec 2))
      (imm.extractLsb' 2 30 ++ (3 : BitVec 2)))
  | .bdset lr esz rs2 rs1 clr n leni p =>
    some (.two ((0 : BitVec 4) ++ lr ++ esz ++ rs2 ++ rs1 ++ clr ++ n ++ (0x0F : BitVec 7) ++ p ++ (2 : BitVec 2))
      ((0 : BitVec 6) ++ leni ++ (3 : BitVec 2)))
  | .sbind mode dir port rs2 rs1 stride =>
    some (.two ((0 : BitVec 7) ++ mode ++ dir ++ port ++ rs2 ++ rs1 ++ (0x60 : BitVec 7) ++ (2 : BitVec 3))
      (stride ++ (3 : BitVec 6)))
  | .tmma rs2 rs1 kc tb ta acc z rb ra =>
    some (.two (rs2 ++ rs1 ++ kc ++ tb ++ ta ++ acc ++ (0 : BitVec 6) ++ (0x68 : BitVec 7) ++ (2 : BitVec 3))
      ((0 : BitVec 25) ++ z ++ rb ++ ra ++ (3 : BitVec 2)))
  | .reverse m mv z =>
    some (.two ((0 : BitVec 8) ++ m ++ mv ++ z ++ (0x6F : BitVec 7) ++ (2 : BitVec 3)) (3 : BitVec 32))
  | .send slot km1 vs route =>
    some (.two (slot ++ km1 ++ vs ++ (0 : BitVec 2) ++ (0x70 : BitVec 7) ++ (2 : BitVec 3))
      ((0 : BitVec 1) ++ route ++ (3 : BitVec 2)))
  | .rsel slot km1 rs1 mcid ce link =>
    some (.two (slot ++ km1 ++ rs1 ++ (0 : BitVec 2) ++ (0x71 : BitVec 7) ++ (2 : BitVec 3))
      ((0 : BitVec 16) ++ mcid ++ ce ++ (0 : BitVec 4) ++ link ++ (3 : BitVec 2)))
  | .awset lr n clr w r rs2 rs1 leni =>
    some (.two ((0 : BitVec 7) ++ lr ++ n ++ clr ++ w ++ r ++ rs2 ++ rs1 ++ (0x75 : BitVec 7) ++ (2 : BitVec 3))
      ((0 : BitVec 13) ++ leni ++ (3 : BitVec 2)))
  | .deferredTrap .. => none
  | .registerWrite .. => none
  | .wspWrite .. => none
  | .dsdWrite .. => none
  | .bfmtWrite .. => none
  | .bownWrite .. => none
  | .townWrite .. => none
  | .ltownWrite .. => none
  | .segmentOwnerWrite .. => none
  | .scrubEnd .. => none
  | .arrive .. => none
  | .arriveNb .. => none
  | .waitLatch .. => none
  | .wait .. => none
  | .barrierCfgWrite .. => none
  | .barrierRelease .. => none
  | .mutexLock .. => none
  | .mutexUnlock .. => none
  | .mutexHandoff .. => none
  | .eventWait .. => none
  | .eventSet .. => none
  | .remoteEventSend .. => none
  | .remoteEventArrival => none
  | .fullWake .. => none
  | .eccWriteback .. => none
  | .selfTestDone .. => none
  | .waymaskWrite .. => none
  | .conversionDrained .. => none
  | .conversionWayDone .. => none
  | .kslotClear .. => none
  | .purgeDone .. => none
  | .hftinvWrite .. => none
  | .walkStart .. => none
  | .walkComplete .. => none
  | .faultInsertRetry .. => none
  | .hostWindowAccess .. => none
  | .hostApertureAccess .. => none
  | .flushTailWrite .. => none
  | .flush .. => none
  | .flushInval .. => none
  | .flushComplete .. => none
  | .launchTailWrite .. => none
  | .completionHeadWrite .. => none
  | .launch .. => none
  | .launchResumed .. => none
  | .kill .. => none
  | .fabricLaunch .. => none
  | .causeInterrupt => none
  | .completionInterrupt .. => none
  | .sliceEnd .. => none
  | .switch .. => none
  | .switchDone .. => none
  | .forcedEviction .. => none
  | .evictionOverrun .. => none
  | .vfReset .. => none
  | .vfResetStandStop .. => none
  | .vfResetDone .. => none
  | .peerWithdrawReceived .. => none
  | .vfPause .. => none
  | .vfUnpause .. => none
  | .supplyOutOfRange => none
  | .supplyRestored => none
  | .supplyShutdown => none
  | .inletOver40 => none
  | .inletOver45 => none
  | .inletRestored => none
  | .powerCeilingEngage => none
  | .powerCeilingRelease => none
  | .coldStart => none
  | .warmStart => none
  | .dieEarlyRelease .. => none
  | .startComplete => none
  | .taskStart .. => none
  | .gangStart .. => none
  | .writeThrough .. => none
  | .orderedCommit .. => none
  | .coreArrive .. => none
  | .barrierGroupRelease .. => none
  | .disseminationRound .. => none
  | .rampSlotBegin .. => none
  | .exchangeWatchdog .. => none
  | .noProgress .. => none
  | .sendInject .. => none
  | .flitDrop => none
  | .rselDelivery => none
  | .flitEjectUnselected => none
  | .fpushSlot .. => none
  | .pushComplete .. => none
  | .copyStart .. => none
  | .copyComplete .. => none
  | .copyStop .. => none
  | .streamFetch .. => none
  | .streamWrite .. => none
  | .tileJoinTimeout .. => none
  | .tileComplete .. => none
  | .tileFaultStop .. => none
  | .governorWindow .. => none
  | .rampCheck .. => none
  | .linkNarrow .. => none
  | .linkWidthRestore .. => none
  | .budgetExhausted .. => none
  | .revokeWrite .. => none
  | .polderDeath .. => none
  | .unwind .. => none
  | .scaleAtomicCombine => none
  | .windowAtomicAck => none
  | .ownGuestClaim .. => none
  | .ownHostClaim .. => none
  | .ownRelease .. => none
  | .cstatClear .. => none
  | .counterSelectWrite .. => none
  | .traceRecordWrite => none
  | .debugStop => none
  | .debugResume => none
  | .snapOn => none
  | .snapOff => none
  | .debugReplay .. => none
  | .haltAll => none
  | .snapshot .. => none
  | .dstatRead => none
  | .stateWindowWrite .. => none
  | .flitCheckError .. => none
  | .remoteAccessArrival .. => none
  | .fabricIdAssign .. => none
  | .adjointStepDone .. => none

/-- The four bytes of a word, lowest address first (R250). -/
def W32.bytes (w : W32) : List Byte :=
  [w.extractLsb' 0 8, w.extractLsb' 8 8, w.extractLsb' 16 8, w.extractLsb' 24 8]

/-- The bytes of the words, in the order they lie in memory. -/
def Words.bytes : Words → List Byte
  | .one w => W32.bytes w
  | .two h t => W32.bytes h ++ W32.bytes t

/-- How many words an instruction occupies (R255). An event occupies none. -/
def Instr.size (i : Instr) : Nat :=
  match encode i with
  | none => 0
  | some (.one _) => 1
  | some (.two _ _) => 2

/-- The major of an instruction with words (R251); 0x80 for a prefix word and for an event. -/
def Instr.major (i : Instr) : Nat :=
  match encode i with
  | none => 0x80
  | some (.one w) => if (bitsAt w 0 2).toNat = 1 then 0x80 else (bitsAt w 3 7).toNat
  | some (.two h _) => (bitsAt h 3 7).toNat

/-- The P bit of an instruction with words; 0 for a prefix word and for an event. -/
def Instr.pBit (i : Instr) : Bool :=
  match encode i with
  | none => false
  | some (.one w) => (bitsAt w 0 2).toNat ≠ 1 && bitsAt w 2 1 == 1
  | some (.two h _) => bitsAt h 2 1 == 1

/-- The instruction whose bits are w, numbered as the opcode table numbers them: bit 0 is the least significant bit of
the first word, and the second word's bits follow as bits 63..32. Bits above nbits are zero. -/
def decodeTableWord (nbits w : Nat) : Option Instr :=
  let v : BitVec 64 := BitVec.ofNat 64 (w % 2 ^ nbits)
  match decode (W32.bytes (v.extractLsb' 0 32) ++ W32.bytes (v.extractLsb' 32 32)) with
  | .ok (i, _) => some i
  | .error _ => none

end Sys2Proof
end

