-- ==== Sys2Proof/Config.lean ====
section
/-! DEFINITION. What the manual leaves open: the free values. Nothing in the model evaluates them, and no proof can use a
value of one. -/

namespace Sys2Proof.Config

/-- R41: what a peer module's memory answers to a far access that travels to it; the n-th such answer. Log entry 14. -/
opaque remoteAnswer (n : Nat) : BitVec 64

/-- R215: the rounds of the barrier of domain d of function f, ceil(log2 M) for the M modules over which the domain
configuration spans it, of which `gone` take part no more (spec/07 R244). Log entry 18. -/
opaque spanRounds (f d gone : Nat) : Nat

/-- R457: the power that n rows in ballast add to the module estimate, in units of 10 microwatts. Log entry 27. -/
opaque ballastPower (n : Nat) : Nat

/-- R241, R452: TRAPV of the cause-table entry of a BRK that halts its core; the manual gives BRK none. Log entry 95. -/
opaque brkValue (n : Nat) : BitVec 64

/-- R236: byte n of an image that a landing core writes to a save area; the manual gives the image no format. Log entry 98. -/
opaque imageByte (n : Nat) : BitVec 8

/-- R245, R248: the n-th unit that a start or a return to service tests passes its self-test. Log entry 79. -/
opaque testPasses (n : Nat) : Bool

/-- R247: the units, by kind and number, that fail the tests of the n-th cold start. Log entry 81. -/
opaque failing (n : Nat) : List (Nat × Nat)

/-- R248: the stored error history passes its signature check at the n-th warm start. Log entry 81. -/
opaque historySigned (n : Nat) : Bool

end Sys2Proof.Config
end

