-- ==== Sys2Proof/Machine/State.lean ====
section
/-! DEFINITION. The state of one Raleri 1600 module, as plain data, and the state after reset.

The module has 655,360 ordinary cores, 1,024 landing cores and four hub cores (spec/00 R2, R3). They are held in sparse
maps: a core, cluster or die that a map does not list is at its reset value (log entry 1). -/

namespace Sys2Proof.Machine

/-! ## Parts of a core -/

/-- The cause codes of traps (spec/06 R222). -/
inductive Cause where
  | illegal | pfxOrphan | privilege | align | tagMismatch | bounds | polderAccess | xlate | execNever | writeProtect
  | gateDenied | gateDepth | gateUnderflow | gateState | taskEndInGate | gangMismatch | gangTimeout | slotViolation
  | orderViolation | noProgress | streamFault | windowSpillLimit | repfIllegal | adjLogFull | adjStale | adjState
  | bermFenced | copySpan | uncorrectable | rampViolation | watchdog | brk | soft
  deriving DecidableEq, Repr

/-- The code of a cause (R222). -/
def Cause.code : Cause → Nat
  | .illegal => 0x01 | .pfxOrphan => 0x02 | .privilege => 0x03 | .align => 0x04 | .tagMismatch => 0x05 | .bounds => 0x06
  | .polderAccess => 0x07 | .xlate => 0x08 | .execNever => 0x09 | .writeProtect => 0x0A | .gateDenied => 0x0B
  | .gateDepth => 0x0C | .gateUnderflow => 0x0D | .gateState => 0x0E | .taskEndInGate => 0x0F | .gangMismatch => 0x10
  | .gangTimeout => 0x11 | .slotViolation => 0x12 | .orderViolation => 0x13 | .noProgress => 0x14 | .streamFault => 0x15
  | .windowSpillLimit => 0x16 | .repfIllegal => 0x17 | .adjLogFull => 0x18 | .adjStale => 0x19 | .adjState => 0x1A
  | .bermFenced => 0x1B | .copySpan => 0x1C | .uncorrectable => 0x1D | .rampViolation => 0x1E | .watchdog => 0x1F
  | .brk => 0x20 | .soft => 0x21

/-- A domain-stack entry (spec/02 R58), with the budget count of its depth (spec/15 R421). -/
structure DomEntry where
  caller : BitVec 12
  callee : BitVec 12
  gate   : BitVec 12
  cgen   : BitVec 8
  egen   : BitVec 8
  rpc    : W32
  wptr   : BitVec 3
  tile   : Bool
  abort  : Bool
  vmask  : BitVec 12
  savep  : BitVec 16
  aw0    : W64
  aw1    : W64
  deriving DecidableEq, Repr

/-- The two windows that an access may use: those of the top domain-stack entry when it issued (spec/01 R25, R27). -/
structure Windows where
  w0 : W64
  w1 : W64
  deriving DecidableEq, Repr

/-- Who an access is made for: the polder and the windows of the instruction that caused it (spec/01 R27). -/
structure Ctx where
  pol   : BitVec 12
  wins  : Windows
  depth : Nat
  deriving DecidableEq, Repr

/-- A trap that an engine left pending (spec/11 R323). -/
structure Deferred where
  cause : Cause
  value : W64
  depth : Nat
  pol   : BitVec 12
  deriving DecidableEq, Repr

/-- A store held in a commit buffer, as the commit checks it again (spec/01 R23): its pointer, its size, for whom and at
which level it was made. -/
structure HeldStore where
  ptr   : W32
  size  : Nat
  ctx   : Ctx
  level : Nat
  deriving DecidableEq, Repr

/-- One 32-byte granule of an ordered task's commit buffer (spec/05 R172): its memory key / 32, the local pointer of its
first byte, the bytes, which of them are marked, which words an STF sets full, and the stores that it holds, oldest first. -/
structure CommitLine where
  granule : Nat
  off     : W32
  stores  : List HeldStore
  data    : BitVec 256
  mask    : BitVec 32
  full    : BitVec 8
  deriving DecidableEq, Repr

/-- What an ordered task holds until it commits (R172), and what an abort restores (R178): the copies of FCSR, SRSEED and bd,
and the windows and the gate status as the task found them (log entry 16). -/
structure Ordered where
  lines  : List CommitLine
  reads  : List Nat
  spawns : List (Nat × BitVec 128)
  fcsr   : W64
  srseed : W64
  bd     : Vector W64 8
  aw0    : W64
  aw1    : W64
  gst    : W64
  deriving DecidableEq, Repr

/-- An item of a stream port: its value and, for an OUT port, the seed and the timestamp that the instruction that enqueued it
read when it issued (spec/12 R351, R358, spec/03 R113). -/
structure PortItem where
  value : Vec
  seed  : BitVec 32
  ts    : BitVec 32
  deriving DecidableEq, Repr

/-- A stream port (spec/12 R355 to R359). `items`: fetched and unconsumed (IN), or held and unwritten (OUT); `written`: items
of an OUT port written so far. -/
structure Port where
  bound   : Bool
  out     : Bool
  mode    : BitVec 2
  base    : W32
  count0  : BitVec 16
  count1  : BitVec 16
  stride0 : BitVec 32
  stride1 : BitVec 26
  done    : Nat
  items   : List PortItem
  written : Nat
  /-- A fetch that failed and has not been consumed; and the trap of one that was, after which the port fetches nothing until
  the ERET (R357). -/
  pend    : Option (Cause × W64)
  faulted : Bool
  deriving DecidableEq, Repr

/-- What a queued tile instruction does (spec/13 R371, R380). -/
inductive TileWork where
  | tmma (a b : W32) (kc : BitVec 2) (tb ta : Bool) (acc : BitVec 2) (z sa sb : Bool)
  | tzero (acc : BitVec 2)
  | tld (acc : BitVec 2) (p : W32)
  | tst (acc : BitVec 2) (p : W32)
  | tact (acc : BitVec 2) (fn : BitVec 2) (f : Bool)
  deriving DecidableEq, Repr

/-- A tile instruction in the queue (R368): its work, the formats of the bays of a TMMA's operands at issue (R372), for whom, the seed
and timestamp read at issue (R381), the log entry reserved for it (spec/14 R396: start and payload length), and the order key of
the ordered task that issued it. -/
structure TileOp where
  work  : TileWork
  fa    : BitVec 4
  fb    : BitVec 4
  ctx   : Ctx
  seed  : BitVec 32
  ts    : BitVec 32
  entry : Option (W32 × Nat)
  key   : Option Nat
  deriving DecidableEq, Repr

/-- What a core that waits for its tile group presents (R377, R378, spec/15 R421, R423, spec/14 R407, R408): the kind of join,
what is compared, the tick at which it came, the trap of its own checks, the log entry that it reserved, how the join
ended, as a mask of columns (none while it waits, 0 when the group joined), the columns that have reached the join while it waited, and
the formats of a TMMA's operand bays at issue (R372). -/
structure JoinReq where
  kind   : Nat
  key    : List Nat
  since  : W64
  fail   : Option (Cause × W64)
  entry  : Option (W32 × Nat)
  result : Option Nat
  seen   : Nat
  fmts   : BitVec 4 × BitVec 4
  deriving DecidableEq, Repr

/-- A REVERSE that has joined (spec/14 R407): its M and MV, the seed and timestamp read at issue, the flags of its gradient
roundings, and whether the walk has stopped. -/
structure Rev where
  mark   : Bool
  value  : BitVec 12
  seed   : BitVec 32
  ts     : BitVec 32
  flags  : BitVec 5
  ended  : Bool
  deriving DecidableEq, Repr

/-- An armed selection of the input multiplexer (spec/15 R417). -/
structure Sel where
  ptr     : W32
  k       : Nat
  slot    : Nat
  link    : BitVec 4
  count   : Option (BitVec 5)
  ctx     : Ctx
  failed  : Bool
  deriving DecidableEq, Repr

/-- An access that needs a translation (spec/01 R43, R47, R51): who makes it (a landing push by its number), the far
pointer, ACC (0 read, 1 write, 2 push source, 3 atomic), whether it is a copy and how far that has come, its polder; `own` once
REPLAY has made it walk again: it then joins no walk that others began. -/
structure FarReq where
  agent    : Nat
  push     : Option Nat
  ptr      : W64
  acc      : Nat
  copy     : Bool
  progress : Nat
  pol      : BitVec 12
  own      : Bool
  deriving DecidableEq, Repr

/-- A landing push that has issued (spec/15 R430). -/
structure Push where
  id       : Nat
  src      : W64
  shelf    : Bool
  rem      : Bool
  cluster  : BitVec 11
  tcm      : Bool
  bay      : BitVec 4
  core     : BitVec 5
  off      : Nat
  len      : Nat
  tag      : BitVec 4
  count    : Option (BitVec 5)
  ctx      : Ctx
  task     : Bool
  slot     : Option Nat
  progress : Nat
  seq      : Option (BitVec 16)
  /-- REPLAY has made it walk again (spec/01 R47). -/
  own      : Bool
  deriving DecidableEq, Repr

/-- A line of a landing or hub L1 (spec/01 R44, spec/04 R145). The list that holds the lines has the most recently used
first. -/
structure L1Line where
  set   : Nat
  way   : Nat
  vtag  : Nat
  pol   : BitVec 12
  pa    : Nat
  r     : Bool
  w     : Bool
  xn    : Bool
  ca    : BitVec 2
  key   : BitVec 6
  tags  : BitVec 16
  dirty : BitVec 128
  data  : BitVec 1024
  /-- Sectors that hold an uncorrectable error, and those of them whose tag failed (spec/04 R139). -/
  bad   : BitVec 4
  badTags : BitVec 4
  /-- Its leaf maps a large page. -/
  large : Bool
  deriving DecidableEq, Repr

/-- An instruction that a gang leader has forwarded (spec/06 R208): its address, its word and its tail word; whether it took a
transfer of control, where the leader has resolved that; `close` where the stream ends in place of an instruction. -/
structure Forward where
  pc    : W32
  head  : W32
  tail  : W32
  taken : Option Bool
  close : Bool
  deriving DecidableEq, Repr

/-- Why a core does not go on at its instruction. -/
inductive Sleep where
  /-- It does not wait. -/
  | none
  /-- A sleeping ARRIVE, with the phase at which it arrived (spec/02 R85). -/
  | arrive (n : Nat) (phase : BitVec 31)
  /-- A sleeping WAIT, with the phase in which it fell asleep (R86). -/
  | wait (n : Nat) (phase : BitVec 31)
  /-- A sleeping mutex lock (R88). -/
  | mutex (m : Nat)
  /-- A sleeping event wait (R90); `woken` once the event woke this core. -/
  | event (e : Nat) (woken : Bool)
  /-- LDF or LDFC on words that are not full (spec/11 R318): the word keys. -/
  | full (words : List Nat)
  /-- A far access waiting for its walk (spec/01 R46). -/
  | walk
  /-- A far access waiting on a fault record (R49). -/
  | record (seq : BitVec 16)
  /-- A walk fault waiting for room in the fault ring (R51). -/
  | ring
  /-- An ordered task waiting to be the oldest (spec/05 R173, R175, R179). -/
  | oldest
  /-- Waiting for the tile group (spec/13 R377). -/
  | join
  /-- A link pop or push that cannot go on (spec/12 R361); `pop` for a pop. -/
  | link (pop : Bool)
  /-- SYNC or SYNCV that has arrived (spec/15 R418). -/
  | barrier
  /-- Another stall that the core's own engines end. -/
  | engine
  deriving DecidableEq, Repr

/-- What a core is doing (spec/06 R203, R212, R221). -/
inductive Activity where
  /-- No running task. -/
  | idle
  /-- A task runs; its index is TSK.ID. -/
  | task
  /-- The exchange routine runs. -/
  | exchange
  /-- Arrived at the end-of-work barrier. -/
  | atWork
  /-- Arrived at the end-of-exchange barrier. -/
  | atExchange
  /-- Stopped: a double trap, a fence or an ended job. -/
  | stopped
  /-- Halted by the debugger (spec/16 R452). -/
  | halted
  deriving DecidableEq, Repr

/-- One core: ordinary, landing or hub, by its agent number (spec/06 R195, R197). A register absent on the kind of core
is held at its reset value and never read. -/
structure Core where
  /-- s0 to s7 (s0 is never read). -/
  g       : Vector W64 8
  /-- The frame file: s8 to s31 of six frames (spec/10 R309). -/
  frames  : Vector (Vector W64 24) 6
  /-- p0 to p7 (bit 0 is never read). -/
  p       : BitVec 8
  v       : Vector Vec 16
  q       : Vector W64 8
  /-- a0 to a3: element (i, c) of an accumulator at index 4 i + c (spec/13 R365). -/
  acc     : Vector (Vector W32 128) 4
  bd      : Vector W64 8
  /-- The link FIFO that this core pops, oldest word first; it is the le of the west neighbour (spec/12 R361). -/
  lw      : List Vec
  /-- Message counters (spec/06 R205). -/
  mc      : Vector (BitVec 16) 32
  pc      : W32
  /-- The prefix latch (spec/08 R258). -/
  latch   : Option W32
  /-- The instruction that the core has issued and not yet completed, as it was fetched: its address, its word, its tail
  (spec/08 R264). -/
  held    : Option (W32 × W32 × Option W32)
  fcsr    : W64
  srseed  : W64
  tsk     : W64
  tstamp  : W64
  ssn     : W64
  xt      : W64
  xpc     : W64
  syncm   : W64
  vote    : W64
  wptr    : W64
  wsp     : W64
  dsd     : W64
  repc    : W64
  curpol  : W64
  gst     : W64
  aw0     : W64
  aw1     : W64
  atp     : W64
  gcfg    : W64
  recm    : W64
  logb    : W64
  logl    : W64
  logp    : W64
  trapc   : W64
  trappc  : W64
  trapv   : W64
  tvec    : W64
  /-- TSTAT.TNAN and TSTAT.TOF (spec/13 R383). -/
  tnan    : Bool
  tof     : Bool
  /-- The captured block of a REPF: addresses and words (spec/08 R270). -/
  repBuf  : List (Nat × W32)
  /-- A trap handler has suspended the replay (R271). -/
  repSusp : Bool
  /-- Resident domain-stack entries, newest first (spec/02 R58), and the budget counts, newest first; the depth, spilled
  entries included, is CURPOL.DEPTH. -/
  dom     : List DomEntry
  budget  : List Nat
  /-- For each depth, newest first: the vector registers whose callers' values the domain save stack holds, the latest saved
  first (spec/02 R57). -/
  vsaved  : List (List Nat)
  /-- The task table (spec/06 R201), and the passes of each entry (R203). -/
  tasks   : Vector (BitVec 128) 64
  passes  : Vector Nat 64
  /-- Task entries that own yield blocks, newest first, each with the TCM offset of its block's end (spec/06 R472). -/
  yields  : List (Nat × Nat)
  /-- Task entries that the dispatcher placed as set-up tasks of the device polder (R218). -/
  setup   : List Nat
  /-- Entries of aborted ordered tasks, which start again without taking THRESH off their counters (R202). -/
  again   : List Nat
  /-- The core aborted its task in order to start an older ordered one (spec/05 R177). -/
  older   : Bool
  /-- Consecutive failed QDEQs of each task entry (spec/11 R330). -/
  qfail   : Vector Nat 64
  act     : Activity
  /-- The core runs a trap handler although it has no running task: the handler's ERET or TEND leaves it idle again (log
  entry 91). -/
  visit   : Bool
  sleep   : Sleep
  /-- The local pointer of the access in which it fell asleep (spec/16 R437). -/
  awaits  : W32
  deferred : List Deferred
  ordered : Option Ordered
  ports   : Vector Port 4
  tileq   : List TileOp
  /-- Tile instructions that a forced eviction took from the queue, which the core issues again before its next instruction
  (spec/13 R384). -/
  reissue : List TileOp
  join    : Option JoinReq
  rev     : Option Rev
  sels    : List Sel
  /-- The vote carried to the end-of-exchange barrier: OR, value, result predicate (spec/06 R214). -/
  syncv   : Option (Bool × Bool × BitVec 3)
  pushes  : List Push
  /-- Corrected errors of the TCM (spec/02 R96). -/
  cecnt   : Nat
  /-- Core counters and their selects (spec/16 R445). -/
  ctr     : Vector W64 4
  ctrSel  : Vector W64 4
  /-- The core was let run on from a halt at its present instruction, which therefore does not halt it again (R452). -/
  passHit : Bool
  wctl    : Vector W64 2
  wbase   : Vector W64 2
  l1      : List L1Line
  /-- The access that waits for a translation, and the fault code with which its walk ended on a hub core (R47, R49). -/
  farReq  : Option FarReq
  walked  : Option (BitVec 8)
  /-- The fields of SYNCM as they stood when the current phase began (spec/06 R210). -/
  member  : BitVec 16
  /-- This core has a gang leader: its agent, and the position in the forwarded stream (spec/06 R208); and whether its latest
  instruction took a transfer of control. -/
  gang    : Option (Nat × Nat)
  took    : Bool
  /-- A leader's forwarded stream, oldest first. -/
  stream  : List Forward
  /-- A leader has forwarded the instruction at which it waits for its group (spec/13 R377). -/
  ahead   : Bool
  /-- The exchange routine has issued: its XT counts on (spec/06 R212). -/
  begun   : Bool
  /-- Ticks of the arrivals at the end-of-work barrier and of the release that began the work phase (spec/16 R438). -/
  arrived : W64
  since   : W64
  /-- The core begins its work phase only when its cluster's ramp slot begins (spec/16 R456). -/
  gated   : Bool
  /-- The core has unwound to this depth, and the event unit still releases the mutexes that it held deeper (spec/02 R89). -/
  freeing : Option Nat
  /-- A frame discard that the core still has to make: depth and reason (spec/15 R425). -/
  unwindTo : Option (Nat × Nat)
  deriving DecidableEq, Repr

/-! ## Parts of a cluster, a die and the hub -/

/-- A barrier of the event unit (spec/02 R85). -/
structure Barrier where
  count   : BitVec 6
  arrived : Nat
  phase   : BitVec 31
  /-- The token each core of the cluster last latched (R86). -/
  tokens  : Vector (BitVec 32) 32
  deriving DecidableEq, Repr

/-- A mutex of the event unit (R88): holder core, depth and polder; cores waiting, first arrived first. -/
structure Mutex where
  holder  : Option (BitVec 5 × BitVec 6 × BitVec 12)
  waiters : List (BitVec 5 × BitVec 6 × BitVec 12)
  deriving DecidableEq, Repr

/-- An event of the event unit (R90): set, and the cores sleeping on it, first arrived first. -/
structure EventBit where
  set      : Bool
  sleepers : List (BitVec 5)
  deriving DecidableEq, Repr

/-- Words 0 to 2 of a hardware-queue descriptor (R92). -/
structure QDesc where
  w0   : W64
  head : BitVec 32
  tail : BitVec 32
  deriving DecidableEq, Repr

/-- A copy in the queue of the cluster copy engine (spec/11 R322). -/
structure Copy where
  agent : Nat
  dst   : W32
  src   : W32
  count : Nat
  conv  : Bool
  ctx   : Ctx
  seed  : BitVec 32
  ts    : BitVec 32
  level : BitVec 2
  begun : Bool
  deriving DecidableEq, Repr

/-- A counter bank: counters, event selects and OWN (spec/16 R440, R441). -/
structure Bank where
  ctr : List W64
  sel : List W64
  own : W64
  deriving DecidableEq, Repr

/-- One cluster (spec/02). -/
structure Cluster where
  bfmt     : Vector W64 16
  bown     : Vector W64 16
  gmap     : Vector W64 16
  wgen     : Vector W64 16
  bstat    : Vector W64 16
  town     : Vector W64 32
  queues   : Vector QDesc 32
  barriers : Vector Barrier 8
  mutexes  : Vector Mutex 16
  events   : Vector EventBit 32
  copies   : List Copy
  bank     : Bank
  tuOwn    : W64
  tuCtl    : W64
  tuLost   : Bool
  stage    : BitVec 8
  slot     : Nat
  /-- Guard table of the ejection stage: (arrival link, cycle, destination core) (spec/15 R415). -/
  eject    : List (Nat × Nat × Nat)
  /-- The control block holds an error that no access has met (spec/07 R246). -/
  ctlBad   : Bool
  deriving DecidableEq, Repr

/-- A line of a berm's cache (spec/04 R126, R129). The list that holds the lines has the most recently used first. -/
structure BermLine where
  set   : Nat
  way   : Nat
  ptag  : Nat
  vf    : BitVec 6
  key   : BitVec 6
  valid : BitVec 4
  dirty : BitVec 4
  tags  : BitVec 16
  data  : BitVec 1024
  /-- Sectors that hold an uncorrectable error, and those of them whose tag store failed (R139, R140). -/
  bad   : BitVec 4
  badTags : BitVec 4
  deriving DecidableEq, Repr

/-- A translation-cache entry (spec/01 R46): polder, page number (VA / 64 KiB, or VA / 64 MiB), large, leaf. -/
structure Tlb where
  pol   : BitVec 12
  page  : Nat
  large : Bool
  leaf  : W64
  deriving DecidableEq, Repr

/-- A walk in flight (R47): its number, polder, page, the requesters in the order their misses reached the unit; once it has read
the tables, the entries that it read, with their addresses: it keeps its slot while a record of it waits for room (R51); and
whether a PGINV has covered what it read, so that no later miss joins it (R48). -/
structure Walk where
  no   : Nat
  pol  : BitVec 12
  page : Nat
  reqs : List FarReq
  read : Option (List (Nat × W64))
  shut : Bool
  deriving DecidableEq, Repr

/-- A way conversion in progress (spec/04 R135): lowest and one past the highest affected way, next way to process,
whether the accesses in flight have drained, the core that wrote WAYMASK. -/
structure Convert where
  lo      : Nat
  hi      : Nat
  next    : Nat
  drained : Bool
  agent   : Nat
  deriving DecidableEq, Repr

/-- One array die. -/
structure Die where
  waymask  : W64
  quota    : Vector W64 64
  /-- Segment ownership entries, sparse by segment. -/
  segs     : List (Nat × W64)
  ltown    : Vector W64 64
  lines    : List BermLine
  convert  : Option Convert
  tlb      : List Tlb
  walks    : List Walk
  banks    : Vector Bank 4
  released : Bool
  /-- The die was in service when the plant fenced every array die (spec/00 R7, R8). -/
  served   : Bool
  tuOwn    : W64
  tuCtl    : W64
  tuLost   : Bool
  deriving DecidableEq, Repr

/-- The status of a job's completion (spec/07 R229). -/
inductive Status where
  | started | done | malformed | polder | image | stand | source | trapped | terminated | vfreset | killed | contained
  | polderDead
  deriving DecidableEq, Repr

/-- The code of a status (R229). -/
def Status.code : Status → Nat
  | .started => 0 | .done => 1 | .malformed => 2 | .polder => 3 | .image => 4 | .stand => 5 | .source => 6 | .trapped => 7
  | .terminated => 8 | .vfreset => 9 | .killed => 10 | .contained => 11 | .polderDead => 12

/-- How a stand stands (spec/07 R234 to R239, spec/16 R450 to R452). -/
structure Stand where
  held      : Bool
  evicted   : Bool
  halfClock : Bool
  halfNext  : Bool
  ramped    : Bool
  snapMode  : Bool
  replaying : Bool
  halted    : Option Nat
  diverged  : Bool
  stopReq   : Bool
  haltAll   : Bool
  /-- Its state lies in the save area and not on its clusters. -/
  away      : Bool
  deriving DecidableEq, Repr

/-- A running job (spec/07 R225, R227). `clusters` in stand-index order. -/
structure Job where
  fn       : BitVec 6
  jobid    : BitVec 32
  cookie   : W64
  pol      : BitVec 12
  pin      : Bool
  excl     : Bool
  pstep    : BitVec 32
  xdom     : BitVec 16
  clusters : List Nat
  landings : List Nat
  slotLo   : BitVec 16
  slotHi   : BitVec 16
  /-- The barrier domains that make no progress, and since which tick (spec/06 R217). -/
  stuck    : List (Nat × W64)
  stand    : Stand
  deriving DecidableEq, Repr

/-- A ring between the host and the hub (spec/07 R223, R224, spec/04 R154): the hub's own count and whether it is
stopped. -/
structure Ring where
  hub     : W64
  stopped : Bool
  deriving DecidableEq, Repr

/-- A flit instance of a plan (spec/09 R290, R291): its symbol, the clusters that it leaves and reaches, its slot and route, and how
it arrives. -/
structure Inst where
  sym   : Nat
  src   : Nat
  dst   : Nat
  slot  : Nat
  route : Nat
  cycle : Nat
  link  : Nat
  deriving DecidableEq, Repr

/-- What a plan has given out: link cycles with their senders, ejection cycles (cluster, link, cycle, core), instances. -/
structure Plan where
  guards : List (Nat × Nat × Nat)
  ejects : List (Nat × Nat × Nat × Nat)
  insts  : List Inst
  deriving DecidableEq, Repr

/-- A launch placed (spec/09 R287, R290): the stand's clusters with their indices and the bays of the placements, and the exchange
plan. -/
structure Placed where
  cl   : List (Nat × Nat × List (Nat × Nat))
  plan : Plan
  deriving DecidableEq, Repr

/-- Part of a TCM or a bay whose tags a set-up task has to set (spec/09 R288): its cluster, first key, granules and tag. -/
structure Tagging where
  cluster : Nat
  key     : Nat
  count   : Nat
  tag     : Nat
  deriving DecidableEq, Repr

/-- The clusters and the memory of a stand as a launch found them, which one that ends before step 5 leaves behind (spec/07 R227). -/
structure Before where
  clusters : List (Nat × Cluster)
  /-- The stretches of memory that the launch writes: first key and length. -/
  span     : List (Nat × Nat)
  mem      : List Host.Cell
  tags     : List (Nat × BitVec 4)
  full     : List Nat
  deriving DecidableEq, Repr

/-- A launch whose image is being loaded (spec/07 R227 step 4, spec/09 R288, R289): its clusters, where it was placed, and the units
that its stand uses, by kind and number; once its bays and TCM halves have been given out, the tags that the set-up tasks have still
to set, and what stood there before. -/
structure Loading where
  clusters : List Nat
  placed   : Placed
  units    : List (Nat × Nat)
  tagging  : List Tagging
  before   : Option Before
  deriving DecidableEq, Repr

/-- What the hub keeps for one function (spec/07 R223 to R243, spec/16 R439, R442). -/
structure Func where
  vfctl    : W64
  vfsave   : W64
  ltab     : W64
  launch   : Ring
  compl    : Ring
  flush    : Ring
  /-- Completions owed while the ring is full or stopped. -/
  owed     : List (BitVec 256)
  /-- The launch at the head of the ring, when it waits for its turn or for free clusters, or while its image is loaded. -/
  waiting  : Option (BitVec 512)
  loading  : Option Loading
  /-- The loader has placed that launch again (spec/09 R289). -/
  again    : Bool
  /-- Counts of the ring's records behind a launch that waits which the hub has taken: a KILL, and launches that it killed
  (spec/07 R230). -/
  taken    : List Nat
  /-- Fabric launches waiting for a free slot, and the counts of the ring's records that the hub placed (R226). -/
  fabric   : List (BitVec 512)
  placed   : List Nat
  /-- Flush command carried out and not yet completed. -/
  flushing : Option (BitVec 256 × Bool)
  tbctl    : W64
  tbhead   : W64
  tbtail   : W64
  /-- Records of the hub's own for the function were dropped (spec/16 R439). -/
  tbLost   : Bool
  lostd    : W64
  lostc    : W64
  debt     : Nat
  /-- Slices completed in the present turn, the tick at which the present one began, and that at which the last one ended. -/
  slice    : Nat
  sliceFrom : W64
  sliceEnd : W64
  /-- The function whose turn was skipped last after one of this function's (spec/07 R235). -/
  skipped  : Option Nat
  /-- Domains whose collectives were open as a reset of the function ended their jobs (spec/07 R244). -/
  opened   : List Nat
  /-- The slice of the function has expired and its stands are held at their next boundary. -/
  ending   : Bool
  /-- Completion interrupts pending and sent. -/
  irqPend  : Bool
  irqSent  : Nat
  deriving DecidableEq, Repr

/-- A record of the fault queue (spec/01 R51): the 32 bytes, the access that waits, the walk that made it, whether it still stands in
the ring, whether it was voided. -/
structure FaultRec where
  bytes  : BitVec 256
  req    : FarReq
  walk   : Nat
  inRing : Bool
  voided : Bool
  fn     : BitVec 6
  /-- A REPLAY (false) or TERM (true) that waits for the record's stand to resume (spec/07 R238). -/
  later  : Option Bool
  deriving DecidableEq, Repr

/-- A key slot (spec/04 R141): KSLOT, and the eight key words as one string, KEYD0 lowest. -/
structure KeySlot where
  kslot : W64
  words : BitVec 512
  deriving DecidableEq, Repr

/-- A flit in flight (spec/15 R414 to R417): sender, index in its SEND, destination cluster, arrival link, arrival cycle
of the exchange phase, data; `drop` when a guard table refuses it. -/
structure Flit where
  src     : Nat
  idx     : Nat
  cluster : Nat
  link    : BitVec 4
  cycle   : Nat
  drop    : Bool
  data    : W64
  deriving DecidableEq, Repr

/-- A posted atomic of the multi-chip reduction window (spec/04 R156, R157). -/
structure Posted where
  agent  : Nat
  op     : Nat
  size   : Nat
  pa     : Nat
  home   : BitVec 12
  key    : BitVec 6
  value  : W64
  done   : Bool
  deriving DecidableEq, Repr

/-- An access sent to a peer module (spec/01 R41, spec/04 R157): its home, address, size and key; the atomic operation, none
for a store; the operand, and the second one of a CAS. -/
structure Sent where
  home  : BitVec 12
  pa    : Nat
  size  : Nat
  key   : BitVec 6
  op    : Option Nat
  value : W64
  other : W64
  deriving DecidableEq, Repr

/-- A unit that has failed (spec/07 R245, R246): kind, number, and whether it is retired. -/
structure FailedUnit where
  kind    : Nat
  number  : Nat
  retired : Bool
  deriving DecidableEq, Repr

/-- Conditions of the whole module (spec/00 R5 to R8, spec/16 R458). -/
structure Plant where
  inletHot   : Bool
  inletOver  : Bool
  supplyBad  : Bool
  powerOff   : Bool
  ceiling    : Bool
  starting   : Bool
  accepting  : Bool
  /-- The configuration record in flash carries a valid signature; the last cold start verified it; and the failure report in the
  Beypol status area (spec/00 R11). -/
  signed     : Bool
  verified   : Bool
  report     : Bool
  deriving DecidableEq, Repr

/-- A stand's state held in its function's save area (spec/07 R236): with LTOWN of its landing cores, the guard-table entries of its
senders, the die banks that the function holds, by 4 × die + bank, and OWN, TUCTL and the mark of dropped records of the trace units
that it holds, by number (spec/16 R448); `foreign` for a migration image of another module; where it lies in the save area, and its
length. -/
structure Saved where
  fn       : BitVec 6
  jobid    : BitVec 32
  cores    : List (Nat × Core)
  clusters : List (Nat × Cluster)
  ltown    : List (Nat × W64)
  guards   : List (Nat × Nat × Nat)
  banks    : List (Nat × Bank)
  units    : List (Nat × W64 × W64 × Bool)
  mem      : List Host.Cell
  tags     : List (Nat × BitVec 4)
  full     : List Nat
  foreign  : Bool
  off      : Nat
  size     : Nat
  deriving DecidableEq, Repr

/-- A snapshot of a stand (spec/16 R451): the SSN of the work phase that follows it, the tick, and the parts of R236. -/
structure Snapshot where
  ssn   : BitVec 32
  tick  : W64
  image : Saved
  deriving DecidableEq, Repr

/-- A trace record on its way to a buffer (spec/16 R436): its bytes, the unit that made it, the function it is for, and that
function's default polder as the record was made. -/
structure TraceRec where
  bytes : BitVec 256
  unit  : Nat
  fn    : BitVec 6
  pol   : Option (BitVec 12)
  deriving DecidableEq, Repr

/-- The hub die. -/
structure Hub where
  /-- Polder descriptors, sparse by polder: words 0 to 3, word 0 lowest (spec/01 R18). -/
  polders  : List (Nat × BitVec 256)
  faults   : List FaultRec
  /-- Records of walks that wait for room in the ring (R51), in order. -/
  waitRecs : List FaultRec
  seq      : BitVec 16
  keys     : Vector KeySlot 64
  wreg     : Vector W64 64
  hftbase  : W64
  hftCache : List (Nat × Byte)
  part     : Vector W64 32
  funcs    : Vector Func 64
  jobs     : List Job
  /-- The cause table: the hub's tail count is its number of entries, and SEQ its low 16 bits (spec/07 R241). -/
  causeTail : W64
  causeLost : W64
  /-- Cause-table interrupts pending and sent (R242). -/
  causeIrqPend : Bool
  causeIrqSent : Nat
  tlb      : List Tlb
  walks    : List Walk
  units    : List FailedUnit
  /-- Stored error history in external flash (R245): kind and number of each unit entered. -/
  history  : List (Nat × Nat)
  plant    : Plant
  fabric   : Option (BitVec 12)
  posted   : List Posted
  notices  : List (Nat × BitVec 16)
  lvslope  : W64
  /-- Clusters counted against ramp slots: start tick of the slot, and how many (spec/16 R456). -/
  ramp     : List (Nat × Nat)
  estimate : BitVec 32
  floor    : BitVec 32
  /-- Rows in ballast: cluster and row. -/
  ballast  : List (Nat × Nat)
  narrow   : List (Nat × BitVec 2)
  /-- Guard tables of links: (link, cycle, sender) (spec/09 R290). -/
  guards   : List (Nat × Nat × Nat)
  dsel     : W64
  ssel     : W64
  darg     : W64
  derr     : Bool
  hbrk     : Vector W64 4
  snaps    : List Snapshot
  saves    : List Saved
  /-- Polders that the hypervisor has marked resident (spec/07 R236, log entry 94). -/
  resident : List (BitVec 12)
  tuOwn    : Vector W64 4
  tuCtl    : Vector W64 4
  tuLost   : BitVec 4
  /-- Records waiting for the aggregator. -/
  traces   : List TraceRec
  /-- Stores and atomics sent to peer modules (R41). -/
  sent     : List Sent
  /-- Withdraw messages sent to peers: function and domain (spec/07 R244). -/
  withdrawn : List (BitVec 6 × Nat)
  /-- Modules that have left a domain's barrier, one entry each, and domains whose votes of the present phase fail. -/
  gone      : List (BitVec 6 × Nat)
  broken    : List (BitVec 6 × Nat)
  /-- The signed firmware image in flash (spec/07 R247, spec/09 R284, spec/18 R464). -/
  firmware : List Byte
  /-- Host-access errors counted (spec/04 R150). -/
  hostErrs : W64
  /-- Corrected reads of HBM, by pseudo-channel (spec/04 R138). -/
  corrected : List (Nat × Nat)
  /-- The model's own: what the latest read by the host, or by a peer module, was answered (log entry 19). -/
  answer   : W64
  /-- Rounds of the dissemination barrier completed, per function and domain (spec/06 R215). -/
  rounds   : List (BitVec 6 × Nat × Nat)
  deriving DecidableEq, Repr

/-- The module. -/
structure State where
  /-- Cores by agent number; a core not listed is at its reset value. -/
  cores    : List (Nat × Core)
  /-- Clusters by die × 2048 + index. -/
  clusters : List (Nat × Cluster)
  dies     : List (Nat × Die)
  hub      : Hub
  /-- Every byte of memory, by the keys of Machine/Memory.lean: addresses strictly rising, no entry equal to what an
  unlisted address reads as. -/
  mem      : List Host.Cell
  /-- Granule tags that are not 0, by memory key / 32. -/
  tags     : List (Nat × BitVec 4)
  /-- Words whose full/empty bit is full, by memory key / 4, rising. -/
  full     : List Nat
  /-- Words with an uncorrectable error, by memory key / 4; and granules whose tag store failed, by key / 32. -/
  badWords : List Nat
  badTags  : List Nat
  /-- Words with a correctable error, by memory key / 4; and granules with one in their tag store, by key / 32. -/
  softWords : List Nat
  softTags : List Nat
  /-- HBM granules written under a key, by physical address / 32: the key words (spec/04 R143). -/
  keyed    : List (Nat × BitVec 512)
  flits    : List Flit
  /-- Event messages under way: cluster and event (spec/02 R90). -/
  messages : List (Nat × BitVec 5)
  /-- The trace tick (spec/16 R435). -/
  tick     : W64
  /-- The model's own: the agent that moves, the agents to move next, the events to happen next (log entry 1). -/
  cur      : Nat
  sched    : List Nat
  agenda   : List Instr
  /-- The model's own: the index of the next free value (log entry 6). -/
  free     : Nat
  deriving DecidableEq, Repr

/-- Why the machine stops. -/
inductive Fault where
  /-- Raised by step when the module has switched itself off (spec/00 R7): only a cold start brings it back. Safe: the
  hardware executes nothing either. -/
  | poweredOff
  deriving DecidableEq, Repr

/-- Why an instruction has no meaning. -/
inductive Refusal where
  /-- Raised by an arm of exec that the model gives no meaning. Safe: nothing is claimed about the instruction. -/
  | notModelled (mnemonic : String)
  deriving DecidableEq, Repr

/-! ## Reset -/

/-- TSK after reset: LV = 2, every other field 0 (spec/06 R199). -/
def Core.tskReset : W64 := 0x0000000000800000#64

/-- An unbound stream port (spec/12 R359). -/
def Port.reset : Port :=
  { bound := false, out := false, mode := 0, base := 0, count0 := 0, count1 := 0, stride0 := 0, stride1 := 0, done := 0,
    items := [], written := 0, pend := none, faulted := false }

/-- A core after reset. Registers without a reset value in the manual are 0 (log entry 3). -/
def Core.reset : Core :=
  { g := Vector.replicate 8 0, frames := Vector.replicate 6 (Vector.replicate 24 0), p := 0, v := Vector.replicate 16 0,
    q := Vector.replicate 8 0, acc := Vector.replicate 4 (Vector.replicate 128 0), bd := Vector.replicate 8 0, lw := [],
    mc := Vector.replicate 32 0, pc := 0, latch := none, held := none, fcsr := 0, srseed := 0, tsk := Core.tskReset, tstamp := 0,
    ssn := 0, xt := 0, xpc := 0, syncm := 0, vote := 0, wptr := 0x8#64, wsp := 0, dsd := 0, repc := 0, curpol := 0,
    gst := 0, aw0 := 0, aw1 := 0, atp := 0, gcfg := 0x00100000#64, recm := 0, logb := 0, logl := 0, logp := 0, trapc := 0,
    trappc := 0, trapv := 0, tvec := 0, tnan := false, tof := false, repBuf := [], repSusp := false, dom := [],
    budget := [], vsaved := [], tasks := Vector.replicate 64 0, passes := Vector.replicate 64 0, yields := [], setup := [], again := [],
    older := false,
    qfail := Vector.replicate 64 0, act := .idle, visit := false, sleep := .none, awaits := 0, deferred := [], ordered := none,
    ports := Vector.replicate 4 Port.reset, tileq := [], reissue := [], join := none, rev := none, sels := [], syncv := none, pushes := [],
    cecnt := 0, ctr := Vector.replicate 4 0, ctrSel := Vector.replicate 4 0, passHit := false, wctl := Vector.replicate 2 0,
    wbase := Vector.replicate 2 0, l1 := [], farReq := none, walked := none, member := 0, gang := none, took := false, stream := [], ahead := false, begun := false,
    arrived := 0, since := 0, gated := false, freeing := none, unwindTo := none }

/-- A barrier after reset: COUNT 1, phase 0 (spec/02 R85). -/
def Barrier.reset : Barrier := { count := 1, arrived := 0, phase := 0, tokens := Vector.replicate 32 0 }

/-- A free counter bank of n counters (spec/16 R447). -/
def Bank.reset (n : Nat) : Bank := { ctr := List.replicate n 0, sel := List.replicate n 0, own := 0 }

/-- A cluster after reset (spec/02 R69, R72 to R75, R85, R92). -/
def Cluster.reset : Cluster :=
  { bfmt := Vector.replicate 16 0x3F80000000000000#64, bown := Vector.replicate 16 0, gmap := Vector.replicate 16 0,
    wgen := Vector.replicate 16 0, bstat := Vector.replicate 16 0, town := Vector.replicate 32 0,
    queues := Vector.replicate 32 { w0 := 0, head := 0, tail := 0 }, barriers := Vector.replicate 8 Barrier.reset,
    mutexes := Vector.replicate 16 { holder := none, waiters := [] },
    events := Vector.replicate 32 { set := false, sleepers := [] }, copies := [], bank := Bank.reset 8, tuOwn := 0,
    tuCtl := 0, tuLost := false, stage := 0, slot := 0, eject := [], ctlBad := false }

/-- A die after reset: WAYMASK with DONE = 1, TARGET = CWAYS = 8; every MAXW 16 (spec/04 R132, R134). -/
def Die.reset : Die :=
  { waymask := 0x8000000000000808#64, quota := Vector.replicate 64 16, segs := [], ltown := Vector.replicate 64 0,
    lines := [], convert := none, tlb := [], walks := [], banks := Vector.replicate 4 (Bank.reset 16), released := true, served := false,
    tuOwn := 0, tuCtl := 0, tuLost := false }

/-- What the hub keeps for a function after reset: SHARE 1, SLICE 20,000 (spec/07 R232). -/
def Func.reset : Func :=
  { vfctl := 0x000000014E200000#64, vfsave := 0, ltab := 0, launch := ⟨0, false⟩, compl := ⟨0, false⟩,
    flush := ⟨0, false⟩, owed := [], waiting := none, loading := none, again := false, taken := [], fabric := [], placed := [], flushing := none, tbctl := 0, tbhead := 0,
    tbtail := 0, tbLost := false, lostd := 0, lostc := 0, debt := 0, slice := 0, sliceFrom := 0, sliceEnd := 0, skipped := none, opened := [],
    ending := false, irqPend := false, irqSent := 0 }

/-- The hub after reset: SLOPE 100 (spec/16 R455), no polder valid (spec/01 R18), an empty fault queue. -/
def Hub.reset : Hub :=
  { polders := [], faults := [], waitRecs := [], seq := 0, keys := Vector.replicate 64 { kslot := 0, words := 0 },
    wreg := Vector.replicate 64 0, hftbase := 0, hftCache := [], part := Vector.replicate 32 0,
    funcs := Vector.replicate 64 Func.reset, jobs := [], causeTail := 0, causeLost := 0, causeIrqPend := false,
    causeIrqSent := 0, tlb := [], walks := [], units := [], history := [],
    plant := { inletHot := false, inletOver := false, supplyBad := false, powerOff := false, ceiling := false,
               starting := false, accepting := true, signed := true, verified := true, report := false },
    fabric := none, posted := [], notices := [], lvslope := 100, ramp := [], estimate := 0, floor := 0, ballast := [],
    narrow := [], guards := [], dsel := 0, ssel := 0, darg := 0, derr := false, hbrk := Vector.replicate 4 0, snaps := [],
    saves := [], resident := [], tuOwn := Vector.replicate 4 0, tuCtl := Vector.replicate 4 0, tuLost := 0, traces := [], sent := [],
    withdrawn := [], gone := [], broken := [], firmware := [], hostErrs := 0, corrected := [], answer := 0, rounds := [] }

/-- The agent number of hub core 0 (spec/06 R195). -/
def hubCore0 : Nat := 0x200000

/-- The module right after reset: hub core 0 runs at device level in polder 0x000 from the first byte of its TCM, with
every register of R464 zero (spec/18 R464, spec/06 R199); every other core is idle; no memory is written, no polder
valid. -/
def State.reset : State :=
  { cores := [(hubCore0, { Core.reset with act := .task })], clusters := [], dies := [], hub := Hub.reset, mem := [],
    tags := [], full := [], badWords := [], badTags := [], softWords := [], softTags := [], keyed := [], flits := [], messages := [],
    tick := 0, cur := hubCore0, sched := [], agenda := [], free := 0 }

end Sys2Proof.Machine
end

