-- ==== Sys2Proof/Machine/Bits.lean ====
section
/-! DEFINITION. Bit fields, vectors by number, and sparse maps: the helpers that every other file uses. -/

namespace Sys2Proof.Machine

/-! ## Bit fields -/

/-- The n bits of w from bit lo up, as a number. -/
def field {k : Nat} (w : BitVec k) (lo n : Nat) : Nat := (w.toNat >>> lo) % 2 ^ n

/-- w with its n bits from lo up replaced by the low n bits of x. -/
def setField {k : Nat} (w : BitVec k) (lo n x : Nat) : BitVec k :=
  BitVec.ofNat k (w.toNat - (field w lo n) <<< lo + (x % 2 ^ n) <<< lo)

/-- Bit i of w. -/
def bit {k : Nat} (w : BitVec k) (i : Nat) : Bool := w.getLsbD i

/-- 1 for true, 0 for false. -/
def b2n (b : Bool) : Nat := if b then 1 else 0

/-- w with bit i set to b. -/
def setBit {k : Nat} (w : BitVec k) (i : Nat) (b : Bool) : BitVec k := setField w i 1 (b2n b)

/-- A number as a 64-bit word. -/
def w64 (n : Nat) : W64 := BitVec.ofNat 64 n

/-- A number as a 32-bit word. -/
def w32 (n : Nat) : W32 := BitVec.ofNat 32 n

/-- The low n bits of x, sign-extended to 64 bits. -/
def sext (n : Nat) (x : Nat) : W64 :=
  let y := x % 2 ^ n
  if 2 ^ (n - 1) ≤ y then BitVec.ofNat 64 (y + (2 ^ 64 - 2 ^ n)) else BitVec.ofNat 64 y

/-- The low n bits of x read as a two's complement number. -/
def toSigned (n : Nat) (x : Nat) : Int :=
  let y := x % 2 ^ n
  if 2 ^ (n - 1) ≤ y then (y : Int) - 2 ^ n else y

/-- An integer reduced to n bits. -/
def ofInt (n : Nat) (x : Int) : Nat := (x % (2 ^ n : Nat)).toNat

/-- x limited to lo … hi. -/
def clampInt (x lo hi : Int) : Int := if x < lo then lo else if hi < x then hi else x

/-- Divide rounding up. -/
def ceilDiv (a b : Nat) : Nat := (a + b - 1) / b

/-! ## Vectors by number -/

/-- Element i, or d beyond the end. -/
def vget {α : Type} {n : Nat} (v : Vector α n) (i : Nat) (d : α) : α := v[i]?.getD d

/-- Element i replaced; beyond the end nothing changes. -/
def vset {α : Type} {n : Nat} (v : Vector α n) (i : Nat) (x : α) : Vector α n := v.setIfInBounds i x

/-! ## Sparse maps -/

/-- The value listed under key k. -/
def sget {α : Type} : List (Nat × α) → Nat → Option α
  | [], _ => none
  | (j, x) :: t, k => if j = k then some x else sget t k

/-- k mapped to x, at its place in rising order of keys. -/
def sset {α : Type} : List (Nat × α) → Nat → α → List (Nat × α)
  | [], k, x => [(k, x)]
  | (j, y) :: t, k, x => if k < j then (k, x) :: (j, y) :: t else if k = j then (k, x) :: t else (j, y) :: sset t k x

/-- k no longer listed. -/
def serase {α : Type} (l : List (Nat × α)) (k : Nat) : List (Nat × α) := l.filter fun e => e.1 ≠ k

/-- The keys are strictly rising. -/
def rising {α : Type} : List (Nat × α) → Bool
  | [] => true
  | [_] => true
  | a :: b :: t => a.1 < b.1 && rising (b :: t)

/-- Membership in a rising list of numbers. -/
def nmem (l : List Nat) (k : Nat) : Bool := l.contains k

/-- k put at its place in a rising list of numbers. -/
def nadd : List Nat → Nat → List Nat
  | [], k => [k]
  | j :: t, k => if k < j then k :: j :: t else if k = j then j :: t else j :: nadd t k

/-- k taken out of a list of numbers. -/
def ndel (l : List Nat) (k : Nat) : List Nat := l.filter fun j => j ≠ k

/-- The numbers of a list are strictly rising. -/
def nrising : List Nat → Bool
  | [] => true
  | [_] => true
  | a :: b :: t => a < b && nrising (b :: t)

/-- The first number from 0 to n − 1 that satisfies p. -/
def firstBelow (n : Nat) (p : Nat → Bool) : Option Nat := (List.range n).find? p

end Sys2Proof.Machine
end

