-- ==== Sys2Proof/Machine/Memory.lean ====
section
/-! DEFINITION. The memories of the module as one list of bytes, the granule tags, the full/empty bits, and the keys by
which they are found (spec/01 R14, R31, R40; spec/02 R53, R60, R77; spec/04 R128, R137, R150).

A memory key is a number: the physical address for HBM and the host window (R40), and above them one range for every
other memory. A granule's key is the byte key / 32, a word's key the byte key / 4. -/

namespace Sys2Proof.Machine

/-! ## Keys -/

/-- First key of the TCM of an agent: 16 KiB each (R53). -/
def tcmBase (agent : Nat) : Nat := 2 ^ 44 + agent * 0x4000

/-- First key of the scratch of a cluster: 512 KiB each (R60). -/
def scratchBase (cluster : Nat) : Nat := 2 ^ 45 + cluster * 0x80000

/-- First key of the shelf of a die: 256 MiB of berm each (R128). -/
def shelfBase (die : Nat) : Nat := 2 ^ 46 + die * 0x10000000

/-- The first physical address beyond HBM (R40). -/
def hbmEnd : Nat := 0x18000000000

/-- First physical address of the host window (R40). -/
def windowBase : Nat := 0x1C000000000

/-! ## Bytes -/

/-- What a byte of memory that nothing has written reads as (log entry 2). -/
def unwritten : Byte := 0

/-- The byte under a key. -/
def State.byte (s : State) (k : Nat) : Byte := (sget s.mem k).getD unwritten

/-- One byte written, in canonical form. -/
def memSet (m : List Host.Cell) (k : Nat) (b : Byte) : List Host.Cell := if b = unwritten then serase m k else sset m k b

/-- The canonical form of a memory: addresses strictly rising, no entry equal to what an unlisted address reads as. -/
def Memory.wf (m : List Host.Cell) : Bool := rising m && m.all fun c => c.2 ≠ unwritten

/-- One byte written. -/
def State.setByte (s : State) (k : Nat) (b : Byte) : State := { s with mem := memSet s.mem k b }

/-- n bytes from a key up, the byte at the lowest address in bits [7:0] (little-endian). -/
def State.read (s : State) (k : Nat) : Nat → Nat
  | 0 => 0
  | n + 1 => (s.byte k).toNat + 256 * s.read (k + 1) n

/-- The low n bytes of x written from a key up. -/
def State.write (s : State) (k : Nat) : Nat → Nat → State
  | 0, _ => s
  | n + 1, x => (s.setByte k (BitVec.ofNat 8 x)).write (k + 1) n (x / 256)

/-- The bytes of x that mask marks, from a key up. -/
def State.writeMasked (s : State) (k : Nat) : Nat → Nat → Nat → State
  | 0, _, _ => s
  | n + 1, x, m => (if m % 2 = 1 then s.setByte k (BitVec.ofNat 8 x) else s).writeMasked (k + 1) n (x / 256) (m / 2)

/-- n zero bytes written from a key up. -/
def State.zero (s : State) (k n : Nat) : State :=
  { s with mem := s.mem.filter fun c => !(k ≤ c.1 && c.1 < k + n) }

/-! ## Granule tags -/

/-- The tag of the granule with key g. -/
def State.tag (s : State) (g : Nat) : BitVec 4 := (sget s.tags g).getD 0

/-- The tag of a granule set; tag 0 is not listed (R33). -/
def State.setTag (s : State) (g : Nat) (t : BitVec 4) : State :=
  { s with tags := if t = 0 then serase s.tags g else sset s.tags g t }

/-- n granule tags from g up set to t. -/
def State.setTags (s : State) (g : Nat) : Nat → BitVec 4 → State
  | 0, _ => s
  | n + 1, t => (s.setTag g t).setTags (g + 1) n t

/-- n granule tags from g up set to 0. -/
def State.clearTags (s : State) (g n : Nat) : State :=
  { s with tags := s.tags.filter fun e => !(g ≤ e.1 && e.1 < g + n) }

/-! ## Full/empty bits -/

/-- The full/empty bit of the word with key w: true for full (R77). -/
def State.isFull (s : State) (w : Nat) : Bool := nmem s.full w

/-- A word set full. -/
def State.setFull (s : State) (w : Nat) : State := { s with full := nadd s.full w }

/-- A word set empty. -/
def State.setEmpty (s : State) (w : Nat) : State := { s with full := ndel s.full w }

/-- n words from w up set full. -/
def State.fillWords (s : State) (w : Nat) : Nat → State
  | 0 => s
  | n + 1 => (s.setFull w).fillWords (w + 1) n

/-- n words from w up set empty. -/
def State.emptyWords (s : State) (w n : Nat) : State :=
  { s with full := s.full.filter fun j => !(w ≤ j && j < w + n) }

/-- Every word of n bytes from key k up that has at least one of the bytes, set full (R78). -/
def State.fillRange (s : State) (k n : Nat) : State :=
  if n = 0 then s else s.fillWords (k / 4) ((k + n - 1) / 4 - k / 4 + 1)

/-! ## Errors (spec/02 R95 to R99) -/

/-- The bytes under one code word: a word of TCM or scratch (R95), a granule of any other memory (spec/04 R138, R140). -/
def eccUnit (k : Nat) : Nat := if 2 ^ 44 ≤ k && k < 2 ^ 46 then 4 else 32

/-- The first byte of the code word that holds word w. -/
def eccStart (w : Nat) : Nat := 4 * w / eccUnit (4 * w) * eccUnit (4 * w)

/-- A write of the bytes that mask marks, of n from key k up, replaces the whole code word of word w. -/
def replaces (k n mask w : Nat) : Bool :=
  k ≤ eccStart w && eccStart w + eccUnit (4 * w) ≤ k + n
    && mask / 2 ^ (eccStart w - k) % 2 ^ eccUnit (4 * w) == 2 ^ eccUnit (4 * w) - 1

/-- A word or granule that an access to the bytes that mask marks, of n from key k up, cannot pass: the key of the first
word in error, and whether it is the tag store that failed. A write passes the words that it replaces (R98). -/
def State.badFor (s : State) (k n mask : Nat) (reads : Bool) : Option (Nat × Bool) :=
  match (s.badTags.find? fun g => k / 32 ≤ g && g * 32 < k + n) with
  | some g => some (g * 32, true)
  | none =>
    (s.badWords.find? fun w => eccStart w < k + n && k < eccStart w + eccUnit (4 * w) && (reads || !replaces k n mask w)).map
      fun w => (w * 4, false)

/-- The first word or granule in error that a read of n bytes from key k up meets. -/
def State.badAt (s : State) (k n : Nat) : Option (Nat × Bool) := s.badFor k n 0 true

/-- Every word and tag of the n bytes from key k up holds a correct code again. -/
def State.heal (s : State) (k n : Nat) : State :=
  { s with badWords := s.badWords.filter fun w => !(k ≤ 4 * w && 4 * w < k + n)
           badTags := s.badTags.filter fun g => !(k ≤ 32 * g && 32 * g < k + n)
           softWords := s.softWords.filter fun w => !(k ≤ 4 * w && 4 * w < k + n)
           softTags := s.softTags.filter fun g => !(k ≤ 32 * g && 32 * g < k + n) }

/-- n bytes from key k up zeroed, their tags 0 and their words empty, each written with a correct code: the scrub of R22. -/
def State.scrub (s : State) (k n : Nat) : State :=
  (((s.zero k n).clearTags (k / 32) (n / 32)).emptyWords (k / 4) (n / 4)).heal k n

/-- Words that a write replaces no longer hold an error (R98). -/
def State.cleanWords (s : State) (k n mask : Nat) : State :=
  { s with badWords := s.badWords.filter fun w => !replaces k n mask w
           softWords := s.softWords.filter fun w => !replaces k n mask w }

/-- The correctable errors that a read of n bytes from key k up finds, in words and in granule tags (R95, R96), each by the key of
its word, or by the key of its granule plus 1. -/
def State.softErrors (s : State) (k n : Nat) : List Nat :=
  ((s.softWords.filter fun w => k / 4 ≤ w && w * 4 < k + n).map (4 * ·))
    ++ (s.softTags.filter fun g => k / 32 ≤ g && g * 32 < k + n).map (32 * · + 1)

end Sys2Proof.Machine
end

