-- ==== Sys2Proof/Machine/Access.lean ====
section
/-! DEFINITION. One home for every register: the cores, clusters, dies and functions of the module by number, the scalar
and predicate registers, the fields of the special registers (spec/06 R195 to R200, spec/10 R292, R309), and the polder
descriptors (spec/01 R18). -/

namespace Sys2Proof.Machine

/-! ## Agents (spec/06 R194, R195) -/

/-- The class of an agent: 0 ordinary, 1 landing, 2 hub. -/
def classOf (a : Nat) : Nat := a / 0x100000

/-- An ordinary core. -/
def isOrdinary (a : Nat) : Bool := classOf a == 0

/-- A landing core. -/
def isLanding (a : Nat) : Bool := classOf a == 1

/-- A hub core. -/
def isHub (a : Nat) : Bool := classOf a == 2

/-- The cluster of an ordinary core, die × 2048 + index. -/
def clusterOf (a : Nat) : Nat := a / 32

/-- The number of an ordinary core within its cluster. -/
def coreIn (a : Nat) : Nat := a % 32

/-- The agent of core k of a cluster. -/
def agentIn (c k : Nat) : Nat := c * 32 + k

/-- The agent of a landing core (number die × 64 + channel). -/
def landingAgent (l : Nat) : Nat := 0x100000 + l

/-- The die of an ordinary or landing core; 16 for a hub core. -/
def dieOf (a : Nat) : Nat :=
  if isOrdinary a then a / 0x10000 else if isLanding a then (a % 0x100000) / 64 else 16

/-- The lowest column of the aligned group of w cores in which a core of a row stands, as an agent. -/
def groupBase (a w : Nat) : Nat := a - (a % w)

/-- Coordinates of a cluster (R194). -/
def clusterX (c : Nat) : Nat := (c / 2048 % 4) * 40 + c % 2048 % 40

/-- Coordinates of a cluster (R194). -/
def clusterY (c : Nat) : Nat := (c / 2048 / 4) * 32 + c % 2048 / 40

/-- The cluster at coordinates (x, y). -/
def clusterAt (x y : Nat) : Nat := (y / 32 * 4 + x / 40) * 2048 + (y % 32 * 40 + x % 40)

/-! ## The maps -/

/-- The core with an agent number. -/
def State.core (s : State) (a : Nat) : Core := (sget s.cores a).getD Core.reset

/-- A core replaced. -/
def State.setCore (s : State) (a : Nat) (c : Core) : State := { s with cores := sset s.cores a c }

/-- A core changed by f. -/
def State.modCore (s : State) (a : Nat) (f : Core → Core) : State := s.setCore a (f (s.core a))

/-- The core that moves. -/
def State.me (s : State) : Core := s.core s.cur

/-- The core that moves, replaced. -/
def State.setMe (s : State) (c : Core) : State := s.setCore s.cur c

/-- The core that moves, changed by f. -/
def State.modMe (s : State) (f : Core → Core) : State := s.setMe (f s.me)

/-- A cluster. -/
def State.cluster (s : State) (c : Nat) : Cluster := (sget s.clusters c).getD Cluster.reset

/-- A cluster replaced. -/
def State.setCluster (s : State) (c : Nat) (x : Cluster) : State := { s with clusters := sset s.clusters c x }

/-- A cluster changed by f. -/
def State.modCluster (s : State) (c : Nat) (f : Cluster → Cluster) : State := s.setCluster c (f (s.cluster c))

/-- A die. -/
def State.die (s : State) (d : Nat) : Die := (sget s.dies d).getD Die.reset

/-- A die replaced. -/
def State.setDie (s : State) (d : Nat) (x : Die) : State := { s with dies := sset s.dies d x }

/-- A die changed by f. -/
def State.modDie (s : State) (d : Nat) (f : Die → Die) : State := s.setDie d (f (s.die d))

/-- The hub changed by f. -/
def State.modHub (s : State) (f : Hub → Hub) : State := { s with hub := f s.hub }

/-- What the hub keeps for a function. -/
def State.func (s : State) (f : Nat) : Func := vget s.hub.funcs f Func.reset

/-- What the hub keeps for a function, changed by g. -/
def State.modFunc (s : State) (f : Nat) (g : Func → Func) : State :=
  s.modHub fun h => { h with funcs := vset h.funcs f (g (vget h.funcs f Func.reset)) }

/-! ## Scalar and predicate registers (spec/06 R197, spec/08 R254, spec/10 R309) -/

/-- A frame of zeros. -/
def zeroFrame : Vector W64 24 := Vector.replicate 24 0

/-- The physical frame of the current call depth. -/
def Core.cwp (c : Core) : Nat := field c.wptr 0 3 % 6

/-- s[r]: s0 reads zero, s1 to s7 are global, s8 to s31 lie in the current frame. -/
def Core.s (c : Core) (r : Nat) : W64 :=
  if r = 0 then 0
  else if r < 8 then vget c.g r 0
  else vget (vget c.frames c.cwp zeroFrame) (r - 8) 0

/-- s[r] written; a write to s0 is discarded. -/
def Core.setS (c : Core) (r : Nat) (x : W64) : Core :=
  if r = 0 then c
  else if r < 8 then { c with g := vset c.g r x }
  else { c with frames := vset c.frames c.cwp (vset (vget c.frames c.cwp zeroFrame) (r - 8) x) }

/-- p[i]: p0 reads true. -/
def Core.pr (c : Core) (i : Nat) : Bool := i = 0 || bit c.p i

/-- p[i] written; a write to p0 is discarded. -/
def Core.setP (c : Core) (i : Nat) (b : Bool) : Core := if i = 0 then c else { c with p := setBit c.p i b }

/-- q[i]. -/
def Core.qr (c : Core) (i : Nat) : W64 := vget c.q i 0

/-- q[i] written. -/
def Core.setQ (c : Core) (i : Nat) (x : W64) : Core := { c with q := vset c.q i x }

/-! ## Fields of the special registers -/

/-- TSK.LV: 0 task, 1 runtime, 2 device (R199). -/
def Core.level (c : Core) : Nat := field c.tsk 22 2

/-- TSK.EX: the exchange routine runs. -/
def Core.ex (c : Core) : Bool := bit c.tsk 21

/-- TSK.WT: the running ordered task is write-through. -/
def Core.wt (c : Core) : Bool := bit c.tsk 20

/-- TSK.G: a gang task. -/
def Core.isGang (c : Core) : Bool := bit c.tsk 13

/-- TSK.O: an ordered task. -/
def Core.isOrd (c : Core) : Bool := bit c.tsk 12

/-- TSK.ID: the task-table index. -/
def Core.taskId (c : Core) : Nat := field c.tsk 0 6

/-- An ordered task that is not write-through (R172). -/
def Core.buffered (c : Core) : Bool := c.isOrd && !c.wt && c.ordered.isSome

/-- CURPOL.POL (spec/01 R20). -/
def Core.pol (c : Core) : BitVec 12 := c.curpol.extractLsb' 0 12

/-- CURPOL.VF. -/
def Core.vf (c : Core) : BitVec 6 := c.curpol.extractLsb' 12 6

/-- CURPOL.DEPTH. -/
def Core.depth (c : Core) : Nat := field c.curpol 18 6

/-- WPTR.RES and WPTR.FLOOR (spec/10 R292). -/
def Core.res (c : Core) : Nat := field c.wptr 3 4

/-- WPTR.FLOOR. -/
def Core.floor (c : Core) : Nat := field c.wptr 16 16

/-- PTR, BASE and LIMIT of WSP or DSD (spec/02 R54). -/
def areaPtr (w : W64) : Nat := field w 0 16

/-- BASE of WSP or DSD. -/
def areaBase (w : W64) : Nat := field w 16 16

/-- LIMIT of WSP or DSD. -/
def areaLimit (w : W64) : Nat := field w 32 16

/-- WSP or DSD with PTR replaced. -/
def setPtr (w : W64) (n : Nat) : W64 := setField w 0 16 n

/-- The width of the tile group that GCFG.TW names (spec/13 R364, R366). -/
def Core.tileWidth (c : Core) : Nat := if field c.gcfg 32 2 = 0 then 8 else if field c.gcfg 32 2 = 1 then 4 else 2

/-- The windows that the accesses of a core's instruction consult: those of the top domain-stack entry; none at depth 0
(R25). -/
def Core.windows (c : Core) : Windows :=
  match c.dom with
  | e :: _ => if c.depth = 0 then ⟨0, 0⟩ else ⟨e.aw0, e.aw1⟩
  | [] => ⟨0, 0⟩

/-- For whom the core's instruction accesses memory. -/
def Core.ctx (c : Core) : Ctx := { pol := c.pol, wins := c.windows, depth := c.depth }

/-! ## Polder descriptors (R18) -/

/-- The descriptor of a polder. -/
def State.desc (s : State) (p : BitVec 12) : BitVec 256 := (sget s.hub.polders p.toNat).getD 0

/-- V of a descriptor. -/
def descV (d : BitVec 256) : Bool := bit d 63

/-- DEAD of a descriptor. -/
def descDead (d : BitVec 256) : Bool := bit d 62

/-- VF of a descriptor. -/
def descVf (d : BitVec 256) : Nat := field d 44 6

/-- GEN of a descriptor. -/
def descGen (d : BitVec 256) : Nat := field d 36 8

/-- ROOT of a descriptor. -/
def descRoot (d : BitVec 256) : Nat := field d 0 25

/-- TVEC of a descriptor. -/
def descTvec (d : BitVec 256) : Nat := field d 96 32

/-- SLFRM of a descriptor. -/
def descSlfrm (d : BitVec 256) : Nat := field d 128 25

/-- SLCNT of a descriptor. -/
def descSlcnt (d : BitVec 256) : Nat := field d 153 13

/-- NQVA of a descriptor. -/
def descNqva (d : BitVec 256) : Nat := field d 192 48

/-- NQLEN of a descriptor. -/
def descNqlen (d : BitVec 256) : Nat := field d 240 16

/-- The value of CURPOL for a polder at a depth (R20). -/
def State.curpolOf (s : State) (p : BitVec 12) (depth : Nat) : W64 :=
  w64 (p.toNat + descVf (s.desc p) * 2 ^ 12 + depth % 64 * 2 ^ 18 + descGen (s.desc p) * 2 ^ 24)

/-- CURPOL changed to a polder at a depth, and TVEC loaded from its descriptor (spec/06 R219). -/
def State.enterPolder (s : State) (a : Nat) (p : BitVec 12) (depth : Nat) : State :=
  s.modCore a fun c => { c with curpol := s.curpolOf p depth, tvec := w64 (descTvec (s.desc p)) }

/-! ## Ownership (spec/01 R21, spec/02 R72, R73, spec/07 R233) -/

/-- The owner that an entry with V in bit 63 and POL in bits [11:0] names. -/
def ownerOf (w : W64) : Option (BitVec 12) := if bit w 63 then some (w.extractLsb' 0 12) else none

/-- The owner of a TCM half that a TOWN or LTOWN word names. -/
def halfOwner (w : W64) (upper : Bool) : Option (BitVec 12) :=
  if upper then (if bit w 63 then some (w.extractLsb' 32 12) else none)
  else if bit w 31 then some (w.extractLsb' 0 12) else none

/-- The owner of a TCM half of a core: TOWN, LTOWN, or polder 0x000 for a hub core. -/
def State.tcmOwner (s : State) (a : Nat) (upper : Bool) : Option (BitVec 12) :=
  if isOrdinary a then halfOwner (vget (s.cluster (clusterOf a)).town (coreIn a) 0) upper
  else if isLanding a then halfOwner (vget (s.die (dieOf a)).ltown (a % 64) 0) upper
  else some 0

/-- The owner of a bay. -/
def State.bayOwner (s : State) (c b : Nat) : Option (BitVec 12) := ownerOf (vget (s.cluster c).bown b 0)

/-- The owner of a shelf segment. -/
def State.segOwner (s : State) (d k : Nat) : Option (BitVec 12) := ownerOf ((sget (s.die d).segs k).getD 0)

/-- BFMT of a bay. -/
def State.bfmt (s : State) (c b : Nat) : W64 := vget (s.cluster c).bfmt b 0

/-- FORMAT of a bay (R69). -/
def State.bayFormat (s : State) (c b : Nat) : Nat := field (s.bfmt c b) 0 4

/-- n write cycles of a bay counted in WGEN (R75): bits [31:0] wrap, bits [63:32] are zero. -/
def State.bumpWgen (s : State) (c b n : Nat) : State :=
  s.modCluster c fun k => { k with wgen := vset k.wgen b (w64 ((field (vget k.wgen b 0) 0 32 + n) % 2 ^ 32)) }

end Sys2Proof.Machine
end

