-- ==== Sys2Proof/Machine/Aes.lean ====
section
/-! DEFINITION. AES-XTS-256 on a granule of 32 bytes, as the memory port of an HBM stack applies it (spec/04 R143). The spec
names the cipher; its steps are those of FIPS 197 and of IEEE 1619, and the order of the key bytes within the key words is the
model's (log entry 7). Bytes stand in numbers with the first byte lowest. -/

namespace Sys2Proof.Machine

/-! ## AES-256 -/

/-- Byte i of a number. -/
def byteAt (x i : Nat) : Nat := (x >>> (8 * i)) % 256

/-- The number whose 16 bytes a function gives. -/
def ofBytes16 (f : Nat → Nat) : Nat := (List.range 16).foldr (fun i n => f i % 256 + 256 * n) 0

/-- The substitution box, 32 entries to a number. -/
def aesSboxRows : List Nat :=
  [0xc072a49cafa2d4adf04759fa7dc982ca76abd7fe2b670130c56f6bf27b777c63,
   0x75b227ebe28012079a059618c323c7041531d871f1e5a534ccf73f362693fdb7,
   0xcf584c4a39becb6a5bb1fc20ed00d153842fe329b3d63b52a05a6e1b1a2c8309,
   0xd2f3ff1021dab6bcf5389d928f40a351a89f3c507f02f94585334d43fbaaefd0,
   0xdb0b5ede14b8ee4688902a22dc4f816073195d643d7ea7c41744975fec130ccd,
   0x08ae7a65eaf4566ca94ed58d6d37c8e779e4959162acd3c25c2406490a3a32e0,
   0x9e1dc186b95735610ef6034866b53e708a8bbd4b1f74dde8c6b4a61c2e2578ba,
   0x16bb54b00f2d99416842e6bf0d89a18cdf2855cee9871e9b948ed9691198f8e1]

/-- The inverse of the substitution box, 32 entries to a number. -/
def aesInvSboxRows : List Nat :=
  [0xcbe9dec444438e3487ff2f9b8239e37cfbd7f3819ea340bf38a53630d56a0952,
   0x25d18b6d49a25b76b224d92866a12e084ec3fa420b954cee3d23c2a632947b54,
   0x849d8da75746155edab9edfd5048706c92b6655dcc5ca4d41698688664f6f872,
   0x6b8a130103bdafc1020f3fca8f1e2cd00645b3b80558e4f70ad3bc8c00abd890,
   0x6edf751ce837f9e28535ade72274ac9673e6b4f0cecff297eadc674f4111913a,
   0xf45acd78fec0db9a2079d2c64b3e56fc1bbe18aa0e62b76f89c5291d711af147,
   0xef9cc9939f7ae52d0d4ab519a97f51605fec8027591012b131c7078833a8dd1f,
   0x7d0c2155631469e126d677ba7e042b17619953833cbbebc8b0f52aae4d3be0a0]

/-- An entry of a substitution box. -/
def aesSub (rows : List Nat) (x : Nat) : Nat := byteAt (rows.getD (x / 32) 0) (x % 32)

/-- A byte times x in the field of AES. -/
def aesDouble (a : Nat) : Nat := if a < 128 then 2 * a else (2 * a) ^^^ 0x11B

/-- The product of two bytes in the field of AES; n bits of b are taken. -/
def aesMul (a b : Nat) : Nat → Nat
  | 0 => 0
  | n + 1 => (if b % 2 = 1 then a else 0) ^^^ aesMul (aesDouble a) (b / 2) n

/-- SubBytes, or its inverse by the other box. -/
def aesBytes (rows : List Nat) (x : Nat) : Nat := ofBytes16 fun i => aesSub rows (byteAt x i)

/-- ShiftRows by `n` of 4 places for each row number: 1 for encryption, 3 for its inverse. -/
def aesShift (n x : Nat) : Nat := ofBytes16 fun i => byteAt x (i % 4 + 4 * ((i / 4 + n * (i % 4)) % 4))

/-- MixColumns with the coefficients of its first row; those of the inverse undo it. -/
def aesMix (co : List Nat) (x : Nat) : Nat :=
  ofBytes16 fun i => (List.range 4).foldl (fun n j => n ^^^ aesMul (byteAt x (4 * (i / 4) + j)) (co.getD ((j + 4 - i % 4) % 4) 0) 4) 0

/-- A word of the key schedule with every byte substituted. -/
def aesSubWord (w : Nat) : Nat := (List.range 4).foldr (fun i n => aesSub aesSboxRows (byteAt w i) + 256 * n) 0

/-- The word after those of a key schedule, newest first, that has number i. -/
def aesNextWord (i : Nat) (l : List Nat) : Nat :=
  let t := l.headD 0
  let t :=
    if i % 8 = 0 then aesSubWord (t / 256 + t % 256 * 2 ^ 24) ^^^ 2 ^ (i / 8 - 1)
    else if i % 8 = 4 then aesSubWord t
    else t
  l.getD 7 0 ^^^ t

/-- n more words of a key schedule, newest first, from word i on. -/
def aesExpand (i : Nat) (l : List Nat) : Nat → List Nat
  | 0 => l
  | n + 1 => aesExpand (i + 1) (aesNextWord i l :: l) n

/-- The 15 round keys of a 256-bit key, in order. -/
def aesKeys (key : Nat) : List Nat :=
  let w := (aesExpand 8 ((List.range 8).map fun i => (key >>> (32 * i)) % 2 ^ 32).reverse 52).reverse
  (List.range 15).map fun r => (List.range 4).foldr (fun i n => w.getD (4 * r + i) 0 + 2 ^ 32 * n) 0

/-- The rounds of encryption under the round keys that are left. -/
def aesRounds : List Nat → Nat → Nat
  | [], x => x
  | [k], x => aesShift 1 (aesBytes aesSboxRows x) ^^^ k
  | k :: t, x => aesRounds t (aesMix [2, 3, 1, 1] (aesShift 1 (aesBytes aesSboxRows x)) ^^^ k)

/-- A block of 16 bytes encrypted under round keys. -/
def aesEncrypt (ks : List Nat) (x : Nat) : Nat := aesRounds ks.tail (x ^^^ ks.headD 0)

/-- The rounds of decryption under the round keys that are left, last first. -/
def aesUnrounds : List Nat → Nat → Nat
  | [], x => x
  | [k], x => aesBytes aesInvSboxRows (aesShift 3 x) ^^^ k
  | k :: t, x => aesUnrounds t (aesMix [14, 11, 13, 9] (aesBytes aesInvSboxRows (aesShift 3 x) ^^^ k))

/-- A block of 16 bytes decrypted under round keys. -/
def aesDecrypt (ks : List Nat) (x : Nat) : Nat := aesUnrounds ks.reverse.tail (x ^^^ ks.reverse.headD 0)

/-! ## XTS on a granule -/

/-- The tweak of the next block. -/
def xtsNext (t : Nat) : Nat := if t < 2 ^ 127 then 2 * t else (2 * t % 2 ^ 128) ^^^ 0x87

/-- The 32 bytes of a granule with number i encrypted, or decrypted, under the key words of a slot: the data key in the low
half, the tweak key in the high one (R141). -/
def xtsGranule (enc : Bool) (key : BitVec 512) (i : Nat) (x : Nat) : Nat :=
  let ks := aesKeys (field key 0 256)
  let t := aesEncrypt (aesKeys (field key 256 256)) i
  let one (t y : Nat) : Nat := (if enc then aesEncrypt ks (y ^^^ t) else aesDecrypt ks (y ^^^ t)) ^^^ t
  one t (x % 2 ^ 128) + 2 ^ 128 * one (xtsNext t) (x / 2 ^ 128 % 2 ^ 128)

/-- What HBM holds for the plaintext of a granule written under a key; plaintext itself under none. -/
def sealGranule (key : Option (BitVec 512)) (i x : Nat) : Nat :=
  match key with
  | some k => xtsGranule true k i x
  | none => x

/-- What the memory port returns for the bytes that HBM holds, read under a key. -/
def openGranule (key : Option (BitVec 512)) (i x : Nat) : Nat :=
  match key with
  | some k => xtsGranule false k i x
  | none => x

end Sys2Proof.Machine
end

