-- ==== Sys2Proof/Machine/Phys.lean ====
section
/-! DEFINITION. Physical memory: HBM at the memory port with its keys (spec/04 R137, R141 to R143), the berm's cache in
front of it (R126 to R131), and the host window (R150). -/

namespace Sys2Proof.Machine

/-! ## HBM under keys (R143) -/

/-- The die whose stack holds a physical address (R137). -/
def stackOf (pa : Nat) : Nat := pa / 0x1800000000

/-- The pseudo-channel of an address, die × 64 + channel (R137). -/
def channelOf (pa : Nat) : Nat :=
  let o := pa % 0x1800000000
  stackOf pa * 64 + ((o >>> 12) % 64 ^^^ (o >>> 18) % 64)

/-- The key words of a slot; none for slot 0, which means plaintext (R141). -/
def State.keyWords (s : State) (k : Nat) : Option (BitVec 512) :=
  if k = 0 then none else some (vget s.hub.keys k { kslot := 0, words := 0 }).words

/-- The key words under which a granule was written. -/
def State.writtenKey (s : State) (g : Nat) : Option (BitVec 512) := (s.keyed.find? fun e => e.1 == g).map (·.2)

/-- Byte k of granule g as the memory port returns it under a key: the plaintext when the keys agree; otherwise what the
stored ciphertext decrypts to under the other key (R143). -/
def State.granuleByte (s : State) (g k : Nat) (key : Option (BitVec 512)) : Byte :=
  if s.writtenKey g = key then s.byte (g * 32 + k)
  else BitVec.ofNat 8 (byteAt (openGranule key g (sealGranule (s.writtenKey g) g (s.read (g * 32) 32))) k)

/-- n bytes of HBM from a physical address up, read under key slot k. -/
def State.hbmRead (s : State) (pa : Nat) (k : Nat) : Nat → Nat
  | 0 => 0
  | n + 1 => (s.granuleByte (pa / 32) (pa % 32) (s.keyWords k)).toNat + 256 * s.hbmRead (pa + 1) k n

/-- The granule's bytes rewritten as they read under a key, and marked with it. -/
def State.rekey (s : State) (g : Nat) (key : Option (BitVec 512)) : State :=
  if s.writtenKey g = key then s
  else
    let x := (List.range 32).foldr (fun k acc => (s.granuleByte g k key).toNat + 256 * acc) 0
    let t := s.write (g * 32) 32 x
    { t with keyed := match key with
        | none => serase t.keyed g
        | some w => sset t.keyed g w }

/-- n granules from g up made ready for writes under a key. -/
def State.rekeys (s : State) (g : Nat) (key : Option (BitVec 512)) : Nat → State
  | 0 => s
  | n + 1 => (s.rekey g key).rekeys (g + 1) key n

/-- The bytes of x that mask marks written to HBM from a physical address up under key slot k. -/
def State.hbmWrite (s : State) (pa k n x mask : Nat) : State :=
  if n = 0 then s
  else
    ((s.rekeys (pa / 32) (s.keyWords k) ((pa + n - 1) / 32 - pa / 32 + 1)).cleanWords pa n mask).writeMasked pa n x mask

/-! ## The berm's cache -/

/-- The cache ways of a die (R134). -/
def Die.cways (d : Die) : Nat := field d.waymask 0 5

/-- A way is under conversion (R135). -/
def Die.affected (d : Die) (w : Nat) : Bool :=
  match d.convert with
  | some c => c.lo ≤ w && w < c.hi
  | none => false

/-- The line's number in its berm: address tag and set together. -/
def lineNo (pa : Nat) : Nat := pa / 128

/-- The physical address of a line's first byte. -/
def BermLine.pa (l : BermLine) : Nat := l.ptag * 2 ^ 24 + l.set * 128

/-- A line holds the address (R129), whatever its tenant and key. -/
def BermLine.holds (l : BermLine) (pa : Nat) : Bool := l.set == pa / 128 % 2 ^ 17 && l.ptag == pa / 2 ^ 24

/-- One sector of a line written back to HBM under the line's key, with its tag. -/
def State.writeSector (s : State) (l : BermLine) (i : Nat) : State :=
  if bit l.valid i && bit l.dirty i && !bit l.bad i then
    let pa := l.pa + 32 * i
    ((s.heal pa 32).hbmWrite pa l.key.toNat 32 (field l.data (256 * i) 256) (2 ^ 32 - 1)).setTag (pa / 32)
      (l.tags.extractLsb' (4 * i) 4)
  else s

/-- A line's dirty sectors written back. -/
def State.writeLine (s : State) (l : BermLine) : State :=
  (((s.writeSector l 0).writeSector l 1).writeSector l 2).writeSector l 3

/-- The line of a die's berm that holds an address. -/
def State.bermFind (s : State) (pa : Nat) : Option BermLine :=
  (s.die (stackOf pa)).lines.find? fun l => l.holds pa

/-- The lines of a die without the line that holds an address. -/
def State.bermDrop (s : State) (pa : Nat) : State :=
  s.modDie (stackOf pa) fun d => { d with lines := d.lines.filter fun l => !l.holds pa }

/-- A line put first in the order of use in place of the one at its set and way. -/
def State.bermPut (s : State) (d : Nat) (l : BermLine) : State :=
  s.modDie d fun x => { x with lines := l :: x.lines.filter fun m => !(m.set == l.set && m.way == l.way) }

/-- One event of a die's counter banks (spec/16 R446, R447): every bank whose holder counts the function. -/
def countBank (b : Bank) (ev n f : Nat) : Bank :=
  let mode := field b.own 62 2
  if mode = 2 || (mode = 1 && field b.own 0 6 = f) then
    { b with ctr := (b.ctr.zip b.sel).map fun e =>
        if e.2 = w64 ev && !bit e.1 63 then w64 ((e.1.toNat + n) % 2 ^ 63) else e.1 }
  else b

/-- An event of a die counted for a function; free banks count nothing. -/
def State.countDie (s : State) (d ev n f : Nat) : State :=
  if (s.die d).banks.all fun b => field b.own 62 2 = 0 then s
  else s.modDie d fun x => { x with banks := x.banks.map fun b => countBank b ev n f }

/-- An event of a cluster counted for a function. -/
def State.countCluster (s : State) (c ev n f : Nat) : State :=
  if field (s.cluster c).bank.own 62 2 = 0 then s
  else s.modCluster c fun x => { x with bank := countBank x.bank ev n f }

/-- A line that holds a dirty sector with an uncorrectable error is not chosen as a victim (R140). -/
def BermLine.stuck (l : BermLine) : Bool := l.bad &&& l.dirty &&& l.valid != 0

/-- A line replaced in its place in the order of use. -/
def State.bermSet (s : State) (l : BermLine) : State :=
  s.modDie (stackOf l.pa) fun d => { d with lines := d.lines.map fun m => if m.set == l.set && m.way == l.way then l else m }

/-- A line invalidated, but for dirty sectors in error: they stay, and every read of them traps, until a write of the whole
granule replaces them (R140). -/
def State.bermInval (s : State) (l : BermLine) : State :=
  if l.stuck then s.bermSet { l with valid := l.valid &&& l.dirty &&& l.bad } else s.bermDrop l.pa

/-- A valid line evicted by a fill or a mismatch of tenant vf (R130, R133): written back and dropped. -/
def State.bermEvict (s : State) (l : BermLine) (vf : Nat) : State :=
  let s := s.bermInval l
  let s := (s.writeLine l).countDie (stackOf l.pa) 12 1 vf
  if l.vf.toNat = vf then s else s.countDie (stackOf l.pa) 13 1 l.vf.toNat

/-- The way that a fill by tenant vf takes at an address, and the line it evicts (R131); none when the tenant may hold no
line. Lines in ways under conversion, which a lookup passes by, do not count towards MAXW (log entry 122). -/
def State.bermVictim (s : State) (pa vf : Nat) : Option (Nat × Option BermLine) :=
  let d := s.die (stackOf pa)
  let here := d.lines.filter fun l => l.set == pa / 128 % 2 ^ 17 && l.way < d.cways && !d.affected l.way
  let maxw := field (vget d.quota vf 0) 0 5
  let ok := here.filter fun l => !l.stuck
  let mine := here.filter fun l => l.vf.toNat == vf
  if maxw = 0 then none
  else if maxw ≤ mine.length then ((ok.filter fun l => l.vf.toNat == vf).getLast?).map fun l => (l.way, some l)
  else
    match firstBelow d.cways fun w => !d.affected w && !(here.any fun l => l.way == w) with
    | some w => some (w, none)
    | none => (ok.getLast?).map fun l => (l.way, some l)

/-- A sector filled from HBM into a line under the line's key. -/
def State.fillSector (s : State) (l : BermLine) (i : Nat) : BermLine :=
  let pa := l.pa + 32 * i
  { l with valid := setBit l.valid i true, dirty := setBit l.dirty i false, bad := setBit l.bad i false,
           badTags := setBit l.badTags i false, tags := setField l.tags (4 * i) 4 (s.tag (pa / 32)).toNat,
           data := setField l.data (256 * i) 256 (s.hbmRead pa l.key.toNat 32) }

/-- A read of a granule of HBM: a correctable error in it is written back corrected and counted for its pseudo-channel and for
the tenant (R138, spec/16 R446). -/
def State.hbmSoft (s : State) (pa vf : Nat) : State :=
  if s.softErrors (pa / 32 * 32) 32 = [] then s
  else
    let c := channelOf pa
    let s := { s with softWords := s.softWords.filter fun w => w / 8 ≠ pa / 32, softTags := s.softTags.filter fun g => g ≠ pa / 32 }
    (s.modHub fun h => { h with corrected := sset h.corrected c ((sget h.corrected c).getD 0 + 1) }).countDie (stackOf pa) 14 1 vf

/-- A line of a tenant and key that serves an access to sector i: one that is not valid is filled, and a clean one in error is
invalidated, counted as corrected and fetched again (R139); in a way under conversion nothing is filled (R135). -/
def State.sectorFor (s : State) (l : BermLine) (i vf : Nat) : State × Option BermLine :=
  let lost := bit l.valid i && bit l.bad i && !bit l.dirty i
  if bit l.valid i && !lost then (s, some l)
  else
    let d := stackOf l.pa
    let l := { l with valid := setBit l.valid i false }
    let s := if lost then (s.countDie d 14 1 vf).bermSet l else s
    if (s.die d).affected l.way then (s, none)
    else
      let s := s.hbmSoft (l.pa + 32 * i) vf
      (s.bermSet (s.fillSector l i), some (s.fillSector l i))

/-- A line matches a tenant and a key slot (R129). -/
def BermLine.matches (l : BermLine) (vf key : Nat) : Bool := l.vf.toNat == vf && l.key.toNat == key

/-- The line that holds an address, where it is one of another tenant or key slot, evicted (R130). -/
def State.bermMismatch (s : State) (pa vf key : Nat) : State :=
  match s.bermFind pa with
  | some l => if l.matches vf key then s else s.bermEvict l vf
  | none => s

/-- The lookup of R129 and the fill of R131 for a cached access: the state in which the address's sector is in a line, and
that line; none where the tenant allocates none, or where a line in error of another tenant or key stands in the way (R140). -/
def State.bermFetch (s : State) (pa vf key : Nat) : State × Option BermLine :=
  let d := stackOf pa
  let i := pa / 32 % 4
  let s := s.bermMismatch pa vf key
  match s.bermFind pa with
  | some l =>
    if !l.matches vf key then (s, none)
    else
      match s.sectorFor l i vf with
      | (t, some l) => (t.bermPut d l, some l)
      | (t, none) => (t, none)
  | none =>
    match s.bermVictim pa vf with
    | none => (s, none)
    | some (w, old) =>
      let s := match old with
        | some l => s.bermEvict l vf
        | none => s
      let s := s.hbmSoft pa vf
      let l := s.fillSector { set := pa / 128 % 2 ^ 17, way := w, ptag := pa / 2 ^ 24, vf := BitVec.ofNat 6 vf,
                              key := BitVec.ofNat 6 key, valid := 0, dirty := 0, tags := 0, data := 0, bad := 0, badTags := 0 } i
      (s.bermPut d l, some l)

/-! ## One physical access -/

/-- An access for which the home berm is consulted: tenant, key slot, and whether it may allocate (R127). -/
structure Via where
  vf    : Nat
  key   : Nat
  cache : Bool
  deriving DecidableEq, Repr

/-- The hub's and the walker's own accesses: plaintext, allocating nothing. -/
def Via.hub : Via := { vf := 0, key := 0, cache := false }

/-- The line that serves an access, after the lookup: an allocating access fetches; another is served by a line that
matches and evicts one that does not. Such a hit does not move the line in the order of use (log entry 96). -/
def State.serve (s : State) (pa : Nat) (v : Via) : State × Option BermLine :=
  if v.cache then s.bermFetch pa v.vf v.key
  else
    let s := s.bermMismatch pa v.vf v.key
    match s.bermFind pa with
    | some l => if l.matches v.vf v.key then s.sectorFor l (pa / 32 % 4) v.vf else (s, none)
    | none => (s, none)

/-- n bytes within one granule, read through the home berm; the window and other memory directly. -/
def State.physRead (s : State) (pa n : Nat) (v : Via) : State × Nat :=
  if hbmEnd ≤ pa then (s, s.read pa n)
  else
    match s.serve pa v with
    | (s, some l) => (s, field l.data (8 * (pa % 128)) (8 * n))
    | (s, none) => (s.hbmSoft pa v.vf, s.hbmRead pa v.key n)

/-- The bytes that mask marks, of n from an address up, are the whole granule. -/
def wholeGranule (n mask : Nat) : Bool := n == 32 && mask % 2 ^ 32 == 2 ^ 32 - 1

/-- A write that passes the berm by: a whole granule replaces a sector in error that a line keeps (R140). -/
def State.bypass (s : State) (pa n mask : Nat) : State :=
  match s.bermFind pa with
  | some l =>
    if wholeGranule n mask then
      let l := { l with valid := setBit l.valid (pa / 32 % 4) false }
      if l.valid = 0 then s.bermDrop pa else s.bermSet l
    else s
  | none => s

/-- The bytes of x that mask marks, within one granule, written through the home berm. -/
def State.physWrite (s : State) (pa n x mask : Nat) (v : Via) : State :=
  if hbmEnd ≤ pa then s.writeMasked pa n x mask
  else
    match s.serve pa v with
    | (s, some l) =>
      let merged := (List.range n).foldl (fun (acc : BitVec 1024) i =>
        if (mask >>> i) % 2 = 1 then setField acc (8 * (pa % 128 + i)) 8 (x >>> (8 * i)) else acc) l.data
      let i := pa / 32 % 4
      s.bermPut (stackOf pa) { l with
        data := merged, dirty := setBit l.dirty i true
        bad := if wholeGranule n mask then setBit l.bad i false else l.bad }
    | (s, none) => (s.bypass pa n mask).hbmWrite pa v.key n x mask

/-- The tag of the granule at a physical address, as the home berm or HBM holds it; 0 in the window (R31). -/
def State.physTag (s : State) (pa : Nat) : BitVec 4 :=
  if hbmEnd ≤ pa then 0
  else
    match s.bermFind pa with
    | some l => if bit l.valid (pa / 32 % 4) then l.tags.extractLsb' (4 * (pa / 32 % 4)) 4 else s.tag (pa / 32)
    | none => s.tag (pa / 32)

/-- The tag of a granule set, in its berm line too; nothing in the window. -/
def State.physSetTag (s : State) (pa : Nat) (t : BitVec 4) : State :=
  if hbmEnd ≤ pa then s
  else
    match s.bermFind pa with
    | some l =>
      if bit l.valid (pa / 32 % 4) then
        s.bermPut (stackOf pa) { l with tags := setField l.tags (4 * (pa / 32 % 4)) 4 t.toNat,
                                        dirty := setBit l.dirty (pa / 32 % 4) true }
      else s.setTag (pa / 32) t
    | none => s.setTag (pa / 32) t

/-- A number of at most 8 bytes that the hub or the walker reads at a physical address, without changing anything
(spec/01 R43: through the berm, past every L1). Such an access has no polder and no leaf of its own: it takes any line that holds
the address, whatever its tenant and key slot, and reads plaintext from HBM (log entry 121). -/
def State.hubRead (s : State) (pa n : Nat) : Nat :=
  if hbmEnd ≤ pa then s.read pa n
  else
    match s.bermFind pa with
    | some l => if bit l.valid (pa / 32 % 4) then field l.data (8 * (pa % 128)) (8 * n) else s.hbmRead pa 0 n
    | none => s.hbmRead pa 0 n

/-- The same for a write of n bytes: into the berm's line where it holds the granule, else into HBM in plaintext. -/
def State.hubWrite (s : State) (pa n x : Nat) : State :=
  if hbmEnd ≤ pa then s.write pa n x
  else
    match s.bermFind pa with
    | some l =>
      if bit l.valid (pa / 32 % 4) then
        s.bermPut (stackOf pa) { l with data := setField l.data (8 * (pa % 128)) (8 * n) x,
                                        dirty := setBit l.dirty (pa / 32 % 4) true }
      else s.hbmWrite pa 0 n x (2 ^ n - 1)
    | none => s.hbmWrite pa 0 n x (2 ^ n - 1)

end Sys2Proof.Machine
end

