-- ==== Sys2Proof/Machine/HubOps.lean ====
section
/-! DEFINITION. What the hub does for every other part: window regions and rings (spec/04 R150, spec/07 R223, R224), the
cause table (R241, R242), completions (R229), trace records and counters (spec/16 R436 to R447), sluice-table counts
(spec/15 R419), the end of a job (R230), and fences (R245, R246). -/

namespace Sys2Proof.Machine

/-! ## Window regions (R150) -/

/-- The regions assigned to a function, in ascending number. -/
def State.regions (s : State) (f : Nat) : List Nat :=
  (List.range 64).filter fun k => bit (vget s.hub.wreg k 0) 63 && field (vget s.hub.wreg k 0) 0 6 == f

/-- First physical address of the lowest region assigned to a function. -/
def State.region (s : State) (f : Nat) : Option Nat := (s.regions f).head?.map fun k => windowBase + k * 0x10000

/-- A 64-bit word of a function's lowest region; 0 without a region. -/
def State.winGet (s : State) (f off : Nat) : Nat :=
  match s.region f with
  | some b => s.read (b + off) 8
  | none => 0

/-- n bytes written in a function's lowest region; nothing without a region. -/
def State.winPut (s : State) (f off n x : Nat) : State :=
  match s.region f with
  | some b => s.write (b + off) n x
  | none => s

/-- The distance from one 64-bit count to another. -/
def countDiff (a b : Nat) : Nat := (a + 2 ^ 64 - b) % 2 ^ 64

/-! ## The cause table (R241, R242) -/

/-- What an entry of the cause table tells beside its number, tick and HOST bit. -/
structure CauseRec where
  trapv : W64
  ssn   : Nat
  agent : Nat
  task  : Nat
  dbl   : Bool
  kind  : Nat
  cause : Nat
  vf    : Nat
  pol   : Nat
  deriving DecidableEq, Repr

/-- VFCTL.GEN of a function (R232). -/
def State.vfGen (s : State) (f : Nat) : Nat := field (s.func f).vfctl 48 8

/-- The 32 bytes of an entry. -/
def State.causeBytes (s : State) (r : CauseRec) : Nat :=
  let host := r.dbl || 2 ≤ r.kind
  r.pol % 2 ^ 12 * 2 ^ 8 + r.vf % 2 ^ 6 * 2 ^ 24 + s.vfGen r.vf * 2 ^ 32 + r.cause % 2 ^ 8 * 2 ^ 40
    + s.hub.causeTail.toNat % 2 ^ 16 * 2 ^ 48
    + (r.kind % 4 + b2n host * 4 + b2n r.dbl * 8 + r.task % 64 * 16 + r.agent % 2 ^ 22 * 2 ^ 10) * 2 ^ 64
    + r.ssn % 2 ^ 32 * 2 ^ 96 + s.tick.toNat * 2 ^ 128 + r.trapv.toNat * 2 ^ 192

/-- An entry written to the cause table, or dropped and counted when the ring is full or the physical function has no
window region (log entry 15). An entry with HOST set leaves an interrupt pending (R242). -/
def State.recordCause (s : State) (r : CauseRec) : State :=
  let tail := s.hub.causeTail.toNat
  if s.region 0 = none || 1024 ≤ countDiff tail (s.winGet 0 0xF848) then
    let n := s.hub.causeLost + 1
    (s.modHub fun h => { h with causeLost := n }).winPut 0 0xF850 8 n.toNat
  else
    let s := s.winPut 0 (32 * (tail % 1024)) 32 (s.causeBytes r)
    let s := s.winPut 0 0xF840 8 ((tail + 1) % 2 ^ 64)
    s.modHub fun h => { h with causeTail := h.causeTail + 1, causeIrqPend := h.causeIrqPend || r.dbl || 2 ≤ r.kind }

/-- The record of a trap or counted event of a core (R219, R241). -/
def coreCause (a : Nat) (c : Core) (kind : Nat) (dbl : Bool) (cause : Cause) (v : W64) : CauseRec :=
  { trapv := v, ssn := field c.ssn 0 32, agent := a, task := c.taskId, dbl := dbl, kind := kind, cause := cause.code,
    vf := c.vf.toNat, pol := c.pol.toNat }

/-- A counted event of a core: an entry of kind 1 with CAUSE = SOFT (R222). -/
def State.softEvent (s : State) (a : Nat) (v : W64) : State := s.recordCause (coreCause a (s.core a) 1 false .soft v)

/-- A counted event of the hub for a function (R224, R244). -/
def State.hubEvent (s : State) (f : Nat) (v : Nat) : State :=
  s.recordCause { trapv := w64 v, ssn := 0, agent := 0, task := 0, dbl := false, kind := 1, cause := Cause.soft.code,
                  vf := f, pol := 0 }

/-- A module event (R241). -/
def State.moduleEvent (s : State) (v : Nat) : State :=
  s.recordCause { trapv := w64 v, ssn := 0, agent := 0, task := 0, dbl := false, kind := 3, cause := 0, vf := 0, pol := 0 }

/-- A containment entry: unit kind, lasting, unit number (R241, R246), for the function of the unit's job. -/
def State.containEntry (s : State) (kind number : Nat) (lasting : Bool) (f : Nat) : State :=
  s.recordCause { trapv := w64 (kind % 16 + b2n lasting * 16 + number * 256), ssn := 0, agent := 0, task := 0, dbl := false,
                  kind := 2, cause := 0, vf := f, pol := 0 }

/-! ## Completions (R223, R224, R229) -/

/-- A completion written into a function's ring, with an interrupt pending unless it is STARTED (R242), or held while the ring
is full or stopped. A function with no region has no ring. -/
def State.writeCompletion (s : State) (f : Nat) (rec : BitVec 256) : State :=
  let r := (s.func f).compl
  if s.region f = none then s
  else if r.stopped || 64 ≤ countDiff r.hub.toNat (s.winGet f 0xF830) then
    s.modFunc f fun x => { x with owed := x.owed ++ [rec] }
  else
    let s := s.winPut f (0xE800 + 32 * (r.hub.toNat % 64)) 32 rec.toNat
    let s := s.winPut f 0xF828 8 (r.hub + 1).toNat
    s.modFunc f fun x => { x with compl := { x.compl with hub := x.compl.hub + 1 }, irqPend := x.irqPend || field rec 0 8 ≠ 0 }

/-- The 32 bytes of a completion. -/
def complBytes (st : Status) (cookie : W64) (jobid : BitVec 32) (ssn lo hi agent cause : Nat) : BitVec 256 :=
  BitVec.ofNat 256 (st.code + (agent % 2 ^ 22 * 2 ^ 8 + cause % 2 ^ 8) * 2 ^ 64 + lo % 2 ^ 16 * 2 ^ 96 + hi % 2 ^ 16 * 2 ^ 112
    + ssn % 2 ^ 32 * 2 ^ 128 + jobid.toNat * 2 ^ 160 + cookie.toNat * 2 ^ 192)

/-- A completion of a function: behind those that are owed. -/
def State.complete (s : State) (f : Nat) (rec : BitVec 256) : State :=
  if (s.func f).owed = [] then s.writeCompletion f rec else s.modFunc f fun x => { x with owed := x.owed ++ [rec] }

/-- Completions owed written while the ring takes them. -/
def State.payOwed (s : State) (f : Nat) : Nat → State
  | 0 => s
  | n + 1 =>
    match (s.func f).owed with
    | [] => s
    | rec :: t =>
      let r := (s.func f).compl
      if r.stopped || 64 ≤ countDiff r.hub.toNat (s.winGet f 0xF830) then s
      else ((s.modFunc f fun x => { x with owed := t }).writeCompletion f rec |>.payOwed f n)

/-! ## Peer modules (spec/01 R41) -/

/-- n stores of 8 bytes each, the bytes of x, sent to the home of a remote leaf. -/
def State.sendStores (s : State) (home : BitVec 12) (pa : Nat) (key n x : Nat) : State :=
  s.modHub fun h => { h with sent := h.sent ++ (List.range n).map fun i =>
    { home := home, pa := pa + 8 * i, size := 8, key := BitVec.ofNat 6 key, op := none, value := w64 (x >>> (64 * i)), other := 0 } }

/-! ## Jobs -/

/-- The job whose stand holds an agent: a stand whose state lies in a save area holds none. -/
def State.jobOf (s : State) (a : Nat) : Option Job :=
  s.hub.jobs.find? fun j => !j.stand.away && if isOrdinary a then j.clusters.contains (clusterOf a) else
    isLanding a && j.landings.contains (a % 0x100000)

/-- The agents of a job: every core of its clusters and its landing cores. -/
def Job.agents (j : Job) : List Nat :=
  (j.clusters.flatMap fun c => (List.range 32).map (agentIn c)) ++ j.landings.map landingAgent

/-- Two jobs are the same job. -/
def Job.same (j k : Job) : Bool := j.fn == k.fn && j.jobid == k.jobid && j.clusters == k.clusters

/-- A job of the list changed by f. -/
def State.modJob (s : State) (j : Job) (f : Job → Job) : State :=
  s.modHub fun h => { h with jobs := h.jobs.map fun k => if k.same j then f k else k }

/-! ## Counters and trace records (spec/16) -/

/-- Counter n more counts of an event on a core (R445 to R447). -/
def Core.count (c : Core) (ev n : Nat) : Core :=
  { c with ctr := Vector.ofFn fun (i : Fin 4) =>
      let v := c.ctr[i]
      if c.ctrSel[i] = w64 ev && !bit v 63 then w64 ((v.toNat + n) % 2 ^ 63) else v }

/-- The die index × 1,280 numbering of clusters (R440). -/
def clusterNo (c : Nat) : Nat := c / 2048 * 1280 + c % 2048

/-- The trace unit that serves an agent (R440). -/
def unitOf (a : Nat) : Nat :=
  if isOrdinary a then clusterNo (clusterOf a) else if isLanding a then 20480 + a % 0x100000 / 64 else 20496 + a % 4

/-- OWN, TUCTL and LOST of a trace unit. -/
def State.unit (s : State) (u : Nat) : W64 × W64 × Bool :=
  if u < 20480 then let c := s.cluster (u / 1280 * 2048 + u % 1280); (c.tuOwn, c.tuCtl, c.tuLost)
  else if u < 20496 then let d := s.die (u - 20480); (d.tuOwn, d.tuCtl, d.tuLost)
  else (vget s.hub.tuOwn (u - 20496) 0, vget s.hub.tuCtl (u - 20496) 0, bit s.hub.tuLost (u - 20496))

/-- OWN, TUCTL and LOST of a trace unit replaced. -/
def State.setUnit (s : State) (u : Nat) (own ctl : W64) (lost : Bool) : State :=
  if u < 20480 then s.modCluster (u / 1280 * 2048 + u % 1280) fun c => { c with tuOwn := own, tuCtl := ctl, tuLost := lost }
  else if u < 20496 then s.modDie (u - 20480) fun d => { d with tuOwn := own, tuCtl := ctl, tuLost := lost }
  else s.modHub fun h => { h with tuOwn := vset h.tuOwn (u - 20496) own, tuCtl := vset h.tuCtl (u - 20496) ctl,
                                  tuLost := setBit h.tuLost (u - 20496) lost }

/-! ## The domain stack (spec/02 R58) -/

/-- The 32 bytes of a domain-stack entry. -/
def DomEntry.bytes (e : DomEntry) : Nat :=
  e.egen.toNat * 2 ^ 8 + e.savep.toNat * 2 ^ 16
    + (b2n e.abort * 8 + b2n e.tile * 16 + e.wptr.toNat * 2 ^ 5 + e.vmask.toNat * 2 ^ 8 + e.caller.toNat * 2 ^ 20) * 2 ^ 32
    + (e.cgen.toNat + e.gate.toNat * 2 ^ 8 + e.callee.toNat * 2 ^ 20) * 2 ^ 64
    + e.rpc.toNat * 2 ^ 96 + e.aw0.toNat * 2 ^ 128 + e.aw1.toNat * 2 ^ 192

/-- The entry that 32 bytes hold. -/
def DomEntry.ofBytes (x : Nat) : DomEntry :=
  let w : BitVec 256 := BitVec.ofNat 256 x
  { caller := w.extractLsb' 52 12, callee := w.extractLsb' 84 12, gate := w.extractLsb' 72 12, cgen := w.extractLsb' 64 8,
    egen := w.extractLsb' 8 8, rpc := w.extractLsb' 96 32, wptr := w.extractLsb' 37 3, tile := bit w 36, abort := bit w 35,
    vmask := w.extractLsb' 40 12, savep := w.extractLsb' 16 16, aw0 := w.extractLsb' 128 64, aw1 := w.extractLsb' 192 64 }

/-- First byte of the domain spill area within the TCM (R54). -/
def Core.spillArea (c : Core) : Nat := field c.dsd 56 4 * 1024

/-- The domain-stack entry of depth d of a core: a resident one, or one in the domain spill area (R58). -/
def State.domAt (s : State) (a d : Nat) : Option DomEntry :=
  let c := s.core a
  if d = 0 || c.depth < d then none
  else
    match c.dom[c.depth - d]? with
    | some e => some e
    | none => some (DomEntry.ofBytes (s.read (tcmBase a + c.spillArea + 32 * (d - 1)) 32))

/-- The polder of the thread at depth 0 (spec/15 R422). -/
def State.basePol (s : State) (a : Nat) : BitVec 12 :=
  match s.domAt a 1 with
  | some e => e.caller
  | none => (s.core a).pol

/-- The function to which a core's events are charged (R422). -/
def State.baseFn (s : State) (a : Nat) : Nat := descVf (s.desc (s.basePol a))

/-- A replay runs on the stand of an agent (R452). -/
def State.inReplay (s : State) (a : Nat) : Bool :=
  match s.jobOf a with
  | some j => j.stand.replaying
  | none => false

/-- The 32 bytes of a trace record but for LOST (R436). -/
def traceBytes (tick : W64) (ssn agent task dom ty aux : Nat) (rpl hosted : Bool) (payload : Nat) : BitVec 256 :=
  BitVec.ofNat 256 (tick.toNat + ssn % 2 ^ 32 * 2 ^ 64 + (dom % 16 + task % 64 * 16 + agent % 2 ^ 22 * 2 ^ 10) * 2 ^ 96
    + ty % 256 * 2 ^ 128 + (aux % 2 ^ 20 + b2n rpl * 2 ^ 21 + b2n hosted * 2 ^ 22) * 2 ^ 136
    + payload % 2 ^ 96 * 2 ^ 160)

/-- The default polder of a function: that of its first job; polder 0x000 of the physical function (log entry 20). -/
def State.fnPolder (s : State) (f : Nat) : Option (BitVec 12) :=
  match s.hub.jobs.find? fun j => j.fn.toNat == f with
  | some j => some j.pol
  | none => if f = 0 then some 0 else none

/-- A trace record of a core, made when its unit is held, TUCTL enables the kind (bit `sel`), and the filters admit the
thread (R444). -/
def State.trace (s : State) (a sel ty payload : Nat) : State :=
  let (own, ctl, _) := s.unit (unitOf a)
  let mode := field own 62 2
  let c := s.core a
  if bit ctl 0 && bit ctl sel && (!bit ctl 16 || field ctl 4 12 = c.pol.toNat)
      && (mode = 2 || (mode = 1 && field own 0 6 = s.baseFn a)) then
    let r := traceBytes s.tick (field c.ssn 0 32) a (if c.ex then 0 else c.taskId) 0 ty c.pol.toNat (s.inReplay a)
      (0 < c.depth) payload
    let f : BitVec 6 := if mode = 2 then 0 else own.extractLsb' 0 6
    s.modHub fun h => { h with traces := h.traces ++ [{ bytes := r, unit := unitOf a, fn := f, pol := s.fnPolder f.toNat }] }
  else s

/-- A record of the hub's own for a function: IMBALANCE, SLOTS, RAMP or NO_PROGRESS (R437). -/
def State.hubTrace (s : State) (f ssn agent task dom ty aux payload : Nat) (rpl : Bool) : State :=
  s.modHub fun h => { h with traces := h.traces ++
    [{ bytes := traceBytes s.tick ssn agent task dom ty aux rpl false payload, unit := 20500, fn := BitVec.ofNat 6 f
       pol := s.fnPolder f }] }

/-! ## Sluice tables (spec/15 R419) -/

/-- Physical address of the entry of a gate. -/
def State.gateAt (s : State) (pol : BitVec 12) (g : Nat) : Nat := descSlfrm (s.desc pol) * 0x10000 + 32 * g

/-- INFLIGHT of a gate plus one. -/
def State.gateEnter (s : State) (pol : BitVec 12) (g : Nat) : State :=
  let pa := s.gateAt pol g
  s.hubWrite (pa + 16) 4 (s.hubRead (pa + 16) 4 + 1)

/-- INFLIGHT of a gate minus one; in the update that brings it to 0, HR is cleared (R426). -/
def State.gateLeave (s : State) (pol : BitVec 12) (g : Nat) : State :=
  let pa := s.gateAt pol g
  let n := (s.hubRead (pa + 16) 4 + (2 ^ 32 - 1)) % 2 ^ 32
  let s := s.hubWrite (pa + 16) 4 n
  let w := s.hubRead pa 4
  if n = 0 && w / 2 ^ 16 % 2 = 1 then s.hubWrite pa 4 (w - 2 ^ 16) else s

/-! ## The end of a job (R230) -/

/-- The frames of a core, each with its depth, newest first. -/
def State.frames (s : State) (a : Nat) : List (Nat × DomEntry) :=
  let d := (s.core a).depth
  (List.range d).filterMap fun i => (s.domAt a (d - i)).map fun e => (d - i, e)

/-- Frames discarded as far as the sluice tables count them (R425). -/
def State.leaveFrames (s : State) (l : List (Nat × DomEntry)) : State :=
  l.foldl (fun (s : State) x => s.gateLeave x.2.callee x.2.gate.toNat) s

/-- A core whose job has ended: its registers, task table, links and pending work discarded; its watch units and its L1 stay. -/
def Core.discard (c : Core) : Core := { Core.reset with wctl := c.wctl, wbase := c.wbase, l1 := c.l1 }

/-- A cluster whose job has ended: its event unit, copies and guard tables return to their reset state; bays, TCM halves
and queues stay (R91, R230). -/
def Cluster.release (k : Cluster) : Cluster :=
  { k with barriers := Cluster.reset.barriers, mutexes := Cluster.reset.mutexes, events := Cluster.reset.events,
           copies := [], stage := 0, eject := [] }

/-- A saved state is one of a job. -/
def Saved.ofJob (x : Saved) (j : Job) : Bool := x.fn == j.fn && x.jobid == j.jobid && x.clusters.map (·.1) == j.clusters

/-- A snapshot is one of a job. -/
def Snapshot.ofJob (x : Snapshot) (j : Job) : Bool := x.image.ofJob j

/-- The module as a save area holds it: the cores and the memory of a saved stand, for reading its frames. -/
def State.imaged (s : State) (x : Saved) : State := { s with cores := x.cores, mem := x.mem }

/-- The module as the stand of a job shows it, on the module or in its save area. -/
def State.viewOf (s : State) (j : Job) : State :=
  if j.stand.away then ((s.hub.saves.find? fun x => x.ofJob j).map s.imaged).getD s else s

/-- The frames of every core of a job with their cores, on the module or in its save area. -/
def State.jobFrames (s : State) (j : Job) : List (Nat × Nat × DomEntry) :=
  let v := s.viewOf j
  (j.agents.filter fun a => (sget v.cores a).isSome).flatMap fun a => (v.frames a).map fun x => (a, x)

/-- The links of a stand's clusters at the width of the plan again, and its guard tables empty (spec/16 R460, spec/09 R290). -/
def Hub.releaseLinks (h : Hub) (j : Job) : Hub :=
  { h with guards := h.guards.filter fun g => !j.agents.contains g.2.2
           narrow := h.narrow.filter fun e => !j.clusters.contains (e.1 / 16) }

/-- A job taken off the module: every core of its stand stopped, its state and its frames discarded, every fault record of its
threads voided (R52, R230, R431, spec/15 R427). What peers withdrew from a domain ends with the last job of the function that the
domain spans (R244, log entry 18). A job whose state lies in a save area has nothing else on the module. -/
def State.dropJob (s : State) (j : Job) : State :=
  let ag := j.agents
  let s := s.leaveFrames ((s.jobFrames j).map (·.2))
  let s := if j.stand.away then s else
    let s := ag.foldl (fun (s : State) a => if (sget s.cores a).isSome then s.modCore a Core.discard else s) s
    let s := j.clusters.foldl (fun (s : State) c =>
      if (sget s.clusters c).isSome then s.modCluster c Cluster.release else s) s
    { s with
      flits := s.flits.filter fun f => !ag.contains f.src
      messages := s.messages.filter fun m => !j.clusters.contains m.1
      hub := s.hub.releaseLinks j }
  s.modHub fun h =>
    let rest := h.jobs.filter fun k => !k.same j
    let past (w : BitVec 6 × Nat) : Bool := w.1 == j.fn && bit j.xdom w.2 && !rest.any fun k => k.fn == j.fn && bit k.xdom w.2
    { h with
      jobs := rest
      gone := h.gone.filter fun w => !past w
      broken := h.broken.filter fun w => !past w
      saves := h.saves.filter fun x => !x.ofJob j
      snaps := h.snaps.filter fun x => !x.ofJob j
      faults := h.faults.map fun r => if r.fn == j.fn && ag.contains r.req.agent then { r with voided := true } else r }

/-- The domains to which a core belongs in its present phase; a landing core belongs to domain 0 (spec/06 R210, spec/18 R463). -/
def State.maskOf (s : State) (b : Nat) : BitVec 16 := if isLanding b then 1 else (s.core b).member

/-- The last superstep that a job began: SSN of its first member of domain 0, on the module or in its save area (spec/21 R469); of its
first core where that domain has no member. -/
def State.jobSsn (s : State) (j : Job) : Nat :=
  let v := s.viewOf j
  field (v.core ((j.agents.find? fun a => bit (v.maskOf a) 0).getD (j.agents.headD 0))).ssn 0 32

/-- VFCTL.STATE of a function (R232). -/
def State.vfState (s : State) (f : Nat) : Nat := field (s.func f).vfctl 45 3

/-- VFCTL.STATE of a function set. -/
def State.setVfState (s : State) (f n : Nat) : State := s.modFunc f fun x => { x with vfctl := setField x.vfctl 45 3 n }

/-- A function without a job has no slice to end (R234), and is idle, unless it is paused or resetting. -/
def State.settleIdle (s : State) (f : Nat) : State :=
  if s.hub.jobs.any fun j => j.fn.toNat == f then s
  else
    let s := s.modFunc f fun x => { x with ending := false, slice := 0 }
    if s.vfState f = 1 || s.vfState f = 2 then s.setVfState f 0 else s

/-- A job ended with a status, an agent and a cause (R229, R230). -/
def State.endJob (s : State) (j : Job) (st : Status) (agent cause : Nat) : State :=
  let r := complBytes st j.cookie j.jobid (s.jobSsn j) j.slotLo.toNat j.slotHi.toNat agent cause
  ((s.dropJob j).complete j.fn.toNat r).settleIdle j.fn.toNat

/-! ## Fences (R245, R246) -/

/-- The function that owns a unit, beside any job (R241): that of the polder to which a bay, or the lower half of a core's TCM,
belongs; the physical function for any other unit (log entry 93). -/
def State.unitFn (s : State) (kind number : Nat) : Nat :=
  let o := if kind = 1 then s.bayOwner (number / 16) (number % 16)
    else if kind = 2 || kind = 5 then s.tcmOwner number false else none
  match o with
  | some p => descVf (s.desc p)
  | none => 0

/-- The function of a job, or that of the unit. -/
def State.ownerFn (s : State) (kind number : Nat) : Option Job → Nat
  | some j => j.fn.toNat
  | none => s.unitFn kind number

/-- A unit is fenced or retired. -/
def State.failed (s : State) (kind number : Nat) : Bool := s.hub.units.any fun u => u.kind == kind && u.number == number

/-- A unit fenced: listed, recorded in the cause table, and the job that the table of R246 names ended. `agent` and
`cause` are those of the completion. -/
def State.fence (s : State) (kind number : Nat) (j : Option Job) (agent cause : Nat) : State :=
  if s.failed kind number then s
  else
    let s := s.modHub fun h => { h with units := h.units ++ [{ kind := kind, number := number, retired := false }] }
    let s := s.containEntry kind number false (s.ownerFn kind number j)
    match j with
    | some j => s.endJob j .contained agent cause
    | none => s

/-- A bay fenced on its first uncorrectable error at word w of the bay (spec/02 R99): BSTAT.FENCED is set, and SCRUB while its
self-test runs (R101). -/
def State.fenceBay (s : State) (c b w : Nat) : State :=
  let st := vget (s.cluster c).bstat b 0
  if bit st 31 then s else
  let s := s.modCluster c fun k => { k with bstat := vset k.bstat b (setField (setField st 0 13 w) 30 2 3) }
  s.fence 1 (c * 16 + b) none 0 0

/-- A landing core has an access or a push pending for the job that it serves (R246): a thread of its own runs, an access waits
for its translation, or a push is under way. -/
def Core.pendingAccess (c : Core) : Bool := c.act == .task || c.act == .exchange || c.farReq.isSome || c.pushes ≠ []

/-- A core fenced (R100, R246): it stops, and its job ends; that of a landing core only if an access or push of it is pending. -/
def State.fenceCore (s : State) (a : Nat) (cause : Nat) : State :=
  let j := if isLanding a && !(s.core a).pendingAccess then none else s.jobOf a
  let kind := if isLanding a then 5 else 2
  (s.fence kind a j a cause).modCore a fun c => { c with act := .stopped }

/-- A cluster fenced (R246): all its cores stop, and the job whose stand contains it ends. -/
def State.fenceCluster (s : State) (c : Nat) : State :=
  ((List.range 32).map (agentIn c)).foldl (fun (s : State) a => s.modCore a fun k => { k with act := .stopped })
    (s.fence 3 c (s.hub.jobs.find? fun j => !j.stand.away && j.clusters.contains c) 0 0)

end Sys2Proof.Machine
end

