-- ==== Sys2Proof/Machine/Ops.lean ====
section
/-! DEFINITION. The shape of every instruction's meaning: the checks of decoding that look at the state (spec/08 R262), the
guard, completion, stalling, taking a trap (spec/06 R219, R221) and returning from one (R220), and the step of a replay
(spec/08 R270, R271). -/

namespace Sys2Proof.Machine

/-! ## Ways an instruction ends -/

/-- Why an instruction does not complete: a trap with its value; a trap in a state that the instruction has changed; or a
stall with the state in which it goes on later. -/
inductive Stop where
  | trap (c : Cause) (v : W64)
  | trapAt (s : State) (c : Cause) (v : W64)
  | stall (s : State)
  deriving DecidableEq, Repr

/-- A computation that a trap or a stall may end. -/
abbrev M := Except Stop

/-- A trap. -/
def trap {α : Type} (c : Cause) (v : Nat) : M α := .error (.trap c (w64 v))

/-- A trap unless the condition holds. -/
def require (b : Bool) (c : Cause) (v : Nat) : M Unit := if b then .ok () else trap c v

/-- How an instruction completes: at the next instruction; by a transfer of control; or with the program counter and the
latch as the meaning left them. -/
inductive Fin where
  | adv (s : State)
  | jump (s : State) (pc : W32)
  | done (s : State)
  deriving DecidableEq, Repr

/-! ## Prefix fields (R256, R257) -/

/-- The fields of a prefix, as numbers. -/
structure Mods where
  rm  : Nat
  sat : Nat
  pg  : Nat
  neg : Bool
  ew  : Nat
  ftz : Bool
  deriving DecidableEq, Repr

/-- The neutral fields. -/
def Mods.neutral : Mods := { rm := 6, sat := 0, pg := 0, neg := false, ew := 0, ftz := false }

/-- The fields of a prefix word. -/
def Mods.ofWord (w : W32) : Mods :=
  { rm := field w 2 3, sat := field w 5 2, pg := field w 7 3, neg := bit w 10, ew := field w 11 2, ftz := bit w 13 }

/-- The fields that the latch gives the next instruction. -/
def Core.mods (c : Core) : Mods :=
  match c.latch with
  | some w => Mods.ofWord w
  | none => Mods.neutral

/-- The prefix fields that a major accepts (R265): R, S, G, E, F. -/
def acceptsOf (m : Nat) : Bool × Bool × Bool × Bool × Bool :=
  if m ≤ 0x01 || m = 0x05 || m = 0x0D || m = 0x0E || m = 0x54 then (false, true, true, false, false)
  else if m ≤ 0x14 then (false, false, true, false, false)
  else if m = 0x1A || m = 0x1C || m = 0x1D then (false, false, true, false, false)
  else if noPfxMajor m then (false, false, false, false, false)
  else if m ≤ 0x41 then (false, false, true, false, false)
  else if m ≤ 0x45 then (false, false, true, true, false)
  else if m ≤ 0x47 || m = 0x4C then (true, true, true, true, true)
  else if m = 0x48 || m = 0x4A || m = 0x4D || m = 0x4E || m = 0x4F || m = 0x53 then (false, false, true, true, false)
  else if m = 0x49 then (false, false, true, true, true)
  else if m = 0x4B then (true, false, true, true, true)
  else if m = 0x51 then (true, false, true, false, true)
  else if m = 0x52 then (true, true, true, false, true)
  else if m = 0x7F then (true, true, true, true, true)
  else (false, false, true, false, false)

/-- Every field that is not neutral is one that the major accepts (R257). -/
def Mods.acceptedBy (x : Mods) (m : Nat) : Bool :=
  let (r, s, g, e, f) := acceptsOf m
  (r || x.rm == 6) && (s || x.sat == 0) && (g || (x.pg == 0 && !x.neg)) && (e || x.ew == 0) && (f || !x.ftz)

/-- The guard of an instruction is true (R257). -/
def Core.guard (c : Core) (x : Mods) : Bool := c.pr x.pg != x.neg

/-! ## Classes (spec/06 R197) -/

/-- The major exists on the kind of core of an agent. -/
def classPresent (a m : Nat) : Bool :=
  if m = 0x2F || m = 0x36 || (0x60 ≤ m && m ≤ 0x65) || (0x68 ≤ m && m ≤ 0x71) || (0x73 ≤ m && m ≤ 0x75) then isOrdinary a
  else if m = 0x76 then !isOrdinary a
  else if m = 0x77 then isHub a
  else true

/-! ## Replay (spec/08 R269 to R271, spec/10 R294) -/

/-- REPC.COUNT, PASS, IDX. -/
def Core.repCount (c : Core) : Nat := field c.repc 52 12

/-- REPC.PASS. -/
def Core.repPass (c : Core) : Nat := field c.repc 40 12

/-- REPC.IDX. -/
def Core.repIdx (c : Core) : Nat := field c.repc 36 4

/-- The number of instructions of the block. -/
def Core.repLen (c : Core) : Nat := if field c.repc 32 4 = 0 then 16 else field c.repc 32 4

/-- A replay is active and no handler suspends it. -/
def Core.replaying (c : Core) : Bool := c.repCount ≠ 0 && !c.repSusp

/-- The address of the block's first word; bits [31:28] are those of the PC. -/
def Core.repBase (c : Core) : W32 := BitVec.ofNat 32 (field c.pc 28 4 * 2 ^ 28 + field c.repc 0 26 * 4)

/-- The TRAPV with which R269 refuses an instruction in a block; none for one that may stand there. -/
def notCapturable (i : Instr) : Option Nat :=
  let m := i.major
  if m ≤ 0x14 || (0x40 ≤ m && m ≤ 0x55) || m = 0x63 || m = 0x64 || (0x68 ≤ m && m ≤ 0x6C) || m = 0x7F then none
  else if 0x18 ≤ m && m ≤ 0x1E then some 1
  else if m = 0x1F then some 3
  else
    match i with
    | .fence _ _ _ => some 2
    | .amoAdd _ _ _ o _ _ _ | .amoAnd _ _ _ o _ _ _ | .amoOr _ _ _ o _ _ _ | .amoXor _ _ _ o _ _ _
    | .amoMin _ _ _ o _ _ _ | .amoMax _ _ _ o _ _ _ | .amoMinn _ _ _ o _ _ _ | .amoMaxn _ _ _ o _ _ _
    | .amoSwap _ _ _ o _ _ _ | .cas _ _ _ o _ _ _ => if o = 0 then some 4 else some 2
    | _ => some 4

/-- REPC after one more instruction of the block, and the address that follows it, given the one after the instruction. -/
def Core.repNext (c : Core) (next : W32) : Core :=
  if c.repIdx + 1 < c.repLen then { c with repc := setField c.repc 36 4 (c.repIdx + 1), pc := next }
  else if c.repPass + 1 < c.repCount then
    { c with repc := setField (setField c.repc 36 4 0) 40 12 (c.repPass + 1), pc := c.repBase }
  else { c with repc := 0, repBuf := [], pc := next }

/-! ## Gangs (spec/06 R208) -/

/-- The core leads a gang whose task runs. -/
def Core.leads (c : Core) : Bool := c.isGang && field c.tsk 16 3 = 0 && c.act == .task && !c.visit

/-- A leader's stream with the instruction at PC, and what the leader knows of its transfer of control (R208). -/
def Core.sendOn (c : Core) (i : Instr) (taken : Option Bool) : Core :=
  match encode i with
  | some (.one w) => { c with stream := c.stream ++ [⟨c.pc, w, 0, taken, false⟩] }
  | some (.two h t) => { c with stream := c.stream ++ [⟨c.pc, h, t, taken, false⟩] }
  | none => c

/-- What a leader forwards and how far a follower has come, after an instruction at PC that took a transfer of control or not
(R208). On passes after the first, every member replays on its own (R271). -/
def Core.forward (c : Core) (i : Instr) (taken : Bool) : Core :=
  if c.replaying && c.repPass ≠ 0 then c
  else if c.leads then if c.ahead then { c with ahead := false } else c.sendOn i (some taken)
  else
    match c.gang with
    | some (l, n) => { c with gang := some (l, n + 1), took := taken }
    | none => c

/-- An instruction of the core has issued and waits: for its tile group or its walk, or asleep in the event unit or
on words that are not full. A stall comes before issue. -/
def Core.issuedWait (c : Core) : Bool :=
  c.join.isSome || c.rev.isSome || match c.sleep with
    | .arrive _ _ | .wait _ _ | .mutex _ | .event _ _ | .full _ => true
    | _ => false

/-- A leader forwards an instruction that has issued and waits as it issues it, so that the members come to it too (R208, spec/13
R377). -/
def Core.forwardAhead (c : Core) (i : Instr) : Core :=
  if c.leads && !c.ahead && !(c.replaying && c.repPass ≠ 0) && c.issuedWait then
    { c.sendOn i none with ahead := true }
  else c

/-! ## Completion -/

/-- The address of the instruction after i. -/
def Core.nextPc (c : Core) (i : Instr) : W32 := c.pc + BitVec.ofNat 32 (4 * i.size)

/-- The core after an instruction that completes and goes on (R258, R270): the latch is consumed, the instruction counts as
issued, and PC advances or a replay takes its next place. -/
def Core.retire (c : Core) (i : Instr) : Core :=
  let c := { (c.forward i false).count 2 1 with latch := none, sleep := .none, farReq := none, passHit := false }
  if c.replaying then c.repNext (c.nextPc i) else { c with pc := c.nextPc i }

/-- The core after a taken transfer of control: the latch is cleared (R258). -/
def Core.transfer (c : Core) (i : Instr) (pc : W32) : Core :=
  { (c.forward i true).count 2 1 with latch := none, sleep := .none, farReq := none, passHit := false,
                                         pc := pc }

/-- A stall with a reason. -/
def stallFor {α : Type} (s : State) (w : Sleep) : M α := .error (.stall (s.modMe fun c => { c with sleep := w }))

/-! ## Taking a trap -/

/-- The level of a core set. -/
def Core.setLevel (c : Core) (l : Nat) : Core := { c with tsk := setField c.tsk 22 2 l }

/-- TRAPC on entry (R219, R220): CAUSE, PLV, PV, PFX and ACT. -/
def Core.trapcFor (c : Core) (cause : Cause) : W64 :=
  w64 (cause.code + c.level * 2 ^ 28 + 2 ^ 30 + b2n c.latch.isSome * 2 ^ 31 + ((c.latch.getD 0).toNat) * 2 ^ 32)

/-- A member of a gang that traps leaves it: a follower detaches, a leader closes its stream (R208). -/
def Core.leaveGang (c : Core) : Core :=
  let close : Forward := ⟨c.pc, 0, 0, none, true⟩
  if c.leads then
    { c with
      stream := if c.ahead then c.stream.dropLast ++ [close, close] else c.stream ++ [close]
      ahead := false }
  else if c.gang.isSome then { c with gang := none, tsk := setField c.tsk 19 1 1 }
  else c

/-- A core brought to an instruction boundary: a prefix that it holds is fetched again with its instruction, and a gang carries the two
together again (spec/08 R258): a leader takes them back from its stream, and a follower stands before the prefix. -/
def Core.toBoundary (c : Core) : Core :=
  if c.latch.isNone then c
  else
    { c with
      pc := c.pc - 4, latch := none, held := none, ahead := false
      stream := if c.leads then c.stream.take (c.stream.length - if c.ahead then 2 else 1) else c.stream
      gang := c.gang.map fun g => (g.1, g.2 - 1) }

/-- A wait for the tile group abandoned: the log entry reserved before the join is given back, unless LOGP already stands lower
(spec/14 R397). -/
def Core.dropJoin (c : Core) : Core :=
  match c.join with
  | some { entry := some (p, _), .. } =>
    { c with join := none, logp := if field c.logp 0 28 ≤ field p 0 28 then c.logp else p.setWidth 64 }
  | _ => { c with join := none }

/-- A wait for the tile group and a REVERSE abandoned: the flags of the gradients written go to FCSR (spec/14 R402). -/
def Core.leaveJoin (c : Core) : Core :=
  let c := c.dropJoin
  match c.rev with
  | some r => { c with rev := none, fcsr := c.fcsr ||| r.flags.setWidth 64 }
  | none => c

/-- The registers of a core that takes a trap at `pc` (R219): TRAPPC, TRAPV and TRAPC saved, the level raised to runtime, a
replay suspended (R271), the latch invalid, PC at TVEC. -/
def Core.enterTrap (c : Core) (cause : Cause) (v : W64) (pc : W32) : Core :=
  let lv := if c.level < 1 then 1 else c.level
  { c.leaveJoin.leaveGang.setLevel lv with
    trappc := pc.setWidth 64, trapv := v, trapc := c.trapcFor cause, latch := none, sleep := .none,
    farReq := none, walked := none, repSusp := c.repCount ≠ 0, pc := (c.tvec.extractLsb' 2 30) ++ (0 : BitVec 2) }

/-- A double trap (R221): the core stops with its trap registers as they were, one entry with DBL set is written, and the
job ends with status TRAPPED; a hub core is fenced (spec/07 R246). -/
def State.doubleTrap (s : State) (a : Nat) (cause : Cause) (v : W64) : State :=
  let c := s.core a
  let s := (s.modCore a fun c => { c with act := .stopped, sleep := .none }).recordCause (coreCause a c 0 true cause v)
  if isHub a then s.fence 2 a none a cause.code
  else
    match s.jobOf a with
    | some j => s.endJob j .trapped a cause.code
    | none => s

/-- TrapEntry (R219) on core a for the instruction at `pc`. -/
def State.trapEntry (s : State) (a : Nat) (cause : Cause) (v : W64) (pc : W32) : State :=
  let c := s.core a
  if bit c.trapc 30 || c.tvec = 0 then s.doubleTrap a cause v
  else
    let t := s.setCore a (c.enterTrap cause v pc)
    let t := t.recordCause (coreCause a c 0 false cause v)
    t.trace a 3 0x83 (pc.toNat + cause.code * 2 ^ 32 + v.toNat % 2 ^ 56 * 2 ^ 40)

/-- The word of the TCM or of the scratch of core a, or the granule tag, that an UNCORRECTABLE of this value names is in error
now: it is not where a hub core met it in a landing core's TCM, or where a port fetched it some time ago (spec/02 R97). -/
def State.errorHere (s : State) (a : Nat) (v : W64) : Bool :=
  let k := (if field v 0 4 = 1 then tcmBase a else scratchBase (clusterOf a)) + field v 8 24
  if bit v 4 then s.badTags.contains (k / 32) else s.badWords.contains (k / 4)

/-- An UNCORRECTABLE of this value in the memories of core a fences the core, and no handler runs on it: an error in its TCM
(spec/02 R100), or in dirty bytes of a landing core's L1 (spec/07 R246). -/
def State.fencesCore (s : State) (a : Nat) (v : W64) : Bool :=
  (field v 0 4 = 1 && s.errorHere a v) || (field v 0 4 = 7 && isLanding a)

/-- What the hardware does as soon as an access to the memories of core a, by the core itself or by an engine, meets an
error: the core is fenced and the cause table has the error (spec/02 R100); the first error in a bay fences the bay (R99),
and one in HBM its pseudo-channel (spec/04 R138). -/
def State.detect (s : State) (a : Nat) (cause : Cause) (v : W64) : State :=
  if cause ≠ .uncorrectable then s
  else if s.fencesCore a v then (s.recordCause (coreCause a (s.core a) 0 false cause v)).fenceCore a cause.code
  else if field v 0 4 = 2 && !bit v 5 && s.errorHere a v then
    s.fenceBay (clusterOf a) (field v 8 24 / 0x8000) (field v 8 24 % 0x8000 / 4)
  else if field v 0 4 = 5 && !bit v 5 then s.fence 6 (channelOf (field v 8 41)) none 0 0
  else s

/-- A check of an access to the memories of agent b by another agent, or by an engine: an error that it meets is detected at once
(spec/02 R99, R100). -/
def detecting {α : Type} (s : State) (b : Nat) : M α → M α
  | .error (.trap c v) => .error (.trapAt (s.detect b c v) c v)
  | m => m

/-- The trap of the core that moves, at its instruction. A refusal of a replayed block makes REPC inactive (spec/08 R269). -/
def State.takeTrap (s : State) (cause : Cause) (v : W64) : State :=
  let a := s.cur
  let c := s.me
  match cause with
  | .uncorrectable =>
    if s.fencesCore a v then s.detect a cause v else (s.detect a cause v).trapEntry a cause v c.pc
  | .repfIllegal =>
    if v = 5 then s.trapEntry a cause v c.pc
    else (s.setMe { c with repc := 0, repBuf := [] }).trapEntry a cause v c.pc
  | _ => s.trapEntry a cause v c.pc

/-! ## Issue -/

/-- The checks of R262 that follow the look at the words, up to the guard: orphans, classes, prefix fields, and whether a
replayed block may hold the instruction. The answer says whether the guard is true. -/
def allowed (i : Instr) (a : Nat) (c : Core) : M (Option Mods) := do
  require (c.latch.isNone || i.pBit) .pfxOrphan 1
  require (c.latch.isSome || !i.pBit) .pfxOrphan 2
  require (i.major = 0x7F || classPresent a i.major) .illegal 3
  require (i.major = 0x7F || c.mods.acceptedBy i.major) .illegal 14
  if c.replaying && c.repPass = 0 then
    match notCapturable i with
    | some v => trap .repfIllegal v
    | none => pure ()
  pure (if c.guard c.mods then some c.mods else none)

/-- One instruction of the core that moves: the checks, the guard, then its effect. A discarded instruction still consumes
its prefix and advances PC (R259). -/
def issue (i : Instr) (s : State) (body : Mods → State → M Fin) : Host.Outcome State Fault Refusal :=
  .next (match allowed i s.cur s.me with
    | .error (.trap c v) => s.takeTrap c v
    | .error (.trapAt t c v) => t.takeTrap c v
    | .error (.stall t) => t
    | .ok none => s.modMe fun c => c.retire i
    | .ok (some x) =>
      match body x s with
      | .ok (.adv t) => t.modMe fun c => c.retire i
      | .ok (.jump t pc) => t.modMe fun c => c.transfer i pc
      | .ok (.done t) => t
      | .error (.trap c v) => s.takeTrap c v
      | .error (.trapAt t c v) => t.takeTrap c v
      | .error (.stall t) => t.modMe fun c => (c.forwardAhead i).count 3 1)

/-- A hardware step or event: it has no words, and every state answers it. -/
def event (s : State) : Host.Outcome State Fault Refusal := .next s

/-! ## Returning from a trap (R220) -/

/-- The registers after ERET: the level from PLV, the latch from PV and PFX, ACT clear, a suspended replay resumed with its
block captured again (R271), and stream ports whose fault trapped fetching again (spec/12 R357). -/
def Core.leaveTrap (c : Core) : Core :=
  { c.setLevel (field c.trapc 28 2) with
    trapc := setField c.trapc 30 1 0
    latch := if bit c.trapc 31 then some (c.trapc.extractLsb' 32 32) else none
    ports := c.ports.map fun p => { p with faulted := false }
    pc := c.trappc.setWidth 32, sleep := .none, repSusp := false }

end Sys2Proof.Machine
end

