-- ==== Sys2Proof/Machine/Tasks.lean ====
section
/-! DEFINITION. Task entries, order keys and the states in which tasks and exchange routines start (spec/06 R201 to R204,
R472, spec/05 R171). -/

namespace Sys2Proof.Machine

/-- A task entry (R201). -/
abbrev Entry := BitVec 128

/-- STATE of an entry: 0 FREE, 1 WAIT, 2 READY, 3 RUN, 4 YIELDED. -/
def Entry.state (e : Entry) : Nat := field e 0 3

/-- K: the entry returns to WAIT at TEND. -/
def Entry.kept (e : Entry) : Bool := bit e 6

/-- O: an ordered task. -/
def Entry.ordered (e : Entry) : Bool := bit e 7

/-- G: a gang task. -/
def Entry.gang (e : Entry) : Bool := bit e 8

/-- The width of the gang: 8, 4 or 2 cores. -/
def Entry.width (e : Entry) : Nat := if field e 9 2 = 0 then 8 else if field e 9 2 = 1 then 4 else 2

/-- MCID: the message counter. -/
def Entry.mcid (e : Entry) : Nat := field e 11 5

/-- THRESH: the threshold of the counter. -/
def Entry.thresh (e : Entry) : Nat := field e 16 16

/-- TS: the timestamp. -/
def Entry.ts (e : Entry) : Nat := field e 32 32

/-- ARG. -/
def Entry.arg (e : Entry) : Nat := field e 64 32

/-- PC of the routine, with bits [1:0] zero (spec/08 R252). -/
def Entry.pc (e : Entry) : W32 := (e.extractLsb' 98 30) ++ (0 : BitVec 2)

/-- An entry with another STATE. -/
def Entry.withState (e : Entry) (n : Nat) : Entry := setField e 0 3 n

/-- Entry i of a core's task table. -/
def Core.entry (c : Core) (i : Nat) : Entry := vget c.tasks i 0

/-- Entry i of a core's task table replaced. -/
def Core.setEntry (c : Core) (i : Nat) (e : Entry) : Core := { c with tasks := vset c.tasks i e }

/-- An entry that R201 refuses on core a. -/
def Entry.refused (e : Entry) (a : Nat) : Bool :=
  (e.ordered && e.gang) || field e 9 2 == 3 || ((e.gang || e.ordered) && !isOrdinary a)
    || (e.gang && a % e.width != 0)

/-- The order key of entry i of core a: timestamp, core, index (R171). -/
def orderKey (a i : Nat) (e : Entry) : Nat := e.ts * 2 ^ 32 + a % 2 ^ 20 * 2 ^ 6 + i

/-- An ordered task that is pending: from ready until its commit (R171). -/
def Entry.pending (e : Entry) : Bool := e.ordered && (e.state == 2 || e.state == 3 || e.state == 4)

/-- The keys of the pending ordered tasks of core a. -/
def State.pendingOn (s : State) (a : Nat) : List Nat :=
  let c := s.core a
  (List.range 64).filterMap fun i => if (c.entry i).pending then some (orderKey a i (c.entry i)) else none

/-- The key of the task that runs on core a. -/
def State.runKey (s : State) (a : Nat) : Nat := orderKey a (s.core a).taskId ((s.core a).entry (s.core a).taskId)

/-- The cores of a cluster that the state lists. -/
def State.coresOf (s : State) (c : Nat) : List Nat :=
  (s.cores.filter fun e => isOrdinary e.1 && clusterOf e.1 == c).map (·.1)

/-- The running ordered task of core a is the oldest of its cluster (R171). -/
def State.isOldest (s : State) (a : Nat) : Bool :=
  (s.coresOf (clusterOf a)).all fun b => (s.pendingOn b).all fun k => s.runKey a ≤ k

/-- A counter at its threshold makes waiting entries READY (R202). -/
def Core.wake (c : Core) : Core :=
  { c with tasks := c.tasks.map fun e =>
      if Entry.state e = 1 && Entry.thresh e ≤ (vget c.mc (Entry.mcid e) 0).toNat then Entry.withState e 2 else e }

/-- An entry as it is first written: READY when THRESH is 0, WAIT otherwise, then as its counter stands (R202). -/
def Core.addEntry (c : Core) (i : Nat) (e : Entry) : Core := (c.setEntry i (e.withState 1)).wake

/-- The spill base of a task that starts: the end of the newest yield block, or WSP.BASE (R204, R472). -/
def Core.spillBase (c : Core) : Nat :=
  match c.yields with
  | (_, n) :: _ => n
  | [] => areaBase c.wsp

/-- WPTR with one resident frame and a floor (spec/10 R293). -/
def wptrAt (floor : Nat) : W64 := w64 (8 + floor * 2 ^ 16)

/-- The default polder of the job that holds core a (R17, R204); outside any job, the thread's own polder at depth 0. -/
def State.defaultPol (s : State) (a : Nat) : BitVec 12 :=
  match s.jobOf a with
  | some j => j.pol
  | none => s.basePol a

/-- The registers in which a task or the exchange routine starts (R204): scalar, predicate, vector and mask registers zero
but for s8 and s9, one resident frame at a floor, depth 0 in a polder, no latch, no replay. -/
def Core.fresh (c : Core) (s8 s9 : W64) (floor : Nat) (cp tvec : W64) (pc : W32) : Core :=
  { c with
    g := Vector.replicate 8 0
    frames := vset (Vector.replicate 6 zeroFrame) 0 (vset (vset zeroFrame 0 s8) 1 s9)
    p := 0, v := Vector.replicate 16 0, q := Vector.replicate 8 0
    wptr := wptrAt floor, wsp := setPtr c.wsp floor, dsd := setPtr c.dsd (areaBase c.dsd)
    curpol := cp, tvec := tvec, dom := [], budget := [], vsaved := [], repc := 0, repBuf := [], repSusp := false
    latch := none, held := none, visit := false, sleep := .none, pc := pc, unwindTo := none, join := none, rev := none }

/-- TSK of entry i started with a member index (R199, R204). -/
def tskOf (e : Entry) (i gidx level : Nat) : W64 :=
  w64 (i + e.mcid * 2 ^ 6 + b2n e.kept * 2 ^ 11 + b2n e.ordered * 2 ^ 12 + b2n e.gang * 2 ^ 13 + field e 9 2 * 2 ^ 14
    + gidx * 2 ^ 16 + level * 2 ^ 22)

/-- What an ordered task holds when it starts: an empty buffer, the copies of R178, and the windows and gate status that an
abort gives back (R176). -/
def Core.orderedStart (c : Core) : Ordered :=
  { lines := [], reads := [], spawns := [], fcsr := c.fcsr, srseed := c.srseed, bd := c.bd, aw0 := c.aw0, aw1 := c.aw1,
    gst := c.gst }

/-- Core a in the state in which entry e with index i starts with a member index (R204); `dev` for a set-up task, which
starts in the device polder at device level (R218). -/
def State.startAs (s : State) (a : Nat) (e : Entry) (i gidx : Nat) (dev : Bool) : State :=
  let pol : BitVec 12 := if dev then 0 else s.defaultPol a
  s.modCore a fun c =>
    { c.fresh (w64 e.arg) (w64 gidx) c.spillBase (s.curpolOf pol 0) (w64 (descTvec (s.desc pol))) e.pc with
      tsk := tskOf e i gidx (if dev then 2 else 0), tstamp := w64 e.ts, act := .task
      qfail := vset c.qfail i 0, ordered := if e.ordered then some c.orderedStart else none }

/-- Core a in the state in which its own entry e with index i starts. Hub cores run at device level only (R218). -/
def State.startRegs (s : State) (a : Nat) (e : Entry) (i gidx : Nat) : State :=
  s.startAs a e i gidx (isHub a || (s.core a).setup.contains i)

/-- Core a in the state in which its exchange routine starts (R204, R212). -/
def State.exchangeRegs (s : State) (a : Nat) : State :=
  let pol := s.defaultPol a
  s.modCore a fun c =>
    { c.fresh (w64 (field c.ssn 0 32)) 0 (areaBase c.wsp) (s.curpolOf pol 0) (w64 (descTvec (s.desc pol)))
        ((c.xpc.extractLsb' 2 30) ++ (0 : BitVec 2)) with
      tsk := 0x200000#64, tstamp := 0, xt := 0, act := .exchange, ordered := none }

end Sys2Proof.Machine
end

