-- ==== Sys2Proof/Machine/Local.lean ====
section
/-! DEFINITION. The local address map and the check on every local access (spec/01 R13 to R16, R25 to R30), errors of the
local memories (spec/02 R95 to R99), watch units (spec/16 R449), and single reads and writes of local memory. -/

namespace Sys2Proof.Machine

/-- The regions of the local map (R14). -/
inductive Region where
  | tcm (upper : Bool)
  | bay (b : Nat)
  | event
  | control
  | shelf
  deriving DecidableEq, Repr

/-- The kinds of access that R27 tells apart. -/
inductive Access where
  | load | store | atomic | fetch | engine
  deriving DecidableEq, Repr

/-- A checked location: its region, offset and memory key. -/
structure Loc where
  region : Region
  off    : Nat
  key    : Nat
  deriving DecidableEq, Repr

/-- The region of an offset on the kind of core of agent a (R14, R15). -/
def regionOf (a off : Nat) : Option Region :=
  if off < 0x4000 then some (.tcm (0x2000 ≤ off))
  else if 0x8000000 ≤ off then if isHub a then none else some .shelf
  else if !isOrdinary a then none
  else if 0x80000 ≤ off && off < 0x100000 then some (.bay ((off - 0x80000) / 0x8000))
  else if 0x100000 ≤ off && off < 0x110000 then some .event
  else if 0x110000 ≤ off && off < 0x120000 then some .control
  else none

/-- The memory key of an offset in TCM, scratch or shelf of agent a. -/
def keyOf (a off : Nat) : Nat :=
  if off < 0x4000 then tcmBase a + off
  else if 0x8000000 ≤ off then shelfBase (dieOf a) + (off - 0x8000000)
  else scratchBase (clusterOf a) + (off - 0x80000)

/-- The size of a die's shelf (R16). -/
def State.shelfBytes (s : State) (d : Nat) : Nat := (16 - (s.die d).cways) * 2 ^ 24

/-- The berm way that holds a shelf byte (spec/04 R128). -/
def shelfWay (byte : Nat) : Nat := 15 - byte / 2 ^ 24 % 16

/-- The owner of the unit that holds an offset (R21). -/
def State.ownerAt (s : State) (a off : Nat) : Region → Option (BitVec 12)
  | .tcm up => s.tcmOwner a up
  | .bay b => s.bayOwner (clusterOf a) b
  | .shelf => s.segOwner (dieOf a) ((off - 0x8000000) / 0x10000)
  | _ => none

/-- A window covers a whole access (R24, R26). -/
def windowCovers (w : W64) (off size : Nat) : Bool :=
  bit w 63 && field w 0 28 ≤ off && off + size ≤ field w 0 28 + field w 32 17

/-- The windows that cover an access. -/
def Windows.covering (x : Windows) (off size : Nat) : List W64 := [x.w0, x.w1].filter fun w => windowCovers w off size

/-- The code of POLDER_ACCESS for a unit that is not reachable (R28). -/
def Region.code : Region → Nat
  | .bay _ => 1 | .tcm _ => 2 | .shelf => 3 | _ => 0

/-- The kinds that need R of a window. -/
def Access.reads : Access → Bool
  | .load | .atomic => true
  | _ => false

/-- The kinds that need W of a window. -/
def Access.writes : Access → Bool
  | .store | .atomic | .engine => true
  | _ => false

/-- Ownership and windows (R21, R26, R27). -/
def State.checkOwner (s : State) (a : Nat) (x : Ctx) (r : Region) (off size : Nat) (k : Access) : M Unit :=
  if s.ownerAt a off r = some x.pol then .ok ()
  else
    let ws := x.wins.covering off size
    if ws = [] then trap .polderAccess r.code
    else if k.reads && !(ws.any fun w => bit w 61) then trap .polderAccess 5
    else if k.writes && !(ws.any fun w => bit w 62) then trap .writeProtect 2
    else .ok ()

/-- The tags of n granules from key g up against a pointer's tag; the index of each granule goes into TRAPV (R27, R28). -/
def State.checkTags (s : State) (g tag i : Nat) : Nat → M Unit
  | 0 => .ok ()
  | n + 1 =>
    let t := (s.tag g).toNat
    if tag = 15 || t ≠ tag then trap .tagMismatch (t + tag * 16 + b2n (0 < i) * 256) else s.checkTags (g + 1) tag (i + 1) n

/-- How many granules an access of `size` bytes at a key touches. -/
def granules (key size : Nat) : Nat := (key + size - 1) / 32 - key / 32 + 1

/-- The check of R27 but for tags: address, alignment, region, shelf size and conversion (spec/04 R136), ownership and
windows, code bays. `x` is for whom the access is made, `lvl` the level of the thread. -/
def State.checkReach (s : State) (a : Nat) (x : Ctx) (lvl : Nat) (ea : W64) (size : Nat) (k : Access) : M Loc := do
  require (field ea 32 32 = 0) .polderAccess 7
  let off := field ea 0 28
  require (off % size = 0) .align size
  match regionOf a off with
  | none => trap .polderAccess 0
  | some .event => pure ⟨.event, off, 0⟩
  | some .control => pure ⟨.control, off, 0⟩
  | some r => do
    if r = .shelf then do
      let d := s.die (dieOf a)
      let b := off - 0x8000000
      require (!(d.affected (shelfWay b))) .bermFenced (shelfWay b)
      require (b + size ≤ s.shelfBytes (dieOf a)) .polderAccess 4
    s.checkOwner a x r off size k
    match r with
    | .bay b =>
      require (!((k == .store || k == .atomic) && s.bayFormat (clusterOf a) b = 1 && lvl = 0)) .writeProtect 1
    | _ => pure ()
    pure ⟨r, off, keyOf a off⟩

/-- The location has granule tags that are compared: TCM, scratch and shelf (spec/02 R67). -/
def Loc.tagged (l : Loc) : Bool := l.region != .event && l.region != .control

/-- LocalCheck of R27 for loads, stores, atomics and engine writes to memory; State.accessCheck adds ControlCheck. -/
def State.localCheck (s : State) (a : Nat) (x : Ctx) (lvl : Nat) (ea : W64) (size : Nat) (k : Access) : M Loc := do
  let l ← s.checkReach a x lvl ea size k
  if l.tagged then s.checkTags (l.key / 32) (field ea 28 4) 0 (granules l.key size)
  pure l

/-- The store to a register of the control block that R67 and R68 let through; `r` is the offset within the block. -/
def State.controlWritable (s : State) (a : Nat) (x : Ctx) (lvl r : Nat) : M Unit :=
  if r < 0x400 && (r % 0x40 = 0x00 || r % 0x40 = 0x10) then do
    require (lvl = 2 || s.bayOwner (clusterOf a) (r / 0x40) = some x.pol) .polderAccess 1
    require (lvl ≠ 0) .privilege 1
  else if r < 0x400 && (r % 0x40 = 0x08 || r % 0x40 = 0x20) then require (lvl = 2) .privilege 1
  else if 0x400 ≤ r && r < 0x500 then require (lvl = 2) .privilege 1
  else trap .writeProtect 3

/-- R66 lists a register at an offset of the control block, aligned to 8 bytes. -/
def controlListed (r : Nat) : Bool :=
  if r < 0x400 then r % 0x40 ≤ 0x20 else r < 0x500 || (0x800 ≤ r && r < 0xC08)

/-- R83 lists a register at an offset of the event unit, aligned to 4 bytes: none, or whether it takes stores, and whether
they need runtime or device level. -/
def unitListed (o : Nat) : Option (Bool × Bool) :=
  if o < 0x200 then
    if o % 0x40 ≤ 0x14 then some (o % 0x40 = 0x08 || o % 0x40 = 0x10, o % 0x40 = 0x10) else none
  else if 0x800 ≤ o && o < 0x880 then some (o % 8 = 0, false)
  else if 0x1000 ≤ o && o < 0x1100 then some (o % 8 = 0, false)
  else if o = 0x1100 then some (true, false)
  else none

/-- ControlCheck of R27, as spec/02 R67, R68 and R83 give it: size, offset, kind, level and owner. What depends on the data
stored, or on who holds a mutex, is no part of it. -/
def State.controlCheck (s : State) (a : Nat) (x : Ctx) (lvl : Nat) (l : Loc) (size : Nat) (k : Access) : M Unit :=
  match l.region with
  | .control => do
    require ((k == .load && (size = 4 || size = 8)) || (k == .store && size = 8)) .polderAccess 8
    require (controlListed ((l.off - 0x110000) / 8 * 8)) .polderAccess 8
    if k == .store then s.controlWritable a x lvl (l.off - 0x110000)
  | .event => do
    require ((k == .load || k == .store) && size = 4) .polderAccess 8
    match unitListed (l.off - 0x100000) with
    | none => trap .polderAccess 8
    | some (st, high) =>
      require (k == .load || st) .writeProtect 3
      require (k == .load || !high || lvl ≠ 0) .privilege 1
  | _ => .ok ()

/-- The whole check of R27: State.localCheck, and ControlCheck for the event unit and the control block. -/
def State.accessCheck (s : State) (a : Nat) (x : Ctx) (lvl : Nat) (ea : W64) (size : Nat) (k : Access) : M Loc := do
  let l ← s.localCheck a x lvl ea size k
  s.controlCheck a x lvl l size k
  pure l

/-- The check of an instruction fetch at a local pointer (R27, R30); fetches are not tag-checked. -/
def State.fetchCheck (s : State) (a : Nat) (pol : BitVec 12) (pc : W32) : M Loc :=
  let off := field pc 0 28
  match regionOf a off with
  | none => trap .polderAccess 0
  | some (.bay b) =>
    if s.bayFormat (clusterOf a) b = 1 && s.bayOwner (clusterOf a) b = some pol then .ok ⟨.bay b, off, keyOf a off⟩
    else trap .polderAccess 6
  | some (.tcm up) =>
    if !isOrdinary a && s.tcmOwner a up = some pol then .ok ⟨.tcm up, off, keyOf a off⟩ else trap .polderAccess 6
  | some .shelf =>
    if s.shelfBytes (dieOf a) < off - 0x8000000 + 4 then trap .polderAccess 4 else trap .polderAccess 6
  | some _ => trap .polderAccess 6

/-! ## Errors (spec/02 R95 to R99, spec/04 R139, R140) -/

/-- The TRAPV of an uncorrectable error in local memory, at the key of the failing word or granule. -/
def errorValue (a : Nat) (l : Loc) (bad : Nat) (tag fenced : Bool) : Nat :=
  match l.region with
  | .tcm _ => 1 + b2n tag * 16 + (bad - tcmBase a) * 256
  | .shelf => 4 + b2n tag * 16 + (bad - shelfBase (dieOf a)) / 32 * 32 * 256
  | _ => 2 + b2n tag * 16 + b2n fenced * 32 + (bad - scratchBase (clusterOf a)) * 256

/-- Every byte of `size` bytes marked. -/
def allBytes (size : Nat) : Nat := 2 ^ size - 1

/-- The bay of the location is fenced (R99). -/
def State.fencedAt (s : State) (a : Nat) (l : Loc) : Bool :=
  match l.region with
  | .bay b => bit (vget (s.cluster (clusterOf a)).bstat b 0) 31
  | _ => false

/-- Error correction of an access to the bytes that mask marks: a fenced bay, a tag store that failed, and a word that failed
and that the access reads or replaces only in part (R97 to R99). -/
def State.eccMasked (s : State) (a : Nat) (l : Loc) (size mask : Nat) (reads : Bool) : M Unit :=
  if s.fencedAt a l then trap .uncorrectable (errorValue a l (l.key / 4 * 4) false true)
  else
    match s.badFor l.key size mask reads with
    | none => .ok ()
    | some (k, tag) => trap .uncorrectable (errorValue a l k tag false)

/-- Error correction of an access of `size` bytes. A store reads the word that it covers only in part (R98). -/
def State.eccCheck (s : State) (a : Nat) (l : Loc) (size : Nat) (reads : Bool) : M Unit :=
  s.eccMasked a l size (allBytes size) reads

/-- n corrected errors of a location counted: in CECNT of its bay, or at the core for its TCM, and in the banks that count
ECC_CORRECTED (R96, spec/16 R446). -/
def State.countSoft (s : State) (a : Nat) (l : Loc) (n : Nat) : State :=
  match l.region with
  | .bay b =>
    let s := s.modCluster (clusterOf a) fun c =>
      let st := vget c.bstat b 0
      { c with bstat := vset c.bstat b (setField st 48 16 (min (field st 48 16 + n) 0xFFFF)) }
    s.countCluster (clusterOf a) 14 n (s.baseFn a)
  | .tcm _ =>
    let s := s.modCore a fun c => { c with cecnt := c.cecnt + n }
    if isOrdinary a then s.countCluster (clusterOf a) 14 n (s.baseFn a)
    else if isLanding a then s.countDie (dieOf a) 14 n (s.baseFn a)
    else s
  | _ => s

/-- Correctable errors that a read has found, counted, and written back corrected in an idle cycle of their bank (R96). -/
def State.correct (s : State) (a : Nat) (l : Loc) (ks : List Nat) : State :=
  if ks = [] then s
  else
    let t := s.countSoft a l ks.length
    { t with agenda := t.agenda ++ ks.map fun k => .eccWriteback (BitVec.ofNat 48 k) }

/-- A read that finds correctable errors, in words or in granule tags (R95, R96). -/
def State.softRead (s : State) (a : Nat) (l : Loc) (size : Nat) : State := s.correct a l (s.softErrors l.key size)

/-! ## Hits (spec/16 R449 to R452) -/

/-- The stand of the core is under halt-at-hit. -/
def State.haltAtHit (s : State) (a : Nat) : Bool := s.inReplay a && !(s.core a).passHit

/-- A core that halts raises BRK: TRAPPC is its instruction, and no handler runs (R452); TRAPC and TRAPV stay (spec/06 R222). A
prefix that it holds is fetched again with its instruction (spec/08 R258). -/
def Core.halt (c : Core) : Core := { c.toBoundary with act := .halted, trappc := c.pc.setWidth 64, held := none }

/-- The core halts at its instruction, and every other core of the stand stops (R452). The manual gives BRK no TRAPV: that of its
cause-table entry is a free value (log entry 95). -/
def State.haltStand (s : State) (a : Nat) : State :=
  match s.jobOf a with
  | none => s
  | some j =>
    let t := { s with free := s.free + 1 }.recordCause (coreCause a (s.core a) 0 false .brk (Config.brkValue s.free))
    (t.modJob j fun j => { j with stand := { j.stand with halted := some a } }).modCore a Core.halt

/-- A watch unit matches an access (R449, R453): enabled, its range overlapped, its kind met. -/
def watchMatches (ctl base : W64) (off size : Nat) (ld st : Bool) : Bool :=
  let lo := field base 0 28
  bit ctl 63 && off < lo + field ctl 0 12 + 1 && lo < off + size
    && ((ld && bit ctl 60) || (st && bit ctl 61))

/-- Watch unit u of the core that moves is hit by an access that passed its checks. -/
def State.watchHit (s : State) (u : Nat) (ea : W64) (size : Nat) (ld st : Bool) : Bool :=
  watchMatches (vget s.me.wctl u 0) (vget s.me.wbase u 0) (field ea 0 28) size ld st

/-- Under halt-at-hit, an access that a watch unit hits halts the core before it completes (R452). -/
def State.watchStop (s : State) (ea : W64) (size : Nat) (ld st : Bool) : M Unit :=
  if (s.watchHit 0 ea size ld st || s.watchHit 1 ea size ld st) && s.haltAtHit s.cur then .error (.stall (s.haltStand s.cur))
  else .ok ()

/-- One watch unit's hit recorded live (R449, R450). -/
def State.watchUnit (s : State) (u : Nat) (ea : W64) (size : Nat) (ld st : Bool) : State :=
  if s.watchHit u ea size ld st then
    let t := s.trace s.cur 2 0x81
      (field ea 0 32 + Nat.log2 size % 8 * 2 ^ 32 + b2n st * 2 ^ 35 + u * 2 ^ 36 + s.me.pc.toNat * 2 ^ 64)
    t.modMe fun c => c.count 16 1
  else s

/-- The hits of both watch units recorded live. -/
def State.watchNote (s : State) (ea : W64) (size : Nat) (ld st : Bool) : State :=
  (s.watchUnit 0 ea size ld st).watchUnit 1 ea size ld st

/-! ## Writes that have passed their checks -/

/-- The beats of a write of the bytes that mask marks, of `size` from a key up: the naturally aligned row groups of 16 bytes
of which it writes a byte (R61). -/
def beats (key size mask : Nat) : Nat :=
  ((List.range ((key % 16 + size + 15) / 16)).filter fun i =>
    mask % 2 ^ size * 2 ^ (key % 16) / 2 ^ (16 * i) % 2 ^ 16 ≠ 0).length

/-- The bytes of x that mask marks written at a location, with no beat counted. -/
def State.putBytes (s : State) (l : Loc) (size x mask : Nat) : State :=
  (s.cleanWords l.key size mask).writeMasked l.key size x mask

/-- The bytes of x that mask marks written at a checked location of agent a: the memory, and WGEN of a bay, once for each
beat (R61, R75). -/
def State.put (s : State) (a : Nat) (l : Loc) (size x mask : Nat) : State :=
  let s := s.putBytes l size x mask
  match l.region with
  | .bay b => s.bumpWgen (clusterOf a) b (beats l.key size mask)
  | _ => s

/-- An engine's write of `size` bytes, which sets its words full (spec/02 R78, spec/05 R187). -/
def State.enginePut (s : State) (a : Nat) (l : Loc) (size x : Nat) : State :=
  (s.put a l size x (allBytes size)).fillRange l.key size

/-- The check of one engine beat at its destination (R29): R27 as an engine write, a fenced bay, no partial word. -/
def State.engineCheck (s : State) (a : Nat) (x : Ctx) (ea : W64) (size : Nat) : M Loc := do
  let l ← s.localCheck a x 1 ea size .engine
  require l.tagged .polderAccess 8
  s.eccCheck a l size false
  pure l

end Sys2Proof.Machine
end

