-- ==== Sys2Proof/Machine/Ordered.lean ====
section
/-! DEFINITION. Ordered tasks (spec/05 R171 to R180): the commit buffer, the read set, commits, aborts and write-through;
and the loads and stores of local memory that instructions make through them (spec/11 R314, R332). -/

namespace Sys2Proof.Machine

/-! ## Aborts (R176, R178) -/

/-- A core no longer waits in its event unit's lists (spec/02 R87, R323). -/
def State.leaveLists (s : State) (a : Nat) : State :=
  if isOrdinary a && (sget s.clusters (clusterOf a)).isSome then
    s.modCluster (clusterOf a) fun k =>
      { k with
        mutexes := k.mutexes.map fun x => { x with waiters := x.waiters.filter fun w => w.1.toNat ≠ coreIn a }
        events := k.events.map fun x => { x with sleepers := x.sleepers.filter fun w => w.toNat ≠ coreIn a } }
  else s

/-- The running ordered task of core a started again from its routine (R176): buffer and read set discarded, the frames of
abortable gates left silently, FCSR, SRSEED and bd restored, stream ports unbound. AW0, AW1 and GST return to what they were
when the task began, so that nothing of the aborted run is left (log entry 16). The task has left no deferred trap, since an
engine works for a write-through task only; those of earlier tasks stay pending. An active handler is abandoned (log
entry 16). -/
def State.abortTask (s : State) (a : Nat) : State :=
  match (s.core a).ordered with
  | none => s
  | some o =>
    let i := (s.core a).taskId
    let s := (s.leaveLists a).leaveFrames (s.frames a)
    let base := s.basePol a
    let s := s.modCore a fun c =>
      { c with aw0 := o.aw0, aw1 := o.aw1, gst := o.gst, fcsr := o.fcsr, srseed := o.srseed, bd := o.bd,
               trapc := setField c.trapc 30 1 0, ports := Vector.replicate 4 Port.reset,
               curpol := setField c.curpol 0 12 base.toNat, dom := [] }
    (s.startRegs a ((s.core a).entry i) i 0).countCluster (clusterOf a) 6 1 (descVf (s.desc base))

/-- Every pending task of the cluster with a higher key whose read set holds a written granule is aborted (R176). -/
def State.abortReaders (s : State) (c key : Nat) (gs : List Nat) : State :=
  (s.coresOf c).foldl (fun (s : State) b =>
    let k := s.core b
    match k.ordered with
    | some o => if k.buffered && key < s.runKey b && o.reads.any (fun g => gs.contains g) then s.abortTask b else s
    | none => s) s

/-! ## Commit (R172, R173, R175) -/

/-- The checks of a commit on a buffered line: every store that it holds is checked again for whom it was made, with its own
pointer and size, and a failure raises POLDER_ACCESS with the TRAPV of the failed check (spec/01 R23); then error correction
of the granule as a write of its marked bytes (spec/02 R97 to R99). -/
def State.commitCheck (s : State) (a : Nat) (l : CommitLine) : M Unit := do
  l.stores.forM fun h =>
    match s.localCheck a h.ctx h.level (h.ptr.setWidth 64) h.size .store with
    | .error (.trap _ v) => .error (.trap .polderAccess v)
    | _ => .ok ()
  let off := field l.off 0 28 / 32 * 32
  match regionOf a off with
  | some r => s.eccMasked a ⟨r, off, l.granule * 32⟩ 32 l.mask.toNat false
  | none => trap .polderAccess 0

/-- The words that the bits of `full` mark, of granule g, set full. -/
def State.fillMarked (s : State) (g : Nat) (full : BitVec 8) : State :=
  (List.range 8).foldl (fun (s : State) i => if bit full i then s.setFull (g * 8 + i) else s) s

/-- One buffered granule written. -/
def State.commitLine (s : State) (a : Nat) (l : CommitLine) : State :=
  let off := field l.off 0 28
  match regionOf a off with
  | some r =>
    (s.put a ⟨r, off / 32 * 32, l.granule * 32⟩ 32 l.data.toNat l.mask.toNat).fillMarked l.granule l.full
  | none => s

/-- Buffered lines in ascending address order. -/
def insertLine (l : CommitLine) : List CommitLine → List CommitLine
  | [] => [l]
  | m :: t => if l.granule < m.granule then l :: m :: t else m :: insertLine l t

/-- The task entries of buffered TSPAWNs added in program order. -/
def Core.addSpawns (c : Core) (l : List (Nat × BitVec 128)) : Core := l.foldl (fun c e => c.addEntry e.1 e.2) c

/-- The buffer of core a's ordered task committed: every line is checked, then all are written, readers are aborted, and
the spawned entries added. The task then holds no buffer. -/
def State.commit (s : State) (a : Nat) : M State :=
  match (s.core a).ordered with
  | none => .ok s
  | some o => do
    let ls := o.lines.foldr insertLine []
    let _ ← ls.mapM fun l => s.commitCheck a l
    let key := s.runKey a
    let t := ls.foldl (fun (s : State) l => s.commitLine a l) s
    let t := t.modCore a fun c => { c.addSpawns o.spawns with ordered := none }
    pure (t.abortReaders (clusterOf a) key (ls.map (·.granule)))

/-- The core that moves stalls in an ordered task that is not write-through; when its table holds a ready ordered task of
a lower key, its own task is aborted and leaves the core to that one (R177). -/
def stallOrdered {α : Type} (s : State) (w : Sleep) : M α :=
  let a := s.cur
  let c := s.me
  let older := (List.range 64).any fun i =>
    let e := c.entry i
    e.ordered && e.state == 2 && orderKey a i e < s.runKey a
  if c.buffered && older then
    let i := c.taskId
    .error (.stall ((s.abortTask a).modCore a fun c =>
      { c.setEntry i ((c.entry i).withState 2) with act := .idle, ordered := none, again := nadd c.again i, older := true }))
  else stallFor s w

/-- An access of the core that moves: where it falls asleep, the core notes its pointer (spec/16 R437). -/
def awaiting {α : Type} (ea : W64) : M α → M α
  | .error (.stall t) => .error (.stall (t.modMe fun c => { c with awaits := ea.setWidth 32 }))
  | m => m

/-- The core that moves waits to be the oldest (R173, R177). -/
def stallOldest {α : Type} (s : State) : M α := stallOrdered s .oldest

/-- An ordered task that is not write-through waits until it is the oldest, commits, and is write-through from then on
(R173, R179). -/
def State.writeThrough (s : State) : M State :=
  if s.me.buffered then
    if s.isOldest s.cur then do
      let t ← s.commit s.cur
      pure (t.modMe fun c => { c with tsk := setField c.tsk 20 1 1 })
    else stallOldest s
  else .ok s

/-! ## Buffered accesses (R172) -/

/-- Byte k of memory as the task sees it: from its buffer when that holds the byte. -/
def Ordered.byte (o : Ordered) (s : State) (k : Nat) : Byte :=
  match o.lines.find? fun l => l.granule == k / 32 with
  | some l => if bit l.mask (k % 32) then l.data.extractLsb' (8 * (k % 32)) 8 else s.byte k
  | none => s.byte k

/-- n bytes as the task sees them. -/
def Ordered.read (o : Ordered) (s : State) (k : Nat) : Nat → Nat
  | 0 => 0
  | n + 1 => (o.byte s k).toNat + 256 * o.read s (k + 1) n

/-- A byte of the range in granule g comes from memory. -/
def Ordered.readsMemory (o : Ordered) (g k n : Nat) : Bool :=
  (List.range 32).any fun i =>
    k ≤ g * 32 + i && g * 32 + i < k + n &&
      (match o.lines.find? fun l => l.granule == g with
       | some l => !bit l.mask i
       | none => true)

/-- The granules that an access of n bytes at key k touches. -/
def granuleList (k n : Nat) : List Nat := (List.range (granules k n)).map fun i => k / 32 + i

/-- The read set after a load of n bytes at key k. -/
def Ordered.readSet (o : Ordered) (k n : Nat) : List Nat :=
  (granuleList k n).foldl (fun l g => if o.readsMemory g k n && !l.contains g then l ++ [g] else l) o.reads

/-- A store of the bytes of x that lie in granule g, held in the buffer; `h` is the access that made it. -/
def Ordered.storeGranule (o : Ordered) (g : Nat) (off : W32) (h : HeldStore) (k n v : Nat) (full : Bool) : Ordered :=
  let old : CommitLine := (o.lines.find? fun l => l.granule == g).getD
    { granule := g, off := off, stores := [], data := 0, mask := 0, full := 0 }
  let new := (List.range 32).foldl (fun (l : CommitLine) i =>
    if k ≤ g * 32 + i && g * 32 + i < k + n then
      { l with data := setField l.data (8 * i) 8 (v >>> (8 * (g * 32 + i - k))), mask := setBit l.mask i true,
               full := if full then setBit l.full (i / 4) true else l.full }
    else l) { old with stores := if old.stores.contains h then old.stores else old.stores ++ [h] }
  { o with lines := (o.lines.filter fun l => l.granule != g) ++ [new] }

/-- A store of n bytes at key k held in the buffer. -/
def Ordered.store (o : Ordered) (off : W32) (h : HeldStore) (k n v : Nat) (full : Bool) : Ordered :=
  (granuleList k n).foldl (fun o g => o.storeGranule g (off + BitVec.ofNat 32 ((g - k / 32) * 32)) h k n v full) o

/-- The location lies in TCM or scratch. -/
def Loc.buffers (l : Loc) : Bool :=
  match l.region with
  | .tcm _ | .bay _ => true
  | _ => false

/-- The location lies in scratch. -/
def Loc.inScratch (l : Loc) : Bool :=
  match l.region with
  | .bay _ => true
  | _ => false

/-- n bytes of a checked location as the core that moves sees them, entered in the read set of its ordered task (R172, R179). -/
def State.loadSeen (s : State) (l : Loc) (n : Nat) : M (State × Nat) := do
  match s.me.ordered with
  | some o =>
    if s.me.buffered && l.buffers then
      let rs := if l.inScratch then o.readSet l.key n else o.reads
      if 64 < rs.length then do
        let t ← s.writeThrough
        pure (t, t.read l.key n)
      else pure (s.modMe fun c => { c with ordered := some { o with reads := rs } }, o.read s l.key n)
    else pure (s, s.read l.key n)
  | none => pure (s, s.read l.key n)

/-- n bytes loaded by the core that moves from a checked location, with the corrected errors that the read finds (spec/02
R96). -/
def State.loadAt (s : State) (l : Loc) (n : Nat) : M (State × Nat) := do
  let (t, v) ← s.loadSeen l n
  pure (t.softRead s.cur l n, v)

/-- A store of n bytes by the core that moves that takes effect at once, with its words set full when `full` says so; a
write-through task's store into scratch aborts the readers of its granules (R173, R176, R318). -/
def State.storeNow (s : State) (l : Loc) (n v : Nat) (full : Bool) : State :=
  let a := s.cur
  let t := s.put a l n v (allBytes n)
  let t := if full then t.fillRange l.key n else t
  if s.me.isOrd && l.inScratch then t.abortReaders (clusterOf a) (s.runKey a) (granuleList l.key n) else t

/-- The access of the core that moves to m bytes at an address, as its commit checks it again (spec/01 R23). -/
def State.heldStore (s : State) (ea : W64) (m : Nat) : HeldStore :=
  { ptr := ea.setWidth 32, size := m, ctx := s.me.ctx, level := s.me.level }

/-- n bytes stored by the core that moves at a checked location; `h` is the access that they are part of. -/
def State.storeAt (s : State) (h : HeldStore) (l : Loc) (n v : Nat) (full : Bool) : M State :=
  match s.me.ordered with
  | some o =>
    if s.me.buffered then
      if l.buffers then
        let o' := o.store (BitVec.ofNat 32 l.off) h l.key n v full
        if 64 < o'.lines.length then do
          let t ← s.writeThrough
          pure (t.storeNow l n v full)
        else pure (s.modMe fun c => { c with ordered := some o' })
      else do
        let t ← s.writeThrough
        pure (t.storeNow l n v full)
    else pure (s.storeNow l n v full)
  | none => pure (s.storeNow l n v full)

/-! ## Loads and stores of TCM, scratch and shelf by an instruction -/

/-- A load of n bytes at an address by the core that moves: checks, error correction, watch units, then the bytes. The
event unit and the control block take none of these loads: `code` is the TRAPV of POLDER_ACCESS there. -/
def State.loadLocal (s : State) (ea : W64) (n code : Nat) : M (State × Nat) := do
  let c := s.me
  let l ← s.localCheck s.cur c.ctx c.level ea n .load
  require l.tagged .polderAccess code
  s.eccCheck s.cur l n true
  s.watchStop ea n true false
  let (t, v) ← s.loadAt l n
  pure (t.watchNote ea n true false, v)

/-- A store of n bytes at an address by the core that moves. -/
def State.storeLocal (s : State) (ea : W64) (n v code : Nat) : M State := do
  let c := s.me
  let l ← s.localCheck s.cur c.ctx c.level ea n .store
  require l.tagged .polderAccess code
  s.eccCheck s.cur l n false
  s.watchStop ea n false true
  let t ← s.storeAt (s.heldStore ea n) l n v false
  pure (t.watchNote ea n false true)

end Sys2Proof.Machine
end

