-- ==== Sys2Proof/Machine/Fetch.lean ====
section
/-! DEFINITION. Fetching and decoding the instruction at PC (spec/08 R262 to R264, spec/01 R30), the fields of a replayed
instruction (R270), and where the host's interface places a word. -/

namespace Sys2Proof.Machine

/-! ## Fields of a replayed instruction (R270) -/

/-- A vector field on pass k. -/
def advV (c : Core) (r : BitVec 5) : BitVec 5 := BitVec.ofNat 5 ((r.toNat + c.repPass * field c.repc 28 4) % 16)

/-- An accumulator field on pass k. -/
def advA (c : Core) (r : BitVec 2) : BitVec 2 := BitVec.ofNat 2 ((r.toNat + c.repPass * field c.repc 26 2) % 4)

/-- The instruction with its vector and accumulator fields advanced to the current pass. -/
def Core.advanced (c : Core) : Instr → Instr
  | .vld i a d p => .vld i a (advV c d) p
  | .vldDec i a d p => .vldDec i a (advV c d) p
  | .vst i a d p => .vst i a (advV c d) p
  | .vstCnv i a d p => .vstCnv i a (advV c d) p
  | .vlds i a d p => .vlds i a (advV c d) p
  | .vsts i a d p => .vsts i a (advV c d) p
  | .vgath b a d p => .vgath (advV c b) a (advV c d) p
  | .vscat b a d p => .vscat (advV c b) a (advV c d) p
  | .vadd t b a d p => .vadd t (advV c b) (advV c a) (advV c d) p
  | .vsub t b a d p => .vsub t (advV c b) (advV c a) (advV c d) p
  | .vmul t b a d p => .vmul t (advV c b) (advV c a) (advV c d) p
  | .vmin t b a d p => .vmin t (advV c b) (advV c a) (advV c d) p
  | .vmax t b a d p => .vmax t (advV c b) (advV c a) (advV c d) p
  | .vabs t a d p => .vabs t (advV c a) (advV c d) p
  | .vneg t a d p => .vneg t (advV c a) (advV c d) p
  | .vfma t b a d p => .vfma t (advV c b) (advV c a) (advV c d) p
  | .vfms t b a d p => .vfms t (advV c b) (advV c a) (advV c d) p
  | .vfnma t b a d p => .vfnma t (advV c b) (advV c a) (advV c d) p
  | .vand b a d p => .vand (advV c b) (advV c a) (advV c d) p
  | .vor b a d p => .vor (advV c b) (advV c a) (advV c d) p
  | .vxor b a d p => .vxor (advV c b) (advV c a) (advV c d) p
  | .vandn b a d p => .vandn (advV c b) (advV c a) (advV c d) p
  | .vcmp t x b a d p => .vcmp t x (advV c b) (advV c a) d p
  | .vsel m b a d p => .vsel m (advV c b) (advV c a) (advV c d) p
  | .vredAdd t q a d p => .vredAdd t q (advV c a) d p
  | .vredMax t q a d p => .vredMax t q (advV c a) d p
  | .vredMin t q a d p => .vredMin t q (advV c a) d p
  | .vcvt x part t a d p => .vcvt x part t (advV c a) (advV c d) p
  | .vbcst a d p => .vbcst a (advV c d) p
  | .vext x b a d p => .vext x b (advV c a) d p
  | .vperm b a d p => .vperm (advV c b) (advV c a) (advV c d) p
  | .vexp2 t a d p => .vexp2 t (advV c a) (advV c d) p
  | .vlog2 t a d p => .vlog2 t (advV c a) (advV c d) p
  | .vrcp t a d p => .vrcp t (advV c a) (advV c d) p
  | .vrsq t a d p => .vrsq t (advV c a) (advV c d) p
  | .vtanh t a d p => .vtanh t (advV c a) (advV c d) p
  | .vscl t b a d p => .vscl t (advV c b) (advV c a) (advV c d) p
  | .vidx b a d p => .vidx b a (advV c d) p
  | .vdot m b a d p => .vdot m (advV c b) (advV c a) (advV c d) p
  | .vmov a d p => .vmov (advV c a) (advV c d) p
  | .lrd f d p => .lrd f (advV c d) p
  | .lwr a p => .lwr (advV c a) p
  | .tmma b a kc tb ta acc z rb ra => .tmma b a kc tb ta (advA c acc) z rb ra
  | .tzero x => .tzero (advA c x)
  | .tld a x => .tld a (advA c x)
  | .tst a x => .tst a (advA c x)
  | .tactRelu f x => .tactRelu f (advA c x)
  | .tactGelu f x => .tactGelu f (advA c x)
  | .tactSilu f x => .tactSilu f (advA c x)
  | i => i

/-! ## Words -/

/-- The word at a local pointer, fetched by the core that moves (R30). An uncorrectable word traps. -/
def State.fetchWord (s : State) (pc : W32) : M W32 := do
  let l ← s.fetchCheck s.cur s.me.pol pc
  s.eccCheck s.cur l 4 true
  pure (w32 (s.read l.key 4))

/-- The core is still at an instruction that it issued before and that stalled: its words are those fetched then (R264). -/
def Core.holds (c : Core) : Option (W32 × Option W32) :=
  match c.held with
  | some (pc, w, t) => if c.sleep ≠ .none && pc = c.pc then some (w, t) else none
  | none => none

/-- The word at a local pointer that the core that moves issues without a fetch: one that it holds, one of the captured block
on passes after the first (R270), or one of its leader's stream (spec/06 R208). -/
def State.givenWord (s : State) (pc : W32) (second : Bool) : Option W32 :=
  let c := s.me
  match c.holds with
  | some (w, t) => if second then t else some w
  | none =>
    if c.replaying && c.repPass ≠ 0 then sget c.repBuf pc.toNat
    else
      match c.gang with
      | some (l, n) => (s.core l).stream[n]?.map fun f => if second then f.tail else f.head
      | none => none

/-- The word that the core that moves issues at a local pointer: one that it is given, otherwise from memory. -/
def State.issueWord (s : State) (pc : W32) (second : Bool) : M W32 :=
  match s.givenWord pc second with
  | some w => .ok w
  | none => s.fetchWord pc

/-- The trap of a word that decoding refuses for one of the later checks of R262. -/
def rejectTrap : Reject → Nat
  | .short => 10 | .tailWord => 9 | .badPfx => 13 | .reservedMajor => 0 | .badLength => 12 | .noTail => 10 | .pBit => 14
  | .selector => 1 | .reserved => 2 | .vector => 8

/-- The decoding of R262 at PC, in its order: the instruction, and the words it was read from. FPUSH on a hub core is refused before any
other check (spec/15 R428). -/
def State.fetchInstr (s : State) : M (Instr × W32 × Option W32) := do
  let c := s.me
  let w ← s.issueWord c.pc false
  let sel := (bitsAt w 0 2).toNat
  let m := (bitsAt w 3 7).toNat
  if sel = 0 && isHub s.cur && m = 0x76 && field w 25 3 = 3 then trap .illegal 3
  else if sel = 3 then trap .illegal 9
  else if sel = 1 then do
    require c.latch.isNone .illegal 11
    match decodePfx w with
    | .ok i => pure (i, w, none)
    | .error _ => trap .illegal 13
  else do
    require (c.latch.isNone || bit w 2) .pfxOrphan 1
    require (c.latch.isSome || !bit w 2) .pfxOrphan 2
    require (!reservedMajor m) .illegal 0
    require (m = 0x7F || doubleMajor m = (sel == 2)) .illegal 12
    let t ← if sel = 2 then (s.issueWord (c.pc + 4) true).map some else pure none
    match decodeWords w t with
    | .ok i => pure (i, w, t)
    | .error r => do
      require (r != .noTail && r != .short) .illegal 10
      require (classPresent s.cur m) .illegal 3
      require (c.mods.acceptedBy m) .illegal 14
      trap .illegal (rejectTrap r)

/-- The corrected errors that the fetch of a word finds, counted (spec/02 R96). -/
def State.softFetch (s : State) (pc : W32) (second : Bool) : State :=
  match s.givenWord pc second, s.fetchCheck s.cur s.me.pol pc with
  | none, .ok l => s.softRead s.cur l 4
  | _, _ => s

/-- The core that moves issues an instruction with its words, which it holds until the instruction is done (R264). -/
def State.issuing (s : State) (w : W32) (t : Option W32) : State :=
  let pc := s.me.pc
  let s := if t.isSome then (s.softFetch pc false).softFetch (pc + 4) true else s.softFetch pc false
  s.modMe fun c => { c with held := some (pc, w, t) }

/-- The words of an instruction captured during the first pass of a replay (R270). -/
def Core.capture (c : Core) (w : W32) (t : Option W32) : Core :=
  if c.replaying && c.repPass = 0 then
    let b := sset c.repBuf c.pc.toNat w
    match t with
    | some t => { c with repBuf := sset b (c.pc + 4).toNat t }
    | none => { c with repBuf := b }
  else c

/-! ## Placing a word for the host's interface -/

/-- The core that can run an instruction of a word: hub core 0; ordinary core 0 for the classes that only ordinary cores
have; landing core 0 for FPUSH. -/
def homeOf (w : W32) : Nat :=
  let m := (bitsAt w 3 7).toNat
  if m = 0x76 && field w 25 3 = 3 then landingAgent 0
  else if classPresent hubCore0 m then hubCore0 else 0

/-- The core that runs it made ready to fetch: it runs, nothing waits, its code memory belongs to its polder, and the latch
holds a neutral prefix when the word expects one. -/
def State.readyCore (s : State) (a : Nat) (w : W32) : State :=
  let pfx := (bitsAt w 0 2).toNat ≠ 1 && bit w 2
  let s := s.modCore a fun c =>
    { c with act := .task, sleep := .none, latch := if pfx then some 0x19#32 else none,
             pc := if isOrdinary a then 0x80000#32 else c.pc }
  let pol := (s.core a).pol.toNat
  let s := if isOrdinary a then
      s.modCluster 0 fun c => { c with bown := vset c.bown 0 (w64 (2 ^ 63 + pol)), bfmt := vset c.bfmt 0 0x3F80000000000001#64 }
    else if isLanding a then s.modDie 0 fun d => { d with ltown := vset d.ltown 0 (w64 (2 ^ 63 + pol * 2 ^ 32 + 2 ^ 31 + pol)) }
    else s
  { s with cur := a, sched := [a], agenda := [] }

/-- An instruction's bits, two words, stored where the core that can run it fetches next. -/
def State.placeWord (s : State) (nbits w : Nat) : State :=
  let v := w % 2 ^ nbits
  let a := homeOf (w32 v)
  let s := s.readyCore a (w32 v)
  s.write (keyOf a (field (s.core a).pc 0 28)) 8 (v % 2 ^ 64)

end Sys2Proof.Machine
end

