-- ==== Sys2Proof/Machine/Flags.lean ====
section
/-! DEFINITION. Arithmetic of the scalar unit (spec/10 R295, R296), comparison conditions (R303), and the sticky flags of
FCSR (spec/08 R260, R261). -/

namespace Sys2Proof.Machine

/-! ## FCSR -/

/-- Exception flags: invalid, division by zero, overflow, underflow, inexact (R260). -/
structure FFlags where
  nv : Bool
  dz : Bool
  of : Bool
  uf : Bool
  nx : Bool
  deriving DecidableEq, Repr

/-- No flag. -/
def FFlags.none : FFlags := ⟨false, false, false, false, false⟩

/-- Only the invalid flag. -/
def FFlags.invalid : FFlags := ⟨true, false, false, false, false⟩

/-- Flags of two operations together. -/
def FFlags.or (a b : FFlags) : FFlags := ⟨a.nv || b.nv, a.dz || b.dz, a.of || b.of, a.uf || b.uf, a.nx || b.nx⟩

/-- The bits of FCSR that flags set. -/
def FFlags.bits (f : FFlags) : Nat := b2n f.nx + b2n f.uf * 2 + b2n f.of * 4 + b2n f.dz * 8 + b2n f.nv * 16

/-- Flags ORed into FCSR (R261). -/
def Core.raise (c : Core) (f : FFlags) : Core := { c with fcsr := c.fcsr ||| w64 f.bits }

/-- The dynamic rounding mode. -/
def Core.frm (c : Core) : Nat := field c.fcsr 8 3

/-! ## The ALU -/

/-- The operations of major 0x00 (spec/08 R266). -/
inductive AluOp where
  | add | sub | and | or | xor | shl | shr | sha | min | max | minn | maxn | mul | mulh | mulhn | div | divn | rem | remn
  | clz | ctz | popc | andn | orn
  deriving DecidableEq, Repr

/-- The SAT values that an operation accepts (R296). -/
def AluOp.accepts (op : AluOp) (sat : Nat) : Bool :=
  sat = 0 || op == .add || op == .sub || op == .mul || op == .shl || (op == .div && sat = 1)

/-- The number of zero bits above the highest one of an n-bit number. -/
def clzN (n x : Nat) : Nat := if x = 0 then n else n - 1 - Nat.log2 x

/-- The number of zero bits below the lowest one of an n-bit number. -/
def ctzN (n x : Nat) : Nat := ((List.range n).find? fun i => (x >>> i) % 2 = 1).getD n

/-- The number of ones of an n-bit number. -/
def popN (n x : Nat) : Nat := ((List.range n).filter fun i => (x >>> i) % 2 = 1).length

/-- The exact value of an operation on n-bit operands, before clamping; under SAT natural, ADD, SUB, MUL and SHL take
natural operands (R296). -/
def AluOp.exact (op : AluOp) (sat n a b : Nat) : Int :=
  let na := a % 2 ^ n
  let nb := b % 2 ^ n
  let sa : Int := if sat = 2 then na else toSigned n a
  let sb : Int := if sat = 2 then nb else toSigned n b
  let sh := nb % n
  match op with
  | .add => sa + sb
  | .sub => sa - sb
  | .mul => sa * sb
  | .mulh => sa * sb / 2 ^ n
  | .mulhn => (na * nb / 2 ^ n : Nat)
  | .shl => sa * 2 ^ sh
  | .shr => (na / 2 ^ sh : Nat)
  | .sha => sa / 2 ^ sh
  | .min => if sa ≤ sb then sa else sb
  | .max => if sa ≤ sb then sb else sa
  | .minn => (Nat.min na nb : Nat)
  | .maxn => (Nat.max na nb : Nat)
  | .div => if sb = 0 then -1 else sa.tdiv sb
  | .divn => if nb = 0 then (2 ^ n - 1 : Nat) else (na / nb : Nat)
  | .rem => if sb = 0 then sa else sa.tmod sb
  | .remn => if nb = 0 then na else (na % nb : Nat)
  | .clz => clzN n na
  | .ctz => ctzN n na
  | .popc => popN n na
  | .and => (na &&& nb : Nat)
  | .or => (na ||| nb : Nat)
  | .xor => (na ^^^ nb : Nat)
  | .andn => (na &&& (2 ^ n - 1 - nb) : Nat)
  | .orn => (na ||| (2 ^ n - 1 - nb) : Nat)

/-- The clamping of SAT on n bits (R295). -/
def satClamp (sat n : Nat) (x : Int) : Int :=
  if sat = 1 then clampInt x (-(2 ^ (n - 1))) (2 ^ (n - 1) - 1)
  else if sat = 2 then clampInt x 0 (2 ^ n - 1)
  else x

/-- The result of an operation, extended to 64 bits (R295). -/
def AluOp.run (op : AluOp) (w : Bool) (sat : Nat) (a b : W64) : W64 :=
  let n := if w then 32 else 64
  let y := ofInt n (satClamp sat n (op.exact sat n a.toNat b.toNat))
  if w && sat ≠ 2 then sext 32 y else w64 y

/-- The conditions of CMP and CMPI: EQ, NE, LT, GE, LTN, GEN, on n bits (R303). -/
def condition (cond n a b : Nat) : Bool :=
  let sa := toSigned n a
  let sb := toSigned n b
  if cond = 0 then sa == sb
  else if cond = 1 then sa != sb
  else if cond = 2 then sa < sb
  else if cond = 3 then sb ≤ sa
  else if cond = 4 then a % 2 ^ n < b % 2 ^ n
  else b % 2 ^ n ≤ a % 2 ^ n

end Sys2Proof.Machine
end

