-- ==== Sys2Proof/Machine/Float.lean ====
section
/-! DEFINITION. The number formats (spec/03): the values of codes (R102 to R107), exact arithmetic, rounding (R110 to R113),
flags and flushing (R114), the sign of a zero sum (R471), and saturation and conversion (R115 to R119). -/

namespace Sys2Proof.Machine

/-! ## Values -/

/-- A value: not a number, an infinity, or the number num / den with its sign; a zero has num = 0. -/
inductive Val where
  | nan
  | inf (neg : Bool)
  | fin (neg : Bool) (num den : Nat)
  deriving DecidableEq, Repr

/-- Zero of a sign. -/
def Val.zero (neg : Bool) : Val := .fin neg 0 1

/-- An integer. -/
def Val.ofInt (x : Int) : Val := .fin (x < 0) x.natAbs 1

/-- num × 2^e. -/
def Val.scaled (neg : Bool) (num : Nat) (e : Int) : Val :=
  if 0 ≤ e then .fin neg (num * 2 ^ e.toNat) 1 else .fin neg num (2 ^ (-e).toNat)

/-- A value with the other sign. -/
def Val.neg : Val → Val
  | .nan => .nan
  | .inf s => .inf (!s)
  | .fin s n d => .fin (!s) n d

/-- A value without its sign. -/
def Val.abs : Val → Val
  | .nan => .nan
  | .inf _ => .inf false
  | .fin _ n d => .fin false n d

/-- The value is NaN. -/
def Val.isNan (x : Val) : Bool := x == .nan

/-- The value is a zero. -/
def Val.isZero : Val → Bool
  | .fin _ n _ => n == 0
  | _ => false

/-- The value is an infinity. -/
def Val.isInf : Val → Bool
  | .inf _ => true
  | _ => false

/-- The value is finite. -/
def Val.isFin : Val → Bool
  | .fin _ _ _ => true
  | _ => false

/-- The sign of a value; of a NaN, positive. -/
def Val.sign : Val → Bool
  | .nan => false
  | .inf s => s
  | .fin s _ _ => s

/-- The signed numerator over a denominator that the value's own divides. -/
def signedNum (s : Bool) (n : Nat) : Int := if s then -(n : Int) else n

/-- The sum of two fractions, over the larger denominator when the other divides it. -/
def addFrac (a : Int) (b : Nat) (c : Int) (d : Nat) : Int × Nat :=
  if b % d = 0 then (a + c * (b / d : Nat), b)
  else if d % b = 0 then (a * (d / b : Nat) + c, d)
  else (a * d + c * b, b * d)

/-- The exact sum; `down` says that it is rounded under rdn (R471). -/
def Val.add (down : Bool) : Val → Val → Val
  | .nan, _ => .nan
  | _, .nan => .nan
  | .inf s, .inf t => if s = t then .inf s else .nan
  | .inf s, _ => .inf s
  | _, .inf t => .inf t
  | .fin s n d, .fin t m e =>
    let (x, y) := addFrac (signedNum s n) d (signedNum t m) e
    if x = 0 then (if n = 0 && m = 0 && s = t then .zero s else .zero down) else .fin (x < 0) x.natAbs y

/-- A sum of opposite infinities, an invalid operation. -/
def Val.addInvalid : Val → Val → Bool
  | .inf s, .inf t => s != t
  | _, _ => false

/-- The exact product. -/
def Val.mul : Val → Val → Val
  | .nan, _ => .nan
  | _, .nan => .nan
  | .inf s, .fin t m _ => if m = 0 then .nan else .inf (s != t)
  | .fin s n _, .inf t => if n = 0 then .nan else .inf (s != t)
  | .inf s, .inf t => .inf (s != t)
  | .fin s n d, .fin t m e => .fin (s != t) (n * m) (d * e)

/-- A product of a zero and an infinity, an invalid operation. -/
def Val.mulInvalid (a b : Val) : Bool := (a.isZero && b.isInf) || (a.isInf && b.isZero)

/-- The exact quotient by a finite value that is not zero. -/
def Val.divBy (x : Val) (n d : Nat) : Val :=
  match x with
  | .fin s a b => .fin s (a * d) (b * n)
  | x => x

/-- Comparison of numbers: −1, 0 or 1 as the first is less, equal or greater; none with a NaN. -/
def Val.cmp : Val → Val → Option Int
  | .nan, _ => none
  | _, .nan => none
  | .inf s, .inf t => some (if s = t then 0 else if s then -1 else 1)
  | .inf s, _ => some (if s then -1 else 1)
  | _, .inf t => some (if t then 1 else -1)
  | .fin s n d, .fin t m e =>
    let x := signedNum s n * e
    let y := signedNum t m * d
    some (if x < y then -1 else if x = y then 0 else 1)

/-- The magnitude of the first is not less than that of the second. -/
def magGe (n d m e : Nat) : Bool := m * d ≤ n * e

/-! ## Formats (R102) -/

/-- The floating-point formats with a sign. -/
inductive Fmt where
  | f32 | bf16 | f16 | e5m2 | e4m3 | e2m1
  deriving DecidableEq, Repr

/-- Exponent width, fraction width and bias. -/
def Fmt.shape : Fmt → Nat × Nat × Nat
  | .f32 => (8, 23, 127)
  | .bf16 => (8, 7, 127)
  | .f16 => (5, 10, 15)
  | .e5m2 => (5, 2, 15)
  | .e4m3 => (4, 3, 7)
  | .e2m1 => (2, 1, 1)

/-- The number of bits of a code. -/
def Fmt.bits (f : Fmt) : Nat := 1 + f.shape.1 + f.shape.2.1

/-- The format has infinities. -/
def Fmt.hasInf : Fmt → Bool
  | .e4m3 | .e2m1 => false
  | _ => true

/-- The code of the largest finite value. -/
def Fmt.maxCode : Fmt → Nat
  | .f32 => 0x7F7FFFFF
  | .bf16 => 0x7F7F
  | .f16 => 0x7BFF
  | .e5m2 => 0x7B
  | .e4m3 => 0x7E
  | .e2m1 => 7

/-- The code of the canonical NaN; for E2M1, which has none, zero. -/
def Fmt.nanCode : Fmt → Nat
  | .f32 => 0x7FC00000
  | .bf16 => 0x7FC0
  | .f16 => 0x7E00
  | .e5m2 => 0x7E
  | .e4m3 => 0x7F
  | .e2m1 => 0

/-- A code of magnitude m with a sign. -/
def Fmt.signed (f : Fmt) (neg : Bool) (m : Nat) : Nat := m + b2n neg * 2 ^ (f.bits - 1)

/-- The code of +infinity: every exponent bit set. -/
def Fmt.infCode (f : Fmt) : Nat := (2 ^ f.shape.1 - 1) * 2 ^ f.shape.2.1

/-- The value of a magnitude code that is a number (R102). -/
def Fmt.number (f : Fmt) (neg : Bool) (m : Nat) : Val :=
  let (_, k, b) := f.shape
  let e := m / 2 ^ k
  let x := m % 2 ^ k
  if e = 0 then .scaled neg x (1 - (b : Int) - k) else .scaled neg (2 ^ k + x) ((e : Int) - b - k)

/-- The value of a code (R102, R103). -/
def Fmt.decode (f : Fmt) (code : Nat) : Val :=
  let neg := code / 2 ^ (f.bits - 1) % 2 = 1
  let m := code % 2 ^ (f.bits - 1)
  if f = .e4m3 then (if m = 0x7F then .nan else f.number neg m)
  else if f.hasInf && m = f.infCode then .inf neg
  else if f.hasInf && f.infCode < m then .nan
  else f.number neg m

/-- A code is a subnormal. -/
def Fmt.isSub (f : Fmt) (code : Nat) : Bool :=
  let m := code % 2 ^ (f.bits - 1)
  m ≠ 0 && m < 2 ^ f.shape.2.1

/-- The value of an operand's code; under FTZ a subnormal is a zero of its sign (R114). -/
def Fmt.operand (f : Fmt) (ftz : Bool) (code : Nat) : Val :=
  if ftz && f.isSub code then .zero (code / 2 ^ (f.bits - 1) % 2 = 1) else f.decode code

/-- The value of an E3M5 scale (R106). -/
def e3m5 (code : Nat) : Nat × Nat :=
  if code / 32 = 0 then (code % 32, 2 ^ 7)
  else if code / 32 ≤ 3 then (32 + code % 32, 2 ^ (8 - code / 32)) else ((32 + code % 32) * 2 ^ (code / 32 - 3), 2 ^ 5)

/-- A scale held in BF16, which acts as 1.0 unless it is positive, normal and finite (R109). -/
def scaleVal (code : Nat) : Nat × Nat :=
  if code / 2 ^ 7 = 0 || 0xFF ≤ code / 2 ^ 7 then (1, 1)
  else
    match Fmt.bf16.decode code with
    | .fin _ n d => (n, d)
    | _ => (1, 1)

/-! ## Rounding (R110 to R114) -/

/-- How a result is rounded: the mode, SAT, whether it is a conversion (R115), FTZ, and the 16 random bits. -/
structure Rnd where
  mode : Nat
  sat  : Bool
  conv : Bool
  ftz  : Bool
  rb   : Nat
  deriving DecidableEq, Repr

/-- Rounding to nearest even. -/
def Rnd.rne : Rnd := { mode := 0, sat := false, conv := false, ftz := false, rb := 0 }

/-- The mixing function of R113. -/
def srMix (seed ts idx : Nat) : Nat :=
  let m := 2 ^ 32
  let h := (seed % m) ^^^ (ts * 0x9E3779B9 % m)
  let h := h ^^^ (idx * 0x85EBCA6B % m)
  let h := h ^^^ (h >>> 16)
  let h := h * 0x7FEB352D % m
  let h := h ^^^ (h >>> 15)
  let h := h * 0x846CA68B % m
  let h := h ^^^ (h >>> 16)
  h >>> 16

/-- The largest e with 2^e not above n / d, for n and d above zero. -/
def expOf (n d : Nat) : Int :=
  let e : Int := (Nat.log2 n : Int) - Nat.log2 d
  let ok := if 0 ≤ e then d * 2 ^ e.toNat ≤ n else d ≤ n * 2 ^ (-e).toNat
  if ok then e else e - 1

/-- n / d in units of 2^q: the whole units, what is left, and the divisor of what is left. -/
def unitsOf (n d : Nat) (q : Int) : Nat × Nat × Nat :=
  if 0 ≤ q then let e := d * 2 ^ q.toNat; (n / e, n % e, e)
  else let m := n * 2 ^ (-q).toNat; (m / d, m % d, d)

/-- The units that a magnitude of m units and r / d more rounds to (R110, R112). -/
def roundUnits (mode rb : Nat) (neg : Bool) (m r d : Nat) : Nat :=
  let up :=
    if r = 0 then false
    else if mode = 0 then d < 2 * r || (2 * r = d && m % 2 = 1)
    else if mode = 1 then false
    else if mode = 2 then !neg
    else if mode = 3 then neg
    else if mode = 4 then d ≤ 2 * r
    else 65536 ≤ r * 65536 / d + rb
  if up then m + 1 else m

/-- The magnitude code of m units of 2^q, m below 2^(k+1) or equal to it. -/
def Fmt.packUnits (f : Fmt) (m : Nat) (q : Int) : Nat :=
  let (_, k, b) := f.shape
  if m < 2 ^ k then m
  else
    let l := Nat.log2 m
    ((l : Int) + q + b).toNat * 2 ^ k + (m / 2 ^ (l - k) - 2 ^ k)

/-- The code of an overflowing result (R111). -/
def Fmt.overflow (f : Fmt) (r : Rnd) (neg : Bool) : Nat :=
  let toInf := r.mode = 0 || r.mode = 4 || r.mode = 5 || (r.mode = 2 && !neg) || (r.mode = 3 && neg)
  if !toInf || r.sat then f.signed neg f.maxCode
  else if f.hasInf then f.signed neg f.infCode
  else if f = .e4m3 then f.nanCode
  else f.signed neg f.maxCode

/-- m units of 2^q are more than the format's largest finite value. -/
def Fmt.above (f : Fmt) (m : Nat) (q : Int) : Bool :=
  match f.number false f.maxCode with
  | .fin _ n d => if 0 ≤ q then n < m * 2 ^ q.toNat * d else n * 2 ^ (-q).toNat < m * d
  | _ => false

/-- n / d is more than the format's largest finite value. -/
def Fmt.beyond (f : Fmt) (n d : Nat) : Bool :=
  match f.number false f.maxCode with
  | .fin _ a c => a * d < n * c
  | _ => false

/-- A finite value n / d that is not zero, rounded into a format (R110 to R114). -/
def Fmt.roundFin (f : Fmt) (r : Rnd) (neg : Bool) (n d : Nat) : Nat × FFlags :=
  let (_, k, b) := f.shape
  let e := expOf n d
  let q : Int := e - k
  let (m, x, y) := unitsOf n d q
  let u := roundUnits r.mode r.rb neg m x y
  let past := if r.mode = 5 then f.beyond n d else f.above u q
  if past then (f.overflow r neg, { FFlags.none with of := true, nx := true })
  else
    let lowest : Int := 1 - (b : Int) - k
    let tiny := e + (if u = 2 ^ (k + 1) then 1 else 0) < 1 - (b : Int)
    if lowest ≤ q then (f.signed neg (f.packUnits u q), { FFlags.none with nx := x ≠ 0, uf := x ≠ 0 && tiny })
    else
      let (m, x, y) := unitsOf n d lowest
      let v := roundUnits r.mode r.rb neg m x y
      if r.ftz && v ≠ 0 && v < 2 ^ k then (f.signed neg 0, { FFlags.none with uf := true, nx := true })
      else (f.signed neg (f.packUnits v lowest), { FFlags.none with nx := x ≠ 0, uf := x ≠ 0 && tiny })

/-- A value rounded into a format, with the flags (R104, R111 to R115, R118). Where SAT = 1 gives an infinite source the largest finite
value, no flag is set (log entry 125). -/
def Fmt.round (f : Fmt) (r : Rnd) : Val → Nat × FFlags
  | .nan => (f.nanCode, if f = .e2m1 then FFlags.invalid else FFlags.none)
  | .inf s =>
    if f.hasInf then (if r.conv && r.sat then f.signed s f.maxCode else f.signed s f.infCode, FFlags.none)
    else if f = .e4m3 && !r.sat then (f.nanCode, FFlags.invalid)
    else (f.signed s f.maxCode, FFlags.invalid)
  | .fin s n d => if n = 0 then (f.signed s 0, FFlags.none) else f.roundFin r s n d

/-- A value rounded to FP32 under rne, as a value (R123). -/
def toF32 (x : Val) : Val := Fmt.f32.decode (Fmt.f32.round Rnd.rne x).1

/-! ## Integers (R115, R119) -/

/-- A value converted into a signed or natural integer of n bits (R119). -/
def toIntCode (nat : Bool) (n mode rb : Nat) : Val → Nat × FFlags
  | .nan => (0, FFlags.invalid)
  | .inf s => (if s then (if nat then 0 else 2 ^ (n - 1)) else (if nat then 2 ^ n - 1 else 2 ^ (n - 1) - 1), FFlags.invalid)
  | .fin s a d =>
    let m := roundUnits mode rb s (a / d) (a % d) d
    let x := signedNum s m
    let lo : Int := if nat then 0 else -(2 ^ (n - 1))
    let hi : Int := if nat then 2 ^ n - 1 else 2 ^ (n - 1) - 1
    if x < lo then (ofInt n lo, FFlags.invalid)
    else if hi < x then (ofInt n hi, FFlags.invalid)
    else (ofInt n x, { FFlags.none with nx := a % d ≠ 0 })

end Sys2Proof.Machine
end

