-- ==== Sys2Proof/Machine/Window.lean ====
section
/-! DEFINITION. The frame file and the spillway (spec/02 R56, spec/10 R292, R309, R312). -/

namespace Sys2Proof.Machine

/-! ## The hardware regions of the TCM (spec/02 R54, spec/01 R29)

The spillway and the domain save hardware pass by ownership, windows and tags; error correction they do not pass by (R95). -/

/-- n bytes of the TCM of core a written by the spillway or the domain save hardware. -/
def State.tcmWrite (s : State) (a p n x : Nat) : State :=
  (s.cleanWords (tcmBase a + p) n (allBytes n)).write (tcmBase a + p) n x

/-- The words of n bytes of the TCM that hold an error, uncorrectable or correctable as the list says. -/
def wordsIn (l : List Nat) (k n : Nat) : List Nat := l.filter fun w => k < 4 * w + 4 && 4 * w < k + n

/-- A read of n bytes of the TCM of core a by that hardware meets no uncorrectable word (R97). -/
def State.tcmCheck (s : State) (a p n : Nat) : M Unit :=
  match wordsIn s.badWords (tcmBase a + p) n with
  | w :: _ => trap .uncorrectable (errorValue a ⟨.tcm (0x2000 ≤ p), p, tcmBase a + p⟩ (4 * w) false false)
  | [] => .ok ()

/-- Such reads of every area of a list, each an offset with its size. -/
def State.tcmChecks (s : State) (a : Nat) (l : List (Nat × Nat)) : M Unit := l.forM fun r => s.tcmCheck a r.1 r.2

/-- The corrected errors that such reads find, counted (R96). -/
def State.tcmSoft (s : State) (a : Nat) (l : List (Nat × Nat)) : State :=
  l.foldl (fun (s : State) r =>
    s.correct a ⟨.tcm (0x2000 ≤ r.1), r.1, tcmBase a + r.1⟩ ((wordsIn s.softWords (tcmBase a + r.1) r.2).map (4 * ·))) s

/-! ## Frames -/

/-- A frame of the file. -/
def Core.frame (c : Core) (f : Nat) : Vector W64 24 := vget c.frames f zeroFrame

/-- A frame of the file replaced. -/
def Core.setFrame (c : Core) (f : Nat) (x : Vector W64 24) : Core := { c with frames := vset c.frames f x }

/-- The 192 bytes of a frame, s8 lowest (R56). -/
def frameBytes (f : Vector W64 24) : Nat := f.toList.foldr (fun x acc => x.toNat + 2 ^ 64 * acc) 0

/-- The frame that 192 bytes hold. -/
def frameOfBytes (x : Nat) : Vector W64 24 := Vector.ofFn fun i => w64 (x >>> (64 * i.val))

/-- A frame spilled at WSP.PTR, and PTR moved on (R56). -/
def State.spillFrame (s : State) (a f : Nat) : State :=
  let c := s.core a
  (s.tcmWrite a (areaPtr c.wsp) 192 (frameBytes (c.frame f))).modCore a fun c =>
    { c with wsp := setPtr c.wsp (areaPtr c.wsp + 192) }

/-- A frame filled from WSP.PTR − 192, and PTR moved back (R56). -/
def State.fillFrame (s : State) (a f : Nat) : State :=
  let p := areaPtr (s.core a).wsp - 192
  let x := frameOfBytes (s.read (tcmBase a + p) 192)
  s.modCore a fun c => { c.setFrame f x with wsp := setPtr c.wsp p }

/-- n frames filled, the newest first, down from frame f (spec/15 R425). -/
def State.fillFrames (s : State) (a f : Nat) : Nat → State
  | 0 => s
  | n + 1 => (s.fillFrame a (f % 6)).fillFrames a (f % 6 + 5) n

/-- Every resident frame spilled, the oldest first, up to the current one (R312, R472): n frames are left. -/
def State.spillFrames (s : State) (a : Nat) : Nat → State
  | 0 => s
  | n + 1 => (s.spillFrame a (((s.core a).cwp + 6 - n) % 6)).spillFrames a n

/-- The registers of a callee's new frame: the caller's s24 to s31 as s8 to s15, zeros, and s23 (R309). -/
def calleeFrame (caller : Vector W64 24) (s23 : W64) : Vector W64 24 :=
  Vector.ofFn fun i => if i.val < 8 then vget caller (i.val + 16) 0 else if i.val = 15 then s23 else 0

/-- The caller's frame after a return: the callee's s8 to s15 as its s24 to s31 (R309). -/
def returnFrame (caller callee : Vector W64 24) : Vector W64 24 :=
  Vector.ofFn fun i => if 16 ≤ i.val then vget callee (i.val - 16) 0 else vget caller i.val 0

/-- WPTR with another CWP and RES. -/
def setWindow (w : W64) (cwp res : Nat) : W64 := setField (setField w 0 3 cwp) 3 4 res

/-- CallTo of R309: the frame moves, s23 holds the return address, PC goes to the target. -/
def callTo (s : State) (target ret : W32) : M Fin := do
  require (field target 0 2 = 0) .align 0x100
  let a := s.cur
  let c := s.me
  let cwp := c.cwp
  let n := (cwp + 1) % 6
  if 6 ≤ c.res then do
    require (areaPtr c.wsp + 192 ≤ areaLimit c.wsp) .windowSpillLimit 1
    let t := s.spillFrame a n
    pure (.jump (t.modMe fun c =>
      { c.setFrame n (calleeFrame (c.frame cwp) (ret.setWidth 64)) with wptr := setWindow c.wptr n 6 }) target)
  else
    pure (.jump (s.modMe fun c =>
      { c.setFrame n (calleeFrame (c.frame cwp) (ret.setWidth 64)) with wptr := setWindow c.wptr n (c.res + 1) }) target)

/-- Ret of R309. -/
def returnFrom (s : State) : M Fin := do
  let a := s.cur
  let c := s.me
  let t := (c.s 23).setWidth 32
  require (field t 0 2 = 0) .align 0x100
  let cwp := c.cwp
  let p := (cwp + 5) % 6
  if c.res ≤ 1 then do
    require (areaPtr c.wsp ≠ c.floor) .windowSpillLimit 3
    s.tcmCheck a (areaPtr c.wsp - 192) 192
    let u := (s.fillFrame a p).tcmSoft a [(areaPtr c.wsp - 192, 192)]
    pure (.jump (u.modMe fun c =>
      { c.setFrame p (returnFrame (c.frame p) (c.frame cwp)) with wptr := setWindow c.wptr p 1 }) t)
  else
    pure (.jump (s.modMe fun c =>
      { c.setFrame p (returnFrame (c.frame p) (c.frame cwp)) with wptr := setWindow c.wptr p (c.res - 1) }) t)

end Sys2Proof.Machine
end

