-- ==== Sys2Proof/Machine/Units.lean ====
section
/-! DEFINITION. The cluster control block (spec/02 R66 to R76, R101), ownership changes and scrubs (spec/01 R22, spec/02
R59), and the event unit (R83 to R90). -/

namespace Sys2Proof.Machine

/-! ## Queue descriptors (R92 to R94) -/

/-- First scratch offset of a descriptor's ring, as bits [18:0] of a scratch offset. -/
def QDesc.base (q : QDesc) : Nat := field q.w0 0 19

/-- The bay that holds a ring. -/
def QDesc.bay (q : QDesc) : Nat := q.base / 0x8000

/-- V of a descriptor. -/
def QDesc.valid (q : QDesc) : Bool := bit q.w0 63

/-- A descriptor invalid, its contents lost (R94). -/
def QDesc.empty : QDesc := { w0 := 0, head := 0, tail := 0 }

/-! ## Ownership changes -/

/-- The bay of a cluster scrubbed (spec/01 R22): zero bytes, tags 0, words empty, BSTAT.SCRUB set until the scrub ends, and
WGEN counted once for each of its 2,048 cycles. -/
def State.scrubBay (s : State) (c b : Nat) : State :=
  ((s.scrub (scratchBase c + b * 0x8000) 0x8000).modCluster c fun k =>
    { k with bstat := vset k.bstat b (setField (vget k.bstat b 0) 30 1 1) }).bumpWgen c b 2048

/-- BFMT's writable bits (R69). -/
def bfmtMask : W64 := 0xFFFF0003FFFF070F#64

/-- A value that BFMT refuses (R69). -/
def bfmtBad (v : W64) : Bool :=
  10 ≤ field v 0 4 || 6 ≤ field v 8 3 || (field v 0 4 == 7 && (field v 16 16 == 0 || field v 16 16 % 8 != 0))

/-- BFMT of a bay written (R69, R71, R75). -/
def State.writeBfmt (s : State) (c b : Nat) (v : W64) : M State := do
  require (!bfmtBad v) .writeProtect 4
  pure ((s.modCluster c fun k => { k with bfmt := vset k.bfmt b (v &&& bfmtMask) }).bumpWgen c b 1)

/-- BOWN of a bay written (R72): a change of V or POL scrubs the bay and invalidates the queues whose rings lie in it. -/
def State.writeBown (s : State) (c b : Nat) (v : W64) : State :=
  let new := v &&& 0x8000000000000FFF#64
  if new = vget (s.cluster c).bown b 0 then s
  else
    (s.modCluster c fun k =>
      { k with bown := vset k.bown b new
               queues := k.queues.map fun q => if q.valid && q.bay == b then QDesc.empty else q }).scrubBay c b

/-- A hardware region of a core lies in the upper or the lower half of its TCM (R54, R59). -/
def regionInHalf (w : W64) (upper : Bool) : Bool :=
  areaBase w < areaLimit w && (if upper then 0x2000 < areaLimit w else areaBase w < 0x2000)

/-- The domain spill area of a core lies in a half. -/
def spillInHalf (w : W64) (upper : Bool) : Bool := bit w 55 && (field w 56 4 * 1024 < 0x2000) != upper

/-- A half of a TCM scrubbed; WSP or DSD whose region it holds returns to zero (R59). -/
def State.scrubHalf (s : State) (a : Nat) (upper : Bool) : State :=
  let s := s.scrub (tcmBase a + b2n upper * 0x2000) 0x2000
  if (sget s.cores a).isSome then
    s.modCore a fun c =>
      { c with wsp := if regionInHalf c.wsp upper then 0 else c.wsp
               dsd := if regionInHalf c.dsd upper || spillInHalf c.dsd upper then 0 else c.dsd }
  else s

/-- A TOWN or LTOWN word replaced by another on core a: each half whose fields change is scrubbed (R73, spec/07 R233). -/
def State.changeHalves (s : State) (a : Nat) (old new : W64) : State :=
  let s := if field old 0 32 = field new 0 32 then s else s.scrubHalf a false
  if field old 32 32 = field new 32 32 then s else s.scrubHalf a true

/-- TOWN's and LTOWN's bits (R73). -/
def townMask : W64 := 0x80000FFF80000FFF#64

/-- TOWN of a core written (R73). -/
def State.writeTown (s : State) (c k : Nat) (v : W64) : State :=
  let old := vget (s.cluster c).town k 0
  let new := v &&& townMask
  (s.modCluster c fun x => { x with town := vset x.town k new }).changeHalves (agentIn c k) old new

/-- LTOWN of a landing core written (spec/07 R233). -/
def State.writeLtown (s : State) (l : Nat) (v : W64) : State :=
  let old := vget (s.die (l / 64)).ltown (l % 64) 0
  let new := v &&& townMask
  (s.modDie (l / 64) fun x => { x with ltown := vset x.ltown (l % 64) new }).changeHalves (landingAgent l) old new

/-- A segment ownership entry written (spec/01 R21, R22): a change of V or POL scrubs the segment. -/
def State.writeSegment (s : State) (d k : Nat) (v : W64) : State :=
  let new := v &&& 0x8000000000000FFF#64
  if new = (sget (s.die d).segs k).getD 0 then s
  else
    (s.modDie d fun x => { x with segs := if new = 0 then serase x.segs k else sset x.segs k new }).scrub
      (shelfBase d + k * 0x10000) 0x10000

/-! ## Control registers (R66 to R68) -/

/-- CLST: fenced and retired bays (R101). -/
def Cluster.clst (c : Cluster) : Nat :=
  (List.range 16).foldl (fun n b =>
    n + b2n (bit (vget c.bstat b 0) 31) * 2 ^ b + b2n (bit (vget c.bstat b 0) 29) * 2 ^ (16 + b)) 0

/-- The 64-bit register at an offset of the control block, 8-byte aligned; none where R66 lists no register. -/
def Cluster.control (c : Cluster) (off : Nat) : Option W64 :=
  let o := off - 0x110000
  if o < 0x400 then
    let b := o / 0x40
    match o % 0x40 with
    | 0x00 => some (vget c.bfmt b 0)
    | 0x08 => some (vget c.bown b 0)
    | 0x10 => some (vget c.gmap b 0)
    | 0x18 => some (vget c.wgen b 0)
    | 0x20 => some (vget c.bstat b 0)
    | _ => none
  else if o < 0x500 then some (vget c.town ((o - 0x400) / 8) 0)
  else if 0x800 ≤ o && o < 0xC00 then
    let q := vget c.queues ((o - 0x800) / 0x20) QDesc.empty
    match o % 0x20 with
    | 0x00 => some q.w0
    | 0x08 => some (q.head.setWidth 64)
    | 0x10 => some (q.tail.setWidth 64)
    | _ => some 0
  else if o = 0xC00 then some (w64 c.clst)
  else none

/-- A register of the control block of the core's cluster read: where the block holds an error, the cluster is fenced and the access
completes no more (spec/07 R246, log entry 131). -/
def State.controlSound (s : State) : M Unit :=
  if (s.cluster (clusterOf s.cur)).ctlBad then .error (.stall (s.fenceCluster (clusterOf s.cur))) else .ok ()

/-- A load of n bytes from the control block (R67). -/
def State.controlLoad (s : State) (off n : Nat) : M Nat :=
  if n = 4 || n = 8 then
    match (s.cluster (clusterOf s.cur)).control (off / 8 * 8) with
    | some v => do
      s.controlSound
      pure (v.toNat / 2 ^ (8 * (off % 8)) % 2 ^ (8 * n))
    | none => trap .polderAccess 8
  else trap .polderAccess 8

/-- Who may store to BFMT or GMAP of a bay (R68). -/
def State.mayFormat (s : State) (b : Nat) : M Unit := do
  let c := s.me
  require (c.level = 2 || s.bayOwner (clusterOf s.cur) b = some c.pol) .polderAccess 1
  require (c.level ≠ 0) .privilege 1

/-- A store of n bytes to the control block (R67, R68). -/
def State.controlStore (s : State) (off n : Nat) (v : W64) : M State := do
  let c := clusterOf s.cur
  let o := off - 0x110000
  let lv := s.me.level
  require (n = 8 && ((s.cluster c).control off).isSome) .polderAccess 8
  s.controlSound
  if o < 0x400 then do
    let b := o / 0x40
    match o % 0x40 with
    | 0x00 => do
      s.mayFormat b
      s.writeBfmt c b v
    | 0x08 => do
      require (lv = 2) .privilege 1
      pure (s.writeBown c b v)
    | 0x10 => do
      s.mayFormat b
      pure (s.modCluster c fun k => { k with gmap := vset k.gmap b (v &&& 0x800000000000000F#64) })
    | 0x20 => do
      require (lv = 2) .privilege 1
      pure (s.modCluster c fun k => { k with bstat := vset k.bstat b (setField (vget k.bstat b 0) 48 16 (field v 48 16)) })
    | _ => trap .writeProtect 3
  else if o < 0x500 then do
    require (lv = 2) .privilege 1
    pure (s.writeTown c ((o - 0x400) / 8) v)
  else trap .writeProtect 3

/-! ## Barriers (R85, R86) -/

/-- A barrier of a cluster. -/
def Cluster.barrier (c : Cluster) (n : Nat) : Barrier := vget c.barriers n Barrier.reset

/-- A barrier of a cluster replaced. -/
def Cluster.setBarrier (c : Cluster) (n : Nat) (b : Barrier) : Cluster := { c with barriers := vset c.barriers n b }

/-- The release of a barrier whose arrivals have reached COUNT. -/
def Barrier.settle (b : Barrier) : Barrier :=
  if b.count.toNat ≤ b.arrived then { b with arrived := 0, phase := b.phase + 1 } else b

/-- One arrival at a barrier. -/
def Barrier.arrive (b : Barrier) : Barrier := Barrier.settle { b with arrived := b.arrived + 1 }

/-- The cluster of the core that moves. -/
def State.myCluster (s : State) : Cluster := s.cluster (clusterOf s.cur)

/-- The cluster of the core that moves, changed by f. -/
def State.modMyCluster (s : State) (f : Cluster → Cluster) : State := s.modCluster (clusterOf s.cur) f

/-- A load of WAIT (R86). One that has slept returns the phase that followed the one in which it fell asleep, however many
have followed since. -/
def State.waitBarrier (s : State) (n : Nat) : M (State × Nat) :=
  let b := s.myCluster.barrier n
  let slept := match s.me.sleep with
    | .wait m ph => if m = n then some ph else none
    | _ => none
  match slept with
  | some ph => if b.phase = ph then stallFor s (.wait n ph) else .ok (s, (ph + 1).toNat)
  | none =>
    let t := field (vget b.tokens (coreIn s.cur) 0) 0 31
    let d := (b.phase.toNat + 2 ^ 31 - t) % 2 ^ 31
    if d = 0 then stallFor s (.wait n b.phase)
    else if d = 1 then .ok (s, b.phase.toNat)
    else .ok (s.countCluster (clusterOf s.cur) 7 1 (s.baseFn s.cur), b.phase.toNat + 2 ^ 31)

/-- A load of ARRIVE: the arrival, a sleep until the release, the new phase. A core evicted in that sleep resumes with a load
of WAIT in its place (R87). -/
def State.arrive (s : State) (n : Nat) : M (State × Nat) :=
  let b := s.myCluster.barrier n
  match s.me.sleep with
  | .arrive m ph =>
    if m = n then if b.phase = ph then stallFor s (.arrive n ph) else .ok (s, (ph + 1).toNat)
    else .ok (s, (ph + 1).toNat)
  | .wait m _ => if m = n then s.waitBarrier n else .ok (s, b.phase.toNat)
  | _ =>
    let b' := b.arrive
    let t := s.modMyCluster fun c => c.setBarrier n b'
    if b'.phase = b.phase then stallFor t (.arrive n b.phase) else .ok (t, b'.phase.toNat)

/-- A load of ARRIVE_NB: the phase in which the arrival counts. -/
def State.arriveNb (s : State) (n : Nat) : State × Nat :=
  let b := s.myCluster.barrier n
  (s.modMyCluster fun c => c.setBarrier n b.arrive, b.phase.toNat)

/-- A store to WAIT: the token latched for the core. -/
def State.latchToken (s : State) (n : Nat) (v : W32) : State :=
  s.modMyCluster fun c =>
    let b := c.barrier n
    c.setBarrier n { b with tokens := vset b.tokens (coreIn s.cur) v }

/-- A store to CFG; a barrier whose arrivals already reach the new COUNT releases next (R83, R85). Bits [31:6] of the data are not
looked at (log entry 105). -/
def State.configBarrier (s : State) (n : Nat) (v : W32) : M State := do
  require (s.me.level ≠ 0) .privilege 1
  let k := field v 0 6
  require (1 ≤ k && k ≤ 32) .writeProtect 4
  let b := s.myCluster.barrier n
  let t := s.modMyCluster fun c => c.setBarrier n { b with count := BitVec.ofNat 6 k }
  pure (if k ≤ b.arrived then { t with agenda := t.agenda ++ [.barrierRelease (BitVec.ofNat 15 (clusterOf s.cur)) (BitVec.ofNat 3 n)] }
    else t)

/-! ## Mutexes (R88) -/

/-- A mutex of a cluster. -/
def Cluster.mutex (c : Cluster) (m : Nat) : Mutex := vget c.mutexes m { holder := none, waiters := [] }

/-- A mutex of a cluster replaced. -/
def Cluster.setMutex (c : Cluster) (m : Nat) (x : Mutex) : Cluster := { c with mutexes := vset c.mutexes m x }

/-- The core that moves as a holder or waiter. -/
def State.claim (s : State) : BitVec 5 × BitVec 6 × BitVec 12 :=
  (BitVec.ofNat 5 (coreIn s.cur), BitVec.ofNat 6 s.me.depth, s.me.pol)

/-- The mutex is held by core k of its cluster. -/
def Mutex.heldBy (x : Mutex) (k : Nat) : Bool :=
  match x.holder with
  | some (c, _, _) => c.toNat == k
  | none => false

/-- A load of MUTEX. -/
def State.lockMutex (s : State) (m : Nat) : M (State × Nat) :=
  let x := s.myCluster.mutex m
  let k := coreIn s.cur
  let waiting := s.me.sleep == .mutex m && x.waiters.any fun w => w.1.toNat == k
  if x.heldBy k then .ok (s, if s.me.sleep = .mutex m then 1 else 2)
  else if waiting then stallFor s (.mutex m)
  else if x.holder.isNone && x.waiters = [] then
    .ok (s.modMyCluster fun c => c.setMutex m { x with holder := some s.claim }, 1)
  else stallFor (s.modMyCluster fun c => c.setMutex m { x with waiters := x.waiters ++ [s.claim] }) (.mutex m)

/-- A store to MUTEX: accepted from the holder at the depth of its lock; the next waiter acquires in the next cycle. -/
def State.unlockMutex (s : State) (m : Nat) : M State :=
  let x := s.myCluster.mutex m
  match x.holder with
  | some (k, d, _) =>
    if k.toNat = coreIn s.cur && d.toNat = s.me.depth then
      let t := s.modMyCluster fun c => c.setMutex m { x with holder := none }
      .ok (if x.waiters = [] then t else { t with agenda := t.agenda ++
        [.mutexHandoff (BitVec.ofNat 15 (clusterOf s.cur)) (BitVec.ofNat 4 m)] })
    else trap .writeProtect 5
  | none => trap .writeProtect 5

/-- The first waiter of a free mutex acquires it. -/
def Mutex.handoff (x : Mutex) : Mutex :=
  match x.holder, x.waiters with
  | none, w :: t => { holder := some w, waiters := t }
  | _, _ => x

/-- MSTATE (R88). -/
def Mutex.word (x : Mutex) : Nat :=
  match x.holder with
  | some (k, d, p) => 2 ^ 31 + d.toNat * 2 ^ 25 + k.toNat * 2 ^ 20 + p.toNat
  | none => 0

/-- Core a holds the mutex at a depth above d. -/
def Mutex.heldDeeper (x : Mutex) (a d : Nat) : Bool :=
  match x.holder with
  | some (k, e, _) => k.toNat = coreIn a && d < e.toNat
  | none => false

/-- The lowest mutex that core a holds at a depth above d. -/
def State.deeperMutex (s : State) (a d : Nat) : Option Nat :=
  if isOrdinary a then firstBelow 16 fun m => ((s.cluster (clusterOf a)).mutex m).heldDeeper a d else none

/-- One release cycle of R89: the lowest mutex that core a holds at a depth above the one to which it has unwound becomes
free, and its first waiter acquires in the next cycle; with none left the core goes on. -/
def State.releaseMutex (s : State) (a : Nat) : State :=
  match (s.core a).freeing with
  | none => s
  | some d =>
    match s.deeperMutex a d with
    | none => s.modCore a fun c => { c with freeing := none }
    | some m =>
      let x := (s.cluster (clusterOf a)).mutex m
      let t := s.modCluster (clusterOf a) fun c => c.setMutex m { x with holder := none }
      if x.waiters = [] then t
      else { t with agenda := t.agenda ++ [.mutexHandoff (BitVec.ofNat 15 (clusterOf a)) (BitVec.ofNat 4 m)] }

/-- The sleep of core a in the event unit has had its effect: the mutex is its own, the event woke it, the phase has moved
on. The load only has to return (R85, R86, R88, R90). -/
def State.sleepDone (s : State) (a : Nat) : Bool :=
  let k := s.cluster (clusterOf a)
  match (s.core a).sleep with
  | .mutex m => (k.mutex m).heldBy (coreIn a)
  | .event _ woken => woken
  | .arrive n ph => (k.barrier n).phase != ph
  | .wait n ph => (k.barrier n).phase != ph
  | _ => false

/-! ## Events (R90) -/

/-- An event of a cluster. -/
def Cluster.event (c : Cluster) (e : Nat) : EventBit := vget c.events e { set := false, sleepers := [] }

/-- An event of a cluster replaced. -/
def Cluster.setEvent (c : Cluster) (e : Nat) (x : EventBit) : Cluster := { c with events := vset c.events e x }

/-- An event of a cluster set: the first sleeper wakes and clears it. -/
def State.setEvent (s : State) (c e : Nat) : State :=
  let x := (s.cluster c).event e
  match x.sleepers with
  | k :: t =>
    (s.modCluster c fun y => y.setEvent e { x with set := false, sleepers := t }).modCore (agentIn c k.toNat) fun y =>
      { y with sleep := .event e true }
  | [] => s.modCluster c fun y => y.setEvent e { x with set := true }

/-- A load of EVENT. -/
def State.waitEvent (s : State) (e : Nat) : M (State × Nat) :=
  let x := s.myCluster.event e
  let k := BitVec.ofNat 5 (coreIn s.cur)
  if s.me.sleep = .event e true then .ok (s, 1)
  else if x.set then .ok (s.modMyCluster fun c => c.setEvent e { x with set := false }, 1)
  else if s.me.sleep = .event e false then stallFor s (.event e false)
  else stallFor (s.modMyCluster fun c => c.setEvent e { x with sleepers := x.sleepers ++ [k] }) (.event e false)

/-- A store to REMOTE: an event message to a cluster of the sender's stand. A core that serves no job reaches its own cluster
alone (log entry 106). -/
def State.sendRemote (s : State) (v : W32) : M State := do
  require (field v 20 12 = 0 && field v 5 11 ≤ 1279) .writeProtect 4
  let c := field v 5 15
  let inside := match s.jobOf s.cur with
    | some j => j.clusters.contains c
    | none => c == clusterOf s.cur
  require inside .polderAccess 9
  pure { s with messages := s.messages ++ [(c, v.extractLsb' 0 5)] }

/-! ## Accesses to the event unit (R83) -/

/-- A 4-byte load at an offset of the event unit. -/
def State.unitLoad (s : State) (off : Nat) : M (State × Nat) :=
  let o := off - 0x100000
  let c := s.myCluster
  if o < 0x200 then
    let n := o / 0x40
    let b := c.barrier n
    match o % 0x40 with
    | 0x00 => s.arrive n
    | 0x04 => .ok (s.arriveNb n)
    | 0x08 => s.waitBarrier n
    | 0x0C => .ok (s, b.phase.toNat)
    | 0x10 => .ok (s, b.count.toNat)
    | 0x14 => .ok (s, b.arrived)
    | _ => trap .polderAccess 8
  else if 0x800 ≤ o && o < 0x880 then
    let m := (o - 0x800) / 8
    if o % 8 = 0 then s.lockMutex m else .ok (s, (c.mutex m).word)
  else if 0x1000 ≤ o && o < 0x1100 then
    let e := (o - 0x1000) / 8
    if o % 8 = 0 then s.waitEvent e else .ok (s, b2n (c.event e).set)
  else if o = 0x1100 then .ok (s, 0)
  else trap .polderAccess 8

/-- A 4-byte store at an offset of the event unit. -/
def State.unitStore (s : State) (off : Nat) (v : W32) : M State :=
  let o := off - 0x100000
  if o < 0x200 then
    let n := o / 0x40
    match o % 0x40 with
    | 0x08 => .ok (s.latchToken n v)
    | 0x10 => s.configBarrier n v
    | 0x00 | 0x04 | 0x0C | 0x14 => trap .writeProtect 3
    | _ => trap .polderAccess 8
  else if 0x800 ≤ o && o < 0x880 then
    if o % 8 = 0 then s.unlockMutex ((o - 0x800) / 8) else trap .writeProtect 3
  else if 0x1000 ≤ o && o < 0x1100 then
    if o % 8 = 0 then .ok (s.setEvent (clusterOf s.cur) ((o - 0x1000) / 8)) else trap .writeProtect 3
  else if o = 0x1100 then s.sendRemote v
  else trap .polderAccess 8

end Sys2Proof.Machine
end

