-- ==== Sys2Proof/Machine/Bays.lean ====
section
/-! DEFINITION. Elements of scratch bays: what they hold (spec/02 R69, R70, spec/03 R107 to R109), and the conversion of
values into a bay's format (R116 to R122). -/

namespace Sys2Proof.Machine

/-! ## Formats of bays (R69) -/

/-- The floating-point format that a FORMAT code names; none for raw, code and the integers. -/
def bayFmt (f : Nat) : Option Fmt :=
  if f = 2 then some .f32 else if f = 3 then some .bf16 else if f = 4 then some .f16 else if f = 5 then some .e4m3
  else if f = 6 then some .e5m2 else if f = 7 then some .e2m1 else none

/-- The number of bits of an element of a bay format; 8 for raw and code. -/
def bayBits (f : Nat) : Nat :=
  if f = 2 || f = 9 then 32 else if f = 3 || f = 4 then 16 else if f = 7 then 4 else 8

/-- The bytes that an element occupies; 1 in an E2M1-blocked bay. -/
def bayBytes (f : Nat) : Nat := (bayBits f + 7) / 8

/-- The bytes of a bay that hold elements (R70). -/
def bayArea (f : Nat) : Nat := if f = 7 then 0x6000 else 0x8000

/-- The first key of a bay. -/
def bayBase (c b : Nat) : Nat := scratchBase c + b * 0x8000

/-- SCALE of BFMT as the bay uses it (R109). -/
def bayScale (f : W64) : Nat × Nat := scaleVal (field f 48 16)

/-- The location of a byte of a bay. -/
def bayLoc (c b y : Nat) : Loc := ⟨.bay b, 0x80000 + b * 0x8000 + y, bayBase c b + y⟩

/-- An element of a bay: its value, and whether it is an integer. -/
structure Elem where
  val : Val
  int : Bool
  deriving DecidableEq, Repr

/-- The value of a code in a bay of some format other than E2M1-blocked. -/
def elemOf (f : W64) (code : Nat) : Elem :=
  let k := field f 0 4
  match bayFmt k with
  | some g =>
    let v := g.decode code
    let (n, d) := bayScale f
    { val := if k = 5 || k = 6 then v.mul (.fin false n d) else v, int := false }
  | none => { val := .ofInt (toSigned (bayBits k) code), int := true }

/-- The band that holds element i (R108). -/
def bandOf (f : W64) (i : Nat) : Nat := i / field f 16 16 / 64

/-- The value of the band-scale slot of a band (R109). -/
def State.bandScale (s : State) (c b band : Nat) : Nat × Nat := scaleVal (s.read (bayBase c b + 0x7800 + 2 * band) 2)

/-- The micro-block scale of a block. -/
def State.blockScale (s : State) (c b blk : Nat) : Nat × Nat := e3m5 (s.byte (bayBase c b + 0x6000 + blk)).toNat

/-- The code of E2M1 element i. -/
def State.nibble (s : State) (c b i : Nat) : Nat := (s.byte (bayBase c b + i / 2)).toNat / 16 ^ (i % 2) % 16

/-- Element i of a bay, decoded with every scale (R108, R109). -/
def State.bayElem (s : State) (c b i : Nat) : Elem :=
  let f := s.bfmt c b
  if field f 0 4 = 7 then
    let (x, y) := s.blockScale c b (i / 8)
    let (z, w) := s.bandScale c b (bandOf f i)
    { val := ((Fmt.e2m1.decode (s.nibble c b i)).mul (.fin false x y)).mul (.fin false z w), int := false }
  else elemOf f (s.read (bayBase c b + i * bayBytes (field f 0 4)) (bayBytes (field f 0 4)))

/-- The bytes beside the n data bytes at offset y of a bay that decoding them reads, as offsets with sizes: the micro-block
scales and the band slots of an E2M1-blocked bay (R108). -/
def scaleBytes (f : W64) (y n : Nat) : List (Nat × Nat) :=
  if field f 0 4 = 7 && 0 < n then
    (0x6000 + y / 4, (y + n - 1) / 4 - y / 4 + 1) ::
      (List.range (bandOf f (2 * (y + n) - 1) - bandOf f (2 * y) + 1)).map fun i => (0x7800 + 2 * (bandOf f (2 * y) + i), 2)
  else []

/-- Error correction of a list of areas of a bay that an access of agent a reads (spec/02 R97). -/
def State.eccAreas (s : State) (a b : Nat) (l : List (Nat × Nat)) : M Unit :=
  l.forM fun r => s.eccCheck a (bayLoc (clusterOf a) b r.1) r.2 true

/-- The corrected errors that reads of a list of areas of a bay find (spec/02 R96). -/
def State.softAreas (s : State) (a b : Nat) (l : List (Nat × Nat)) : State :=
  l.foldl (fun (s : State) r => s.softRead a (bayLoc (clusterOf a) b r.1) r.2) s

/-- The format of the memory at a pointer: that of its bay, or raw. -/
def State.endFormat (s : State) (a : Nat) (ptr : W64) : Nat :=
  match regionOf a (field ptr 0 28) with
  | some (.bay b) => s.bayFormat (clusterOf a) b
  | _ => 0

/-! ## Conversion of one value (R117 to R119) -/

/-- The rounding of a conversion into a bay, for the element with an index. -/
def bayRnd (f : W64) (seed ts idx : Nat) : Rnd :=
  { mode := field f 8 3, sat := bit f 32, conv := true, ftz := false, rb := srMix seed ts idx }

/-- A value converted into an integer of n bits, from an integer by R115 or from a floating-point value by R119. -/
def elemToInt (n : Nat) (r : Rnd) (e : Elem) : Nat × FFlags :=
  if e.int then
    match e.val with
    | .fin s a _ => (ofInt n (satClamp (b2n r.sat) n (signedNum s a)), FFlags.none)
    | _ => (0, FFlags.none)
  else toIntCode false n r.mode r.rb e.val

/-- The code of a value in a bay of some format other than E2M1-blocked. -/
def bayCode (f : W64) (seed ts idx : Nat) (e : Elem) : Nat × FFlags :=
  let k := field f 0 4
  let r := bayRnd f seed ts idx
  match bayFmt k with
  | some g =>
    let (n, d) := bayScale f
    g.round r (if k = 5 || k = 6 then e.val.divBy n d else e.val)
  | none => elemToInt (bayBits k) r e

/-! ## E2M1-blocked bays (R120 to R122) -/

/-- The larger of two magnitudes. -/
def magMax (a b : Nat × Nat) : Nat × Nat := if magGe a.1 a.2 b.1 b.2 then a else b

/-- The largest magnitude among the finite values of a list. -/
def maxFinite (l : List Val) : Nat × Nat :=
  l.foldl (fun m v => match v with
    | .fin _ n d => magMax m (n, d)
    | _ => m) (0, 1)

/-- The code of the smallest E3M5 value that is not below n / d. -/
def scaleCode (n d : Nat) : Nat := (firstBelow 256 fun k => magGe (e3m5 k).1 (e3m5 k).2 n d).getD 255

/-- The micro-block scale of a block's eight values, with the band scale x / y (R120). -/
def microScale (l : List Val) (x y : Nat) : Nat :=
  let (n, d) := maxFinite l
  if n = 0 then (if l.any Val.isInf then 255 else 0) else scaleCode (n * y) (d * x * 6)

/-- One element of a block under its scale code and band scale (R118, R120). -/
def microCode (f : W64) (seed ts idx code x y : Nat) (v : Val) : Nat × FFlags :=
  let (n, d) := e3m5 code
  match v with
  | .fin s _ _ =>
    if n = 0 then (b2n s * 8, FFlags.none) else Fmt.e2m1.round (bayRnd f seed ts idx) (v.divBy (n * x) (d * y))
  | v => Fmt.e2m1.round (bayRnd f seed ts idx) v

/-- The BF16 code of the band scale that is computed for a largest magnitude (R121). -/
def bandCode (n d : Nat) : Nat :=
  if n = 0 then 0x3F80
  else
    let e := expOf n d - 7
    let ok := if 0 ≤ e then n ≤ 189 * d * 2 ^ e.toNat else n * 2 ^ (-e).toNat ≤ 189 * d
    ((clampInt (if ok then e else e + 1) (-126) 127) + 127).toNat * 128

/-- One write of a conversion: the offset within the bay, the number of bytes, the bytes, the elements' flags, and the write
cycle of the bay that it belongs to: that of its row group, or the one cycle in which a part of a micro-block is re-encoded
with its scale (R122, spec/02 R61, R75). -/
structure BayWrite where
  off   : Nat
  size  : Nat
  data  : Nat
  flags : FFlags
  cycle : Nat
  deriving DecidableEq, Repr

/-- A write in the cycle of its own row group. -/
def BayWrite.plain (off size data : Nat) (flags : FFlags) : BayWrite := ⟨off, size, data, flags, off / 16⟩

/-- The band-scale slots that a transfer of elements writes (R121). -/
def bandWrites (f : W64) (els : List (Nat × Elem)) : List BayWrite :=
  let bands := (els.map fun e => bandOf f e.1).eraseDups
  let rows := 64 * field f 16 16
  bands.filterMap fun k =>
    let here := els.filter fun e => bandOf f e.1 == k
    if !bit f 33 then some (.plain (0x7800 + 2 * k) 2 (field f 48 16) FFlags.none)
    else if here.length = min ((k + 1) * rows) 49152 - k * rows then
      let (n, d) := maxFinite (here.map fun e => e.2.val)
      some (.plain (0x7800 + 2 * k) 2 (bandCode n d) FFlags.none)
    else none

/-- The band scale in force during a transfer. -/
def State.bandNow (s : State) (c b : Nat) (slots : List BayWrite) (k : Nat) : Nat × Nat :=
  match slots.find? fun w => w.off == 0x7800 + 2 * k with
  | some w => scaleVal w.data
  | none => s.bandScale c b k

/-- The band slots that an encoding of elements reads: those of the bands that its own writes do not set (R121). -/
def slotReads (f : W64) (slots : List BayWrite) (els : List (Nat × Elem)) : List (Nat × Nat) :=
  if field f 0 4 = 7 then
    ((els.map fun e => bandOf f e.1).eraseDups.filter fun k => !slots.any fun w => w.off == 0x7800 + 2 * k).map
      fun k => (0x7800 + 2 * k, 2)
  else []

/-- One micro-block re-encoded with the elements that a transfer gives it (R120, R122): its data and its scale. -/
def State.blockWrites (s : State) (c b seed ts : Nat) (slots : List BayWrite) (els : List (Nat × Elem)) (blk : Nat) :
    List BayWrite :=
  let f := s.bfmt c b
  let vals := (List.range 8).map fun k =>
    match els.find? fun e => e.1 == 8 * blk + k with
    | some e => e.2.val
    | none => (s.bayElem c b (8 * blk + k)).val
  let (x, y) := s.bandNow c b slots (bandOf f (8 * blk))
  let code := microScale vals x y
  let out := ((List.range 8).zip vals).map fun e => microCode f seed ts (8 * blk + e.1) code x y e.2
  let data := out.foldr (fun e n => e.1 + 16 * n) 0
  let whole := (List.range 8).all fun k => els.any fun e => e.1 == 8 * blk + k
  let cycle := if whole then 4 * blk / 16 else 0x1000 + blk
  [⟨4 * blk, 4, data, out.foldl (fun g e => g.or e.2) FFlags.none, cycle⟩, ⟨0x6000 + blk, 1, code, FFlags.none, cycle⟩]

/-- The writes of a transfer of elements, each with its index, into a bay (R116 to R122), in ascending order. -/
def State.bayWrites (s : State) (c b seed ts : Nat) (els : List (Nat × Elem)) : List BayWrite :=
  let f := s.bfmt c b
  let k := field f 0 4
  if k = 7 then
    let slots := bandWrites f els
    slots ++ ((els.map fun e => e.1 / 8).eraseDups).flatMap (s.blockWrites c b seed ts slots els)
  else els.map fun e =>
    let (x, g) := bayCode f seed ts e.1 e.2
    .plain (e.1 * bayBytes k) (bayBytes k) x g

/-- The flags of a list of writes together. -/
def writesFlags (l : List BayWrite) : FFlags := l.foldl (fun g w => g.or w.flags) FFlags.none

/-- The write cycles of a list of writes (R122, spec/02 R75). -/
def writeCycles (l : List BayWrite) : Nat := (l.map (·.cycle)).eraseDups.length

/-- Byte y of a bay is one of those that a list of writes covers. -/
def coversByte (l : List BayWrite) (y : Nat) : Bool := l.any fun w => w.off ≤ y && y < w.off + w.size

/-- Word w of memory lies in a bay, and a list of writes covers all of it. -/
def coversWord (c b : Nat) (l : List BayWrite) (w : Nat) : Bool :=
  bayBase c b ≤ 4 * w && (List.range 4).all fun i => coversByte l (4 * w - bayBase c b + i)

/-- Error correction of a list of writes into a bay: a fenced bay, a failed tag, a failed word that the writes cover only in
part (spec/02 R97 to R99); and of the rest of the micro-blocks that they re-encode, which is read (R122). -/
def State.eccWrites (s : State) (a b : Nat) (l : List BayWrite) : M Unit :=
  l.forM fun w =>
    let loc := bayLoc (clusterOf a) b w.off
    if s.fencedAt a loc then trap .uncorrectable (errorValue a loc (loc.key / 4 * 4) false true)
    else
      match s.badFor loc.key w.size 0 true with
      | some (k, true) => trap .uncorrectable (errorValue a loc k true false)
      | some (k, false) =>
        require (coversWord (clusterOf a) b l (k / 4) && w.cycle < 0x1000) .uncorrectable (errorValue a loc k false false)
      | none => .ok ()

/-- The writes made in memory and their cycles counted; `engine` sets their words full (spec/02 R78). -/
def State.bayApply (s : State) (c b : Nat) (engine : Bool) (l : List BayWrite) : State :=
  let covered (w : Nat) : Bool := coversWord c b l w
  let s := { s with badWords := s.badWords.filter fun w => !covered w, softWords := s.softWords.filter fun w => !covered w }
  let s := l.foldl (fun (s : State) w =>
    let s := s.putBytes (bayLoc c b w.off) w.size w.data (allBytes w.size)
    if engine then s.fillRange (bayBase c b + w.off) w.size else s) s
  if l = [] then s else s.bumpWgen c b (writeCycles l)

end Sys2Proof.Machine
end

