-- ==== Sys2Proof/Machine/Far.lean ====
section
/-! DEFINITION. Far memory: page walks (spec/01 R37 to R43), translation caches and walks in flight (R46, R47), fault
records (R49 to R51), the L1s (R44, R45, spec/04 R145), and far reads and writes of a landing or hub core. -/

namespace Sys2Proof.Machine

/-! ## Leaves (R38) -/

/-- R of a leaf. -/
def leafR (e : W64) : Bool := bit e 1
/-- W of a leaf. -/
def leafW (e : W64) : Bool := bit e 2
/-- XN of a leaf. -/
def leafXn (e : W64) : Bool := bit e 3
/-- CA of a leaf. -/
def leafCa (e : W64) : Nat := field e 4 2
/-- KEY of a leaf. -/
def leafKey (e : W64) : Nat := field e 6 6
/-- HOME of a leaf. -/
def leafHome (e : W64) : Nat := field e 12 12
/-- PFN of a leaf or table pointer. -/
def leafPfn (e : W64) : Nat := field e 24 25
/-- OWNER of a leaf. -/
def leafOwner (e : W64) : Nat := field e 49 12

/-- The physical address of a virtual one under a leaf (R37). -/
def leafPa (e : W64) (large : Bool) (va : Nat) : Nat := leafPfn e * 0x10000 + va % (if large then 2 ^ 26 else 2 ^ 16)

/-- HOME names another module (R41). -/
def State.remote (s : State) (e : W64) : Bool := leafHome e ≠ 0xFFF && s.hub.fabric ≠ some (BitVec.ofNat 12 (leafHome e))

/-- A frame of the device-control space (spec/07 R233). -/
def isDevFrame (pfn : Nat) : Bool := 0x1E00000 ≤ pfn && pfn < 0x1E20000

/-- A frame of the host window (R40). -/
def isWindowFrame (pfn : Nat) : Bool := 0x1C00000 ≤ pfn && pfn < 0x1C00040

/-- A frame that exists (R40, spec/07 R233). -/
def frameMapped (pfn : Nat) : Bool := pfn < 0x1800000 || isWindowFrame pfn || isDevFrame pfn

/-- A key slot that is foreign to a function (spec/04 R142). -/
def State.keyForeign (s : State) (k vf : Nat) : Bool :=
  k ≠ 0 && !(field (vget s.hub.keys k { kslot := 0, words := 0 }).kslot 62 2 = 2
    && field (vget s.hub.keys k { kslot := 0, words := 0 }).kslot 0 6 = vf)

/-! ## The walk (R43) -/

/-- How a walk ends: a leaf, whether it maps a large page, and the address of its entry; or a fault with its kind, level,
entry, and whether the leaf named a remote module. -/
inductive WalkRes where
  | leaf (e : W64) (large : Bool) (entry : Nat)
  | fault (kind lvl : Nat) (e : W64) (remote : Bool)
  deriving DecidableEq, Repr

/-- The checks of a leaf for an access acc (0 read, 1 write, 2 push source, 3 atomic), by the frame that the leaf names (R40,
R43). `travel` says that the access goes to a remote home when the leaf names one (R41). -/
def State.checkLeaf (s : State) (pol : BitVec 12) (acc : Nat) (travel : Bool) (e : W64) (lvl entry : Nat) : WalkRes :=
  let large := lvl == 2
  let bad (k : Nat) : WalkRes := .fault k lvl e (s.remote e)
  let pfn := leafPfn e
  if leafCa e = 3 || (large && leafPfn e % 1024 ≠ 0) then bad 5
  else if isDevFrame pfn && (leafOwner e ≠ 0 || leafCa e ≠ 0) then bad 5
  else if leafOwner e ≠ pol.toNat then bad 4
  else if acc ≠ 1 && !leafR e then bad 2
  else if (acc = 1 || acc = 3) && !leafW e then bad 3
  else if s.keyForeign (leafKey e) (descVf (s.desc pol)) then bad 7
  else if isWindowFrame pfn && leafCa e ≠ 0 then bad 5
  else if !frameMapped pfn then bad 6
  else if travel && s.remote e && s.hub.fabric.isNone then bad 6
  else .leaf e large entry

/-- The levels left of a walk: level number, low bit and width of its index (R37). -/
def walkLevels : List (Nat × Nat × Nat) := [(1, 37, 11), (2, 26, 11), (3, 16, 10)]

/-- The address of the entry for a virtual address in a table frame, at a level with the low bit and the width of its index. -/
def entryAt (frame va lo n : Nat) : Nat := frame * 0x10000 + va / 2 ^ lo % 2 ^ n * 8

/-- The entries that a walk from a table frame down the levels left reads, with their addresses: each once, in level order
(R47). -/
def State.walkReads (s : State) (va frame : Nat) : List (Nat × Nat × Nat) → List (Nat × W64)
  | [] => []
  | (lvl, lo, n) :: rest =>
    if 0x1800000 ≤ frame then []
    else
      let e := w64 (s.hubRead (entryAt frame va lo n) 8)
      (entryAt frame va lo n, e) ::
        if !bit e 0 || bit e 62 || bit e 61 || lvl = 3 then [] else s.walkReads va (leafPfn e) rest

/-- The walk from a table frame, named by an entry, down the levels left; `rd` gives the entries as the walk read them. -/
def State.walkFrom (s : State) (rd : Nat → W64) (pol : BitVec 12) (va acc : Nat) (travel : Bool) (frame : Nat) (named : W64) :
    List (Nat × Nat × Nat) → WalkRes
  | [] => .fault 5 3 named false
  | (lvl, lo, n) :: rest =>
    if 0x1800000 ≤ frame then .fault 6 lvl named false
    else
      let at' := entryAt frame va lo n
      let e := rd at'
      if !bit e 0 then .fault 1 lvl e false
      else if bit e 62 || (bit e 61 && lvl ≠ 2) then .fault 5 lvl e false
      else if lvl = 3 || bit e 61 then s.checkLeaf pol acc travel e lvl at'
      else s.walkFrom rd pol va acc travel (leafPfn e) e rest

/-- The walk of an access over the entries that `rd` gives. -/
def State.walkBy (s : State) (rd : Nat → W64) (pol : BitVec 12) (va acc : Nat) (travel : Bool) : WalkRes :=
  if !descV (s.desc pol) then .fault 1 1 0 false
  else s.walkFrom rd pol va acc travel (descRoot (s.desc pol)) 0 walkLevels

/-- The walk of an access (R43), without setting A. -/
def State.walk (s : State) (pol : BitVec 12) (va acc : Nat) (travel : Bool) : WalkRes :=
  s.walkBy (fun a => w64 (s.hubRead a 8)) pol va acc travel

/-- A set in a leaf entry (R42). -/
def State.setAccessed (s : State) (entry : Nat) : State :=
  let v := s.hubRead entry 8
  if v / 2 ^ 63 % 2 = 1 then s else s.hubWrite entry 8 (v + 2 ^ 63)

/-- An access with a permission that a leaf gives. -/
def leafAllows (e : W64) (acc : Nat) : Bool := (acc = 1 || leafR e) && (!(acc = 1 || acc = 3) || leafW e)

/-! ## Translation caches (R46) -/

/-- The translation cache that serves an agent, and its size. -/
def State.tlbOf (s : State) (a : Nat) : List Tlb := if isHub a then s.hub.tlb else (s.die (dieOf a)).tlb

/-- The entries of the cache that serves an agent replaced. One that is full drops the entry added longest ago (log entry 123). -/
def State.setTlb (s : State) (a : Nat) (l : List Tlb) : State :=
  if isHub a then s.modHub fun h => { h with tlb := l.take 512 } else s.modDie (dieOf a) fun d => { d with tlb := l.take 8192 }

/-- The walks in flight of the unit that serves an agent, and how many it may run. -/
def State.walksOf (s : State) (a : Nat) : List Walk := if isHub a then s.hub.walks else (s.die (dieOf a)).walks

/-- The walks in flight of the unit that serves an agent replaced. -/
def State.setWalks (s : State) (a : Nat) (l : List Walk) : State :=
  if isHub a then s.modHub fun h => { h with walks := l } else s.modDie (dieOf a) fun d => { d with walks := l }

/-- The walks that a unit runs at once. -/
def walkSlots (a : Nat) : Nat := if isHub a then 8 else 64

/-- The cached leaf of a polder's virtual address. -/
def State.tlbFind (s : State) (a : Nat) (pol : BitVec 12) (va : Nat) : Option Tlb :=
  (s.tlbOf a).find? fun t => t.pol == pol && t.page == va / (if t.large then 2 ^ 26 else 2 ^ 16)

/-- A leaf cached, in front of the others. -/
def State.tlbAdd (s : State) (a : Nat) (pol : BitVec 12) (va : Nat) (e : W64) (large : Bool) : State :=
  let page := va / (if large then 2 ^ 26 else 2 ^ 16)
  s.setTlb a ({ pol := pol, page := page, large := large, leaf := e } ::
    (s.tlbOf a).filter fun t => !(t.pol == pol && t.page == page && t.large == large))

/-! ## Fault records (R49 to R51) -/

/-- The 32 bytes of a record but for SEQ. -/
def State.faultBytes (s : State) (r : FarReq) (kind lvl : Nat) (e : W64) (remote merged : Bool) : BitVec 256 :=
  let vf := descVf (s.desc r.pol)
  BitVec.ofNat 256 (r.ptr.toNat + field (s.core r.agent).ssn 0 32 * 2 ^ 64 + r.agent % 1024 * 2 ^ 112
    + r.pol.toNat * 2 ^ 128 + vf * 2 ^ 144 + s.vfGen vf * 2 ^ 152 + (kind + lvl * 16 + r.acc * 64) * 2 ^ 160
    + (b2n merged + b2n r.copy * 2 + b2n remote * 4) * 2 ^ 168 + r.progress % 2 ^ 16 * 2 ^ 176 + e.toNat * 2 ^ 192)

/-- What a waiting access waits on from now: a record, or room in the ring. A landing push keeps its own place. -/
def State.waitOn (s : State) (r : FarReq) (w : Sleep) (seq : Option (BitVec 16)) : State :=
  match r.push with
  | none => s.modCore r.agent fun c => if c.farReq = some r then { c with sleep := w } else c
  | some i => s.modCore r.agent fun c =>
      { c with pushes := c.pushes.map fun p => if p.id = i then { p with seq := seq } else p }

/-- A record put into the ring with the next SEQ. -/
def State.insertRecord (s : State) (r : FaultRec) : State :=
  let n := s.hub.seq
  let rec' := { r with bytes := setField r.bytes 96 16 n.toNat, inRing := true }
  (s.modHub fun h => { h with faults := h.faults ++ [rec'], seq := h.seq + 1 }).waitOn r.req (.record n) (some n)

/-- The ring has room for another record (R51). -/
def State.ringRoom (s : State) : Bool := (s.hub.faults.filter fun r => r.inRing).length < 1024

/-- A fault reported (R49): a record on a landing core, which waits for room when the ring is full; the fault code for a
hub core. -/
def State.reportFault (s : State) (r : FarReq) (walk kind lvl : Nat) (e : W64) (remote merged : Bool) : State :=
  if isHub r.agent then
    s.modCore r.agent fun c => if c.farReq = some r then
      { c with walked := some (BitVec.ofNat 8 (kind + lvl * 16 + r.acc * 64)), sleep := .engine } else c
  else
    let rec' : FaultRec := { bytes := s.faultBytes r kind lvl e remote merged, req := r, walk := walk, inRing := false, voided := false,
                             later := none, fn := BitVec.ofNat 6 (descVf (s.desc r.pol)) }
    if s.ringRoom && s.hub.waitRecs = [] then s.insertRecord rec'
    else (s.modHub fun h => { h with waitRecs := h.waitRecs ++ [rec'] }).waitOn r .ring none

/-! ## Errors in far memory (spec/04 R138 to R140) -/

/-- Error correction of a physical access to the bytes that mask marks, of n from an address up (spec/04 R138 to R140): code 3
with a dirty berm sector in error, code 5 with HBM, where a clean sector in error is fetched anew, as is one of a line that does not
match (R130), code 6 with the window. An access to a fenced pseudo-channel traps before the berm is looked at (log entry 124). -/
def State.physEccFor (s : State) (mine : BermLine → Bool) (pa n mask : Nat) (reads : Bool) : M Unit :=
  let g := pa / 32 * 32 * 256
  if hbmEnd ≤ pa then
    match s.badFor pa n mask reads with
    | some _ => trap .uncorrectable (6 + g)
    | none => .ok ()
  else if s.failed 6 (channelOf pa) then trap .uncorrectable (5 + 32 + g)
  else
    let i := pa / 32 % 4
    let part := reads || !wholeGranule n mask
    let held := (s.bermFind pa).any fun l => bit l.valid i && (bit l.dirty i || (!bit l.bad i && mine l))
    let stuck := (s.bermFind pa).any fun l => bit l.valid i && bit l.dirty i && bit l.bad i
    let tag := (s.bermFind pa).any fun l => bit l.badTags i
    if stuck then require (!part) .uncorrectable (3 + b2n tag * 16 + g)
    else if held then .ok ()
    else
      match s.badAt (pa / 32 * 32) 32 with
      | some (_, t) => require (!part) .uncorrectable (5 + b2n t * 16 + g)
      | none => .ok ()

/-- Error correction of a physical access to the bytes that mask marks, for a tenant and a key slot. -/
def State.physEccMasked (s : State) (pa n mask : Nat) (reads : Bool) (v : Via) : M Unit :=
  s.physEccFor (fun l => l.matches v.vf v.key) pa n mask reads

/-- Error correction of a physical access to n bytes. -/
def State.physEcc (s : State) (pa n : Nat) (reads : Bool) (v : Via) : M Unit := s.physEccMasked pa n (2 ^ n - 1) reads v

/-- Error correction of the four granules of a line that is read. -/
def State.lineEcc (s : State) (pa : Nat) (v : Via) : M Unit :=
  (List.range 4).forM fun i => s.physEcc (pa / 128 * 128 + 32 * i) 32 true v

/-- Error correction of a read of n bytes by the walker or the hub, which any line serves (State.hubRead). -/
def State.tableEcc (s : State) (pa n : Nat) : M Unit := s.physEccFor (fun _ => true) pa n (2 ^ n - 1) true

/-- The corrected error that such a read finds in HBM (spec/04 R138), for a tenant. -/
def State.tableSoft (s : State) (pa vf : Nat) : State :=
  if hbmEnd ≤ pa || (s.bermFind pa).any (fun l => bit l.valid (pa / 32 % 4)) then s else s.hbmSoft pa vf

/-- An error in far memory that a core meets beside its instructions: detected at once (R138, spec/07 R246), and UNCORRECTABLE is
left pending for its next boundary (R140). -/
def State.laterError (s : State) (a : Nat) (v : W64) : State :=
  let c := s.core a
  (s.modCore a fun k => { k with deferred := k.deferred ++
    [{ cause := .uncorrectable, value := v, depth := c.depth, pol := c.pol }] }).detect a .uncorrectable v

/-- The dirty sectors of a line that hold an error. -/
def BermLine.stuckSectors (l : BermLine) : List Nat :=
  (List.range 4).filter fun i => bit l.bad i && bit l.dirty i && bit l.valid i

/-- TRAPV of an error in sector i of a line (R139). -/
def BermLine.errorValue (l : BermLine) (i : Nat) : W64 := w64 (3 + b2n (bit l.badTags i) * 16 + (l.pa + 32 * i) * 256)

/-- The sectors with errors that a flush or conversion reaches: UNCORRECTABLE with code 3 on the core that issued it, at its
next boundary (R140). -/
def State.sectorErrors (s : State) (a : Nat) (l : BermLine) (p : Nat → Bool) : State :=
  (l.stuckSectors.filter p).foldl (fun (s : State) i => s.laterError a (l.errorValue i)) s

/-! ## Landing pushes that fail -/

/-- The value of R323 for a push that stops after k bytes. -/
def stopValue (v : W64) (k : Nat) : W64 := w64 (field v 0 32 + k % 2 ^ 16 * 2 ^ 32 + 2 ^ 63)

/-- A push at its end leaves the list. -/
def State.dropPush (s : State) (a id : Nat) : State := s.modCore a fun c => { c with pushes := c.pushes.filter fun p => p.id ≠ id }

/-- A push stopped: its core takes a deferred trap (spec/11 R323). -/
def State.stopPush (s : State) (a : Nat) (p : Push) (c : Cause) (v : W64) : State :=
  (s.dropPush a p.id).modCore a fun k =>
    { k with deferred := k.deferred ++ [{ cause := c, value := v, depth := p.ctx.depth, pol := p.ctx.pol }] }

/-- The die bridges carry accesses of an agent to a physical address: its stack's die is released, or the agent's own (spec/07
R249). -/
def State.bridged (s : State) (a pa : Nat) : Bool := hbmEnd ≤ pa || dieOf a == stackOf pa || (s.die (stackOf pa)).released

/-! ## Walks in flight (R47) -/

/-- The 64 KiB page of a far pointer. -/
def pageOf (p : W64) : Nat := field p 16 32

/-- A record of a walk of the unit that serves agent a waits for room in the ring (R51). -/
def State.recordWaits (s : State) (a : Nat) (w : Walk) : Bool :=
  s.hub.waitRecs.any fun r => dieOf r.req.agent == dieOf a && r.walk == w.no

/-- The walks of agent a's unit that have ended and have no record waiting give their slots up (R51). -/
def State.freeWalks (s : State) (a : Nat) : State :=
  s.setWalks a ((s.walksOf a).filter fun w => w.read.isNone || w.reqs ≠ [] || s.recordWaits a w)

/-- The oldest waiting record inserted when the ring has room. -/
def State.retryInsert (s : State) : State :=
  match s.hub.waitRecs with
  | r :: t => if s.ringRoom then ((s.modHub fun h => { h with waitRecs := t }).insertRecord r).freeWalks r.req.agent else s
  | [] => s

/-- The walk in flight that a request joins: one of its page, begun last, whose entries no PGINV has covered. A request that REPLAY
made walk again joins none (R47, R48). -/
def State.joinable (s : State) (r : FarReq) : Option Walk :=
  if r.own then none else (s.walksOf r.agent).reverse.find? fun w => w.pol == r.pol && w.page == pageOf r.ptr && !w.shut

/-- A request may join a walk of its page, or find a free slot for its own. -/
def State.mayWalk (s : State) (r : FarReq) : Bool := (s.joinable r).isSome || (s.walksOf r.agent).length < walkSlots r.agent

/-- A request added to a walk of its page, or to a new one; unchanged when every slot is busy. -/
def State.startWalk (s : State) (r : FarReq) : State :=
  let l := s.walksOf r.agent
  match s.joinable r with
  | some w => s.setWalks r.agent (l.map fun x => if x.no = w.no then { x with reqs := x.reqs ++ [r] } else x)
  | none =>
    if l.length < walkSlots r.agent then
      s.setWalks r.agent (l ++ [{ no := (l.map (·.no)).foldl Nat.max 0 + 1, pol := r.pol, page := pageOf r.ptr, reqs := [r], read := none,
                                  shut := false }])
    else s

/-- The access goes to a remote home when its leaf names one; a copy that is not flagged stops before (R41, R149). -/
def State.travels (s : State) (r : FarReq) : Bool :=
  match r.push with
  | none => !r.copy
  | some i => (s.core r.agent).pushes.any fun p => p.id == i && p.rem

/-- One requester of a completed walk served, judged against the entries that the walk read: the leaf cached and the access
awake, with the words of its instruction (spec/08 R264), or its fault reported (R47). -/
def State.serveReq (s : State) (reads : List (Nat × W64)) (walk : Nat) (r : FarReq) (merged : Bool) : State :=
  let rd (a : Nat) : W64 := ((reads.find? fun e => e.1 == a).map (·.2)).getD (w64 (s.hubRead a 8))
  match s.walkBy rd r.pol (field r.ptr 0 48) r.acc (s.travels r) with
  | .leaf e large entry =>
    let s := (s.setAccessed entry).tlbAdd r.agent r.pol (field r.ptr 0 48) (setField e 63 1 1) large
    s.waitOn r .engine none
  | .fault kind lvl e remote => s.reportFault r walk kind lvl e remote merged

/-- The entries that a walk of a polder's page reads. -/
def State.readsOf (s : State) (pol : BitVec 12) (page : Nat) : List (Nat × W64) :=
  s.walkReads (page * 0x10000) (descRoot (s.desc pol)) walkLevels

/-- The tables of a walk can be read now: the bridges from agent a carry its reads (spec/07 R249). -/
def State.walkable (s : State) (a : Nat) (w : Walk) : Bool := (w.read.getD (s.readsOf w.pol w.page)).all fun e => s.bridged a e.1

/-- The error that a read of the entries of a walk meets in the berm or in HBM, as the TRAPV of UNCORRECTABLE (spec/04 R138 to
R140). -/
def State.tablesBad (s : State) (reads : List (Nat × W64)) : Option W64 :=
  reads.findSome? fun e =>
    match s.tableEcc e.1 8 with
    | .error (.trap _ v) => some v
    | _ => none

/-- A requester of a walk that met an uncorrectable error in a table: its core takes the trap, at its instruction, or deferred for a
push (spec/04 R138, spec/11 R323). -/
def State.failReq (s : State) (r : FarReq) (v : W64) : State :=
  match r.push with
  | none =>
    if (s.core r.agent).farReq = some r then { { s with cur := r.agent }.takeTrap .uncorrectable v with cur := s.cur } else s
  | some i =>
    match (s.core r.agent).pushes.find? fun p => p.id == i with
    | some p => (s.detect r.agent .uncorrectable v).stopPush r.agent p .uncorrectable (stopValue v p.progress)
    | none => s

/-- The walk that an agent's access joined completed, for its requesters in the order of their misses, of which the first started
it. It gives its slot up unless a record of it waits for room (R51); misses that come until then join it. Corrected reads of the
tables are counted, and an uncorrectable one ends the walk (spec/04 R138). -/
def State.completeWalk (s : State) (a : Nat) (w : Walk) : State :=
  let reads := w.read.getD (s.readsOf w.pol w.page)
  match if w.read.isSome then none else s.tablesBad reads with
  | some v => w.reqs.foldl (fun (s : State) r => s.failReq r v) (s.setWalks a ((s.walksOf a).filter fun x => x.no ≠ w.no))
  | none =>
    let s := s.setWalks a ((s.walksOf a).map fun x => if x.no = w.no then { x with reqs := [], read := some reads } else x)
    let s := if w.read.isSome then s else reads.foldl (fun (s : State) e => s.tableSoft e.1 (descVf (s.desc w.pol))) s
    ((w.reqs.zipIdx).foldl (fun (s : State) r => s.serveReq reads w.no r.1 (w.read.isSome || 0 < r.2)) s).freeWalks a

/-- The walk that the instruction of agent a waits for. -/
def State.walkOf (s : State) (a : Nat) : Option Walk := (s.walksOf a).find? fun w => w.reqs.any fun r => r.agent == a && r.push.isNone

/-- A request walked at once, with a walk in flight for its page if there is one; it waits where no slot is free, or no bridge carries
the reads. -/
def State.walkNow (s : State) (r : FarReq) : State :=
  let s := if (s.walksOf r.agent).any fun w => w.reqs.contains r then s else s.startWalk r
  match (s.walksOf r.agent).find? fun w => w.reqs.contains r with
  | some w => if s.walkable r.agent w then s.completeWalk r.agent w else s
  | none => s

/-- A request walked again, by a walk of its own that joins none begun before (R47, spec/15 R431). -/
def State.walkAgain (s : State) (r : FarReq) : State :=
  let r' := { r with own := true }
  let s := match r.push with
    | none => s.modCore r.agent fun c => if c.farReq = some r then { c with farReq := some r', sleep := .walk } else c
    | some i => s.modCore r.agent fun c =>
        { c with pushes := c.pushes.map fun (p : Push) => if p.id = i then { p with seq := none, own := true } else p }
  s.walkNow r'

/-- A leaf that names a remote home of which no scale link comes near: the module has no fabric id (R41). -/
def State.cutOff (s : State) (e : W64) : Bool := s.remote e && s.hub.fabric.isNone

/-- The leaf for an access of an instruction of the core that moves: cached, or waited for (R46, R47, R49). An access that would
travel to a home that no link reaches walks, and faults (R41). -/
def State.farLeaf (s : State) (ptr : W64) (acc : Nat) (copy : Bool) (progress : Nat) : M Tlb :=
  let a := s.cur
  let c := s.me
  match c.walked with
  | some v => .error (.trap .xlate (v.setWidth 64))
  | none =>
    match s.tlbFind a c.pol (field ptr 0 48) with
    | some t => if leafAllows t.leaf acc && (copy || !s.cutOff t.leaf) then .ok t else miss a c
    | none => miss a c
where
  miss (a : Nat) (c : Core) : M Tlb :=
    let r : FarReq := { agent := a, push := none, ptr := ptr, acc := acc, copy := copy, progress := progress, pol := c.pol, own := false }
    match c.sleep with
    | .record n => stallFor s (.record n)
    | .ring => stallFor s .ring
    | .walk => stallFor s .walk
    | _ => stallFor ((s.startWalk r).modMe fun k => { k with farReq := some r }) .walk

/-! ## The L1s (R44, R45, spec/04 R145) -/

/-- An access through the berm for the tenant of a polder and a key slot. -/
def State.viaOf (s : State) (pol : BitVec 12) (key : Nat) (cache : Bool) : Via :=
  { vf := descVf (s.desc pol), key := key, cache := cache }

/-- The line of an L1 that holds a virtual address for a polder. -/
def Core.l1Find (c : Core) (pol : BitVec 12) (va : Nat) : Option L1Line :=
  c.l1.find? fun l => l.set == va / 128 % 128 && l.vtag == va / 2 ^ 14 && l.pol == pol

/-- A line replaced by another, put first in the order of use. -/
def Core.l1Put (c : Core) (l : L1Line) : Core :=
  { c with l1 := l :: c.l1.filter fun m => !(m.set == l.set && m.way == l.way) }

/-- A line dropped. -/
def Core.l1Drop (c : Core) (l : L1Line) : Core := { c with l1 := c.l1.filter fun m => !(m.set == l.set && m.way == l.way) }

/-- The sector of an L1 line that an error names: the one accessed where it failed, else the lowest that did. -/
def L1Line.failing (l : L1Line) (i : Nat) : Nat := if bit l.bad i then i else (firstBelow 4 fun k => bit l.bad k).getD 0

/-- TRAPV of an L1 line in error, for an access to sector i (R139): the failing granule. -/
def L1Line.errorValue (l : L1Line) (i : Nat) : Nat :=
  7 + b2n (bit l.badTags (l.failing i)) * 16 + (l.pa + 32 * l.failing i) * 256

/-- The dirty bytes of a line of core a written into its home berm; the line itself stays as it is. Bytes that hold an error are
not written (R139), nor are those whose granule the berm cannot fetch without one (R138). -/
def State.l1Flush (s : State) (a : Nat) (l : L1Line) : State :=
  if l.bad ≠ 0 then if l.dirty = 0 then s else s.laterError a (w64 (l.errorValue 0))
  else
    (List.range 4).foldl (fun (s : State) i =>
      let m := field l.dirty (32 * i) 32
      if m = 0 then s
      else
        match s.physEccMasked (l.pa + 32 * i) 32 m false (s.viaOf l.pol l.key.toNat true) with
        | .error (.trap _ v) => s.laterError a v
        | _ => s.physWrite (l.pa + 32 * i) 32 (field l.data (256 * i) 256) m (s.viaOf l.pol l.key.toNat true)) s

/-- A line of a core written back and clean. -/
def State.l1Clean (s : State) (a : Nat) (l : L1Line) : State :=
  if l.dirty = 0 then s
  else (s.l1Flush a l).modCore a fun c =>
    { c with l1 := c.l1.map fun m => if m.set == l.set && m.way == l.way then { m with dirty := 0 } else m }

/-- A line of a core written back and removed. -/
def State.l1Evict (s : State) (a : Nat) (l : L1Line) : State := (s.l1Flush a l).modCore a fun c => c.l1Drop l

/-- Every line of a core that p holds of, written back, and removed when `inval` says so. -/
def State.l1Sweep (s : State) (a : Nat) (inval : Bool) (p : L1Line → Bool) : State :=
  ((s.core a).l1.filter p).foldl (fun (s : State) l => if inval then s.l1Evict a l else s.l1Clean a l) s

/-- The 128 bytes and the four tags of a line read from the home berm. -/
def State.readLine (s : State) (pa : Nat) (v : Via) : State × BitVec 1024 × BitVec 16 :=
  (List.range 4).foldl (fun (acc : State × BitVec 1024 × BitVec 16) i =>
    let (t, x) := acc.1.physRead (pa + 32 * i) 32 v
    (t, setField acc.2.1 (256 * i) 256 x, setField acc.2.2 (4 * i) 4 (t.physTag (pa + 32 * i)).toNat)) (s, 0, 0)

/-- A line filled into a core's L1 for a virtual address under a leaf (R145): the invalid way of lowest number, else the
least recently used way. -/
def State.l1Fill (s : State) (a : Nat) (pol : BitVec 12) (va : Nat) (e : W64) (large : Bool) : State × L1Line :=
  let set := va / 128 % 128
  let here := (s.core a).l1.filter fun l => l.set == set
  let (s, way) := match firstBelow 4 fun w => !(here.any fun l => l.way == w) with
    | some w => (s, w)
    | none =>
      match here.getLast? with
      | some l => (s.l1Evict a l, l.way)
      | none => (s, 0)
  let pa := leafPa e large va / 128 * 128
  let (s, data, tags) := s.readLine pa (s.viaOf pol (leafKey e) true)
  let l : L1Line := { set := set, way := way, vtag := va / 2 ^ 14, pol := pol, pa := pa, r := leafR e, w := leafW e,
                      xn := leafXn e, ca := BitVec.ofNat 2 (leafCa e), key := BitVec.ofNat 6 (leafKey e), tags := tags,
                      dirty := 0, data := data, bad := 0, badTags := 0, large := large }
  (s.modCore a fun c => c.l1Put l, l)

/-! ## Far accesses of an instruction (spec/15 R429) -/

/-- The far tag comparison (R31). -/
def farTag (ptr : W64) (t : BitVec 4) : M Unit :=
  require (!(field ptr 60 4 = 15 || field ptr 60 4 ≠ t.toNat)) .tagMismatch (t.toNat + field ptr 60 4 * 16)

/-- Where a far access lands: a line of the L1; a physical address under a leaf; a remote home; the device-control space. -/
inductive Place where
  | line (l : L1Line)
  | phys (pa : Nat) (v : Via)
  | away (home pa key : Nat)
  | device (pa : Nat)
  deriving DecidableEq, Repr

/-- The address and canonical form of a far pointer (R36). -/
def canonical (ptr : W64) : M Unit := require (field ptr 48 12 = 0) .xlate 0x08

/-- An address of the multi-chip reduction window: accesses to it are uncached (spec/04 R156). -/
def inReduction (va : Nat) : Bool := va / 2 ^ 44 % 16 == 0xF

/-- A line that serves an access: it allows it, and holds no error in dirty bytes; a clean line with an error is dropped
(spec/04 R139). -/
def State.l1Serve (s : State) (ptr : W64) (acc : Nat) : M (State × Option L1Line) :=
  let c := s.me
  match if inReduction (field ptr 0 48) then none else c.l1Find c.pol (field ptr 0 48) with
  | none => .ok (s, none)
  | some l =>
    if l.bad ≠ 0 then
      if l.dirty = 0 then .ok (s.modMe fun k => k.l1Drop l, none)
      else trap .uncorrectable (l.errorValue (field ptr 5 2))
    else if (acc = 1 || l.r) && (acc = 0 || l.w) then .ok (s, some l)
    else .ok (s, none)

/-- Where an access of the core that moves lands, after translation (R44, R45, R127). An access to a die that is not released
waits (spec/07 R249). A tenant that may hold no berm line still allocates in the L1 (log entry 96). -/
def State.farPlace (s : State) (ptr : W64) (acc : Nat) : M (State × Place) := do
  let (s, hit) ← s.l1Serve ptr acc
  match hit with
  | some l => pure (s.modMe fun k => k.l1Put l, .line l)
  | none => do
    let c := s.me
    let va := field ptr 0 48
    let t ← s.farLeaf ptr acc false 0
    let pa := leafPa t.leaf t.large va
    if s.remote t.leaf then pure (s, .away (leafHome t.leaf) pa (leafKey t.leaf))
    else if isDevFrame (pa / 0x10000) then pure (s, .device pa)
    else if !s.bridged s.cur pa then stallFor s .engine
    else if leafCa t.leaf = 2 && !inReduction va && acc ≠ 3 then do
      let s := match c.l1Find c.pol va with
        | some l => s.l1Evict s.cur l
        | none => s
      s.lineEcc pa (s.viaOf c.pol (leafKey t.leaf) true)
      let (s, l) := s.l1Fill s.cur c.pol va t.leaf t.large
      pure (s, .line l)
    else pure (s, .phys pa (s.viaOf c.pol (leafKey t.leaf) (leafCa t.leaf ≠ 0 && !inReduction va)))

/-- n bytes of an L1 line at an address. -/
def L1Line.get (l : L1Line) (va n : Nat) : Nat := field l.data (8 * (va % 128)) (8 * n)

/-- The tag of an L1 line's sector at an address. -/
def L1Line.tag (l : L1Line) (va : Nat) : BitVec 4 := l.tags.extractLsb' (4 * (va / 32 % 4)) 4

/-- n bytes written into an L1 line and marked dirty. -/
def L1Line.set' (l : L1Line) (va n x : Nat) : L1Line :=
  { l with data := setField l.data (8 * (va % 128)) (8 * n) x, dirty := setField l.dirty (va % 128) n (2 ^ n - 1) }

/-- The next answer of a peer module (log entry 14). -/
def State.nextRemote (s : State) : State × W64 := ({ s with free := s.free + 1 }, Config.remoteAnswer s.free)

/-! ## Releases and acquires (spec/04 R146) -/

/-- The dirty berm sectors that p names for each line written to HBM, but for those in error (R140); with `inval`, every line with such a sector is written back
whole and invalidated. -/
def State.bermSweep (s : State) (inval : Bool) (p : BermLine → BitVec 4) : State :=
  s.dies.foldl (fun (s : State) e =>
    (e.2.lines.filter fun l => p l ≠ 0).foldl (fun (s : State) l =>
      if inval then (s.writeLine l).bermInval l
      else (s.writeLine { l with dirty := l.dirty &&& p l }).bermSet { l with dirty := l.dirty &&& (~~~(p l) ||| l.bad) }) s) s

/-- The sectors of a line that p names by their addresses. -/
def sectorsOf (l : BermLine) (p : Nat → Bool) : BitVec 4 :=
  BitVec.ofNat 4 ((List.range 4).foldl (fun n i => if p (l.pa + 32 * i) then n + 2 ^ i else n) 0)

/-- Every sector of a line, or none. -/
def allSectors (b : Bool) : BitVec 4 := if b then 15 else 0

/-- The dirty berm sectors that p names of each line written to HBM; those with errors are reported to core a (R140). -/
def State.bermFlush (s : State) (a : Nat) (p : BermLine → BitVec 4) : State :=
  s.dies.foldl (fun (t : State) e =>
    (e.2.lines.filter fun l => p l ≠ 0).foldl (fun (t : State) l => t.sectorErrors a l fun i => bit (p l) i) t) (s.bermSweep false p)

/-- The effects of a release (`rel`) or acquire (`acq`) of the core that moves at an agent scope on its L1, and of a release at sys
scope on the berms (R146). -/
def State.l1Order (s : State) (ag : Nat) (acq rel : Bool) : State :=
  if isOrdinary s.cur || ag < 3 then s
  else
    let s := if acq then s.l1Sweep s.cur true (fun _ => true) else if rel then s.l1Sweep s.cur false (fun _ => true) else s
    if rel && ag = 5 then
      let vf := descVf (s.desc s.me.pol)
      s.bermFlush s.cur (fun l => allSectors (l.vf.toNat == vf))
    else s

/-- The L1 effects of a barrier arrival of core b, a release at dev scope, or of its leaving, an acquire (spec/05 R166, R190):
landing cores have an L1. -/
def State.l1Barrier (s : State) (b : Nat) (leaves : Bool) : State :=
  if isLanding b then { { s with cur := b }.l1Order 4 leaves (!leaves) with cur := s.cur } else s

end Sys2Proof.Machine
end

