-- ==== Sys2Proof/Machine/Scalar.lean ====
section
/-! DEFINITION. The instructions of majors 0x00 to 0x1F, prefixes and hints (spec/10, spec/08 R256 to R258, R267, R268). -/

namespace Sys2Proof.Machine

/-! ## Shared forms -/

/-- A scalar register's number. -/
abbrev rn (r : BitVec 5) : Nat := r.toNat

/-- An ALU operation on two values, written to s[rd] (R295). -/
def aluForm (op : AluOp) (w : Bool) (a b : W64) (rd : BitVec 5) (x : Mods) (s : State) : M Fin := do
  require (op.accepts x.sat) .illegal 14
  pure (.adv (s.modMe fun c => c.setS (rn rd) (op.run w x.sat a b)))

/-- An ALU operation on two registers. -/
def aluReg (op : AluOp) (w : BitVec 1) (rs2 rs1 rd : BitVec 5) (x : Mods) (s : State) : M Fin :=
  aluForm op (w = 1) (s.me.s (rn rs1)) (s.me.s (rn rs2)) rd x s

/-- An ALU operation on a register and a sign-extended immediate (R297). -/
def aluImm (op : AluOp) (w : Bool) (imm : BitVec 12) (rs1 rd : BitVec 5) (x : Mods) (s : State) : M Fin :=
  aluForm op w (s.me.s (rn rs1)) (imm.signExtend 64) rd x s

/-- A shift by an immediate amount (R298). -/
def aluShift (op : AluOp) (w : BitVec 1) (h : BitVec 6) (rs1 rd : BitVec 5) (x : Mods) (s : State) : M Fin := do
  require (w = 0 || h.toNat < 32) .illegal 1
  aluForm op (w = 1) (s.me.s (rn rs1)) (h.setWidth 64) rd x s

/-! ## Prefixes and hints -/

/-- PREFIX (spec/08 R258): loads the latch and advances PC; a prefix behind a prefix, or one with a reserved code, traps. -/
def execPfx (f : BitVec 1) (e : BitVec 2) (n : BitVec 1) (g : BitVec 3) (t : BitVec 2) (r : BitVec 3) (s : State) :
    Host.Outcome State Fault Refusal :=
  .next (if s.me.latch.isSome then s.takeTrap .illegal 11
    else if t = 3 || r = 7 then s.takeTrap .illegal 13
    else s.modMe fun c => { c.forward (.pfx f e n g t r) false with
      latch := some ((0 : BitVec 18) ++ f ++ e ++ n ++ g ++ t ++ r ++ (1 : BitVec 2)), pc := c.pc + 4 })

/-- NOP (spec/08 R267). -/
def execNop (s : State) : Host.Outcome State Fault Refusal := issue .nop s fun _ s => pure (.adv s)

/-- HINT (spec/08 R267): a no-op. -/
def execHint (h : BitVec 22) (p : BitVec 1) (tail : Option (BitVec 30)) (s : State) : Host.Outcome State Fault Refusal :=
  issue (.hint h p tail) s fun _ s => pure (.adv s)

/-! ## The ALU major (R295, R296) -/

/-- ADD (R296). -/
def execAdd (w : BitVec 1) (rs2 rs1 rd : BitVec 5) (p : BitVec 1) (s : State) : Host.Outcome State Fault Refusal :=
  issue (.add w rs2 rs1 rd p) s fun x s => aluReg .add w rs2 rs1 rd x s

/-- SUB (R296). -/
def execSub (w : BitVec 1) (rs2 rs1 rd : BitVec 5) (p : BitVec 1) (s : State) : Host.Outcome State Fault Refusal :=
  issue (.sub w rs2 rs1 rd p) s fun x s => aluReg .sub w rs2 rs1 rd x s

/-- AND (R296). -/
def execAnd (w : BitVec 1) (rs2 rs1 rd : BitVec 5) (p : BitVec 1) (s : State) : Host.Outcome State Fault Refusal :=
  issue (.and w rs2 rs1 rd p) s fun x s => aluReg .and w rs2 rs1 rd x s

/-- OR (R296). -/
def execOr (w : BitVec 1) (rs2 rs1 rd : BitVec 5) (p : BitVec 1) (s : State) : Host.Outcome State Fault Refusal :=
  issue (.or w rs2 rs1 rd p) s fun x s => aluReg .or w rs2 rs1 rd x s

/-- XOR (R296). -/
def execXor (w : BitVec 1) (rs2 rs1 rd : BitVec 5) (p : BitVec 1) (s : State) : Host.Outcome State Fault Refusal :=
  issue (.xor w rs2 rs1 rd p) s fun x s => aluReg .xor w rs2 rs1 rd x s

/-- SHL (R296). -/
def execShl (w : BitVec 1) (rs2 rs1 rd : BitVec 5) (p : BitVec 1) (s : State) : Host.Outcome State Fault Refusal :=
  issue (.shl w rs2 rs1 rd p) s fun x s => aluReg .shl w rs2 rs1 rd x s

/-- SHR (R296). -/
def execShr (w : BitVec 1) (rs2 rs1 rd : BitVec 5) (p : BitVec 1) (s : State) : Host.Outcome State Fault Refusal :=
  issue (.shr w rs2 rs1 rd p) s fun x s => aluReg .shr w rs2 rs1 rd x s

/-- SHA (R296). -/
def execSha (w : BitVec 1) (rs2 rs1 rd : BitVec 5) (p : BitVec 1) (s : State) : Host.Outcome State Fault Refusal :=
  issue (.sha w rs2 rs1 rd p) s fun x s => aluReg .sha w rs2 rs1 rd x s

/-- MIN (R296). -/
def execMin (w : BitVec 1) (rs2 rs1 rd : BitVec 5) (p : BitVec 1) (s : State) : Host.Outcome State Fault Refusal :=
  issue (.min w rs2 rs1 rd p) s fun x s => aluReg .min w rs2 rs1 rd x s

/-- MAX (R296). -/
def execMax (w : BitVec 1) (rs2 rs1 rd : BitVec 5) (p : BitVec 1) (s : State) : Host.Outcome State Fault Refusal :=
  issue (.max w rs2 rs1 rd p) s fun x s => aluReg .max w rs2 rs1 rd x s

/-- MINN (R296). -/
def execMinn (w : BitVec 1) (rs2 rs1 rd : BitVec 5) (p : BitVec 1) (s : State) : Host.Outcome State Fault Refusal :=
  issue (.minn w rs2 rs1 rd p) s fun x s => aluReg .minn w rs2 rs1 rd x s

/-- MAXN (R296). -/
def execMaxn (w : BitVec 1) (rs2 rs1 rd : BitVec 5) (p : BitVec 1) (s : State) : Host.Outcome State Fault Refusal :=
  issue (.maxn w rs2 rs1 rd p) s fun x s => aluReg .maxn w rs2 rs1 rd x s

/-- MUL (R296). -/
def execMul (w : BitVec 1) (rs2 rs1 rd : BitVec 5) (p : BitVec 1) (s : State) : Host.Outcome State Fault Refusal :=
  issue (.mul w rs2 rs1 rd p) s fun x s => aluReg .mul w rs2 rs1 rd x s

/-- MULH (R296). -/
def execMulh (w : BitVec 1) (rs2 rs1 rd : BitVec 5) (p : BitVec 1) (s : State) : Host.Outcome State Fault Refusal :=
  issue (.mulh w rs2 rs1 rd p) s fun x s => aluReg .mulh w rs2 rs1 rd x s

/-- MULHN (R296). -/
def execMulhn (w : BitVec 1) (rs2 rs1 rd : BitVec 5) (p : BitVec 1) (s : State) : Host.Outcome State Fault Refusal :=
  issue (.mulhn w rs2 rs1 rd p) s fun x s => aluReg .mulhn w rs2 rs1 rd x s

/-- DIV (R296). -/
def execDiv (w : BitVec 1) (rs2 rs1 rd : BitVec 5) (p : BitVec 1) (s : State) : Host.Outcome State Fault Refusal :=
  issue (.div w rs2 rs1 rd p) s fun x s => aluReg .div w rs2 rs1 rd x s

/-- DIVN (R296). -/
def execDivn (w : BitVec 1) (rs2 rs1 rd : BitVec 5) (p : BitVec 1) (s : State) : Host.Outcome State Fault Refusal :=
  issue (.divn w rs2 rs1 rd p) s fun x s => aluReg .divn w rs2 rs1 rd x s

/-- REM (R296). -/
def execRem (w : BitVec 1) (rs2 rs1 rd : BitVec 5) (p : BitVec 1) (s : State) : Host.Outcome State Fault Refusal :=
  issue (.rem w rs2 rs1 rd p) s fun x s => aluReg .rem w rs2 rs1 rd x s

/-- REMN (R296). -/
def execRemn (w : BitVec 1) (rs2 rs1 rd : BitVec 5) (p : BitVec 1) (s : State) : Host.Outcome State Fault Refusal :=
  issue (.remn w rs2 rs1 rd p) s fun x s => aluReg .remn w rs2 rs1 rd x s

/-- CLZ (R296). -/
def execClz (w : BitVec 1) (rs1 rd : BitVec 5) (p : BitVec 1) (s : State) : Host.Outcome State Fault Refusal :=
  issue (.clz w rs1 rd p) s fun x s => aluReg .clz w 0 rs1 rd x s

/-- CTZ (R296). -/
def execCtz (w : BitVec 1) (rs1 rd : BitVec 5) (p : BitVec 1) (s : State) : Host.Outcome State Fault Refusal :=
  issue (.ctz w rs1 rd p) s fun x s => aluReg .ctz w 0 rs1 rd x s

/-- POPC (R296). -/
def execPopc (w : BitVec 1) (rs1 rd : BitVec 5) (p : BitVec 1) (s : State) : Host.Outcome State Fault Refusal :=
  issue (.popc w rs1 rd p) s fun x s => aluReg .popc w 0 rs1 rd x s

/-- ANDN (R296). -/
def execAndn (w : BitVec 1) (rs2 rs1 rd : BitVec 5) (p : BitVec 1) (s : State) : Host.Outcome State Fault Refusal :=
  issue (.andn w rs2 rs1 rd p) s fun x s => aluReg .andn w rs2 rs1 rd x s

/-- ORN (R296). -/
def execOrn (w : BitVec 1) (rs2 rs1 rd : BitVec 5) (p : BitVec 1) (s : State) : Host.Outcome State Fault Refusal :=
  issue (.orn w rs2 rs1 rd p) s fun x s => aluReg .orn w rs2 rs1 rd x s

/-! ## Immediate forms (R297 to R300) -/

/-- ADDI (R297). -/
def execAddi (imm : BitVec 12) (rs1 rd : BitVec 5) (p : BitVec 1) (s : State) : Host.Outcome State Fault Refusal :=
  issue (.addi imm rs1 rd p) s fun x s => aluImm .add false imm rs1 rd x s

/-- ANDI (R297). -/
def execAndi (imm : BitVec 12) (rs1 rd : BitVec 5) (p : BitVec 1) (s : State) : Host.Outcome State Fault Refusal :=
  issue (.andi imm rs1 rd p) s fun x s => aluImm .and false imm rs1 rd x s

/-- ORI (R297). -/
def execOri (imm : BitVec 12) (rs1 rd : BitVec 5) (p : BitVec 1) (s : State) : Host.Outcome State Fault Refusal :=
  issue (.ori imm rs1 rd p) s fun x s => aluImm .or false imm rs1 rd x s

/-- XORI (R297). -/
def execXori (imm : BitVec 12) (rs1 rd : BitVec 5) (p : BitVec 1) (s : State) : Host.Outcome State Fault Refusal :=
  issue (.xori imm rs1 rd p) s fun x s => aluImm .xor false imm rs1 rd x s

/-- MULI (R297). -/
def execMuli (imm : BitVec 12) (rs1 rd : BitVec 5) (p : BitVec 1) (s : State) : Host.Outcome State Fault Refusal :=
  issue (.muli imm rs1 rd p) s fun x s => aluImm .mul false imm rs1 rd x s

/-- ADDI.W (R297). -/
def execAddiW (imm : BitVec 12) (rs1 rd : BitVec 5) (p : BitVec 1) (s : State) : Host.Outcome State Fault Refusal :=
  issue (.addiW imm rs1 rd p) s fun x s => aluImm .add true imm rs1 rd x s

/-- SHLI (R298). -/
def execShli (w : BitVec 1) (h : BitVec 6) (rs1 rd : BitVec 5) (p : BitVec 1) (s : State) :
    Host.Outcome State Fault Refusal :=
  issue (.shli w h rs1 rd p) s fun x s => aluShift .shl w h rs1 rd x s

/-- SHRI (R298). -/
def execShri (w : BitVec 1) (h : BitVec 6) (rs1 rd : BitVec 5) (p : BitVec 1) (s : State) :
    Host.Outcome State Fault Refusal :=
  issue (.shri w h rs1 rd p) s fun x s => aluShift .shr w h rs1 rd x s

/-- SHAI (R298). -/
def execShai (w : BitVec 1) (h : BitVec 6) (rs1 rd : BitVec 5) (p : BitVec 1) (s : State) :
    Host.Outcome State Fault Refusal :=
  issue (.shai w h rs1 rd p) s fun x s => aluShift .sha w h rs1 rd x s

/-- LEA (R299). -/
def execLea (imm : BitVec 10) (c : BitVec 2) (rs1 rd : BitVec 5) (p : BitVec 1) (s : State) : Host.Outcome State Fault Refusal :=
  issue (.lea imm c rs1 rd p) s fun _ s =>
    pure (.adv (s.modMe fun k => k.setS (rn rd) (k.s (rn rs1) + (imm.signExtend 64 <<< c.toNat))))

/-- LDI (R300). -/
def execLdi (x : BitVec 1) (imm : BitVec 32) (rd : BitVec 5) (p : BitVec 1) (s : State) : Host.Outcome State Fault Refusal :=
  issue (.ldi x imm rd p) s fun _ s =>
    pure (.adv (s.modMe fun k => k.setS (rn rd) (if x = 1 then imm.signExtend 64 else imm.setWidth 64)))

/-- LDIH (R300). -/
def execLdih (imm : BitVec 32) (rd : BitVec 5) (p : BitVec 1) (s : State) : Host.Outcome State Fault Refusal :=
  issue (.ldih imm rd p) s fun _ s =>
    pure (.adv (s.modMe fun k => k.setS (rn rd) (imm ++ (k.s (rn rd)).extractLsb' 0 32)))

/-! ## Bounds and descriptors (R301, R302) -/

/-- A value checked against a natural limit (R301). -/
def boundForm (limit v : Nat) (rs1 rd : BitVec 5) (s : State) : M Fin := do
  require ((s.me.s (rn rs1)).toNat < limit) .bounds v
  pure (.adv (s.modMe fun k => k.setS (rn rd) (k.s (rn rs1))))

/-- BND (R301). -/
def execBnd (rs2 rs1 rd : BitVec 5) (p : BitVec 1) (s : State) : Host.Outcome State Fault Refusal :=
  issue (.bnd rs2 rs1 rd p) s fun _ s => boundForm (s.me.s (rn rs2)).toNat 8 rs1 rd s

/-- BNDI (R301). -/
def execBndi (imm : BitVec 12) (rs1 rd : BitVec 5) (p : BitVec 1) (s : State) : Host.Outcome State Fault Refusal :=
  issue (.bndi imm rs1 rd p) s fun _ s => boundForm imm.toNat 9 rs1 rd s

/-- The value of a buffer descriptor (spec/02 R80). -/
def bdValue (esz len base : Nat) : W64 := w64 (2 ^ 63 + esz % 8 * 2 ^ 56 + len % 2 ^ 24 * 2 ^ 32 + base % 2 ^ 32)

/-- BDSET (R302). -/
def execBdset (lr : BitVec 1) (esz : BitVec 3) (rs2 rs1 : BitVec 5) (clr : BitVec 1) (n : BitVec 3) (leni : BitVec 24)
    (p : BitVec 1) (s : State) : Host.Outcome State Fault Refusal :=
  issue (.bdset lr esz rs2 rs1 clr n leni p) s fun _ s => do
    if clr = 1 then do
      require (lr = 0 && esz = 0 && rs1 = 0 && rs2 = 0 && leni = 0) .illegal 2
      pure (.adv (s.modMe fun k => { k with bd := vset k.bd n.toNat 0 }))
    else do
      require (esz ≠ 7) .illegal 1
      let len := if lr = 1 then (s.me.s (rn rs2)).toNat else leni.toNat
      require (len ≤ 0xFFFFFF) .bounds 10
      pure (.adv (s.modMe fun k =>
        { k with bd := vset k.bd n.toNat (bdValue esz.toNat len (field (k.s (rn rs1)) 0 32)) }))

/-! ## Compares, predicates and selection (R303 to R306) -/

/-- CMP (R303). -/
def execCmp (w : BitVec 1) (c : BitVec 3) (rs2 rs1 : BitVec 5) (rd : BitVec 3) (p : BitVec 1) (s : State) :
    Host.Outcome State Fault Refusal :=
  issue (.cmp w c rs2 rs1 rd p) s fun _ s => do
    require (c.toNat ≤ 5) .illegal 1
    pure (.adv (s.modMe fun k => k.setP rd.toNat
      (condition c.toNat (if w = 1 then 32 else 64) (k.s (rn rs1)).toNat (k.s (rn rs2)).toNat)))

/-- CMPI (R303). -/
def execCmpi (imm : BitVec 9) (c : BitVec 3) (rs1 : BitVec 5) (rd : BitVec 3) (p : BitVec 1) (s : State) :
    Host.Outcome State Fault Refusal :=
  issue (.cmpi imm c rs1 rd p) s fun _ s => do
    require (c.toNat ≤ 5) .illegal 1
    pure (.adv (s.modMe fun k => k.setP rd.toNat
      (condition c.toNat 64 (k.s (rn rs1)).toNat (imm.signExtend 64).toNat)))

/-- PLOG (R304). -/
def execPlog (l : BitVec 4) (rs2 rs1 rd : BitVec 3) (p : BitVec 1) (s : State) : Host.Outcome State Fault Refusal :=
  issue (.plog l rs2 rs1 rd p) s fun _ s =>
    pure (.adv (s.modMe fun k => k.setP rd.toNat (bit l (2 * b2n (k.pr rs1.toNat) + b2n (k.pr rs2.toNat)))))

/-- SEL (R305). -/
def execSel (n : BitVec 1) (c : BitVec 3) (rs2 rs1 rd : BitVec 5) (p : BitVec 1) (s : State) :
    Host.Outcome State Fault Refusal :=
  issue (.sel n c rs2 rs1 rd p) s fun _ s =>
    pure (.adv (s.modMe fun k => k.setS (rn rd)
      (if k.pr c.toNat != (n == 1) then k.s (rn rs1) else k.s (rn rs2))))

/-- PMOV rd, pall (R306). -/
def execPmovToScalar (rd : BitVec 5) (p : BitVec 1) (s : State) : Host.Outcome State Fault Refusal :=
  issue (.pmovToScalar rd p) s fun _ s =>
    pure (.adv (s.modMe fun k => k.setS (rn rd) ((k.p ||| 1).setWidth 64)))

/-- PMOV pall, rs1 (R306). -/
def execPmovFromScalar (rs1 : BitVec 5) (p : BitVec 1) (s : State) : Host.Outcome State Fault Refusal :=
  issue (.pmovFromScalar rs1 p) s fun _ s =>
    pure (.adv (s.modMe fun k => { k with p := ((k.s (rn rs1)).setWidth 8 &&& 0xFE) ||| (k.p &&& 1) }))

/-! ## Transfers (R307 to R309) -/

/-- PC plus 4 times a signed word offset. -/
def branchTo (pc : W32) {n : Nat} (imm : BitVec n) : W32 := pc + (imm.signExtend 32 <<< 2)

/-- BR (R307). -/
def execBr (imm : BitVec 18) (n : BitVec 1) (c : BitVec 3) (s : State) : Host.Outcome State Fault Refusal :=
  issue (.br imm n c) s fun _ s =>
    pure (if s.me.pr c.toNat != (n == 1) then .jump s (branchTo s.me.pc imm) else .adv s)

/-- J (R307). -/
def execJ (imm : BitVec 22) (s : State) : Host.Outcome State Fault Refusal :=
  issue (.j imm) s fun _ s => pure (.jump s (branchTo s.me.pc imm))

/-- JR (R307). -/
def execJr (rs1 : BitVec 5) (p : BitVec 1) (s : State) : Host.Outcome State Fault Refusal :=
  issue (.jr rs1 p) s fun _ s => do
    let t := (s.me.s (rn rs1)).setWidth 32
    require (field t 0 2 = 0) .align 0x100
    pure (.jump s t)

/-- CALL (R309). -/
def execCall (imm : BitVec 22) (s : State) : Host.Outcome State Fault Refusal :=
  issue (.call imm) s fun _ s => callTo s (branchTo s.me.pc imm) (s.me.pc + 4)

/-- CALLR (R309). -/
def execCallr (rs1 : BitVec 5) (p : BitVec 1) (s : State) : Host.Outcome State Fault Refusal :=
  issue (.callr rs1 p) s fun _ s => callTo s ((s.me.s (rn rs1)).setWidth 32) (s.me.pc + 4)

/-- RET (R309). -/
def execRet (p : BitVec 1) (s : State) : Host.Outcome State Fault Refusal := issue (.ret p) s fun _ s => returnFrom s

/-- LOOP (R308). -/
def execLoop (imm : BitVec 18) (c : BitVec 3) (s : State) : Host.Outcome State Fault Refusal :=
  issue (.loop imm c) s fun _ s => do
    require (c ≠ 0) .illegal 1
    let v := s.me.s c.toNat
    if 1 < v.toNat then pure (.jump (s.modMe fun k => k.setS c.toNat (v - 1)) (branchTo s.me.pc imm))
    else pure (.adv (s.modMe fun k => k.setS c.toNat 0))

/-- The value of REPC at the start of a replay (R294, spec/08 R270). -/
def repcStart (count astr vstr len base : Nat) : W64 :=
  w64 (count * 2 ^ 52 + len * 2 ^ 32 + vstr * 2 ^ 28 + astr * 2 ^ 26 + base % 2 ^ 28 / 4)

/-- REPF (spec/08 R268, R270). -/
def execRepf (n : BitVec 12) (rs1 : BitVec 2) (v l : BitVec 4) (s : State) : Host.Outcome State Fault Refusal :=
  issue (.repf n rs1 v l) s fun _ s => do
    require (n ≠ 0) .illegal 1
    require (!(s.me.repSusp && s.me.repCount ≠ 0)) .repfIllegal 5
    let next := s.me.pc + 4
    pure (.jump (s.modMe fun k =>
      { k with repc := repcStart n.toNat rs1.toNat v.toNat l.toNat next.toNat, repBuf := [] }) next)

end Sys2Proof.Machine
end

