-- ==== Sys2Proof/Machine/Loads.lean ====
section
/-! DEFINITION. Loads and stores of local memory, bounded element access, tags and PROBE: majors 0x20 to 0x2E (spec/11 R313
to R317, R332). -/

namespace Sys2Proof.Machine

/-! ## Every region (R314) -/

/-- A load of n bytes at an address by the core that moves, from any region: the event unit and the control block take
their own sizes, and an ordered task becomes write-through before it reaches them (R84, R314). -/
def State.loadAny (s : State) (ea : W64) (n : Nat) : M (State × Nat) := do
  let c := s.me
  let l ← s.accessCheck s.cur c.ctx c.level ea n .load
  match l.region with
  | .event => do
    let t ← s.writeThrough
    t.watchStop ea n true false
    let (u, v) ← awaiting ea (t.unitLoad l.off)
    pure (u.watchNote ea n true false, v)
  | .control => do
    let t ← s.writeThrough
    t.watchStop ea n true false
    let v ← t.controlLoad l.off n
    pure (t.watchNote ea n true false, v)
  | _ => s.loadLocal ea n 8

/-- A store of n bytes at an address by the core that moves, into any region. -/
def State.storeAny (s : State) (ea : W64) (n : Nat) (v : W64) : M State := do
  let c := s.me
  let l ← s.accessCheck s.cur c.ctx c.level ea n .store
  match l.region with
  | .event => do
    let t ← s.writeThrough
    t.watchStop ea n false true
    let u ← t.unitStore l.off (v.setWidth 32)
    pure (u.watchNote ea n false true)
  | .control => do
    let t ← s.writeThrough
    t.watchStop ea n false true
    let u ← t.controlStore l.off n v
    pure (u.watchNote ea n false true)
  | _ => s.storeLocal ea n (v.toNat % 2 ^ (8 * n)) 8

/-- A loaded value as a register receives it: sign-extended or zero-extended. -/
def extend (signed : Bool) (n v : Nat) : W64 := if signed then sext (8 * n) v else w64 v

/-- The address of the I form: a register and a byte displacement. -/
def Core.iAddr (c : Core) (rs1 : BitVec 5) (imm : BitVec 12) : W64 := c.s (rn rs1) + imm.signExtend 64

/-- A load of the I form (R313, R314). -/
def loadForm (signed : Bool) (n : Nat) (imm : BitVec 12) (rs1 rd : BitVec 5) (s : State) : M Fin := do
  let (t, v) ← s.loadAny (s.me.iAddr rs1 imm) n
  pure (.adv (t.modMe fun c => c.setS (rn rd) (extend signed n v)))

/-- A store of the I form (R313, R314). -/
def storeForm (n : Nat) (imm : BitVec 12) (rs1 rd : BitVec 5) (s : State) : M Fin := do
  let t ← s.storeAny (s.me.iAddr rs1 imm) n (s.me.s (rn rd))
  pure (.adv t)

/-- LDB (R313). -/
def execLdb (imm : BitVec 12) (rs1 rd : BitVec 5) (p : BitVec 1) (s : State) : Host.Outcome State Fault Refusal :=
  issue (.ldb imm rs1 rd p) s fun _ s => loadForm true 1 imm rs1 rd s

/-- LDBN (R313). -/
def execLdbn (imm : BitVec 12) (rs1 rd : BitVec 5) (p : BitVec 1) (s : State) : Host.Outcome State Fault Refusal :=
  issue (.ldbn imm rs1 rd p) s fun _ s => loadForm false 1 imm rs1 rd s

/-- LDH (R313). -/
def execLdh (imm : BitVec 12) (rs1 rd : BitVec 5) (p : BitVec 1) (s : State) : Host.Outcome State Fault Refusal :=
  issue (.ldh imm rs1 rd p) s fun _ s => loadForm true 2 imm rs1 rd s

/-- LDHN (R313). -/
def execLdhn (imm : BitVec 12) (rs1 rd : BitVec 5) (p : BitVec 1) (s : State) : Host.Outcome State Fault Refusal :=
  issue (.ldhn imm rs1 rd p) s fun _ s => loadForm false 2 imm rs1 rd s

/-- LDW (R313). -/
def execLdw (imm : BitVec 12) (rs1 rd : BitVec 5) (p : BitVec 1) (s : State) : Host.Outcome State Fault Refusal :=
  issue (.ldw imm rs1 rd p) s fun _ s => loadForm true 4 imm rs1 rd s

/-- LDWN (R313). -/
def execLdwn (imm : BitVec 12) (rs1 rd : BitVec 5) (p : BitVec 1) (s : State) : Host.Outcome State Fault Refusal :=
  issue (.ldwn imm rs1 rd p) s fun _ s => loadForm false 4 imm rs1 rd s

/-- LDD (R313). -/
def execLdd (imm : BitVec 12) (rs1 rd : BitVec 5) (p : BitVec 1) (s : State) : Host.Outcome State Fault Refusal :=
  issue (.ldd imm rs1 rd p) s fun _ s => loadForm false 8 imm rs1 rd s

/-- STB (R313). -/
def execStb (imm : BitVec 12) (rs1 rd : BitVec 5) (p : BitVec 1) (s : State) : Host.Outcome State Fault Refusal :=
  issue (.stb imm rs1 rd p) s fun _ s => storeForm 1 imm rs1 rd s

/-- STH (R313). -/
def execSth (imm : BitVec 12) (rs1 rd : BitVec 5) (p : BitVec 1) (s : State) : Host.Outcome State Fault Refusal :=
  issue (.sth imm rs1 rd p) s fun _ s => storeForm 2 imm rs1 rd s

/-- STW (R313). -/
def execStw (imm : BitVec 12) (rs1 rd : BitVec 5) (p : BitVec 1) (s : State) : Host.Outcome State Fault Refusal :=
  issue (.stw imm rs1 rd p) s fun _ s => storeForm 4 imm rs1 rd s

/-- STD (R313). -/
def execStd (imm : BitVec 12) (rs1 rd : BitVec 5) (p : BitVec 1) (s : State) : Host.Outcome State Fault Refusal :=
  issue (.std imm rs1 rd p) s fun _ s => storeForm 8 imm rs1 rd s

/-! ## Bounded element access (R315, spec/02 R80, R81) -/

/-- The address of an element and its size; BOUNDS for a descriptor that is not valid, an index out of range, or an
element size above 8 bytes. -/
def Core.bdAddress (c : Core) (n : Nat) (idx : W64) : M (W64 × Nat) := do
  let d := vget c.bd n 0
  require (bit d 63 && idx.toNat < field d 32 24) .bounds n
  let k := field d 56 3
  require (k ≤ 3) .bounds (0x10 + n)
  pure (w64 (field d 0 32 + idx.toNat * 2 ^ k), 2 ^ k)

/-- LDX (R315). -/
def execLdx (x : BitVec 1) (n : BitVec 3) (rs1 rd : BitVec 5) (p : BitVec 1) (s : State) : Host.Outcome State Fault Refusal :=
  issue (.ldx x n rs1 rd p) s fun _ s => do
    let (ea, k) ← s.me.bdAddress n.toNat (s.me.s (rn rs1))
    let (t, v) ← s.loadAny ea k
    pure (.adv (t.modMe fun c => c.setS (rn rd) (extend (x = 0) k v)))

/-- STX (R315). -/
def execStx (n : BitVec 3) (rs1 rd : BitVec 5) (p : BitVec 1) (s : State) : Host.Outcome State Fault Refusal :=
  issue (.stx n rs1 rd p) s fun _ s => do
    let (ea, k) ← s.me.bdAddress n.toNat (s.me.s (rn rs1))
    let t ← s.storeAny ea k (s.me.s (rn rd))
    pure (.adv t)

/-! ## Tags (R316) -/

/-- Region, alignment and shelf size alone (R27, R316). -/
def State.placeOnly (s : State) (a : Nat) (ea : W64) (size : Nat) : M Loc := do
  require (field ea 32 32 = 0) .polderAccess 7
  let off := field ea 0 28
  require (off % size = 0) .align size
  match regionOf a off with
  | none => trap .polderAccess 0
  | some r => do
    if r = .shelf then do
      let d := s.die (dieOf a)
      let b := off - 0x8000000
      require (!(d.affected (shelfWay b))) .bermFenced (shelfWay b)
      require (b + size ≤ s.shelfBytes (dieOf a)) .polderAccess 4
    pure ⟨r, off, keyOf a off⟩

/-- The check of each of n granules from a pointer up as a 32-byte access of a kind, error correction included (R27); tags are
compared, and read, when `tags` says so; the device level in polder 0x000 skips ownership and windows when `skip` says so.
`code` refuses untagged memory. -/
def State.checkGranules (s : State) (a : Nat) (x : Ctx) (lvl : Nat) (ptr : W64) (k : Access) (tags skip : Bool) (code : Nat) :
    Nat → M (List Loc)
  | 0 => .ok []
  | n + 1 => do
    let l ← if skip then s.placeOnly a ptr 32 else s.checkReach a x lvl ptr 32 k
    require (if code = 10 then l.buffers else l.tagged) .polderAccess code
    if tags then do
      s.checkTags (l.key / 32) (field ptr 28 4) 0 1
      s.eccCheck a l 32 false
    else require (!s.fencedAt a l) .uncorrectable (errorValue a l l.key false true)
    let rest ← s.checkGranules a x lvl (ptr + 32) k tags skip code n
    pure (l :: rest)

/-- One granule tag written, counted as a write of its bay; a tag store that had failed holds a tag again. -/
def State.putTag (s : State) (l : Loc) (t : BitVec 4) : State :=
  let g := l.key / 32
  let s := { s with badTags := s.badTags.filter fun k => k ≠ g, softTags := s.softTags.filter fun k => k ≠ g }.setTag g t
  match l.region with
  | .bay b => s.bumpWgen (clusterOf s.cur) b 1
  | _ => s

/-- The far form of TAGS from granule i on: each piece under its own leaf, in ascending order (R147 to R149). It waits where a die is
not released (spec/07 R249). A tag and its data
lie under one code (R138), so that a tag written alone meets an error in either. -/
def farTags (ptr : W64) (t : BitVec 4) (i : Nat) : Nat → State → M Fin
  | 0, s => .ok (.adv s)
  | n + 1, s => do
    let va := (field ptr 0 48 + 32 * i) % 2 ^ 48
    let leaf ← s.farLeaf (ptr + w64 (32 * i)) 1 true (32 * i)
    if s.remote leaf.leaf then .error (.trapAt s .copySpan (w64 (32 * i)))
    else
      let pa := leafPa leaf.leaf leaf.large va
      if isDevFrame (pa / 0x10000) then .error (.trapAt s .polderAccess 13)
      else if !s.bridged s.cur pa then
        stallFor (s.modMe fun c => { c with farReq := some { agent := s.cur, push := none, ptr := ptr + w64 (32 * i), acc := 1,
                                                              copy := true, progress := 32 * i, pol := c.pol, own := false } }) .engine
      else
        let s := match s.me.l1Find s.me.pol va with
          | some l => s.l1Evict s.cur l
          | none => s
        match s.physEccFor (fun _ => true) pa 1 1 false with
        | .error (.trap c v) => .error (.trapAt s c v)
        | _ => farTags ptr t (i + 1) n (s.physSetTag pa t)

/-- A read of the tag of a granule finds a correctable error, and counts it (spec/02 R96). -/
def State.softTag (s : State) (a : Nat) (l : Loc) : State :=
  if s.softTags.contains (l.key / 32) then s.correct a l [l.key / 32 * 32 + 1] else s

/-- Where an interrupted far copy goes on (R148). -/
def Core.copied (c : Core) : Nat :=
  match c.farReq with
  | some r => if r.copy then r.progress else 0
  | none => 0

/-- TAGS (R316). -/
def execTags (f : BitVec 1) (rs2 rs1 : BitVec 5) (p : BitVec 1) (s : State) : Host.Outcome State Fault Refusal :=
  issue (.tags f rs2 rs1 p) s fun _ s => do
    let c := s.me
    let ptr := c.s (rn rs1)
    let n := (c.s (rn rs2)).toNat
    let t := if f = 1 then ptr.extractLsb' 60 4 else ptr.extractLsb' 28 4
    require (f = 0 || !isOrdinary s.cur) .illegal 3
    require (field ptr 0 5 = 0) .align 32
    require (n ≤ 1024) .bounds 0x23
    require (t ≠ 15) .tagMismatch 0xFF
    if f = 1 then do
      canonical ptr
      farTags ptr t (c.copied / 32) (n - c.copied / 32) s
    else do
      let ls ← s.checkGranules s.cur c.ctx c.level ptr .store false (c.level = 2 && c.pol = 0) 8 n
      let u ← s.writeThrough
      pure (.adv (ls.foldl (fun u l => u.putTag l t) u))

/-- TAGR (R316). -/
def execTagr (f : BitVec 1) (rs1 rd : BitVec 5) (p : BitVec 1) (s : State) : Host.Outcome State Fault Refusal :=
  issue (.tagr f rs1 rd p) s fun _ s => do
    let c := s.me
    let ptr := c.s (rn rs1)
    if f = 1 then do
      require (!isOrdinary s.cur) .illegal 3
      canonical ptr
      let (t, pl) ← s.farPlace ptr 0
      match pl with
      | .line l => pure (.adv (t.modMe fun k => k.setS (rn rd) ((l.tag (field ptr 0 48)).setWidth 64)))
      | .phys pa v => do
        t.physEcc pa 1 true v
        pure (.adv ((t.hbmSoft pa v.vf).modMe fun k => k.setS (rn rd) ((t.physTag pa).setWidth 64)))
      | .away _ _ _ =>
        let (u, v) := t.nextRemote
        pure (.adv (u.modMe fun k => k.setS (rn rd) (v &&& 15)))
      | .device _ => trap .polderAccess 13
    else do
      let l ← s.checkReach s.cur c.ctx c.level ptr 1 .load
      require l.tagged .polderAccess 8
      let g : Loc := { l with off := l.off / 32 * 32, key := l.key / 32 * 32 }
      s.eccCheck s.cur g 32 false
      let t ← s.writeThrough
      pure (.adv ((t.softTag s.cur g).modMe fun k => k.setS (rn rd) ((t.tag (l.key / 32)).setWidth 64)))

/-- TAGP (R316). -/
def execTagp (f : BitVec 1) (rs2 rs1 rd : BitVec 5) (p : BitVec 1) (s : State) : Host.Outcome State Fault Refusal :=
  issue (.tagp f rs2 rs1 rd p) s fun _ s => do
    require (f = 0 || !isOrdinary s.cur) .illegal 3
    let t ← s.writeThrough
    pure (.adv (t.modMe fun c =>
      c.setS (rn rd) (setField (c.s (rn rs1)) (if f = 1 then 60 else 28) 4 (field (c.s (rn rs2)) 0 4))))

/-! ## PROBE (R317) -/

/-- The far form: the walk without its effects, then the tag of each granule. -/
def State.farProbe (s : State) (ptr : W64) (n acc : Nat) : Bool :=
  let c := s.me
  let va := field ptr 0 48
  if field ptr 48 12 ≠ 0 then false
  else
    match s.walk c.pol va acc true with
    | .fault _ _ _ _ => false
    | .leaf e large _ =>
      s.remote e || isDevFrame (leafPa e large va / 0x10000) ||
        (List.range (granules va n)).all fun i =>
          let at' := if i = 0 then va else (va / 32 + i) * 32
          let t := match c.l1Find c.pol at' with
            | some l => l.tag at'
            | none => s.physTag (leafPa e large at')
          field ptr 60 4 ≠ 15 && field ptr 60 4 = t.toNat

/-- PROBE (R317). -/
def execProbe (imm : BitVec 8) (k f : BitVec 1) (rs1 : BitVec 5) (z : BitVec 2) (rd : BitVec 3) (p : BitVec 1) (s : State) :
    Host.Outcome State Fault Refusal :=
  issue (.probe imm k f rs1 z rd p) s fun _ s => do
    require (f = 0 || !isOrdinary s.cur) .illegal 3
    let c := s.me
    let ea := c.s (rn rs1) + imm.signExtend 64
    let n := 2 ^ z.toNat
    let ok := if f = 1 then s.farProbe ea n k.toNat
      else match s.accessCheck s.cur c.ctx c.level ea n (if k = 1 then .store else .load) with
        | .ok _ => true
        | .error _ => false
    pure (.adv (s.modMe fun c => c.setP rd.toNat ok))

end Sys2Proof.Machine
end

