-- ==== Sys2Proof/Machine/Operands.lean ====
section
/-! DEFINITION. Vector operands: lanes (spec/12 R334), elements of memory under a bay's format (R350 to R352), stream ports
(R355 to R360), and the first write of a vector register in a callee (spec/02 R57). -/

namespace Sys2Proof.Machine

/-! ## Lanes (R334) -/

/-- Lane i of width w. -/
def lane (v : Vec) (w i : Nat) : Nat := field v (w * i) w

/-- A vector from its lanes of width w. -/
def ofLanes (w : Nat) (l : List Nat) : Vec := BitVec.ofNat 512 (l.foldr (fun x n => x % 2 ^ w + 2 ^ w * n) 0)

/-- The lanes of width w, lowest first. -/
def lanes (v : Vec) (w : Nat) : List Nat := (List.range (512 / w)).map (lane v w)

/-- A vector register as an instruction reads it: in a callee, v4 to v15 read zero until their first write (spec/02 R57,
spec/15 R421). -/
def Core.vr (c : Core) (r : BitVec 5) : Vec :=
  match c.dom with
  | e :: _ => if 0 < c.depth && 4 ≤ r.toNat && r.toNat < 16 && !bit e.vmask (r.toNat - 4) then 0 else vget c.v r.toNat 0
  | [] => vget c.v r.toNat 0

/-- A mask register read. -/
def Core.mask (c : Core) (r : BitVec 3) : W64 := c.qr r.toNat

/-! ## First writes in a callee (spec/02 R57) -/

/-- The caller's value of v4 to v15 kept in the domain save stack at the first write of the register at a depth above 0. -/
def State.keepVector (s : State) (r : Nat) : M State := do
  let c := s.me
  match c.dom with
  | e :: t =>
    if c.depth = 0 || r < 4 || bit e.vmask (r - 4) then pure s
    else do
      let p := areaPtr c.dsd
      require (p + 64 ≤ areaLimit c.dsd) .windowSpillLimit 2
      pure ((s.tcmWrite s.cur p 64 (vget c.v r 0).toNat).modMe fun c =>
        { c with dsd := setPtr c.dsd (p + 64), dom := { e with vmask := setBit e.vmask (r - 4) true } :: t
                 vsaved := (r :: c.vsaved.headD []) :: c.vsaved.tail })
  | [] => pure s

/-- A vector register written, its caller's value kept first. -/
def State.setVector (s : State) (r : BitVec 5) (x : Vec) : M State := do
  let t ← s.keepVector r.toNat
  pure (t.modMe fun c => { c with v := vset c.v r.toNat x })

/-! ## Items under a bay's format (R350 to R352) -/

/-- The bytes of an item of 16 elements in a format; 64 when it moves raw. -/
def itemBytes (conv : Bool) (f : Nat) : Nat :=
  if !conv then 64 else if f = 3 || f = 4 then 32 else if f = 5 || f = 6 || f = 8 then 16 else if f = 7 then 8 else 64

/-- An item of a format is decoded or encoded, not moved as it stands. -/
def itemConverts (conv : Bool) (f : Nat) : Bool := conv && 3 ≤ f && f ≤ 8

/-- Memory as the running ordered task sees it: with its commit buffer (spec/05 R172). -/
def State.seen (s : State) : State :=
  match s.me.ordered with
  | some o =>
    if s.me.buffered then
      o.lines.foldl (fun (s : State) l => s.writeMasked (l.granule * 32) 32 l.data.toNat l.mask.toNat) s
    else s
  | none => s

/-- One element as a 32-bit lane (R350). -/
def laneOf (e : Elem) : Nat × FFlags :=
  if e.int then
    match e.val with
    | .fin g n _ => (ofInt 32 (signedNum g n), FFlags.none)
    | _ => (0, FFlags.none)
  else Fmt.f32.round Rnd.rne e.val

/-- The 16 lanes of an item that is decoded, at offset y of a bay (R350). -/
def State.decodeItem (s : State) (c b y : Nat) : Vec × FFlags :=
  let bits := bayBits (s.bayFormat c b)
  let l := (List.range 16).map fun i => laneOf (s.bayElem c b (y * 8 / bits + i))
  (ofLanes 32 (l.map (·.1)), l.foldl (fun g e => g.or e.2) FFlags.none)

/-- The writes of an item that is encoded, at offset y of a bay (R351). -/
def State.encodeItem (s : State) (c b y : Nat) (v : Vec) (seed ts : Nat) : List BayWrite :=
  let f := s.bayFormat c b
  let bits := bayBits f
  s.bayWrites c b seed ts ((List.range 16).map fun i =>
    (y * 8 / bits + i,
     if f = 8 then { val := .ofInt (toSigned 32 (lane v 32 i)), int := true }
     else { val := Fmt.f32.decode (lane v 32 i), int := false }))

/-- The scale bytes and slots with which an item of n bytes at offset y of a bay is decoded (R350). -/
def State.itemScales (s : State) (c b y n : Nat) (conv : Bool) : List (Nat × Nat) :=
  if conv then scaleBytes (s.bfmt c b) y n else []

/-- The band-scale slots of the bands of an item that is encoded at offset y of an E2M1-blocked bay with band scales (R351). -/
def State.itemSlots (s : State) (c b y : Nat) : List (Nat × Nat) :=
  let f := s.bfmt c b
  if s.bayFormat c b = 7 && bit f 33 then [bandOf f (2 * y), bandOf f (2 * y + 15)].eraseDups.map fun k => (0x7800 + 2 * k, 2)
  else []

/-- The data area of an E2M1-blocked bay holds an item (R352). -/
def itemInside (f : Nat) (l : Loc) : M Unit := require (f ≠ 7 || l.off % 0x8000 + 8 ≤ 0x6000) .bounds 0x24

/-- Areas of a bay that the core that moves reads beside the bytes of its access, entered in the read set of its ordered
task (R352, spec/05 R172). -/
def State.readAreas (s : State) (b : Nat) : List (Nat × Nat) → M State
  | [] => .ok s
  | r :: rest => do
    let (t, _) ← s.loadAt (bayLoc (clusterOf s.cur) b r.1) r.2
    t.readAreas b rest

/-- VLD's access: an item at an address, raw or decoded (R349, R350, R352). -/
def State.loadItem (s : State) (ea : W64) (conv : Bool) : M (State × Vec) := do
  let c := s.me
  let f := s.endFormat s.cur ea
  let n := itemBytes conv f
  let l ← s.localCheck s.cur c.ctx c.level ea n .load
  require l.tagged .polderAccess 8
  if itemConverts conv f then itemInside f l
  s.eccCheck s.cur l n true
  match l.region with
  | .bay b =>
    let y := l.off % 0x8000
    let areas := s.itemScales (clusterOf s.cur) b y n (itemConverts conv f)
    s.eccAreas s.cur b areas
    s.watchStop ea n true false
    let (t, x) ← s.loadAt l n
    let t ← t.readAreas b areas
    let t := t.watchNote ea n true false
    if itemConverts conv f then
      let (v, g) := t.seen.decodeItem (clusterOf s.cur) b y
      pure (t.modMe fun c => c.raise g, v)
    else pure (t, BitVec.ofNat 512 x)
  | _ => do
    s.watchStop ea n true false
    let (t, x) ← s.loadAt l n
    pure (t.watchNote ea n true false, BitVec.ofNat 512 x)

/-- A list of writes into a bay held in the commit buffer of the core that moves. -/
def State.holdWrites (s : State) (h : HeldStore) (b : Nat) : List BayWrite → M State
  | [] => .ok s
  | w :: rest => do
    let t ← s.storeAt h (bayLoc (clusterOf s.cur) b w.off) w.size w.data false
    t.holdWrites h b rest

/-- The granules that a list of writes into a bay touches. -/
def writtenGranules (c b : Nat) (l : List BayWrite) : List Nat :=
  (l.flatMap fun w => granuleList (bayBase c b + w.off) w.size).eraseDups

/-- A list of writes into a bay stored by the core that moves: held by an ordered task that is not write-through, made at
once by any other; a write-through task aborts the readers of their granules (spec/05 R172, R176). -/
def State.storeWrites (s : State) (h : HeldStore) (b : Nat) (l : List BayWrite) : M State :=
  if s.me.buffered then s.holdWrites h b l
  else
    let a := s.cur
    let c := clusterOf a
    let t := s.bayApply c b false l
    pure (if s.me.isOrd then t.abortReaders c (s.runKey a) (writtenGranules c b l) else t)

/-- VST's access: an item at an address, raw or encoded (R349, R351, R352). -/
def State.storeItem (s : State) (ea : W64) (conv : Bool) (v : Vec) : M State := do
  let c := s.me
  let f := s.endFormat s.cur ea
  let n := itemBytes conv f
  let l ← s.localCheck s.cur c.ctx c.level ea n .store
  require l.tagged .polderAccess 8
  if itemConverts conv f then itemInside f l
  s.eccCheck s.cur l n false
  s.watchStop ea n false true
  match l.region with
  | .bay b =>
    if itemConverts conv f then do
      let cl := clusterOf s.cur
      let y := l.off % 0x8000
      let slots := s.itemSlots cl b y
      s.eccAreas s.cur b slots
      let ws := s.seen.encodeItem cl b y v (field c.srseed 0 32) (field c.tstamp 0 32)
      s.eccWrites s.cur b ws
      let s ← s.readAreas b slots
      let t ← s.storeWrites (s.heldStore ea n) b ws
      pure ((t.watchNote ea n false true).modMe fun c => c.raise (writesFlags ws))
    else do
      let t ← s.storeAt (s.heldStore ea n) l n v.toNat false
      pure (t.watchNote ea n false true)
  | _ => do
    let t ← s.storeAt (s.heldStore ea n) l n v.toNat false
    pure (t.watchNote ea n false true)

/-! ## Stream ports (R355 to R360) -/

/-- A port of a core. -/
def Core.port (c : Core) (p : Nat) : Port := vget c.ports p Port.reset

/-- A port of a core replaced. -/
def Core.setPort (c : Core) (p : Nat) (x : Port) : Core := { c with ports := vset c.ports p x }

/-- The number of items of a pattern. -/
def Port.total (p : Port) : Nat := p.count0.toNat * p.count1.toNat

/-- The pointer of item k (R355). -/
def Port.item (p : Port) (k : Nat) : W64 :=
  let i0 := k % p.count0.toNat
  let i1 := k / p.count0.toNat
  (p.base + BitVec.ofNat 32 i0 * p.stride0 + BitVec.ofNat 32 i1 * p.stride1.signExtend 32).setWidth 64

/-- The port decodes or encodes. -/
def Port.conv (p : Port) : Bool := p.mode = 1

/-- The size of a port's items now. -/
def State.portBytes (s : State) (a : Nat) (p : Port) : Nat := itemBytes p.conv (s.endFormat a (p.base.setWidth 64))

/-- An item fetched by a port from its checked place, with the corrected errors that the fetch finds counted. -/
def State.portItem (s : State) (a : Nat) (p : Port) (ea : W64) : M (State × Vec × FFlags) := do
  let c := s.core a
  let f := s.endFormat a ea
  let n := itemBytes p.conv f
  let l ← s.localCheck a c.ctx c.level ea n .load
  s.eccCheck a l n true
  match l.region with
  | .bay b =>
    let y := l.off % 0x8000
    let areas := s.itemScales (clusterOf a) b y n (itemConverts p.conv f)
    s.eccAreas a b areas
    let t := (s.softRead a l n).softAreas a b areas
    if itemConverts p.conv f then pure (t, s.decodeItem (clusterOf a) b y)
    else pure (t, BitVec.ofNat 512 (s.read l.key n), FFlags.none)
  | _ => pure (s.softRead a l n, BitVec.ofNat 512 (s.read l.key n), FFlags.none)

/-- An IN port can fetch: it is bound, has room and items left, and no fault is pending. -/
def Port.fetches (p : Port) : Bool :=
  p.bound && !p.out && p.pend.isNone && !p.faulted && p.items.length < 4 && p.done + p.items.length < p.total

/-- An item as an IN port holds it. -/
def PortItem.fetched (v : Vec) : PortItem := { value := v, seed := 0, ts := 0 }

/-- One fetch of an IN port: the item, or a pending fault (R357). An error that it meets is detected at once (spec/02 R99, R100), and
raises its trap where the item is consumed (spec/02 R97). -/
def State.portFetch (s : State) (a i : Nat) : State :=
  let p := (s.core a).port i
  if !p.fetches then s
  else
    match s.portItem a p (p.item (p.done + p.items.length)) with
    | .ok (t, v, g) => t.modCore a fun c => (c.setPort i { p with items := p.items ++ [.fetched v] }).raise g
    | .error (.trap cause v) | .error (.trapAt _ cause v) =>
      (s.modCore a fun c => c.setPort i { p with pend := some (cause, v) }).detect a cause v
    | .error (.stall _) => s

/-- An OUT port has an item to write. -/
def Port.writes (p : Port) : Bool := p.bound && p.out && p.items ≠ []

/-- Granules that core a has stored: those of an ordered task, which is write-through, abort their readers (spec/05 R176). -/
def State.stored (s : State) (a : Nat) (gs : List Nat) : State :=
  if (s.core a).isOrd then s.abortReaders (clusterOf a) (s.runKey a) gs else s

/-- The m bytes from byte k on of an OUT port's item at `ea`, one beat, written at their checked place; and the flags. The seed and
the timestamp are those that the enqueuing instruction read (R351, spec/03 R113). A port is bound at one depth only, so the check is
made for whom that instruction issued (spec/01 R29). -/
def State.portBeat (s : State) (a : Nat) (conv : Bool) (x : PortItem) (ea : W64) (k m : Nat) : M (State × FFlags) := do
  let c := s.core a
  let f := s.endFormat a ea
  let l ← s.localCheck a c.ctx c.level (ea + w64 k) m .engine
  s.eccCheck a l m false
  match l.region with
  | .bay b =>
    let cl := clusterOf a
    if itemConverts conv f then do
      let y := l.off % 0x8000
      let slots := s.itemSlots cl b (y - k)
      let ws := (s.encodeItem cl b (y - k) x.value x.seed.toNat x.ts.toNat).filter fun w => f = 7 || (y ≤ w.off && w.off < y + m)
      s.eccAreas a b slots
      s.eccWrites a b ws
      pure (((s.softAreas a b slots).bayApply cl b false ws).stored a (writtenGranules cl b ws), writesFlags ws)
    else pure ((s.put a l m (x.value.toNat >>> (8 * k)) (allBytes m)).stored a [l.key / 32], FFlags.none)
  | _ => pure (s.put a l m (x.value.toNat >>> (8 * k)) (allBytes m), FFlags.none)

/-- The beats of an item of n bytes: the first byte and the length of each (spec/02 R61). -/
def itemBeats (n : Nat) : List (Nat × Nat) := (List.range (ceilDiv n 16)).map fun i => (16 * i, min 16 (n - 16 * i))

/-- The oldest item of an OUT port written at its place, beat by beat; a beat that fails its check is discarded (R358). The flags, and
the failures in the order of the beats. -/
def State.portPut (s : State) (a : Nat) (p : Port) (x : PortItem) : State × FFlags × List (Cause × W64) :=
  let ea := p.item (p.done - p.items.length)
  (itemBeats (itemBytes p.conv (s.endFormat a ea))).foldl (fun (acc : State × FFlags × List (Cause × W64)) r =>
    match acc.1.portBeat a p.conv x ea r.1 r.2 with
    | .ok (t, g) => (t, acc.2.1.or g, acc.2.2)
    | .error (.trap c v) | .error (.trapAt _ c v) => (acc.1, acc.2.1, acc.2.2 ++ [(c, v)])
    | .error (.stall _) => acc) (s, FFlags.none, [])

/-- A deferred trap left pending by an engine that worked for a core, in the depth and polder of the causing instruction: the
value of the cause with what was done in bits [47:32] (spec/11 R323). -/
def Core.defer (c : Core) (x : Ctx) (cause : Cause) (v : W64) (n : Nat) : Core :=
  { c with deferred := c.deferred ++
      [{ cause := cause, value := w64 (field v 0 32 + n % 2 ^ 16 * 2 ^ 32 + 2 ^ 63), depth := x.depth, pol := x.pol }] }

/-- The oldest item of an OUT port written (R358). An item with a beat that fails leaves one deferred trap, that of its first such beat,
and is not counted as written (log entry 120). An error that the write meets is detected at once (spec/02 R99, R100). -/
def State.portWrite (s : State) (a i : Nat) : State :=
  let p := (s.core a).port i
  match p.items with
  | x :: rest =>
    if !p.writes then s
    else
      let (t, g, fails) := s.portPut a p x
      let t := t.modCore a fun c =>
        let c := (c.setPort i { p with items := rest, written := if fails = [] then p.written + 1 else p.written }).raise g
        match fails with
        | (cause, v) :: _ => c.defer c.ctx cause v p.written
        | [] => c
      fails.foldl (fun (t : State) e => t.detect a e.1 e.2) t
  | [] => s

/-- Every held item of an OUT port written. -/
def State.drainPort (s : State) (a i : Nat) : State := (List.range 4).foldl (fun (s : State) _ => s.portWrite a i) s

/-- Every OUT port drained and every port unbound (R360). -/
def State.closePorts (s : State) (a : Nat) : State :=
  let s := (List.range 4).foldl (fun (s : State) i => s.drainPort a i) s
  s.modCore a fun c => { c with ports := Vector.replicate 4 Port.reset }

/-! ## Operand forms (R357, R358) -/

/-- The bound port that a vector field names. -/
def Core.portAt (c : Core) (r : BitVec 5) : Option (Nat × Port) :=
  if 12 ≤ r.toNat && r.toNat < 16 then
    let p := c.port (r.toNat - 12)
    if p.bound then some (r.toNat - 12, p) else none
  else none

/-- A source field is ready: the IN port that it names holds an item. -/
def State.sourceReady (s : State) (r : BitVec 5) : M Unit :=
  match s.me.portAt r with
  | none => .ok ()
  | some (i, p) =>
    if p.out then trap .streamFault 4
    else if p.items ≠ [] then .ok ()
    else if p.total ≤ p.done then trap .streamFault 2
    else
      match p.pend with
      | some (c, v) => .error (.trapAt (s.modMe fun k => k.setPort i { p with pend := none, faulted := true }) c v)
      | none => stallFor (s.portFetch s.cur i) .engine

/-- A destination field is ready: the OUT port that it names has room, an item left, and a place that may be written. -/
def State.destReady (s : State) (r : BitVec 5) : M Unit :=
  match s.me.portAt r with
  | none => .ok ()
  | some (i, p) => do
    require p.out .streamFault 4
    require (p.done < p.total) .streamFault 3
    if 4 ≤ p.items.length then stallFor (s.portWrite s.cur i) .engine
    else do
      let c := s.me
      let _ ← s.localCheck s.cur c.ctx c.level (p.item p.done) (s.portBytes s.cur p) .store

/-- The value of a source field: the item of an IN port, or the register. -/
def Core.source (c : Core) (r : BitVec 5) : Vec :=
  match c.portAt r with
  | some (_, p) => (p.items.head?.map (·.value)).getD 0
  | none => c.vr r

/-- The item of an IN port consumed. -/
def Core.consume (c : Core) (r : BitVec 5) : Core :=
  match c.portAt r with
  | some (i, p) => if p.out then c else c.setPort i { p with items := p.items.tail, done := p.done + 1 }
  | none => c

/-- The item of an OUT port enqueued. -/
def Core.enqueue (c : Core) (r : BitVec 5) (v : Vec) : Core :=
  match c.portAt r with
  | some (i, p) =>
    let x : PortItem := { value := v, seed := c.srseed.setWidth 32, ts := c.tstamp.setWidth 32 }
    if p.out then c.setPort i { p with items := p.items ++ [x], done := p.done + 1 } else c
  | none => c

/-- Every source field of an instruction is ready. -/
def State.sourcesReady (s : State) : List (BitVec 5) → M Unit
  | [] => .ok ()
  | r :: t => do
    s.sourceReady r
    s.sourcesReady t

/-- An instruction that reads vectors: its sources ready, its effect, then each port's item consumed once. -/
def vecUse (srcs : List (BitVec 5)) (s : State) (f : State → M State) : M Fin := do
  s.sourcesReady srcs
  let t ← f s
  pure (.adv (t.modMe fun c => srcs.eraseDups.foldl Core.consume c))

/-- An instruction that reads vectors and writes one: as vecUse, with the result written to the register and to an OUT port
that the field names. -/
def vecForm (srcs : List (BitVec 5)) (rd : BitVec 5) (s : State) (f : State → M (State × Vec)) : M Fin := do
  s.sourcesReady srcs
  s.destReady rd
  let (t, y) ← f s
  let u ← t.setVector rd y
  pure (.adv (u.modMe fun c => (srcs.eraseDups.foldl Core.consume c).enqueue rd y))

/-! ## Types and widths (R335, R336) -/

/-- A type of vector elements. -/
inductive VTy where
  | fp (f : Fmt)
  | int (signed : Bool) (w : Nat)
  deriving DecidableEq, Repr

/-- The type of a code; .f32 for a reserved one, which decoding refuses. -/
def vty (t : BitVec 4) : VTy :=
  match t.toNat with
  | 1 => .fp .bf16 | 2 => .fp .f16 | 3 => .fp .e4m3 | 4 => .fp .e5m2 | 5 => .int true 8 | 6 => .int true 16
  | 7 => .int true 32 | 8 => .int false 8 | 9 => .int false 16 | 10 => .int false 32 | _ => .fp .f32

/-- The element width of a type. -/
def VTy.width : VTy → Nat
  | .fp f => f.bits
  | .int _ w => w

/-- The width that an EW code names; 32 for the neutral code. -/
def ewWidth (e : Nat) : Nat := if e = 1 then 8 else if e = 2 then 16 else 32

/-- The prefix fields that a typed instruction accepts: EW agrees with the type, and an integer type takes RM, SAT and FTZ
only where the operation accepts SAT (R336, R337). -/
def VTy.accepts (t : VTy) (x : Mods) (intSat : Bool) : M Unit := do
  require (x.ew = 0 || ewWidth x.ew = t.width) .illegal 14
  match t with
  | .fp _ => pure ()
  | .int _ _ => require (x.rm = 6 && !x.ftz && (intSat || x.sat = 0)) .illegal 14

/-- The rounding mode of an instruction: the prefix's, or that of FCSR (R257, R337). -/
def Core.modeOf (c : Core) (x : Mods) : Nat := if x.rm = 6 then c.frm else x.rm

/-- The rounding of one lane. -/
def Core.rndOf (c : Core) (x : Mods) (conv : Bool) (idx : Nat) : Rnd :=
  { mode := c.modeOf x, sat := x.sat ≠ 0, conv := conv, ftz := x.ftz,
    rb := srMix (field c.srseed 0 32) (field c.tstamp 0 32) idx }

/-- The value of an integer lane. -/
def intLane (signed : Bool) (w x : Nat) : Int := if signed then toSigned w x else ((x % 2 ^ w : Nat) : Int)

/-- An integer result under SAT (R115, R338). -/
def intResult (signed : Bool) (w sat : Nat) (x : Int) : Nat :=
  if sat = 0 then ofInt w x
  else if signed then ofInt w (clampInt x (if sat = 1 then -(2 ^ (w - 1)) else 0) (2 ^ (w - 1) - 1))
  else ofInt w (clampInt x 0 (if sat = 1 then 2 ^ (w - 1) - 1 else 2 ^ w - 1))

end Sys2Proof.Machine
end

