-- ==== Sys2Proof/Machine/Trans.lean ====
section
/-! DEFINITION. The transcendental functions of VTRN (spec/12 R342): a rational that lies so close to the exact value that
it rounds as the exact value does, or equals it when that is rational (log entry 6). -/

namespace Sys2Proof.Machine

/-- Fraction bits of the fixed-point computations. -/
def fixBits : Nat := 320

/-- The whole square root of x, by bits from 2^n down. -/
def isqrtFrom (x : Nat) : Nat → Nat → Nat
  | 0, r => r
  | n + 1, r =>
    let t := r + 2 ^ n
    isqrtFrom x n (if t * t ≤ x then t else r)

/-- The whole square root of x. -/
def isqrt (x : Nat) : Nat := isqrtFrom x (Nat.log2 x / 2 + 1) 0

/-- A fixed-point number known to be inexact: half a last place above what is known. -/
def inexact (neg : Bool) (y : Nat) (bits : Nat) : Val := .fin neg (2 * y + 1) (2 ^ (bits + 1))

/-- 2^(f / 2^m) in fixed point, for f below 2^m: one square root for each bit of f, from the lowest. -/
def pow2Frac (f : Nat) : Nat → Nat → Nat
  | 0, y => y
  | m + 1, y =>
    let y := if f % 2 = 1 then 2 * y else y
    pow2Frac (f / 2) m (isqrt (y * 2 ^ fixBits))

/-- 2^x. -/
def exp2Val : Val → Val
  | .nan => .nan
  | .inf s => if s then .zero false else .inf false
  | .fin s n d =>
    let x := signedNum s n
    let i := x / (d : Int)
    let f := (x % (d : Int)).toNat
    if 2000 ≤ i then .scaled false 1 2000
    else if i ≤ -2000 then .scaled false 1 (-2000)
    else if f = 0 then .scaled false 1 i
    else
      let y := pow2Frac f (Nat.log2 d) (2 ^ fixBits)
      if 0 ≤ i then (inexact false y fixBits).mul (.fin false (2 ^ i.toNat) 1)
      else (inexact false y fixBits).mul (.fin false 1 (2 ^ (-i).toNat))

/-- n bits of the logarithm to the base 2 of y / 2^fixBits, which lies from 1 to 2. -/
def log2Bits : Nat → Nat → Nat → Nat
  | 0, _, r => r
  | n + 1, y, r =>
    let z := y * y / 2 ^ fixBits
    if 2 ^ (fixBits + 1) ≤ z then log2Bits n (z / 2) (2 * r + 1) else log2Bits n z (2 * r)

/-- log2 x, for x above zero. -/
def log2Val (n d : Nat) : Val :=
  let e := expOf n d
  let (m, r, _) := unitsOf n d (e - fixBits)
  if m = 2 ^ fixBits && r = 0 then .ofInt e
  else
    let x : Int := 2 * (e * 2 ^ 150 + log2Bits 150 m 0) + 1
    .fin (x < 0) x.natAbs (2 ^ 151)

/-- 1 / √x, for x above zero. -/
def rsqVal (n d : Nat) : Val :=
  let k := Nat.log2 n + fixBits
  let q := d * 2 ^ (2 * k)
  let y := isqrt (q / n)
  if y * y * n = q then .fin false y (2 ^ k) else inexact false y k

/-- e^x in fixed point, by its series, for x below 1 in fixed point. -/
def expSeries (x : Nat) : Nat → Nat → Nat → Nat → Nat
  | 0, _, _, acc => acc
  | n + 1, k, t, acc =>
    let t := t * x / 2 ^ fixBits / k
    expSeries x n (k + 1) t (acc + t)

/-- A fixed-point number squared k times. -/
def squareTimes : Nat → Nat → Nat
  | 0, y => y
  | k + 1, y => squareTimes k (y * y / 2 ^ fixBits)

/-- tanh of a magnitude n / d above zero: x less a little for small x, 1 less a little for large x. -/
def tanhVal (neg : Bool) (n d : Nat) : Val :=
  if n * 2 ^ 24 < d then .fin neg (n * (2 ^ 300 - 1)) (d * 2 ^ 300)
  else if 64 * d ≤ n then .fin neg (2 ^ 300 - 1) (2 ^ 300)
  else
    let x := 2 * n * 2 ^ fixBits / d / 2 ^ 8
    let y := squareTimes 8 (expSeries x 64 1 (2 ^ fixBits) (2 ^ fixBits))
    .fin neg (2 * (y - 2 ^ fixBits) + 1) (2 * (y + 2 ^ fixBits))

/-- The functions of VTRN. -/
inductive Trn where
  | exp2 | log2 | rcp | rsq | tanh
  deriving DecidableEq, Repr

/-- The value of a function with the flags of its special operands (R342). -/
def Trn.eval (f : Trn) (x : Val) : Val × FFlags :=
  let dz : FFlags := { FFlags.none with dz := true }
  match f, x with
  | _, .nan => (.nan, FFlags.none)
  | .exp2, v => (exp2Val v, FFlags.none)
  | .log2, .inf s => if s then (.nan, FFlags.invalid) else (.inf false, FFlags.none)
  | .log2, .fin s n d => if n = 0 then (.inf true, dz) else if s then (.nan, FFlags.invalid) else (log2Val n d, FFlags.none)
  | .rcp, .inf s => (.zero s, FFlags.none)
  | .rcp, .fin s n d => if n = 0 then (.inf s, dz) else (.fin s d n, FFlags.none)
  | .rsq, .inf s => if s then (.nan, FFlags.invalid) else (.zero false, FFlags.none)
  | .rsq, .fin s n d => if n = 0 then (.inf s, dz) else if s then (.nan, FFlags.invalid) else (rsqVal n d, FFlags.none)
  | .tanh, .inf s => (.fin s 1 1, FFlags.none)
  | .tanh, .fin s n d => if n = 0 then (.zero s, FFlags.none) else (tanhVal s n d, FFlags.none)

end Sys2Proof.Machine
end

