-- ==== Sys2Proof/Machine/Tile.lean ====
section
/-! DEFINITION. The joint array: majors 0x68 to 0x6D (spec/13 R364 to R389), and what an executed tile instruction leaves
in the log (spec/14 R391, R396 to R400). -/

namespace Sys2Proof.Machine

/-! ## Groups and joins (R364, R377, R378) -/

/-- The members of the tile group of width w that holds core a, lowest column first. -/
def tileGroup (a w : Nat) : List Nat := (List.range w).map fun i => groupBase a w + i

/-- The column of a core in its row. -/
def columnOf (a : Nat) : Nat := a % 8

/-- A mask of columns. -/
def columnMask (l : List Nat) : Nat := l.foldl (fun n a => n ||| 2 ^ columnOf a) 0

/-- Joins that meet each other: those at instructions, of whichever major, and those at TMMA records (R377, spec/14 R408). -/
def joinsMeet (k l : Nat) : Bool := (k == 3) == (l == 3)

/-- Core a waits at a join that meets those of a kind. -/
def State.waitsAt (s : State) (a kind : Nat) : Bool :=
  match (s.core a).join with
  | some j => joinsMeet j.kind kind && j.result.isNone
  | none => false

/-- What core a presents: the kind of its join, which tells its major (R377), then what it compares. -/
def State.joinKey (s : State) (a : Nat) : List Nat :=
  match (s.core a).join with
  | some j => j.kind :: j.key
  | none => []

/-- Core a's own checks failed (spec/14 R408). -/
def State.joinFailed (s : State) (a : Nat) : Bool :=
  match (s.core a).join with
  | some j => j.fail.isSome
  | none => false

/-- The group that a's arrival completes at a join of some kind: the widest one that a waiting member of it names. -/
def State.groupReady (s : State) (a kind : Nat) : Option (List Nat) :=
  [8, 4, 2].findSome? fun w =>
    let g := tileGroup a w
    if g.all (fun b => s.waitsAt b kind) && g.any (fun b => (s.core b).tileWidth == w) then some g else none

/-- The join of a group ended with a mask of columns. -/
def State.joinEnd (s : State) (g : List Nat) (mask : Nat) : State :=
  g.foldl (fun (s : State) b => s.modCore b fun c => { c with join := c.join.map fun j => { j with result := some mask } }) s

/-- The members that differ from the lowest one, or whose own checks failed; at a TMMA record also those whose M, the last
of their key, is not their own index (spec/14 R408). -/
def State.joinMask (s : State) (g : List Nat) (kind : Nat) : Nat :=
  let low := s.joinKey (g.headD 0)
  columnMask (g.filter fun b =>
    let k := s.joinKey b
    s.joinFailed b ||
      (if kind = 3 then k.dropLast != low.dropLast || k.getLast? != some (b - g.headD 0) else k != low))

/-- Core a has reached a join at which others of its row wait: each of them notes it, and it notes them (R378). -/
def State.noteJoin (s : State) (a kind : Nat) : State :=
  let l := (tileGroup a 8).filter fun b => s.waitsAt b kind
  l.foldl (fun (s : State) b => s.modCore b fun c => { c with join := c.join.map fun j =>
    { j with seen := j.seen ||| (if b = a then columnMask l else 2 ^ columnOf a) } }) s

/-- Core a presents itself at a join; the last member to come ends it for all (R377). -/
def State.joinArrive (s : State) (a : Nat) (j : JoinReq) : State :=
  let s := (s.modCore a fun c => { c with join := some j }).noteJoin a j.kind
  match s.groupReady a j.kind with
  | some g => s.joinEnd g (s.joinMask g j.kind)
  | none => s

/-- The join of the core that moves: it goes on once the group has joined, stalls while members are missing, and traps when
they disagree. -/
def State.joinGroup (s : State) (kind : Nat) (key : List Nat) (fail : Option (Cause × W64)) (entry : Option (W32 × Nat))
    (refused : Nat → Cause × W64) (fmts : BitVec 4 × BitVec 4 := (0, 0)) : M State := do
  let t := match s.me.join with
    | some j => if j.kind = kind then s else s.joinArrive s.cur ⟨kind, key, s.tick, fail, entry, none, 0, fmts⟩
    | none => s.joinArrive s.cur ⟨kind, key, s.tick, fail, entry, none, 0, fmts⟩
  match t.me.join with
  | some j =>
    match j.result with
    | none => stallFor t .join
    | some 0 => pure (t.modMe fun c => { c with join := none })
    | some m =>
      match j.fail with
      | some (c, v) => .error (.trapAt t c v)
      | none => .error (.trapAt t (refused m).1 (refused m).2)
  | none => pure t

/-- The members of core a's group that have not reached the join while it waited there. -/
def State.missing (s : State) (a : Nat) : List Nat :=
  match (s.core a).join with
  | some j => (tileGroup a (s.core a).tileWidth).filter fun b => !bit (w64 j.seen) (columnOf b)
  | none => []

/-- Core a has waited GCFG.TIMEOUT cycles at a join (R378). -/
def State.joinExpired (s : State) (a : Nat) : Bool :=
  match (s.core a).join with
  | some j => j.result.isNone && field (s.core a).gcfg 0 32 ≤ (s.tick - j.since).toNat
  | none => false

/-- A trap that core a takes at its next instruction for a tile instruction that it issued again, which is then lost (R384,
log entry 97). -/
def State.reissueTrap (s : State) (a : Nat) (cause : Cause) (v : W64) : State :=
  let t := s.modCore a fun c => { c with reissue := c.reissue.tail }
  { { t with cur := a }.takeTrap cause v with cur := s.cur }

/-- A member that has waited too long raises GANG_TIMEOUT (R378). -/
def State.joinTimeout (s : State) (a : Nat) : State :=
  if s.joinExpired a then s.reissueTrap a .gangTimeout (w64 (columnMask (s.missing a))) else s

/-! ## The log (spec/14 R391, R396) -/

/-- The bytes from offset lo to offset hi lie in one TCM half, or in one raw bay. -/
def State.oneLogUnit (s : State) (a lo hi : Nat) : Bool :=
  match regionOf a lo with
  | some (.tcm _) => lo / 0x2000 == (hi - 1) / 0x2000
  | some (.bay b) => s.bayFormat (clusterOf a) b = 0 && lo / 0x8000 == (hi - 1) / 0x8000
  | _ => false

/-- The region of a log segment is one that the log may use; an empty one may stand at the end of a unit. -/
def State.logRegion (s : State) (a lo hi : Nat) : Bool :=
  if lo = hi then s.oneLogUnit a lo (lo + 1) || (32 ≤ lo && s.oneLogUnit a (lo - 32) lo) else s.oneLogUnit a lo hi

/-- The log of core a is valid (R391). -/
def State.logValid (s : State) (a : Nat) : Bool :=
  let c := s.core a
  field c.logb 28 4 == field c.logp 28 4 && field c.logp 28 4 == field c.logl 28 4
    && field c.logb 0 28 ≤ field c.logp 0 28 && field c.logp 0 28 ≤ field c.logl 0 28
    && s.logRegion a (field c.logb 0 28) (field c.logl 0 28)

/-- The core that moves records what it does: RECM.ON at depth 0 (R392). -/
def Core.records (c : Core) : Bool := bit c.recm 0 && c.depth = 0

/-- The log entry of a tile instruction reserved (R396). -/
def State.reserve (s : State) (plen : Nat) : M (State × Option (W32 × Nat)) := do
  let c := s.me
  if !c.records then pure (s, none)
  else do
    require (s.logValid s.cur) .adjState 1
    require (field c.logp 0 28 + 32 + plen ≤ field c.logl 0 28) .adjLogFull (32 + plen)
    pure (s.modMe fun c => { c with logp := c.logp + w64 (32 + plen) }, some (c.logp.setWidth 32, plen))

/-- A log record's fields (R398). -/
structure Record where
  kind : Nat
  acc  : Nat
  kc   : Nat
  tw   : Nat
  ta   : Bool
  tb   : Bool
  z    : Bool
  sa   : Bool
  sb   : Bool
  fn   : Nat
  m    : Nat
  mark : Nat
  x    : Nat
  seq  : Nat
  fa   : Nat
  fb   : Nat
  pa   : W32
  pb   : W32
  wga  : Nat
  wgb  : Nat
  deriving DecidableEq, Repr

/-- A record of a kind with nothing else in it. -/
def Record.blank (kind : Nat) : Record :=
  { kind := kind, acc := 0, kc := 0, tw := 0, ta := false, tb := false, z := false, sa := false, sb := false, fn := 0, m := 0,
    mark := 0, x := 0, seq := 0, fa := 0, fb := 0, pa := 0, pb := 0, wga := 0, wgb := 0 }

/-- The 32 bytes of a record. -/
def Record.bytes (r : Record) : Nat :=
  (r.mark % 2 ^ 12 + r.m % 8 * 2 ^ 12 + r.fn % 4 * 2 ^ 15 + b2n r.sb * 2 ^ 17 + b2n r.sa * 2 ^ 18 + b2n r.z * 2 ^ 19
    + b2n r.tb * 2 ^ 20 + b2n r.ta * 2 ^ 21 + r.tw % 4 * 2 ^ 22 + r.kc % 4 * 2 ^ 24 + r.acc % 4 * 2 ^ 26 + r.kind % 16 * 2 ^ 28)
  + r.x % 2 ^ 32 * 2 ^ 32 + (r.fa % 16 + r.fb % 16 * 2 ^ 8 + r.seq % 2 ^ 16 * 2 ^ 16) * 2 ^ 64 + r.pa.toNat * 2 ^ 96
  + r.pb.toNat * 2 ^ 128 + r.wga % 2 ^ 32 * 2 ^ 192 + r.wgb % 2 ^ 32 * 2 ^ 224

/-- The fields of 32 bytes. -/
def Record.ofBytes (n : Nat) : Record :=
  let w : BitVec 256 := BitVec.ofNat 256 n
  { kind := field w 28 4, acc := field w 26 2, kc := field w 24 2, tw := field w 22 2, ta := bit w 21, tb := bit w 20,
    z := bit w 19, sa := bit w 18, sb := bit w 17, fn := field w 15 2, m := field w 12 3, mark := field w 0 12,
    x := field w 32 32, seq := field w 80 16, fa := field w 64 4, fb := field w 72 4, pa := w.extractLsb' 96 32,
    pb := w.extractLsb' 128 32, wga := field w 192 32, wgb := field w 224 32 }

/-- A deferred trap of core a for what an operation did (spec/11 R323). An error that the operation met is detected at once
(spec/02 R99, R100). -/
def State.deferFor (s : State) (a : Nat) (x : Ctx) (cause : Cause) (v : W64) (high : Nat) : State :=
  (s.modCore a fun c =>
    { c with deferred := c.deferred ++
        [{ cause := cause, value := w64 (field v 0 32 + high % 2 ^ 31 * 2 ^ 32 + 2 ^ 63), depth := x.depth, pol := x.pol }] }).detect
    a cause v

/-- The trap that a stop stands for. -/
def Stop.trapOf : Stop → Option (Cause × W64)
  | .trap c v => some (c, v)
  | .trapAt _ c v => some (c, v)
  | .stall _ => none

/-- The trap with which a check ends. -/
def failOf {α : Type} : M α → Option (Cause × W64)
  | .ok _ => none
  | .error e => e.trapOf

/-- The bytes of a log entry written in beats of 32, each checked again under R29 with the tag of the log pointers; a beat
that fails leaves a deferred trap (R397). `done` counts the bytes written. -/
def State.logBeats (s : State) (a : Nat) (x : Ctx) (p : W32) (data done : Nat) : Nat → State
  | 0 => s
  | n + 1 =>
    match s.engineCheck a x (p.setWidth 64) 32 with
    | .ok l => (s.put a l 32 (data % 2 ^ 256) (allBytes 32)).logBeats a x (p + 32) (data / 2 ^ 256) (done + 32) n
    | .error e =>
      match e.trapOf with
      | some (c, v) => s.deferFor a x c v (done % 2 ^ 16)
      | none => s

/-- A record with its payload written at a log place; SEQ goes into it and, but for a LINK, is advanced (R397, R394). -/
def State.writeRecord (s : State) (a : Nat) (x : Ctx) (p : W32) (r : Record) (payload : Nat) : State :=
  let seq := field (s.core a).recm 16 16
  let s := if r.kind = 6 then s else s.modCore a fun c => { c with recm := setField c.recm 16 16 ((seq + 1) % 2 ^ 16) }
  s.logBeats a x p (payload + { r with seq := seq }.bytes * 2 ^ (8 * r.x * b2n (r.kind ≠ 6))) 0
    ((if r.kind = 6 then 0 else r.x / 32) + 1)

/-! ## Operands (R371 to R373) -/

/-- K of an operand class. -/
def tileK (kc : Nat) : Nat := 64 / 2 ^ kc

/-- The class of a bay format; none for those that take no part. -/
def tileClass (f : Nat) : Option Nat :=
  if f = 7 then some 0 else if f = 5 || f = 6 || f = 8 then some 1 else if f = 3 || f = 4 then some 2
  else if f = 2 then some 3 else none

/-- A class takes an operand of a format. -/
def classTakes (kc f : Nat) : Bool :=
  match tileClass f with
  | some c => c ≤ kc
  | none => false

/-- A class takes two operands of these formats together (R372). -/
def pairTaken (kc fa fb : Nat) : Bool :=
  classTakes kc fa && classTakes kc fb && ((fa == 8) == (fb == 8)) && (fa != 8 || kc == 1)

/-- The bits of an element as an accumulator instruction sees it: raw and code bays hold F32 (spec/12 R350). -/
def tileBits (f : Nat) : Nat := if f = 0 || f = 1 then 32 else bayBits f

/-- The element index that a pointer into a bay names. -/
def firstIndex (f : Nat) (p : W32) : Nat := field p 0 15 * 8 / tileBits f

/-- The index of row r, depth k of an operand (R373). -/
def operandIndex (bf : W64) (p : W32) (tr : Bool) (kc r k : Nat) : Nat :=
  let n := field bf 16 16
  let len := if n = 0 then (if tr then 4 else tileK kc) else n
  firstIndex (field bf 0 4) p + (if tr then k * len + r else r * len + k)

/-- The pointer to the granule that holds element i of the bay that p points into. -/
def elemGranule (f : Nat) (p : W32) (i : Nat) : W64 := w64 (p.toNat / 0x8000 * 0x8000 + i * tileBits f / 8 / 32 * 32)

/-- The granules of k-group g of an operand. -/
def groupGranules (bf : W64) (p : W32) (tr : Bool) (kc g : Nat) : List W64 :=
  ((List.range 4).flatMap fun r => (List.range 8).map fun k =>
    elemGranule (field bf 0 4) p (operandIndex bf p tr kc r (8 * g + k))).eraseDups

/-- The scales that k-group g of an operand in an E2M1-blocked bay reads, as offsets with sizes (R372, spec/03 R108). -/
def groupScales (bf : W64) (p : W32) (tr : Bool) (kc g : Nat) : List (Nat × Nat) :=
  if field bf 0 4 = 7 then
    ((List.range 4).flatMap fun r =>
      let i := operandIndex bf p tr kc r (8 * g)
      [(0x6000 + i / 8, 1), (0x7800 + 2 * bandOf bf i, 2)]).eraseDups
  else []

/-- The granules of a whole operand. -/
def operandGranules (bf : W64) (p : W32) (tr : Bool) (kc : Nat) : List W64 :=
  ((List.range (tileK kc / 8)).flatMap (groupGranules bf p tr kc)).eraseDups

/-- The bay that a pointer names, on core a. -/
def bayOfPtr (a : Nat) (p : W64) : Option Nat :=
  match regionOf a (field p 0 28) with
  | some (.bay b) => some b
  | _ => none

/-- BFMT of the bay that a pointer names. -/
def State.bfmtOf (s : State) (a : Nat) (p : W32) : W64 :=
  match bayOfPtr a (p.setWidth 64) with
  | some b => s.bfmt (clusterOf a) b
  | none => 0

/-- BFMT of the bay of a pointer as it stands, with another format: that of a TMMA at issue, or that of a record (R372, spec/02 R71). -/
def State.underFormat (s : State) (a : Nat) (p : W32) (f : Nat) : W64 := setField (s.bfmtOf a p) 0 4 f

/-- Every granule of a list checked under R27 (R374). -/
def State.checkAll (s : State) (a : Nat) (x : Ctx) (lvl : Nat) (k : Access) : List W64 → M Unit
  | [] => .ok ()
  | p :: t => do
    let _ ← s.localCheck a x lvl p 32 k
    s.checkAll a x lvl k t

/-- The alignment and range of one operand (R372, R373). -/
def operandPlaced (bf : W64) (p : W32) (tr : Bool) (kc : Nat) : M Unit := do
  let f := field bf 0 4
  require (f ≠ 7 || (!tr && firstIndex f p % 8 = 0 && field bf 16 16 % 8 = 0)) .illegal 18
  require (p.toNat % bayBytes f = 0) .align (bayBytes f)
  require ((operandIndex bf p tr kc 3 (tileK kc - 1) + 1) * bayBits f ≤ bayArea f * 8) .bounds 0x25

/-- The checks of R374 after the fields: regions, formats, alignment and range, then every granule of both operands. -/
def State.tmmaChecks (s : State) (kc : Nat) (ta tb : Bool) (pa pb : W64) : M Unit := do
  let a := s.cur
  let c := s.me
  require ((bayOfPtr a pa).isSome && (bayOfPtr a pb).isSome) .polderAccess 11
  let fa := s.bfmtOf a (pa.setWidth 32)
  let fb := s.bfmtOf a (pb.setWidth 32)
  require (pairTaken kc (field fa 0 4) (field fb 0 4)) .illegal 17
  operandPlaced fa (pa.setWidth 32) ta kc
  operandPlaced fb (pb.setWidth 32) tb kc
  require (field pa 32 32 = 0 && field pb 32 32 = 0) .polderAccess 7
  s.checkAll a c.ctx c.level .load (operandGranules fa (pa.setWidth 32) ta kc)
  s.checkAll a c.ctx c.level .load (operandGranules fb (pb.setWidth 32) tb kc)

/-! ## Arithmetic (R375, spec/03 R123) -/

/-- One row of an operand: code values in ascending k, and for each k-group the micro-block scale and the band or bay
scale. -/
structure TileRow where
  vals  : List Val
  micro : List (Nat × Nat)
  band  : List (Nat × Nat)
  deriving DecidableEq, Repr

/-- The code of element i of a bay in the encoding of format f. -/
def State.codeAt (s : State) (f c b i : Nat) : Nat :=
  if f = 7 then s.nibble c b i else s.read (bayBase c b + i * bayBytes f) (bayBytes f)

/-- The value of a code without scales. -/
def codeVal (f code : Nat) : Val :=
  match bayFmt f with
  | some g => g.decode code
  | none => .ofInt (toSigned (bayBits f) code)

/-- The four rows of an operand as the array reads them under a value of BFMT. -/
def State.operandRows (s : State) (bf : W64) (a : Nat) (p : W32) (tr : Bool) (kc : Nat) : List TileRow :=
  match bayOfPtr a (p.setWidth 64) with
  | none => []
  | some b =>
    let c := clusterOf a
    let f := field bf 0 4
    let idx := operandIndex bf p tr kc
    (List.range 4).map fun r =>
      let groups := List.range (tileK kc / 8)
      { vals := (List.range (tileK kc)).map fun k => codeVal f (s.codeAt f c b (idx r k))
        micro := groups.map fun g => if f = 7 then s.blockScale c b (idx r (8 * g) / 8) else (1, 1)
        band := groups.map fun g =>
          if f = 7 then s.bandScale c b (bandOf bf (idx r (8 * g)))
          else if f = 5 || f = 6 then bayScale bf else (1, 1) }

/-- A value that a scale multiplies. -/
def scaledBy (x : Val) (a b : Nat × Nat) : Val := x.mul (.fin false (a.1 * b.1) (a.2 * b.2))

/-- The exact sum of the products of two lists (R123). -/
def dotSum : List Val → List Val → Val
  | [], _ => .zero true
  | _, [] => .zero true
  | x :: xs, y :: ys => (x.mul y).add false (dotSum xs ys)

/-- A rounding to FP32 under rne, with whether it overflowed to infinity. -/
def roundF32 (x : Val) : Val × Bool :=
  let (code, g) := Fmt.f32.round Rnd.rne x
  (Fmt.f32.decode code, g.of)

/-- Sticky bits of TSTAT that a computation sets: NaN made, overflow (R383). -/
structure Sticky where
  nan : Bool
  of  : Bool
  deriving DecidableEq, Repr

/-- Sticky bits of two computations. -/
def Sticky.or (a b : Sticky) : Sticky := ⟨a.nan || b.nan, a.of || b.of⟩

/-- One k-group of one output element (R123): the new accumulator value. -/
def jointStep (x : Val) (ar br : TileRow) (g : Nat) : Val × Sticky :=
  let xs := (ar.vals.drop (8 * g)).take 8
  let ys := (br.vals.drop (8 * g)).take 8
  let one : Nat × Nat := (1, 1)
  let (t, o1) := roundF32 (scaledBy (dotSum xs ys) (ar.micro.getD g one) (br.micro.getD g one))
  let (w, o2) := roundF32 (scaledBy t (ar.band.getD g one) (br.band.getD g one))
  let (y, o3) := roundF32 (x.add false w)
  (y, ⟨y.isNan && !x.isNan && !(xs.any Val.isNan) && !(ys.any Val.isNan), o1 || o2 || o3⟩)

/-- The FP32 code of a value that is one. -/
def f32Code (x : Val) : W32 := w32 (Fmt.f32.round Rnd.rne x).1

/-- One output element from k-group g on, for n groups. -/
def jointElem (x : Val) (ar br : TileRow) (g : Nat) : Nat → Val × Sticky
  | 0 => (x, ⟨false, false⟩)
  | n + 1 =>
    let (y, t) := jointStep x ar br g
    let (z, u) := jointElem y ar br (g + 1) n
    (z, t.or u)

/-- Element (i, c) of accumulator n. -/
def Core.accElem (c : Core) (n i k : Nat) : W32 := vget (vget c.acc n (Vector.replicate 128 0)) (4 * i + k) 0

/-- An accumulator replaced. -/
def Core.setAcc (c : Core) (n : Nat) (x : Vector W32 128) : Core := { c with acc := vset c.acc n x }

/-- The first n rows of an accumulator set to +0. -/
def Core.zeroAcc (c : Core) (n rows : Nat) : Core :=
  c.setAcc n (Vector.ofFn fun i => if i.val < 4 * rows then 0 else vget (vget c.acc n (Vector.replicate 128 0)) i.val 0)

/-- Sticky bits ORed into TSTAT. -/
def Core.stick (c : Core) (t : Sticky) : Core := { c with tnan := c.tnan || t.nan, tof := c.tof || t.of }

/-- TmmaExecute on one member from k-group g for n groups (R375): `rows` are the rows of A of the whole group, `cols` the
member's four rows of B. -/
def Core.tmma (c : Core) (acc : Nat) (rows cols : List TileRow) (g n : Nat) : Core :=
  let blank : TileRow := ⟨[], [], []⟩
  let out := (List.range (4 * rows.length)).map fun e =>
    jointElem (Fmt.f32.decode (c.accElem acc (e / 4) (e % 4)).toNat) (rows.getD (e / 4) blank) (cols.getD (e % 4) blank) g n
  let old := vget c.acc acc (Vector.replicate 128 0)
  let new : Vector W32 128 := Vector.ofFn fun i =>
    match out[i.val]? with
    | some (x, _) => f32Code x
    | none => vget old i.val 0
  (if n = 0 then c else c.setAcc acc new).stick (out.foldl (fun t e => t.or e.2) ⟨false, false⟩)

/-! ## TMMA from the queue (R368, R375, R385) -/

/-- The operation at the head of core a's queue. -/
def State.tileHead (s : State) (a : Nat) : Option TileOp := (s.core a).tileq.head?

/-- A TMMA's head, taken apart. -/
structure TmmaHead where
  agent : Nat
  op    : TileOp
  pa    : W32
  pb    : W32
  kc    : Nat
  ta    : Bool
  tb    : Bool
  acc   : Nat
  z     : Bool
  sa    : Bool
  sb    : Bool
  deriving DecidableEq, Repr

/-- BFMT under which the array reads A: the format at issue (R372), and every other field as it stands (spec/02 R71, log entry 113). -/
def State.bfmtA (s : State) (h : TmmaHead) : W64 := s.underFormat h.agent h.pa h.op.fa.toNat

/-- BFMT under which the array reads B. -/
def State.bfmtB (s : State) (h : TmmaHead) : W64 := s.underFormat h.agent h.pb h.op.fb.toNat

/-- The TMMA at the head of core a's queue. -/
def State.tmmaHead (s : State) (a : Nat) : Option TmmaHead :=
  match s.tileHead a with
  | some op =>
    match op.work with
    | .tmma pa pb kc tb ta acc z sa sb => some ⟨a, op, pa, pb, kc.toNat, ta, tb, acc.toNat, z, sa, sb⟩
    | _ => none
  | none => none

/-- The TMMAs at the heads of the queues of a whole group (R368); none when one is missing. -/
def State.tmmaHeads (s : State) (a : Nat) : Option (List TmmaHead) :=
  (tileGroup a (s.core a).tileWidth).mapM s.tmmaHead

/-- The k-group at which a member resumes (R375). -/
def Core.firstGroup (c : Core) : Nat := if bit c.atp 63 then field c.atp 32 4 else 0

/-- One operand beat: R29, then error correction. -/
def State.tileBeat (s : State) (a : Nat) (x : Ctx) (p : W64) (k : Access) : M Unit := do
  let l ← s.localCheck a x 1 p 32 k
  s.eccCheck a l 32 (k == .load)

/-- The beats of a list of granules. -/
def State.tileBeats (s : State) (a : Nat) (x : Ctx) (k : Access) : List W64 → M Unit
  | [] => .ok ()
  | p :: t => do
    s.tileBeat a x p k
    s.tileBeats a x k t

/-- The beats of k-group g of one operand: its granules, then error correction of the scales that it reads (spec/02 R97). -/
def State.operandBeats (s : State) (a : Nat) (x : Ctx) (bf : W64) (p : W32) (tr : Bool) (kc g : Nat) : M Unit := do
  s.tileBeats a x .load (groupGranules bf p tr kc g)
  match bayOfPtr a (p.setWidth 64) with
  | some b => s.eccAreas a b (groupScales bf p tr kc g)
  | none => .ok ()

/-- The beats of k-group g of a member's operands. The first group that a resumed TMMA computes comes with the earlier groups of an
operand that its record saves (spec/14 R399). -/
def State.groupBeats (s : State) (h : TmmaHead) (g : Nat) : M Unit := do
  let groups (saved : Bool) : List Nat :=
    if saved && h.op.entry.isSome && g = (s.core h.agent).firstGroup then List.range (g + 1) else [g]
  (groups h.sa).forM fun i => s.operandBeats h.agent h.op.ctx (s.bfmtA h) h.pa h.ta h.kc i
  (groups h.sb).forM fun i => s.operandBeats h.agent h.op.ctx (s.bfmtB h) h.pb h.tb h.kc i

/-- The corrected errors that a read of a list of granules by the array finds, each granule read once (spec/02 R96). -/
def State.softGranules (s : State) (a : Nat) (l : List W64) : State :=
  l.foldl (fun (s : State) p =>
    match regionOf a (field p 0 28) with
    | some r => s.softRead a ⟨r, field p 0 28, keyOf a (field p 0 28)⟩ 32
    | none => s) s

/-- The corrected errors of k-groups g up to n of one operand. -/
def State.softOperand (s : State) (a : Nat) (bf : W64) (p : W32) (tr : Bool) (kc g n : Nat) : State :=
  let gs := (List.range n).filter (g ≤ ·)
  let s := s.softGranules a (gs.flatMap (groupGranules bf p tr kc)).eraseDups
  match bayOfPtr a (p.setWidth 64) with
  | some b => s.softAreas a b (gs.flatMap (groupScales bf p tr kc)).eraseDups
  | none => s

/-- The first k-group with a beat that fails, the member that failed, and its trap (R385). -/
def State.tmmaFailure (s : State) (hs : List TmmaHead) : Option (Nat × Nat × Cause × W64) :=
  match hs with
  | [] => none
  | h :: _ =>
    (List.range (tileK h.kc / 8)).findSome? fun g =>
      if g < (s.core h.agent).firstGroup then none
      else hs.zipIdx.findSome? fun e => (failOf (s.groupBeats e.1 g)).map fun f => (g, e.2, f.1, f.2)

/-- The rows of A of a whole group. -/
def State.groupRows (s : State) (hs : List TmmaHead) : List TileRow :=
  hs.flatMap fun h => s.operandRows (s.bfmtA h) h.agent h.pa h.ta h.kc

/-- A list of parts of some bytes each as one number, the first part lowest. -/
def packParts (size : Nat) (l : List Nat) : Nat := l.foldr (fun x n => x % 2 ^ (8 * size) + 2 ^ (8 * size) * n) 0

/-- The 192 bytes of payload of a saved operand (spec/14 R399). -/
def State.payloadOf (s : State) (bf : W64) (a : Nat) (p : W32) (tr : Bool) (kc : Nat) : Nat :=
  match bayOfPtr a (p.setWidth 64) with
  | none => 0
  | some b =>
    let c := clusterOf a
    let f := field bf 0 4
    let idx := operandIndex bf p tr kc
    let rows := packParts 32 ((List.range 4).map fun r =>
      (List.range (tileK kc)).foldr (fun k n => s.codeAt f c b (idx r k) + 2 ^ bayBits f * n) 0)
    let scales :=
      if f = 7 then
        packParts 8 ((List.range 4).map fun r => packParts 1 ((List.range (tileK kc / 8)).map fun g =>
          (s.byte (bayBase c b + 0x6000 + idx r (8 * g) / 8)).toNat))
        + packParts 2 ((List.range 4).map fun r => s.read (bayBase c b + 0x7800 + 2 * bandOf bf (idx r 0)) 2) * 2 ^ 256
      else if f = 5 || f = 6 then field bf 48 16 * 2 ^ 320 else 0
    rows + scales * 2 ^ 1024

/-- The record and payload of a TMMA that has executed on a member (spec/14 R398 to R400). -/
def State.tmmaRecord (s : State) (h : TmmaHead) : Record × Nat :=
  let a := h.agent
  let k := s.cluster (clusterOf a)
  let gen := fun p => match bayOfPtr a (p.setWidth 64) with
    | some b => field (vget k.wgen b 0) 0 32
    | none => 0
  let pa := if h.sa then s.payloadOf (s.bfmtA h) a h.pa h.ta h.kc else 0
  let pb := if h.sb then s.payloadOf (s.bfmtB h) a h.pb h.tb h.kc else 0
  ({ Record.blank 0 with
      acc := h.acc, kc := h.kc, tw := field (s.core a).gcfg 32 2, ta := h.ta, tb := h.tb, z := h.z, sa := h.sa, sb := h.sb
      m := a % (s.core a).tileWidth, x := 192 * (b2n h.sa + b2n h.sb), fa := h.op.fa.toNat
      fb := h.op.fb.toNat, pa := h.pa, pb := h.pb, wga := if h.sa then 0 else gen h.pa
      wgb := if h.sb then 0 else gen h.pb },
   pa + pb * 2 ^ (192 * 8 * b2n h.sa))

/-- The head of core a's queue leaves it. -/
def State.tilePop (s : State) (a : Nat) : State := s.modCore a fun c => { c with tileq := c.tileq.tail }

/-- The record of a completed operation written, where it reserved an entry. -/
def State.tileRecord (s : State) (a : Nat) (op : TileOp) (r : Record) (payload : Nat) : State :=
  match op.entry with
  | some (p, _) => s.writeRecord a op.ctx p r payload
  | none => s

/-- A member's TMMA executed up to some k-group, `s0` being the state before. -/
def State.tmmaMember (s s0 : State) (rows : List TileRow) (h : TmmaHead) (upto : Nat) : State :=
  let from_ := (s.core h.agent).firstGroup
  let s := (s.softOperand h.agent (s0.bfmtA h) h.pa h.ta h.kc from_ upto).softOperand h.agent (s0.bfmtB h) h.pb h.tb h.kc from_ upto
  s.modCore h.agent fun c =>
    let g := c.firstGroup
    let c := if !bit c.atp 63 && h.z then c.zeroAcc h.acc (rows.length) else c
    { c.tmma h.acc rows (s0.operandRows (s0.bfmtB h) h.agent h.pb h.tb h.kc) g (upto - g) with atp := setField c.atp 63 1 0 }

/-- n cycles of the array of core a's row counted as TILE_BUSY (spec/16 R446). -/
def State.tileBusy (s : State) (a n : Nat) : State := s.countCluster (clusterOf a) 8 n (s.baseFn a)

/-- The TMMA at the heads of a group executed up to some k-group, with the cycles that this takes: 128 W / 8 for all k-groups in
a pass (R376). -/
def State.tmmaRun (s : State) (hs : List TmmaHead) (upto : Nat) : State :=
  let rows := s.groupRows hs
  let t := hs.foldl (fun (t : State) h => t.tmmaMember s rows h upto) s
  match hs with
  | h :: _ =>
    t.tileBusy h.agent (16 * hs.length * (if h.kc = 3 then 2 else 1) * (upto - (s.core h.agent).firstGroup) / (tileK h.kc / 8))
  | [] => t

/-- The TMMA at the heads of a group completed (R368, R375). -/
def State.tmmaComplete (s : State) (hs : List TmmaHead) : State :=
  let t := s.tmmaRun hs (tileK ((hs.head?.map (·.kc)).getD 0) / 8)
  hs.foldl (fun (t : State) h =>
    let (r, p) := s.tmmaRecord h
    (t.tilePop h.agent).tileRecord h.agent h.op r p) t

/-- A TMMA of core a that has joined, or waits to, when the queue is discarded: one that has joined counts as queued and is
discarded too, and one that waits is issued again, with a log entry of its own (R385, spec/14 R397). -/
def JoinReq.discard (j : JoinReq) : Option JoinReq :=
  if j.kind ≠ 1 then some j
  else if j.result = some 0 then some { j with fail := some (.gangMismatch, 0), entry := none }
  else if j.result = none then none
  else some j

/-- The log entry that a TMMA holds which waits at its join or has joined. -/
def JoinReq.reserved (j : JoinReq) : Option (W32 × Nat) :=
  if j.kind = 1 && (j.result = none || j.result = some 0) then j.entry else none

/-- Every tile operation of core a discarded, and the log entry of the first given back (R385, spec/14 R397). -/
def State.tileDiscard (s : State) (a : Nat) : State :=
  s.modCore a fun c =>
    { c with tileq := [], reissue := [], join := c.join.bind JoinReq.discard
             logp := match ((c.tileq ++ c.reissue).map (·.entry) ++ (c.join.toList.map JoinReq.reserved)).findSome? id with
               | some (p, _) => p.setWidth 64
               | none => c.logp }

/-- The TMMA at the heads of a group stopped before k-group g by a member's failing beat (R385). -/
def State.tmmaStop (s : State) (hs : List TmmaHead) (g member : Nat) (cause : Cause) (v : W64) : State :=
  let t := s.tmmaRun hs g
  hs.foldl (fun (t : State) h =>
    let u := (t.tileDiscard h.agent).modCore h.agent fun c => { c with atp := w64 (2 ^ 63 + 2 ^ 62 + g * 2 ^ 32) }
    u.deferFor h.agent h.op.ctx cause v (g + member * 2 ^ 16)) t

/-- A forced eviction stops the TMMA at the heads of a group: the k-group in progress completes, and unless it was the last, ATP
says where the TMMA goes on (R384). A TMMA that stands at every head is running (log entry 97). -/
def State.tmmaPause (s : State) (hs : List TmmaHead) : State :=
  match hs with
  | [] => s
  | h :: _ =>
    let n := (s.core h.agent).firstGroup + 1
    if tileK h.kc / 8 ≤ n then s.tmmaComplete hs
    else
      hs.foldl (fun (t : State) h => t.modCore h.agent fun c => { c with atp := w64 (2 ^ 63 + n * 2 ^ 32) }) (s.tmmaRun hs n)

/-! ## TLD, TST and TACT from the queue (R380 to R382, R385) -/

/-- The slice that a pointer names: first byte of its unit as a pointer, element size in bits, row length and first index
in elements, the unit's size in bytes, its format. -/
structure Slice where
  base : W32
  bits : Nat
  len  : Nat
  e0   : Nat
  span : Nat
  bay  : Option Nat
  deriving DecidableEq, Repr

/-- The slice at a pointer (R381); none outside TCM and scratch. -/
def State.sliceOf (s : State) (a : Nat) (p : W32) : Option Slice :=
  match regionOf a (field p 0 28) with
  | some (.tcm _) => some ⟨w32 (p.toNat / 0x2000 * 0x2000), 32, 4, field p 0 13 / 4, 0x2000, none⟩
  | some (.bay b) =>
    let bf := s.bfmt (clusterOf a) b
    let f := field bf 0 4
    let n := field bf 16 16
    some ⟨w32 (p.toNat / 0x8000 * 0x8000), tileBits f, if n = 0 then 4 else n, firstIndex f p, bayArea f, some b⟩
  | _ => none

/-- The index of element (i, c) of a slice. -/
def Slice.index (x : Slice) (i c : Nat) : Nat := x.e0 + i * x.len + c

/-- The granules of row i of a slice. -/
def Slice.granules (x : Slice) (i : Nat) : List W64 :=
  ((List.range 4).map fun c => w64 (x.base.toNat + x.index i c * x.bits / 8 / 32 * 32)).eraseDups

/-- The scales that row i of a slice in an E2M1-blocked bay reads, as offsets with sizes (spec/03 R108). -/
def Slice.scales (x : Slice) (bf : W64) (i : Nat) : List (Nat × Nat) :=
  if field bf 0 4 = 7 then
    ((List.range 4).flatMap fun c =>
      let e := x.index i c
      [(0x6000 + e / 8, 1), (0x7800 + 2 * bandOf bf e, 2)]).eraseDups
  else []

/-- The checks of TLD and TST at issue (R381). -/
def State.sliceChecks (s : State) (p : W64) (k : Access) : M Unit := do
  let a := s.cur
  let c := s.me
  match s.sliceOf a (p.setWidth 32) with
  | none => trap .polderAccess 11
  | some x => do
    require (field p 0 28 % ((x.bits + 7) / 8) = 0) .align ((x.bits + 7) / 8)
    require ((x.index 31 3 + 1) * x.bits ≤ x.span * 8) .bounds 0x25
    require (field p 32 32 = 0) .polderAccess 7
    s.checkAll a c.ctx c.level k ((List.range 32).flatMap x.granules).eraseDups

/-- Element e of a slice as an FP32 code, with the flags of a scaled value or an integer that F32 does not hold (R381, R350, spec/03
R114). -/
def State.sliceDecode (s : State) (a : Nat) (x : Slice) (e : Nat) : W32 × FFlags :=
  let i := x.index (e / 4) (e % 4)
  let c := clusterOf a
  match x.bay with
  | none => (w32 (s.read (keyOf a (field x.base 0 28) + 4 * i) 4), FFlags.none)
  | some b =>
    let f := s.bayFormat c b
    if f ≤ 2 then (w32 (s.read (bayBase c b + 4 * i) 4), FFlags.none)
    else
      let r := Fmt.f32.round Rnd.rne (s.bayElem c b i).val
      (w32 r.1, r.2)

/-- Element e of a slice as an FP32 code. -/
def State.sliceLoad (s : State) (a : Nat) (x : Slice) (e : Nat) : W32 := (s.sliceDecode a x e).1

/-- The flags of the first rows of a slice as TLD decodes them. -/
def State.sliceFlags (s : State) (a : Nat) (x : Slice) (rows : Nat) : FFlags :=
  (List.range (4 * rows)).foldl (fun g e => g.or (s.sliceDecode a x e).2) FFlags.none

/-- The first rows of a slice loaded into an accumulator, with their flags (R381). -/
def State.sliceFill (s : State) (a acc : Nat) (x : Slice) (rows : Nat) (c : Core) : Core :=
  let old := vget (s.core a).acc acc (Vector.replicate 128 0)
  (c.setAcc acc (Vector.ofFn fun e => if e.val < 4 * rows then s.sliceLoad a x e.val else vget old e.val 0)).raise (s.sliceFlags a x rows)

/-- The elements that a TST stores, with their indexes. -/
def State.sliceElems (s : State) (a : Nat) (x : Slice) (acc : Nat) : List (Nat × Elem) :=
  (List.range 128).map fun e =>
    (x.index (e / 4) (e % 4), { val := Fmt.f32.decode ((s.core a).accElem acc (e / 4) (e % 4)).toNat, int := false })

/-- The writes of a converting TST for the elements `here`: `els` are those of the whole slice, and `given` those of which a
micro-block takes the new values (R381, spec/03 R116 to R122). -/
def State.sliceWrites (s : State) (c b : Nat) (op : TileOp) (els here given : List (Nat × Elem)) : List BayWrite :=
  let bf := s.bfmt c b
  if field bf 0 4 = 7 then
    let slots := bandWrites bf els
    let bands := (here.map fun e => bandOf bf e.1).eraseDups
    (slots.filter fun w => bands.any fun q => w.off == 0x7800 + 2 * q)
      ++ ((here.map fun e => e.1 / 8).eraseDups).flatMap (s.blockWrites c b op.seed.toNat op.ts.toNat slots given)
  else s.bayWrites c b op.seed.toNat op.ts.toNat here

/-- Row i of a slice stored raw, 16 bytes from a key up. -/
def State.sliceRaw (s : State) (a : Nat) (x : Slice) (r : Region) (base acc i : Nat) : State :=
  let e := x.index i 0
  s.put a ⟨r, field x.base 0 28 + 4 * e, base + 4 * e⟩ 16
    (packParts 4 ((List.range 4).map fun c => ((s.core a).accElem acc i c).toNat)) (allBytes 16)

/-- The first n rows of a slice stored: converted into the bay, or raw in TCM and raw bays (R381). The granules of scratch that a
write-through task writes abort the tasks that have read them (spec/05 R176). -/
def State.sliceStore (s : State) (a : Nat) (op : TileOp) (x : Slice) (acc n : Nat) : State × FFlags :=
  let c := clusterOf a
  let raw := fun (base : Nat) (r : Region) =>
    (List.range n).foldl (fun (t : State) i => t.sliceRaw a x r base acc i) s
  let aborted := fun (t : State) (gs : List Nat) =>
    match op.key with
    | some k => t.abortReaders c k gs.eraseDups
    | none => t
  match x.bay with
  | none => (raw (keyOf a (field x.base 0 28)) (.tcm (0x2000 ≤ field x.base 0 28)), FFlags.none)
  | some b =>
    let bf := s.bfmt c b
    if field bf 0 4 ≤ 1 then
      (aborted (raw (bayBase c b) (.bay b)) ((List.range n).flatMap fun i => granuleList (bayBase c b + 4 * x.index i 0) 16),
       FFlags.none)
    else
      let els := s.sliceElems a x acc
      let here := els.take (4 * n)
      let ws := s.sliceWrites c b op els here here
      let t := (s.softAreas a b (slotReads bf (bandWrites bf els) here)).bayApply c b false ws
      (aborted t (ws.flatMap fun w => granuleList (bayBase c b + w.off) w.size), writesFlags ws)

/-- Error correction of what row i of a TST or TLD beside its granules reads and writes: the scales of an E2M1-blocked bay, words
that a converting store covers only in part (spec/02 R97, R98). -/
def State.sliceEcc (s : State) (a : Nat) (op : TileOp) (x : Slice) (i : Nat) : M Unit :=
  match x.bay with
  | none => .ok ()
  | some b =>
    let bf := s.bfmt (clusterOf a) b
    match op.work with
    | .tld _ _ => s.eccAreas a b (x.scales bf i)
    | .tst acc _ =>
      if field bf 0 4 ≤ 1 then .ok ()
      else do
        let els := s.sliceElems a x acc.toNat
        let here := (els.drop (4 * i)).take 4
        s.eccAreas a b (slotReads bf (bandWrites bf els) here)
        s.eccWrites a b (s.sliceWrites (clusterOf a) b op els here els)
    | _ => .ok ()

/-- The first row of a TLD or TST with a beat that fails. -/
def State.sliceFailure (s : State) (a : Nat) (op : TileOp) (x : Slice) (k : Access) : Option (Nat × Cause × W64) :=
  (List.range 32).findSome? fun i =>
    (failOf (do
      s.tileBeats a op.ctx k (x.granules i)
      s.sliceEcc a op x i)).map fun f => (i, f.1, f.2)

/-- The corrected errors that the first n rows of a TLD find (spec/02 R96). -/
def State.sliceSoft (s : State) (a : Nat) (x : Slice) (n : Nat) : State :=
  let s := s.softGranules a ((List.range n).flatMap x.granules).eraseDups
  match x.bay with
  | some b => s.softAreas a b ((List.range n).flatMap (x.scales (s.bfmt (clusterOf a) b))).eraseDups
  | none => s

/-- The circle number in fixed point, by Machin's formula: n terms of the arc tangent of 1 / m. -/
def arcTanInv (m : Nat) : Nat → Nat → Nat → Int → Int
  | 0, _, _, acc => acc
  | n + 1, k, t, acc =>
    arcTanInv m n (k + 1) (t / (m * m)) (if k % 2 = 0 then acc + t / (2 * k + 1) else acc - t / (2 * k + 1))

/-- π in fixed point. -/
def piFix : Nat :=
  (16 * arcTanInv 5 100 0 (2 ^ fixBits / 5) 0 - 4 * arcTanInv 239 40 0 (2 ^ fixBits / 239) 0).toNat

/-- √(2/π) in fixed point. -/
def sqrtTwoOverPi : Nat := isqrt (2 * 2 ^ (3 * fixBits) / piFix)

/-- 1 / (1 + e^(−z)) as a numerator, the rest of one, and a denominator, for z of magnitude n / d below 220. -/
def sigmoid (neg : Bool) (n d : Nat) : Nat × Nat × Nat :=
  let y := squareTimes 8 (expSeries (n * 2 ^ fixBits / d / 2 ^ 8) 64 1 (2 ^ fixBits) (2 ^ fixBits))
  if neg then (2 ^ fixBits, y, y + 2 ^ fixBits) else (y, 2 ^ fixBits, y + 2 ^ fixBits)

/-- The argument of the logistic function that GELU is x times of: 2√(2/π)(x + 0.044715x³), as a fraction. -/
def geluArg (s : Bool) (n d : Nat) : Int × Nat :=
  let p : Int := signedNum s n * (d * d * 1000000 + 44715 * n * n)
  (2 * sqrtTwoOverPi * p, 2 ^ fixBits * d * d * d * 1000000)

/-- A magnitude is 220 or more, where the logistic function differs from 0 or 1 by less than any rounding shows. -/
def farOut (n d : Nat) : Bool := 220 * d ≤ n

/-- x times the logistic function of an argument. -/
def gated (s : Bool) (n d : Nat) (arg : Int × Nat) : Val :=
  if n = 0 then .zero s
  else if farOut arg.1.natAbs arg.2 then (if s then .fin true 1 (2 ^ 1000) else .fin false (n * (2 ^ 300 - 1)) (d * 2 ^ 300))
  else
    let (a, _, b) := sigmoid s arg.1.natAbs arg.2
    .fin s (n * a) (d * b)

/-- The function of TACT (R382). -/
def actFn (fn : Nat) (x : Val) : Val :=
  match x with
  | .nan => .nan
  | .inf s => if !s then .inf false else if fn = 0 then .zero false else .zero true
  | .fin s n d =>
    if fn = 0 then (if s || n = 0 then .zero false else x)
    else gated s n d (if fn = 1 then geluArg s n d else (signedNum s n, d))

/-- The derivative of the function of TACT (spec/14 R405). -/
def actDeriv (fn : Nat) (x : Val) : Val :=
  match x with
  | .nan => .nan
  | .inf s => if s then .zero false else .ofInt 1
  | .fin s n d =>
    if fn = 0 then (if s || n = 0 then .zero false else .ofInt 1)
    else
      let (p, q) := if fn = 1 then geluArg s n d else (signedNum s n, d)
      if farOut p.natAbs q then (if s then .fin true 1 (2 ^ 1000) else .fin false (2 ^ 300 + 1) (2 ^ 300))
      else
        let (a, r, b) := sigmoid s p.natAbs q
        -- x times the derivative of the argument
        let (u, v) : Int × Nat :=
          if fn = 1 then
            (2 * sqrtTwoOverPi * signedNum s n * (d * d * 1000000 + 134145 * n * n), 2 ^ fixBits * d * d * d * 1000000)
          else (signedNum s n, d)
        let (y, z) := addFrac a b (a * r * u) (b * b * v)
        .fin (y < 0) y.natAbs z

/-- TACT on a whole accumulator (R382). -/
def Core.tact (c : Core) (acc fn : Nat) : Core :=
  c.setAcc acc ((vget c.acc acc (Vector.replicate 128 0)).map fun x => f32Code (actFn fn (Fmt.f32.decode x.toNat)))

/-- The payload of a TACT: the input slice (spec/14 R399). -/
def Core.accBytes (c : Core) (acc : Nat) : Nat :=
  packParts 4 ((vget c.acc acc (Vector.replicate 128 0)).toList.map BitVec.toNat)

/-! ## The queue (R368) -/

/-- The head of core a's queue can execute: a TMMA when it stands at every member's head. -/
def State.tileReady (s : State) (a : Nat) : Bool :=
  match s.tileHead a with
  | some op =>
    match op.work with
    | .tmma _ _ _ _ _ _ _ _ _ => (s.tmmaHeads a).isSome
    | _ => true
  | none => false

/-- The head of core a's queue would meet a beat that fails. -/
def State.tileFails (s : State) (a : Nat) : Bool :=
  match s.tileHead a with
  | some op =>
    match op.work with
    | .tmma _ _ _ _ _ _ _ _ _ =>
      match s.tmmaHeads a with
      | some hs => (s.tmmaFailure hs).isSome
      | none => false
    | .tld _ p =>
      match s.sliceOf a p with
      | some x => (s.sliceFailure a op x .load).isSome
      | none => false
    | .tst _ p =>
      match s.sliceOf a p with
      | some x => (s.sliceFailure a op x .engine).isSome
      | none => false
    | _ => false
  | none => false

/-- The record of an accumulator instruction (R467). -/
def accRecord (kind acc : Nat) : Record := { Record.blank kind with acc := acc }

/-- The tile instruction at the head of core a's queue completes, when it can and no beat of it fails. -/
def State.headComplete (s : State) (a : Nat) : State :=
  if !s.tileReady a || s.tileFails a then s
  else
    match s.tileHead a with
    | none => s
    | some op =>
      match op.work with
      | .tmma _ _ _ _ _ _ _ _ _ =>
        match s.tmmaHeads a with
        | some hs => s.tmmaComplete hs
        | none => s
      | .tzero acc =>
        (((s.tilePop a).tileBusy a 1).modCore a fun c => c.zeroAcc acc.toNat 32).tileRecord a op (accRecord 1 acc.toNat) 0
      | .tld acc p =>
        let t := s.tilePop a
        match s.sliceOf a p with
        | some x =>
          (((t.sliceSoft a x 32).tileBusy a 32).modCore a (s.sliceFill a acc.toNat x 32)).tileRecord a op
            { accRecord 2 acc.toNat with pa := p, fa := field (s.bfmtOf a p) 0 4 } 0
        | none => t
      | .tst acc p =>
        match s.sliceOf a p with
        | some x =>
          let (t, g) := s.sliceStore a op x acc.toNat 32
          (((t.tilePop a).tileBusy a 32).modCore a fun c => c.raise g).tileRecord a op
            { accRecord 3 acc.toNat with pa := p, fa := field (s.bfmtOf a p) 0 4 } 0
        | none => s.tilePop a
      | .tact acc fn f =>
        (((s.tilePop a).tileBusy a 16).modCore a fun c => c.tact acc.toNat fn.toNat).tileRecord a op
          { accRecord 4 acc.toNat with fn := fn.toNat, sa := f, x := 512 * b2n f }
          (if f then (s.core a).accBytes acc.toNat else 0)

/-- A failing beat stops the tile instruction at the head of core a's queue (R385). -/
def State.tileStop (s : State) (a : Nat) : State :=
  match s.tileHead a with
  | none => s
  | some op =>
    match op.work with
    | .tmma _ _ _ _ _ _ _ _ _ =>
      match s.tmmaHeads a with
      | some hs =>
        match s.tmmaFailure hs with
        | some (g, m, cause, v) => s.tmmaStop hs g m cause v
        | none => s
      | none => s
    | .tld acc p =>
      match s.sliceOf a p with
      | some x =>
        match s.sliceFailure a op x .load with
        | some (i, cause, v) =>
          let t := ((s.sliceSoft a x i).tileBusy a i).modCore a (s.sliceFill a acc.toNat x i)
          (t.tileDiscard a).deferFor a op.ctx cause v i
        | none => s
      | none => s
    | .tst acc p =>
      match s.sliceOf a p with
      | some x =>
        match s.sliceFailure a op x .engine with
        | some (i, cause, v) =>
          let (t, g) := s.sliceStore a op x acc.toNat i
          (((t.tileBusy a i).tileDiscard a).modCore a fun c => c.raise g).deferFor a op.ctx cause v i
        | none => s
      | none => s
    | _ => s

/-! ## Forced eviction (R384) -/

/-- What TMMA members compare at the join (R377). -/
def tmmaKey (c : Core) (kc ta tb z ra rb : Nat) : List Nat :=
  [kc, ta, tb, z, ra, rb, field c.atp 63 1, if bit c.atp 63 then field c.atp 32 4 else 0, field c.gcfg 32 2]

/-- A forced eviction of core a stops the array: the group's TMMA at a k-group boundary, once for the whole group, and any other
instruction that runs completes (R384); one that fails stops as it would without the eviction (R385). -/
def State.tileHalt (s : State) (a : Nat) : State :=
  if !s.tileReady a then s
  else
    match s.tmmaHead a with
    | none => if s.tileFails a then s.tileStop a else s.headComplete a
    | some _ =>
      match s.tmmaHeads a with
      | some hs =>
        if (hs.head?.map (·.agent)) ≠ some a then s
        else if (s.tmmaFailure hs).any fun f => f.1 = (s.core a).firstGroup then s.tileStop a
        else s.tmmaPause hs
      | none => s

/-- A core's wait for its tile group abandoned by a forced eviction. A TMMA that it issued again keeps the log entry that it holds
(spec/14 R397); one that waits at its first issue gives its entry back and reserves afresh. -/
def Core.quitJoin (c : Core) : Core :=
  match c.join, c.reissue with
  | some j, op :: _ => if j.kind = 1 && j.entry = op.entry then { c with join := none } else c.dropJoin
  | _, _ => c.dropJoin

/-- A queue taken into the image of a core: its instructions are issued again on resumption (R384). -/
def Core.requeue (c : Core) : Core := { c with tileq := [], reissue := c.tileq ++ c.reissue }

/-- Core a can issue the next of its instructions again. -/
def State.reissuable (s : State) (a : Nat) : Bool :=
  let c := s.core a
  c.reissue ≠ [] && match c.join with
    | some j => j.result.isSome
    | none => true

/-- Core a issues the next of its instructions again: a TMMA joins as R377 has it, with the log entry that it holds (spec/14 R397).
The checks of its issue are those that every beat makes again (R29, log entry 97). -/
def State.reissueNext (s : State) (a : Nat) : State :=
  let c := s.core a
  let push (op : TileOp) (c : Core) : Core := { c with tileq := c.tileq ++ [op], reissue := c.reissue.tail, join := none }
  match c.reissue with
  | [] => s
  | op :: _ =>
    match op.work, c.join with
    | .tmma _ _ kc tb ta _ z sa sb, none =>
      s.joinArrive a
        ⟨1, tmmaKey c kc.toNat (b2n ta) (b2n tb) (b2n z) (b2n sa) (b2n sb), s.tick, none, op.entry, none, 0, (op.fa, op.fb)⟩
    | .tmma _ _ _ _ _ _ _ _ _, some j =>
      match j.result with
      | none => s
      | some 0 => s.modCore a (push op)
      | some m => s.reissueTrap a .gangMismatch (w64 m)
    | _, _ => s.modCore a (push op)

/-- Core a issues a tile instruction again, or the one at the head of its queue completes. -/
def State.tileComplete (s : State) (a : Nat) : State := if s.reissuable a then s.reissueNext a else s.headComplete a

/-- The cores of core a's row. -/
def rowOf (a : Nat) : List Nat := tileGroup a 8

/-- The next event of core a's queue; none when it has nothing to do. -/
def State.tileNext (s : State) (a : Nat) : Option Instr :=
  if s.reissuable a then some (.tileComplete (BitVec.ofNat 22 a))
  else if s.tileReady a then
    some (if s.tileFails a then .tileFaultStop (BitVec.ofNat 22 a) else .tileComplete (BitVec.ofNat 22 a))
  else none

/-- The array of core a's row does its next piece of work. -/
def State.tileWork (s : State) (a : Nat) : State :=
  match (rowOf a).find? s.tileReady with
  | some b => if s.tileFails b then s.tileStop b else s.tileComplete b
  | none => s

/-! ## Issue (R370, R374, R380) -/

/-- A tile instruction's first checks: not in a callee without a tile gate, write-through (spec/15 R422, R370). -/
def State.tileIssue (s : State) : M State := do
  match s.me.dom with
  | e :: _ => require (s.me.depth = 0 || e.tile) .gateState 3
  | [] => pure ()
  s.writeThrough

/-- The queue of the core that moves has room (R368). -/
def State.tileRoom (s : State) : M Unit := if 4 ≤ s.me.tileq.length then stallFor (s.tileWork s.cur) .engine else .ok ()

/-- A tile instruction placed in the queue. -/
def State.tilePush (s : State) (w : TileWork) (entry : Option (W32 × Nat)) (fmts : BitVec 4 × BitVec 4 := (0, 0)) : State :=
  s.modMe fun c =>
    let op : TileOp := { work := w, fa := fmts.1, fb := fmts.2, ctx := c.ctx, seed := c.srseed.setWidth 32, ts := c.tstamp.setWidth 32, entry := entry,
                         key := if c.isOrd then some (s.runKey s.cur) else none }
    { c with tileq := c.tileq ++ [op] }

/-- The formats of the bays of a TMMA's operands as it issues (R372). -/
def State.issueFormats (s : State) (pa pb : W64) : BitVec 4 × BitVec 4 :=
  ((s.bfmtOf s.cur (pa.setWidth 32)).extractLsb' 0 4, (s.bfmtOf s.cur (pb.setWidth 32)).extractLsb' 0 4)

/-- TMMA (R371 to R379). -/
def execTmma (rs2 rs1 : BitVec 5) (kc : BitVec 2) (tb ta : BitVec 1) (acc : BitVec 2) (z : BitVec 1) (rb ra : BitVec 2)
    (s : State) : Host.Outcome State Fault Refusal :=
  issue (.tmma rs2 rs1 kc tb ta acc z rb ra) s fun _ s => do
    let pa := s.me.s (rn rs1)
    let pb := s.me.s (rn rs2)
    let key := tmmaKey s.me kc.toNat ta.toNat tb.toNat z.toNat ra.toNat rb.toNat
    let refused : Nat → Cause × W64 := fun m => (.gangMismatch, w64 m)
    let ((t, entry), fmts) ← match s.me.join with
      | some j => pure ((s, j.entry), j.fmts)
      | none => do
        let s ← s.tileIssue
        require (ra.toNat < 2 && rb.toNat < 2) .illegal 1
        s.tmmaChecks kc.toNat (ta = 1) (tb = 1) pa pb
        s.tileRoom
        let r ← s.reserve (192 * (ra.toNat + rb.toNat))
        pure (r, s.issueFormats pa pb)
    let lost := match t.me.join with
      | some j => j.fail.isSome && j.result = some 0
      | none => false
    let t ← t.joinGroup 1 key none entry refused fmts
    if lost then pure (.adv t)
    else pure (.adv (t.tilePush (.tmma (pa.setWidth 32) (pb.setWidth 32) kc (tb = 1) (ta = 1) acc (z = 1) (ra = 1) (rb = 1)) entry fmts))

/-- An accumulator instruction issued: its own checks, room, its log entry, the queue (R380). -/
def accForm (check : State → M Unit) (plen : Nat) (w : State → TileWork) (s : State) : M Fin := do
  let s ← s.tileIssue
  check s
  s.tileRoom
  let (t, entry) ← s.reserve plen
  pure (.adv (t.tilePush (w s) entry))

/-- TZERO. -/
def execTzero (c : BitVec 2) (s : State) : Host.Outcome State Fault Refusal :=
  issue (.tzero c) s fun _ s => accForm (fun _ => .ok ()) 0 (fun _ => .tzero c) s

/-- TLD (R381). -/
def execTld (rs1 : BitVec 5) (c : BitVec 2) (s : State) : Host.Outcome State Fault Refusal :=
  issue (.tld rs1 c) s fun _ s =>
    accForm (fun s => s.sliceChecks (s.me.s (rn rs1)) .load) 0 (fun s => .tld c ((s.me.s (rn rs1)).setWidth 32)) s

/-- TST (R381). -/
def execTst (rs1 : BitVec 5) (c : BitVec 2) (s : State) : Host.Outcome State Fault Refusal :=
  issue (.tst rs1 c) s fun _ s =>
    accForm (fun s => s.sliceChecks (s.me.s (rn rs1)) .store) 0 (fun s => .tst c ((s.me.s (rn rs1)).setWidth 32)) s

/-- TACT: without a saved input it may not be recorded (spec/14 R396). -/
def tactForm (fn : Nat) (f : BitVec 1) (c : BitVec 2) (s : State) : M Fin :=
  accForm (fun s => require (f = 1 || !s.me.records) .adjState 7) (512 * f.toNat) (fun _ => .tact c (BitVec.ofNat 2 fn) (f = 1)) s

/-- TACT.relu (R382). -/
def execTactRelu (f : BitVec 1) (c : BitVec 2) (s : State) : Host.Outcome State Fault Refusal :=
  issue (.tactRelu f c) s fun _ s => tactForm 0 f c s

/-- TACT.gelu (R382). -/
def execTactGelu (f : BitVec 1) (c : BitVec 2) (s : State) : Host.Outcome State Fault Refusal :=
  issue (.tactGelu f c) s fun _ s => tactForm 1 f c s

/-- TACT.silu (R382). -/
def execTactSilu (f : BitVec 1) (c : BitVec 2) (s : State) : Host.Outcome State Fault Refusal :=
  issue (.tactSilu f c) s fun _ s => tactForm 2 f c s

/-- The value of TSTAT (R383). -/
def Core.tstat (c : Core) : W64 :=
  let n := c.tileq.length
  w64 (b2n (n ≠ 0) * 2 ^ 63 + n % 8 * 2 ^ 60 + field c.atp 32 4 * 2 ^ 32 + b2n (bit c.atp 63) * 2 ^ 31
    + b2n (bit c.atp 62) * 2 ^ 30 + b2n c.tnan * 2 + b2n c.tof)

/-- TSTAT (R383). It clears what an abort could not restore, so an ordered task is write-through first (R370, spec/05 R178). -/
def execTstat (rd : BitVec 5) (s : State) : Host.Outcome State Fault Refusal :=
  issue (.tstat rd) s fun _ s => do
    let t ← s.writeThrough
    pure (.adv (t.modMe fun c => { c.setS (rn rd) c.tstat with tnan := false, tof := false }))

/-- The core that moves waits until its tile queue is empty. -/
def State.tileDrained (s : State) : M Unit := if s.me.tileq = [] then .ok () else stallFor (s.tileWork s.cur) .engine

/-- TWAIT (R383). -/
def execTwait (s : State) : Host.Outcome State Fault Refusal :=
  issue .twait s fun _ s => do
    s.tileDrained
    pure (.adv s)

/-- A tile instruction completes (R368). -/
def execTileComplete (a : BitVec 22) (s : State) : Host.Outcome State Fault Refusal := event (s.tileComplete a.toNat)

/-- An operand beat fails (R385). -/
def execTileFaultStop (a : BitVec 22) (s : State) : Host.Outcome State Fault Refusal := event (s.tileStop a.toNat)

/-- A member waits too long at a join (R378). -/
def execTileJoinTimeout (a : BitVec 22) (s : State) : Host.Outcome State Fault Refusal := event (s.joinTimeout a.toNat)

end Sys2Proof.Machine
end

