-- ==== Sys2Proof/Machine/Adjoint.lean ====
section
/-! DEFINITION. Record and reverse: majors 0x6E and 0x6F (spec/14 R390 to R410, spec/20 R467). -/

namespace Sys2Proof.Machine

/-! ## REC (R393 to R395) -/

/-- What every REC does first: write-through, then an empty tile queue, then depth 0 (R393, R392). -/
def State.recIssue (s : State) : M State := do
  let t ← s.writeThrough
  t.tileDrained
  require (t.me.depth = 0) .adjState 2
  pure t

/-- The checks of REC.ON on its segment (R394). -/
def State.segmentChecks (s : State) (base len : W64) : M Unit := do
  require (field base 0 5 = 0 && len.toNat % 32 = 0) .align 32
  require (64 ≤ len.toNat && len.toNat ≤ 32768) .bounds 0x26
  require (field base 32 32 = 0 && s.logRegion s.cur (field base 0 28) (field base 0 28 + len.toNat)) .adjState 1
  s.checkAll s.cur s.me.ctx s.me.level .store ((List.range (len.toNat / 32)).map fun i => base + w64 (32 * i))

/-- REC.ON (R394). -/
def execRecordOn (rs2 rs1 : BitVec 5) (s : State) : Host.Outcome State Fault Refusal :=
  issue (.recordOn rs2 rs1) s fun _ s => do
    let base := s.me.s (rn rs1)
    let len := s.me.s (rn rs2)
    let t ← s.recIssue
    t.segmentChecks base len
    require (!bit t.me.recm 1) .adjState 3
    pure (.adv (t.modMe fun c =>
      { c with logb := base, logp := base, logl := base + len, recm := 1 }))

/-- REC.ON.chain (R394). -/
def execRecordOnChain (rs2 rs1 : BitVec 5) (s : State) : Host.Outcome State Fault Refusal :=
  issue (.recordOnChain rs2 rs1) s fun _ s => do
    let base := s.me.s (rn rs1)
    let len := s.me.s (rn rs2)
    let t ← s.recIssue
    t.segmentChecks base len
    require (bit t.me.recm 0) .adjState 3
    require (t.logValid t.cur) .adjState 1
    let c := t.me
    let link := { Record.blank 6 with pa := c.logb.setWidth 32, pb := c.logp.setWidth 32, x := field c.logl 0 32 }
    let u := t.writeRecord t.cur c.ctx (base.setWidth 32) link 0
    pure (.adv (u.modMe fun c => { c with logb := base, logp := base + 32, logl := base + len }))

/-- REC.OFF (R395). -/
def execRecordOff (s : State) : Host.Outcome State Fault Refusal :=
  issue .recordOff s fun _ s => do
    let t ← s.recIssue
    pure (.adv (t.modMe fun c => { c with recm := setField c.recm 0 1 0 }))

/-- REC.MARK (R395). -/
def execRecordMark (rs1 : BitVec 5) (s : State) : Host.Outcome State Fault Refusal :=
  issue (.recordMark rs1) s fun _ s => do
    let v := field (s.me.s (rn rs1)) 0 12
    let t ← s.recIssue
    let (u, entry) ← t.reserve 0
    match entry with
    | some (p, _) => pure (.adv (u.writeRecord u.cur u.me.ctx p { Record.blank 5 with mark := v } 0))
    | none => pure (.adv u)

/-! ## Records read back (R407, R467) -/

/-- Only the fields that a kind uses are not zero. -/
def Record.onlyUsed (r : Record) : Bool :=
  let b := Record.blank r.kind
  let r := { r with seq := 0 }
  if r.kind = 0 then r.fn = 0 && r.mark = 0
  else if r.kind = 1 then r == { b with acc := r.acc }
  else if r.kind = 2 || r.kind = 3 then r == { b with acc := r.acc, pa := r.pa, fa := r.fa }
  else if r.kind = 4 then r == { b with acc := r.acc, sa := r.sa, fn := r.fn, x := r.x }
  else if r.kind = 5 then r == { b with mark := r.mark }
  else r == { b with pa := r.pa, pb := r.pb, x := r.x }

/-- A record is well formed (R407): `n` are its bytes. A TACT record without a payload, or of the reserved function, is not
(log entry 17). -/
def Record.wellFormed (r : Record) (n : Nat) : Bool :=
  r.kind ≤ 6 && r.bytes == n && r.onlyUsed && r.fa ≤ 9 && r.fb ≤ 9
    && (if r.kind = 0 then pairTaken r.kc r.fa r.fb && r.x == 192 * (b2n r.sa + b2n r.sb)
        else if r.kind = 4 then r.sa && r.fn != 3 && r.x == 512
        else r.kind = 6 || r.x == 0)

/-- n bytes of the log of core a at an offset, with error correction. -/
def State.logRead (s : State) (a off n : Nat) : M Nat :=
  match regionOf a off with
  | some r => do
    s.eccCheck a ⟨r, off, keyOf a off⟩ n true
    pure (s.read (keyOf a off) n)
  | none => trap .adjState 1

/-- The corrected errors that the read of n bytes of the log of core a finds (spec/02 R96). -/
def State.logSoft (s : State) (a off n : Nat) : State :=
  match regionOf a off with
  | some r => s.softRead a ⟨r, off, keyOf a off⟩ n
  | none => s

/-! ## Gradients (R401, R402) -/

/-- The gradient bay of the operand at a pointer; none for a constant. -/
def State.gradBay (s : State) (a : Nat) (p : W32) : Option Nat :=
  match bayOfPtr a (p.setWidth 64) with
  | some b =>
    let g := vget (s.cluster (clusterOf a)).gmap b 0
    if bit g 63 then some (field g 0 4) else none
  | none => none

/-- The gradient bay of an operand is valid, for its highest element index (R401). -/
def State.gradValid (s : State) (a : Nat) (p : W32) (top : Nat) : M Unit :=
  match s.gradBay a p with
  | none => .ok ()
  | some g =>
    let f := s.bayFormat (clusterOf a) g
    require (bayOfPtr a (p.setWidth 64) ≠ some g && (f = 2 || f = 3)
      && s.bayOwner (clusterOf a) g = some (s.core a).pol && (top + 1) * bayBytes f ≤ 0x8000) .adjState 5

/-- The gradient elements of an operand checked as stores without tags (R408). -/
def State.gradReach (s : State) (a : Nat) (p : W32) (idx : List Nat) : M Unit :=
  match s.gradBay a p with
  | none => .ok ()
  | some g =>
    let n := bayBytes (s.bayFormat (clusterOf a) g)
    let c := s.core a
    idx.foldlM (fun _ i => do
      let _ ← s.checkReach a c.ctx c.level (w64 (0x80000 + g * 0x8000 + i * n)) n .store
      pure ()) ()

/-- The place of gradient element i. -/
def State.gradLoc (s : State) (a g i : Nat) : Loc :=
  let n := bayBytes (s.bayFormat (clusterOf a) g)
  ⟨.bay g, 0x80000 + g * 0x8000 + i * n, bayBase (clusterOf a) g + i * n⟩

/-- A gradient element, decoded exactly. -/
def State.gradElem (s : State) (a g i : Nat) : Val :=
  let f := s.bfmt (clusterOf a) g
  (elemOf f (s.read (s.gradLoc a g i).key (bayBytes (field f 0 4)))).val

/-- A gradient element written: its beat is checked again (R29, R409), without tags (R408), then error correction; the element
has been read, with the corrected errors that this finds (spec/02 R96). In an ordered task the write aborts the readers of its
granule (spec/05 R176). -/
def State.gradPut (s : State) (a g i code : Nat) : M State := do
  let n := bayBytes (s.bayFormat (clusterOf a) g)
  let c := s.core a
  let _ ← s.checkReach a c.ctx c.level (w64 (s.gradLoc a g i).off) n .store
  s.eccCheck a (s.gradLoc a g i) n true
  let l := s.gradLoc a g i
  pure (((s.softRead a l n).put a l n code (allBytes n)).stored a [l.key / 32])

/-- GradAdd (R402). -/
def State.gradAdd (s : State) (a g i : Nat) (t : Val) : M State := do
  let f := s.bfmt (clusterOf a) g
  let old := s.gradElem a g i
  let (seed, ts) := match (s.core a).rev with
    | some r => (r.seed.toNat, r.ts.toNat)
    | none => (0, 0)
  let (code, fl) := bayCode f seed ts i { val := old.add (field f 8 3 = 3) t, int := false }
  let fl := if old.addInvalid t then fl.or FFlags.invalid else fl
  let u ← s.gradPut a g i code
  pure (u.modCore a fun c => { c with rev := c.rev.map fun r => { r with flags := r.flags ||| BitVec.ofNat 5 fl.bits } })

/-- What an adjoint has done so far, and the failure that stopped it. -/
structure Adj where
  state : State
  stop  : Option (Cause × W64)
  deriving DecidableEq, Repr

/-- One gradient operation after another, until one fails. -/
def Adj.next (x : Adj) (f : State → M State) : Adj :=
  match x.stop with
  | some _ => x
  | none =>
    match f x.state with
    | .ok t => { x with state := t }
    | .error e => { x with stop := e.trapOf }

/-- Additions into the elements of one gradient bay. -/
def Adj.adds (x : Adj) (a : Nat) (g : Option Nat) (l : List (Nat × Val)) : Adj :=
  match g with
  | none => x
  | some g => l.foldl (fun x e => x.next fun s => s.gradAdd a g e.1 e.2) x

/-! ## One member's record (R408) -/

/-- The record below LOGP of core a, where its entry begins, and its bytes. -/
structure LogEntry where
  rec_  : Record
  start : Nat
  raw   : Nat
  deriving DecidableEq, Repr

/-- The entry below LOGP (R407). -/
def State.logEntry (s : State) (a : Nat) : M LogEntry := do
  let c := s.core a
  let top := field c.logp 0 28 - 32
  let n ← s.logRead a top 32
  let r := Record.ofBytes n
  pure ⟨r, top - r.x, n⟩

/-- The element indexes of an operand of a record, by row and depth (R373, R401). -/
def State.recordIndexes (s : State) (a : Nat) (p : W32) (f : Nat) (tr : Bool) (kc : Nat) : List Nat :=
  let bf := s.underFormat a p f
  (List.range 4).flatMap fun r => (List.range (tileK kc)).map fun k => operandIndex bf p tr kc r k

/-- The highest of a list of indexes. -/
def topIndex (l : List Nat) : Nat := l.foldl max 0

/-- A Q operand's bay has been written since the record (R408). -/
def State.staleCheck (s : State) (a : Nat) (p : W32) (saved : Bool) (wg : Nat) (second : Bool) (seq : Nat) : M Unit :=
  match bayOfPtr a (p.setWidth 64) with
  | some b =>
    require (saved || field (vget (s.cluster (clusterOf a)).wgen b 0) 0 32 = wg) .adjStale (b + b2n second * 16 + seq * 2 ^ 16)
  | none => .ok ()

/-- The loads with which a Q operand is re-read (R408). -/
def State.rereadCheck (s : State) (a : Nat) (p : W32) (f : Nat) (tr saved : Bool) (kc : Nat) : M Unit :=
  if saved then .ok ()
  else do
    require (bayOfPtr a (p.setWidth 64)).isSome .polderAccess 11
    let bf := s.underFormat a p f
    s.checkAll a (s.core a).ctx (s.core a).level .load (operandGranules bf p tr kc)
    (List.range (tileK kc / 8)).forM fun g => s.operandBeats a (s.core a).ctx bf p tr kc g

/-- The checks of a TMMA record on its member (R408). -/
def State.tmmaRecordChecks (s : State) (a : Nat) (e : LogEntry) : M Unit := do
  let r := e.rec_
  s.staleCheck a r.pa r.sa r.wga false r.seq
  s.staleCheck a r.pb r.sb r.wgb true r.seq
  let ia := s.recordIndexes a r.pa r.fa r.ta r.kc
  let ib := s.recordIndexes a r.pb r.fb r.tb r.kc
  s.gradValid a r.pa (topIndex ia)
  s.gradValid a r.pb (topIndex ib)
  s.rereadCheck a r.pa r.fa r.ta r.sa r.kc
  s.rereadCheck a r.pb r.fb r.tb r.sb r.kc
  s.gradReach a r.pa ia
  s.gradReach a r.pb ib
  let _ ← s.logRead a e.start r.x
  pure ()

/-- The indexes of a TLD or TST record (R381, R401). -/
def State.sliceIndexes (s : State) (a : Nat) (r : Record) : List Nat :=
  let bf := setField (s.bfmtOf a r.pa) 0 4 r.fa
  let n := field bf 16 16
  (List.range 128).map fun e => firstIndex r.fa r.pa + e / 4 * (if n = 0 then 4 else n) + e % 4

/-! ## The adjoint of a TMMA (R404) -/

/-- Exact element values of four rows of an operand: code values times scales. -/
def rowValues (l : List TileRow) : List (List Val) :=
  l.map fun r => r.vals.zipIdx.map fun e =>
    scaledBy e.1 (r.micro.getD (e.2 / 8) (1, 1)) (r.band.getD (e.2 / 8) (1, 1))

/-- The four rows that a payload of 192 bytes holds (R399). -/
def payloadRows (n f kc : Nat) : List (List Val) :=
  let w : BitVec 1536 := BitVec.ofNat 1536 n
  (List.range 4).map fun r => (List.range (tileK kc)).map fun k =>
    let code := field w (256 * r + bayBits f * k) (bayBits f)
    let micro := if f = 7 then e3m5 (field w (1024 + 64 * r + 8 * (k / 8)) 8) else (1, 1)
    let band :=
      if f = 7 then scaleVal (field w (1280 + 16 * r) 16)
      else if f = 5 || f = 6 then scaleVal (field w 1344 16) else (1, 1)
    scaledBy (codeVal f code) micro band

/-- The four rows of an operand of a record: from the payload for S, from its bay for Q. -/
def State.recordRows (s : State) (a : Nat) (p : W32) (f kc : Nat) (tr saved : Bool) (payload : Nat) : List (List Val) :=
  if saved then payloadRows payload f kc else rowValues (s.operandRows (s.underFormat a p f) a p tr kc)

/-- A sum of products in groups of eight, each rounded to FP32, accumulated in ascending order (R404). -/
def adjDot : List Val → List Val → Nat → Val × Sticky → Val × Sticky
  | _, _, 0, x => x
  | xs, ys, n + 1, (t, st) =>
    let u := xs.take 8
    let v := ys.take 8
    let known := u.any Val.isNan || v.any Val.isNan
    let (s, o1) := roundF32 (dotSum u v)
    let (y, o2) := roundF32 (t.add false s)
    adjDot (xs.drop 8) (ys.drop 8) n (y, st.or ⟨(s.isNan && !known) || (y.isNan && !s.isNan && !t.isNan), o1 || o2⟩)

/-- What one member brings to the adjoint of a TMMA. -/
structure AdjMember where
  agent : Nat
  entry : LogEntry
  a     : List (List Val)
  b     : List (List Val)
  deriving DecidableEq, Repr

/-- What core a brings; none when its log cannot be read. -/
def State.adjMember (s : State) (a : Nat) : Option AdjMember :=
  match s.logEntry a with
  | .ok e =>
    let r := e.rec_
    let n := s.read (keyOf a e.start) r.x
    some ⟨a, e, s.recordRows a r.pa r.fa r.kc r.ta r.sa n,
          s.recordRows a r.pb r.fb r.kc r.tb r.sb (n / 2 ^ (1536 * b2n r.sa))⟩
  | .error _ => none

/-- Row i, column j of dC over the whole group. -/
def State.gradC (s : State) (ms : List AdjMember) (i j : Nat) : Val :=
  match ms[j / 4]? with
  | some m => Fmt.f32.decode ((s.core m.agent).accElem m.entry.rec_.acc i (j % 4)).toNat
  | none => .zero false

/-- AdjTmma on one member (R404): `s` is the state before the step. -/
def Adj.member (x : Adj) (s : State) (ms : List AdjMember) (m : AdjMember) (pos : Nat) : Adj :=
  let h := 4 * ms.length
  let kc := m.entry.rec_.kc
  let rowsA := ms.flatMap (·.a)
  let rowsB := ms.flatMap (·.b)
  let col := fun (rows : List (List Val)) (k : Nat) => rows.map fun r => r.getD k (.zero false)
  let dotA := (List.range 4).flatMap fun r => (List.range (tileK kc)).map fun k =>
    adjDot ((List.range h).map fun j => s.gradC ms (4 * pos + r) j) (col rowsB k) (h / 8) (.zero false, ⟨false, false⟩)
  let dotB := (List.range 4).flatMap fun c => (List.range (tileK kc)).map fun k =>
    adjDot ((List.range h).map fun i => s.gradC ms i (4 * pos + c)) (col rowsA k) (h / 8) (.zero false, ⟨false, false⟩)
  let r := m.entry.rec_
  let ga := s.gradBay m.agent r.pa
  let gb := s.gradBay m.agent r.pb
  let stick := ((if ga.isSome then dotA else []) ++ (if gb.isSome then dotB else [])).foldl (fun t e => t.or e.2) ⟨false, false⟩
  let y := x.adds m.agent ga ((s.recordIndexes m.agent r.pa r.fa r.ta kc).zip (dotA.map (·.1)))
  let z := y.adds m.agent gb ((s.recordIndexes m.agent r.pb r.fb r.tb kc).zip (dotB.map (·.1)))
  { z with state := z.state.modCore m.agent fun c => c.stick stick }

/-- A pointer register moved to another offset. -/
def atOffset (p : W64) (off : Nat) : W64 := setField p 0 28 off

/-- The trap of a walk that stops with a record partly applied (R409). -/
def partlyApplied (v : W64) : W64 := w64 (field v 0 32 + 2 ^ 62)

/-- The adjoint of a TMMA on a whole group as one step (R404). A member whose gradient beat fails keeps its LOGP and takes its
trap (R409). -/
def State.adjGroup (s : State) (g : List Nat) : State :=
  match g.mapM s.adjMember with
  | none => s
  | some ms =>
    ms.zipIdx.foldl (fun (t : State) e =>
      let m := e.1
      let x := ({ state := t, stop := none } : Adj).member s ms m e.2
      match x.stop with
      | some (c, v) =>
        x.state.modCore m.agent fun k =>
          { k with join := k.join.map fun j => { j with fail := some (c, partlyApplied v), result := some 1 } }
      | none =>
        x.state.modCore m.agent fun k =>
          let r := m.entry.rec_
          { (if r.z then k.zeroAcc r.acc (4 * ms.length) else k) with logp := atOffset k.logp m.entry.start }) s

/-! ## The other adjoints (R403, R405) -/

/-- Element e of accumulator n replaced. -/
def Core.setAccElem (c : Core) (n e : Nat) (x : W32) : Core :=
  c.setAcc n (vset (vget c.acc n (Vector.replicate 128 0)) e x)

/-- A rounding of an adjoint into element e of accumulator n, with its sticky bits (R402). -/
def Core.roundAcc (c : Core) (n e : Nat) (x : Val) (known : Bool) : Core :=
  let (y, o) := roundF32 x
  (c.setAccElem n e (f32Code y)).stick ⟨y.isNan && !known, o⟩

/-- Element e of accumulator n as a value. -/
def Core.accVal (c : Core) (n e : Nat) : Val := Fmt.f32.decode (c.accElem n (e / 4) (e % 4)).toNat

/-- The adjoint of a TLD. -/
def State.adjTld (s : State) (a : Nat) (r : Record) : Adj :=
  let c := s.core a
  let x := ({ state := s, stop := none } : Adj).adds a (s.gradBay a r.pa)
    ((s.sliceIndexes a r).zipIdx.map fun e => (e.1, c.accVal r.acc e.2))
  if x.stop.isSome then x else { x with state := x.state.modCore a fun c => c.zeroAcc r.acc 32 }

/-- The adjoint of a TST. -/
def State.adjTst (s : State) (a : Nat) (r : Record) : Adj :=
  (s.sliceIndexes a r).zipIdx.foldl (fun x e => x.next fun s =>
    match s.gradBay a r.pa with
    | none => do
      let d := (s.core a).accVal r.acc e.2
      pure (s.modCore a fun c => c.roundAcc r.acc e.2 (d.add false (.zero false)) d.isNan)
    | some g => do
      let d := (s.core a).accVal r.acc e.2
      let v := s.gradElem a g e.1
      let t ← s.gradPut a g e.1 0
      pure (t.modCore a fun c => c.roundAcc r.acc e.2 (d.add false v) (d.isNan || v.isNan))) ⟨s, none⟩

/-- The adjoint of a TACT, with its payload. -/
def State.adjTact (s : State) (a : Nat) (r : Record) (payload : Nat) : State :=
  s.modCore a fun c => (List.range 128).foldl (fun (c : Core) e =>
    let x := Fmt.f32.decode (field (BitVec.ofNat 4096 payload) (32 * e) 32)
    let d := c.accVal r.acc e
    c.roundAcc r.acc e (d.mul (actDeriv r.fn x)) (d.isNan || x.isNan)) c

/-! ## The walk (R407) -/

/-- What a record other than TMMA and LINK does: its checks, then its adjoint (R403, R408). -/
def State.adjOther (s : State) (e : LogEntry) : M State := do
  let a := s.cur
  let r := e.rec_
  let idx := s.sliceIndexes a r
  if r.kind = 2 || r.kind = 3 then do
    s.gradValid a r.pa (topIndex idx)
    s.gradReach a r.pa idx
  let payload ← s.logRead a e.start r.x
  let s := s.logSoft a e.start r.x
  let x : Adj :=
    if r.kind = 1 then ⟨s.modCore a fun c => c.zeroAcc r.acc 32, none⟩
    else if r.kind = 2 then s.adjTld a r
    else if r.kind = 3 then s.adjTst a r
    else if r.kind = 4 then ⟨s.adjTact a r payload, none⟩
    else ⟨s, none⟩
  match x.stop with
  | some (c, v) => .error (.trapAt x.state c (partlyApplied v))
  | none => pure (x.state.modMe fun c => { c with logp := atOffset c.logp e.start })

/-- What members compare at a TMMA record, and M, which each compares with its own index (R408). -/
def recordKey (r : Record) : List Nat := [r.kc, b2n r.ta, b2n r.tb, b2n r.z, b2n r.sa, b2n r.sb, r.tw, r.m]

/-- The walk of the core that moves stops: members that wait at a TMMA record take ADJ_STATE (R408). -/
def State.walkStops (s : State) : State :=
  let a := s.cur
  let t := (tileGroup a s.me.tileWidth).foldl (fun (t : State) b =>
    if t.waitsAt b 3 then t.joinEnd [b] (2 ^ columnOf a) else t) s
  t.modMe fun c => { c with rev := c.rev.map fun r => { r with ended := true } }

/-- The corrected errors that a member's reading of a TMMA record's payload and of its Q operands finds (spec/02 R96). -/
def State.recordSoft (s : State) (a : Nat) (e : LogEntry) : State :=
  let r := e.rec_
  let n := tileK r.kc / 8
  let s := s.logSoft a e.start r.x
  let s := if r.sa then s else s.softOperand a (s.underFormat a r.pa r.fa) r.pa r.ta r.kc 0 n
  if r.sb then s else s.softOperand a (s.underFormat a r.pb r.fb) r.pb r.tb r.kc 0 n

/-- A TMMA record: the member's checks, the meeting of the group, the adjoint by the last to come (R408). -/
def State.walkTmma (s : State) (e : LogEntry) : M State := do
  let a := s.cur
  let fail := failOf (s.tmmaRecordChecks a e)
  let s := s.recordSoft a e
  let t := s.joinArrive a ⟨3, recordKey e.rec_, s.tick, fail, none, none, 0, (0, 0)⟩
  match t.me.join with
  | some { result := none, .. } => stallFor t .join
  | some { result := some 0, .. } => pure (t.adjGroup (tileGroup a t.me.tileWidth))
  | _ => pure t

/-- A join at a TMMA record that has ended: the trap of R408, or on. -/
def State.walkJoined (s : State) (j : JoinReq) : M State :=
  match j.result with
  | none => stallFor s .join
  | some 0 => pure (s.modMe fun c => { c with join := none })
  | some m =>
    match j.fail with
    | some (c, v) => trap c v.toNat
    | none => trap .adjState (6 + m * 2 ^ 8)

/-- One step of the walk: the end of the log, a LINK, or one record (R407). -/
def State.walkStep (s : State) : M State := do
  let a := s.cur
  let c := s.me
  match c.join with
  | some j => s.walkJoined j
  | none =>
    if field c.logp 0 28 = field c.logb 0 28 then
      pure (s.modMe fun c => { c with recm := setField c.recm 1 1 0 }).walkStops
    else do
      let e ← s.logEntry a
      let r := e.rec_
      let top := field c.logp 0 28 - 32
      let s := s.logSoft a top 32
      if r.kind = 6 then do
        require (top = field c.logb 0 28 && r.wellFormed e.raw) .adjState 4
        let mask : W64 := 0xFFFFFFE0#64
        let t := s.modMe fun c =>
          { c with logb := r.pa.setWidth 64 &&& mask, logp := r.pb.setWidth 64 &&& mask, logl := w64 r.x &&& mask }
        require (t.logValid a) .adjState 1
        pure t
      else do
        require (field c.logb 0 28 + r.x ≤ top && r.wellFormed e.raw) .adjState 4
        let t ← if r.kind = 0 then s.walkTmma e else s.adjOther e
        match t.me.rev with
        | some v => if r.kind = 5 && v.mark && v.value.toNat = r.mark then pure t.walkStops else pure t
        | none => pure t

/-- REVERSE (R406, R407). -/
def execReverse (m : BitVec 1) (mv : BitVec 12) (z : BitVec 1) (s : State) : Host.Outcome State Fault Refusal :=
  issue (.reverse m mv z) s fun _ s => do
    match s.me.rev with
    | some r =>
      if r.ended then pure (.adv (s.modMe Core.leaveJoin))
      else do
        let t ← s.walkStep
        stallFor t .engine
    | none => do
      let t ← match s.me.join with
        | some _ => pure s
        | none => do
          require (s.me.depth = 0) .adjState 2
          require (!bit s.me.recm 0) .adjState 3
          require (s.logValid s.cur) .adjState 1
          let t ← s.writeThrough
          t.tileDrained
          pure t
      let key := [z.toNat, m.toNat, mv.toNat, field t.me.recm 1 1, field t.me.gcfg 32 2]
      let u ← t.joinGroup 2 key none none fun m => (.gangMismatch, w64 m)
      stallFor (u.modMe fun c =>
        { c with
          acc := if !bit c.recm 1 && z = 1 then Vector.replicate 4 (Vector.replicate 128 0) else c.acc
          recm := setField c.recm 1 1 1
          rev := some { mark := m = 1, value := mv, seed := c.srseed.setWidth 32, ts := c.tstamp.setWidth 32, flags := 0,
                        ended := false } }) .engine

/-- The adjoint of one record of a core's walk is done (R404). -/
def State.adjointStep (s : State) (a : Nat) : State :=
  match (s.core a).rev with
  | some r =>
    if r.ended then s
    else
      let s' := { s with cur := a }
      let t := match s'.walkStep with
        | .ok t => t
        | .error (.stall t) => t
        | .error (.trap c v) => s'.takeTrap c v
        | .error (.trapAt t c v) => t.takeTrap c v
      { t with cur := s.cur }
  | none => s

/-- ADJOINT_STEP_DONE. -/
def execAdjointStepDone (a : BitVec 22) (s : State) : Host.Outcome State Fault Refusal := event (s.adjointStep a.toNat)

end Sys2Proof.Machine
end

