-- ==== Sys2Proof/Machine/Copy.lean ====
section
/-! DEFINITION. The cluster copy engine and BCOPY (spec/11 R320 to R323). -/

namespace Sys2Proof.Machine

/-! ## Ends of a copy -/

/-- The end lies in the core's TCM or in scratch. -/
def copyable (a : Nat) (ptr : W64) : Bool :=
  match regionOf a (field ptr 0 28) with
  | some (.tcm _) | some (.bay _) => true
  | _ => false

/-- The bits of an element at an end: 8 in byte mode. -/
def endBits (conv : Bool) (f : Nat) : Nat := if conv then bayBits f else 8

/-- The bytes that n elements of some bits occupy. -/
def spanBytes (bits n : Nat) : Nat := ceilDiv (n * bits) 8

/-- A range of bytes lies in one bay, its data area, or one TCM half (R321). -/
def State.inOneUnit (s : State) (a : Nat) (ptr : W64) (n : Nat) : Bool :=
  let off := field ptr 0 28
  match regionOf a off with
  | some (.tcm _) => off % 0x2000 + n ≤ 0x2000
  | some (.bay b) => off % 0x8000 + n ≤ bayArea (s.bayFormat (clusterOf a) b)
  | _ => false

/-- The number of 32-byte granules of n bytes from an address. -/
def spanGranules (ptr : W64) (n : Nat) : Nat := if n = 0 then 0 else granules (field ptr 0 28) n

/-- A pointer moved down to its granule. -/
def granuleOf (ptr : W64) : W64 := ptr - w64 (field ptr 0 5)

/-! ## One beat (R322, R323) -/

/-- The elements that a beat moves, element k of a copy being the next: those of one source beat and one destination beat
of 16 bytes. -/
def beatLen (c : Copy) (sb db k : Nat) : Nat :=
  let left := fun (base bits : Nat) => (128 - (8 * base + k * bits) % 128) / bits
  min (c.count - k) (min (left c.src.toNat sb) (left c.dst.toNat db))

/-- Element i of a copy's source, decoded. -/
def State.sourceElem (s : State) (a : Nat) (c : Copy) (i : Nat) : Elem :=
  match regionOf a (field c.src 0 28) with
  | some (.bay b) =>
    let bits := bayBits (s.bayFormat (clusterOf a) b)
    s.bayElem (clusterOf a) b (field c.src 0 15 * 8 / bits + i)
  | _ => { val := .nan, int := false }

/-- The elements of a converting copy with their indexes within the destination bay. -/
def State.copyElems (s : State) (a : Nat) (c : Copy) : List (Nat × Elem) :=
  let bits := bayBits (s.endFormat a (c.dst.setWidth 64))
  (List.range c.count).map fun i => (field c.dst 0 15 * 8 / bits + i, s.sourceElem a c i)

/-- The check of a beat's source: a fenced bay, an uncorrectable word among the bytes and the scales that it reads (R323).
The state after it counts the corrected errors (spec/02 R96). -/
def State.sourceCheck (s : State) (a : Nat) (conv : Bool) (ptr : W64) (n : Nat) : M State := do
  let off := field ptr 0 28
  match regionOf a off with
  | some (.bay b) =>
    let areas := if conv then scaleBytes (s.bfmt (clusterOf a) b) (off % 0x8000) n else []
    s.eccCheck a ⟨.bay b, off, keyOf a off⟩ n true
    s.eccAreas a b areas
    pure ((s.softRead a ⟨.bay b, off, keyOf a off⟩ n).softAreas a b areas)
  | some r => do
    s.eccCheck a ⟨r, off, keyOf a off⟩ n true
    pure (s.softRead a ⟨r, off, keyOf a off⟩ n)
  | none => trap .polderAccess 0

/-- Of the elements of a beat into an E2M1 bay, those of the micro-blocks that the copy gives no later element: a block is written
once, when all its new values have been read (spec/03 R122). -/
def blocksDone (els here : List (Nat × Elem)) : List (Nat × Elem) :=
  let last := (els.getLast?.map (·.1)).getD 0
  let ends := here.filter fun e => e.1 % 8 = 7 || e.1 == last
  els.filter fun e => ends.any fun x => x.1 / 8 == e.1 / 8

/-- The writes of the micro-blocks that a beat completes, with the scale slot of a band before its first block (spec/03 R121). -/
def State.blocksWrites (s0 : State) (cl b : Nat) (c : Copy) (els done : List (Nat × Elem)) : List BayWrite :=
  let f := s0.bfmt cl b
  let slots := bandWrites f els
  let first := fun (q : Nat) => (els.find? fun e => bandOf f e.1 == q).map fun e => e.1 / 8
  let blocks := (done.map fun e => e.1 / 8).eraseDups
  let bands := (done.map fun e => bandOf f e.1).eraseDups.filter fun q => blocks.any fun x => first q == some x
  (slots.filter fun w => bands.any fun q => w.off == 0x7800 + 2 * q)
    ++ blocks.flatMap (s0.blockWrites cl b c.seed.toNat c.ts.toNat slots els)

/-- The elements of a copy of which k have been read that have been written: into an E2M1 bay, not those of a block still open. -/
def State.copied (s : State) (c : Copy) (k : Nat) : Nat :=
  let db := endBits c.conv (s.endFormat c.agent (c.dst.setWidth 64))
  if db = 4 then k - min k ((field c.dst 0 15 * 8 / 4 + k) % 8) else k

/-- One beat of n elements from element k: checks, then the bytes, full, and the flags. `s0` is the state before the copy
and `els` the elements of a converting copy. -/
def State.copyBeat (s s0 : State) (c : Copy) (els : List (Nat × Elem)) (k n : Nat) : M (State × FFlags) := do
  let a := c.agent
  let sb := endBits c.conv (s.endFormat a (c.src.setWidth 64))
  let db := endBits c.conv (s.endFormat a (c.dst.setWidth 64))
  let sp := c.src.setWidth 64 + w64 (k * sb / 8)
  let dp := c.dst.setWidth 64 + w64 (k * db / 8)
  let s ← s.sourceCheck a c.conv sp (ceilDiv ((k + n) * sb) 8 - k * sb / 8)
  let l ← s.engineCheck a c.ctx (granuleOf dp) 32
  let off := field dp 0 28
  if !c.conv then
    pure (s.enginePut a ⟨l.region, off, keyOf a off⟩ n (s.read (keyOf a (field sp 0 28)) n), FFlags.none)
  else
    match l.region with
    | .bay b =>
      let cl := clusterOf a
      let f := s.bfmt cl b
      let here := (els.drop k).take n
      let e2m1 := field f 0 4 = 7
      let done := if e2m1 then blocksDone els here else here
      let ws := if e2m1 then s0.blocksWrites cl b c els done else s.bayWrites cl b c.seed.toNat c.ts.toNat here
      let reads := slotReads f (if e2m1 then bandWrites f els else []) done
      s.eccAreas a b reads
      s.eccWrites a b ws
      pure ((s.softAreas a b reads).bayApply cl b true ws, writesFlags ws)
    | _ => trap .polderAccess 10

/-- How a copy ends: complete, or stopped by a cause with its value after some elements. -/
structure CopyEnd where
  state : State
  flags : FFlags
  stop  : Option (Cause × W64 × Nat)
  deriving DecidableEq, Repr

/-- The beats of a copy from element k on, in ascending order; `fuel` bounds their number. -/
def State.copyBeats (s0 : State) (c : Copy) (els : List (Nat × Elem)) : Nat → Nat → State → FFlags → CopyEnd
  | 0, _, s, g => { state := s, flags := g, stop := none }
  | fuel + 1, k, s, g =>
    if c.count ≤ k then { state := s, flags := g, stop := none }
    else
      let sb := endBits c.conv (s.endFormat c.agent (c.src.setWidth 64))
      let db := endBits c.conv (s.endFormat c.agent (c.dst.setWidth 64))
      let n := beatLen c sb db k
      match s.copyBeat s0 c els k n with
      | .ok (t, h) => s0.copyBeats c els fuel (k + n) t (g.or h)
      | .error (.trap cause v) => { state := s, flags := g, stop := some (cause, v, s0.copied c k) }
      | .error (.trapAt _ cause v) => { state := s, flags := g, stop := some (cause, v, s0.copied c k) }
      | .error (.stall _) => { state := s, flags := g, stop := none }

/-- The copy at the head of a cluster's queue carried out, if it has begun. -/
def State.copyOutcome (s : State) (cl : Nat) : Option (Copy × CopyEnd) :=
  match (s.cluster cl).copies with
  | c :: _ =>
    if c.begun then
      some (c, s.copyBeats c (if c.conv then s.copyElems c.agent c else []) c.count 0 s FFlags.none)
    else none
  | [] => none

/-- The copy at the head leaves the queue, and its flags go to its core (R114, R261). -/
def State.copyDone (s : State) (cl : Nat) (c : Copy) (g : FFlags) : State :=
  (s.modCluster cl fun k => { k with copies := k.copies.tail }).modCore c.agent fun k => k.raise g

/-- The head copy begins. -/
def State.copyStart (s : State) (cl : Nat) : State :=
  match (s.cluster cl).copies with
  | c :: t => if c.begun then s else s.modCluster cl fun k => { k with copies := { c with begun := true } :: t }
  | [] => s

/-- The head copy completes, when no beat of it fails. -/
def State.copyComplete (s : State) (cl : Nat) : State :=
  match s.copyOutcome cl with
  | some (c, e) => if e.stop.isNone then e.state.copyDone cl c e.flags else s
  | none => s

/-- The head copy stops at a failing beat, and its core takes a deferred trap (R323). An error that the beat met is detected at
once (spec/02 R99, R100). -/
def State.copyStop (s : State) (cl : Nat) : State :=
  match s.copyOutcome cl with
  | some (c, e) =>
    match e.stop with
    | some (cause, v, k) =>
      ((e.state.copyDone cl c e.flags).modCore c.agent fun x => x.defer c.ctx cause v k).detect c.agent cause v
    | none => s
  | none => s

/-- What the copy engine of a cluster does next, as an event; none when it has nothing to do. -/
def State.copyNext (s : State) (cl : Nat) : Option Instr :=
  match (s.cluster cl).copies with
  | c :: _ =>
    if !c.begun then some (.copyStart (BitVec.ofNat 15 cl))
    else
      match s.copyOutcome cl with
      | some (_, e) =>
        some (if e.stop.isNone then .copyComplete (BitVec.ofNat 15 cl) else .copyStop (BitVec.ofNat 15 cl))
      | none => none
  | [] => none

/-- The copy engine of a cluster does its next piece of work. -/
def State.copyWork (s : State) (cl : Nat) : State :=
  match s.copyNext cl with
  | some (.copyStart _) => s.copyStart cl
  | some (.copyComplete _) => s.copyComplete cl
  | some (.copyStop _) => s.copyStop cl
  | _ => s

/-! ## BCOPY -/

/-- The copies that an agent has outstanding. -/
def State.copiesOf (s : State) (a : Nat) : Nat :=
  ((s.cluster (clusterOf a)).copies.filter fun c => c.agent == a).length

/-- BCOPY (R320, R321). -/
def execBcopy (rs2 rs1 rd : BitVec 5) (p : BitVec 1) (s : State) : Host.Outcome State Fault Refusal :=
  issue (.bcopy rs2 rs1 rd p) s fun _ s => do
    let a := s.cur
    let c := s.me
    let dst := c.s (rn rd)
    let src := c.s (rn rs1)
    let n := (c.s (rn rs2)).toNat
    require (copyable a dst && copyable a src) .polderAccess 10
    let sf := s.endFormat a src
    let df := s.endFormat a dst
    let conv := 2 ≤ sf && 2 ≤ df
    if conv then do
      require (field src 0 28 % bayBytes sf = 0) .align (bayBytes sf)
      require (field dst 0 28 % bayBytes df = 0) .align (bayBytes df)
    else require (field src 0 2 = 0 && field dst 0 2 = 0 && n % 4 = 0) .align 4
    if n = 0 then pure (.adv s)
    else do
      let sn := spanBytes (endBits conv sf) n
      let dn := spanBytes (endBits conv df) n
      require (s.inOneUnit a src sn && s.inOneUnit a dst dn) .bounds 0x20
      require (!(field src 0 28 < field dst 0 28 + dn && field dst 0 28 < field src 0 28 + sn)) .bounds 0x21
      let _ ← s.checkGranules a c.ctx c.level (granuleOf src) .load true false 10 (spanGranules src sn)
      let _ ← s.checkGranules a c.ctx c.level (granuleOf dst) .engine true false 10 (spanGranules dst dn)
      require (!(df = 1 && c.level = 0)) .writeProtect 1
      let t ← s.writeThrough
      if 4 ≤ t.copiesOf a || 32 ≤ t.myCluster.copies.length then stallFor (t.copyWork (clusterOf a)) .engine
      else
        let job : Copy := { agent := a, dst := dst.setWidth 32, src := src.setWidth 32, count := n, conv := conv, ctx := c.ctx,
                            seed := c.srseed.setWidth 32, ts := c.tstamp.setWidth 32, level := BitVec.ofNat 2 c.level,
                            begun := false }
        pure (.adv (t.modMyCluster fun k => { k with copies := k.copies ++ [job] }))

end Sys2Proof.Machine
end

