-- ==== Sys2Proof/Machine/Vector.lean ====
section
/-! DEFINITION. Vector instructions: majors 0x40 to 0x55 (spec/12 R334 to R354, spec/19 R465). -/

namespace Sys2Proof.Machine

/-! ## Lanes of floating-point types (R337, R339) -/

/-- The result of an operation on values: the exact value, and whether IEEE 754 calls it invalid. -/
structure FRes where
  val     : Val
  invalid : Bool
  deriving DecidableEq, Repr

/-- A result rounded into a lane, with its flags (R337). -/
def FRes.round (x : FRes) (f : Fmt) (r : Rnd) : Nat × FFlags :=
  let (c, g) := f.round r x.val
  (c, if x.invalid then g.or FFlags.invalid else g)

/-- a + b. -/
def fadd (down : Bool) (a b : Val) : FRes := { val := a.add down b, invalid := a.addInvalid b }

/-- a × b. -/
def fmul (a b : Val) : FRes := { val := a.mul b, invalid := a.mulInvalid b }

/-- a × b + c, rounded once. -/
def ffma (down : Bool) (a b c : Val) : FRes :=
  let p := a.mul b
  { val := p.add down c, invalid := a.mulInvalid b || p.addInvalid c }

/-- The first value is below the second, with −0 below +0. -/
def fbelow (a b : Val) : Bool :=
  match a.cmp b with
  | some x => x = -1 || (x = 0 && a.sign && !b.sign)
  | none => false

/-- The lesser value; a NaN yields the other operand. -/
def fmin (a b : Val) : Val := if a.isNan then b else if b.isNan then a else if fbelow b a then b else a

/-- The greater value; a NaN yields the other operand. -/
def fmax (a b : Val) : Val := if a.isNan then b else if b.isNan then a else if fbelow a b then b else a

/-- The lane-wise operations of VARI. -/
inductive VOp where
  | add | sub | mul | min | max | abs | neg
  deriving DecidableEq, Repr

/-- An operation on floating-point values (R339). -/
def VOp.float (op : VOp) (down : Bool) (a b : Val) : FRes :=
  match op with
  | .add => fadd down a b
  | .sub => fadd down a b.neg
  | .mul => fmul a b
  | .min => { val := fmin a b, invalid := false }
  | .max => { val := fmax a b, invalid := false }
  | .abs => { val := a.abs, invalid := false }
  | .neg => { val := a.neg, invalid := false }

/-- An operation on integers, exact (R338, R339). -/
def VOp.exact (op : VOp) (a b : Int) : Int :=
  match op with
  | .add => a + b
  | .sub => a - b
  | .mul => a * b
  | .min => if a ≤ b then a else b
  | .max => if a ≤ b then b else a
  | .abs => a.natAbs
  | .neg => -a

/-- The integer operation accepts SAT (R339). -/
def VOp.takesSat : VOp → Bool
  | .min | .max => false
  | _ => true

/-- The flags of a list of lane results together. -/
def laneFlags (l : List (Nat × FFlags)) : FFlags := l.foldl (fun g e => g.or e.2) FFlags.none

/-- A vector of lane results, with their flags ORed into FCSR (R261, R337). -/
def State.laneResults (s : State) (w : Nat) (l : List (Nat × FFlags)) : State × Vec :=
  (s.modMe fun c => c.raise (laneFlags l), ofLanes w (l.map (·.1)))

/-- Lane i of a typed two-operand operation. -/
def VOp.lane (op : VOp) (t : VTy) (x : Mods) (c : Core) (i a b : Nat) : Nat × FFlags :=
  match t with
  | .fp f =>
    let r := c.rndOf x false i
    (op.float (r.mode = 3) (f.operand x.ftz a) (f.operand x.ftz b)).round f r
  | .int g w => (intResult g w x.sat (op.exact (intLane g w a) (intLane g w b)), FFlags.none)

/-- VARI (R339). -/
def vari (op : VOp) (t : BitVec 4) (srcs : List (BitVec 5)) (a b rd : BitVec 5) (x : Mods) (s : State) : M Fin := do
  let ty := vty t
  ty.accepts x op.takesSat
  vecForm srcs rd s fun s =>
    let c := s.me
    let w := ty.width
    .ok (s.laneResults w ((List.range (512 / w)).map fun i => op.lane ty x c i (lane (c.source a) w i) (lane (c.source b) w i)))

/-- VFMA, VFMS and VFNMA: ± (va × vb) ± vd (R340). -/
def vmac (np nd : Bool) (t : BitVec 4) (b a rd : BitVec 5) (x : Mods) (s : State) : M Fin := do
  let ty := vty t
  ty.accepts x false
  match ty with
  | .int _ _ => trap .illegal 1
  | .fp f =>
    vecForm [b, a] rd s fun s =>
      let c := s.me
      let w := f.bits
      .ok (s.laneResults w ((List.range (512 / w)).map fun i =>
        let r := c.rndOf x false i
        let va := f.operand x.ftz (lane (c.source a) w i)
        let vb := f.operand x.ftz (lane (c.source b) w i)
        let vd := f.operand x.ftz (lane (c.vr rd) w i)
        (ffma (r.mode = 3) (if np then va.neg else va) vb (if nd then vd.neg else vd)).round f r))

/-- VTRN (R342). -/
def vtrn (fn : Trn) (t : BitVec 4) (a rd : BitVec 5) (x : Mods) (s : State) : M Fin := do
  let ty := vty t
  ty.accepts x false
  match ty with
  | .int _ _ => trap .illegal 1
  | .fp f =>
    vecForm [a] rd s fun s =>
      let c := s.me
      let w := f.bits
      .ok (s.laneResults w ((List.range (512 / w)).map fun i =>
        let (v, g) := fn.eval (f.operand x.ftz (lane (c.source a) w i))
        let (y, h) := f.round (c.rndOf x false i) v
        (y, g.or h)))

/-- VSCL's exact value: a × 2^m (R341). -/
def scaleBy (a : Val) (m : Int) : Val :=
  match a with
  | .fin s n d => if n = 0 then .fin s n d else if 0 ≤ m then .fin s (n * 2 ^ m.toNat) d else .fin s n (d * 2 ^ (-m).toNat)
  | v => v

/-- A scale factor's exponent limited to where every result overflows or vanishes all the same. -/
def scaleExp (m : Int) : Int := clampInt m (-1000) 1000

/-- The comparison of VCMP: EQ, NE, LT, GE (R343). -/
def vcmpLane (t : VTy) (cond : Nat) (ftz : Bool) (a b : Nat) : Bool :=
  let pick (o : Option Int) : Bool :=
    match o with
    | none => cond = 1
    | some k => if cond = 0 then k = 0 else if cond = 1 then k ≠ 0 else if cond = 2 then k = -1 else k ≠ -1
  match t with
  | .fp f => pick ((f.operand ftz a).cmp (f.operand ftz b))
  | .int g w =>
    let x := intLane g w a
    let y := intLane g w b
    pick (some (if x < y then -1 else if x = y then 0 else 1))

/-- VDOT's lane (R344). -/
def vdotLane (mode sat a b d : Nat) : Nat :=
  let byte (x k : Nat) : Nat := x / 256 ^ k % 256
  let p := (List.range 4).foldl (fun (acc : Int) k =>
    acc + intLane (mode ≠ 2) 8 (byte a k) * intLane (mode = 0) 8 (byte b k)) 0
  intResult true 32 sat (toSigned 32 d + p)

/-- A mask from the bits of a list. -/
def maskOf (l : List Bool) : W64 := w64 (l.foldr (fun b n => b2n b + 2 * n) 0)

/-! ## Reductions (spec/03 R124, R347) -/

/-- A lane of a reduction: none when the mask excludes it. -/
abbrev RLane := Option (Val × Int)

/-- One level of the tree: adjacent results combined. -/
def reduceLevel (f : Nat → Val → Val → Nat × FFlags) (g : Int → Int → Int) (lvl : Nat) :
    Nat → List RLane → List RLane × FFlags
  | l, some (x, i) :: some (y, j) :: t =>
    let (c, h) := f (l * 2 ^ lvl) x y
    let (r, k) := reduceLevel f g lvl (l + 1) t
    (some (Fmt.f32.decode c, g i j) :: r, h.or k)
  | l, some x :: none :: t => let (r, k) := reduceLevel f g lvl (l + 1) t; (some x :: r, k)
  | l, none :: y :: t => let (r, k) := reduceLevel f g lvl (l + 1) t; (y :: r, k)
  | _, t => (t, FFlags.none)

/-- The levels of the tree. `f lvl lane x y` combines floating-point values, `g` integers. -/
def reduceTree (f : Nat → Nat → Val → Val → Nat × FFlags) (g : Int → Int → Int) :
    Nat → Nat → List RLane → List RLane × FFlags
  | 0, _, l => (l, FFlags.none)
  | n + 1, lvl, l =>
    let (r, k) := reduceLevel (f lvl) g lvl 0 l
    let (q, h) := reduceTree f g n (lvl + 1) r
    (q, k.or h)

/-- The result of VRED with no active lane (R347). -/
def redEmpty (op : VOp) (t : VTy) : W64 :=
  match t with
  | .fp _ => if op = .add then 0x80000000#64 else if op = .max then 0xFF800000#64 else 0x7F800000#64
  | .int g w =>
    if op = .add then 0
    else if op = .max then (if g then sext w (2 ^ (w - 1)) else 0)
    else if g then w64 (2 ^ (w - 1) - 1) else w64 (2 ^ w - 1)

/-- VRED (R347). -/
def vred (op : VOp) (t : BitVec 4) (q : BitVec 3) (a rd : BitVec 5) (x : Mods) (s : State) : M Fin := do
  let ty := vty t
  ty.accepts x false
  vecUse [a] s fun s =>
    let c := s.me
    let w := ty.width
    let n := 512 / w
    let m := c.mask q
    let ls : List RLane := (List.range n).map fun i =>
      if bit m i then
        match ty with
        | .fp f => some (f.operand x.ftz (lane (c.source a) w i), 0)
        | .int g w => some (.nan, intLane g w (lane (c.source a) w i))
      else none
    let f (lvl l : Nat) (u v : Val) : Nat × FFlags :=
      let r := c.rndOf x false ((lvl - 1) * n + l)
      (op.float (r.mode = 3) u v).round .f32 r
    let (r, g) := reduceTree f op.exact (Nat.log2 n) 1 ls
    let y : W64 :=
      match r with
      | some (v, i) :: _ =>
        match ty with
        | .fp _ => w64 (Fmt.f32.round Rnd.rne v).1
        | .int _ _ => w64 (ofInt 64 i)
      | _ => redEmpty op ty
    .ok (s.modMe fun c => (c.raise g).setS (rn rd) y)

/-! ## Conversions (R348, R465) -/

/-- One element converted between register types. Identical types copy the code, but for NaNs, for the infinities that SAT
replaces (R115) and for what FTZ flushes; two integer types follow R115 also where they are identical (log entry 89). -/
def cvtElem (src dst : VTy) (x : Mods) (r : Rnd) (code : Nat) : Nat × FFlags :=
  match src, dst with
  | .int g w, .int h v => (intResult h v x.sat (intLane g w code), FFlags.none)
  | .int g w, .fp f => f.round r (.ofInt (intLane g w code))
  | .fp f, .int h v => toIntCode (!h) v r.mode r.rb (f.operand x.ftz code)
  | .fp f, .fp e =>
    let v := f.operand x.ftz code
    if f = e && !x.ftz && !(v.isInf && r.sat) then (if v.isNan then e.nanCode else code, FFlags.none) else e.round r v

/-- VCVT's fields are those that its types accept (R336, R465). -/
def cvtAccepts (src dst : VTy) (x : Mods) : M Unit := do
  require (x.ew = 0 || ewWidth x.ew = src.width) .illegal 14
  match src, dst with
  | .int _ _, .int _ _ => require (x.rm = 6 && !x.ftz) .illegal 14
  | _, _ => pure ()

/-! ## Strided and indexed elements (R353, R354) -/

/-- The element width of an untyped instruction, in bytes. -/
def ewBytes (x : Mods) : Nat := ewWidth x.ew / 8

/-- Every element's access checked, in ascending order. -/
def State.checkElems (s : State) (n : Nat) (k : Access) : List W64 → M (List Loc)
  | [] => .ok []
  | ea :: t => do
    let c := s.me
    let l ← s.localCheck s.cur c.ctx c.level ea n k
    require l.tagged .polderAccess 8
    s.eccCheck s.cur l n (k == .load)
    s.watchStop ea n (k == .load) (k == .store)
    let r ← s.checkElems n k t
    pure (l :: r)

/-- Elements loaded from checked places. -/
def State.loadElems (s : State) (n : Nat) : List Loc → M (State × List Nat)
  | [] => .ok (s, [])
  | l :: t => do
    let (u, x) ← s.loadAt l n
    let (v, r) ← u.loadElems n t
    pure (v, x :: r)

/-- Elements stored at checked places, in ascending order, each with its address. -/
def State.storeElems (s : State) (n : Nat) : List (W64 × Loc × Nat) → M State
  | [] => .ok s
  | e :: t => do
    let u ← s.storeAt (s.heldStore e.1 n) e.2.1 n e.2.2 false
    u.storeElems n t

/-- The hits of each element's access recorded. -/
def State.noteElems (s : State) (n : Nat) (ld st : Bool) (l : List W64) : State :=
  l.foldl (fun (s : State) ea => s.watchNote ea n ld st) s

/-- Elements at a list of addresses loaded into a vector. -/
def gather (srcs : List (BitVec 5)) (rd : BitVec 5) (x : Mods) (addr : State → List W64) (s : State) : M Fin :=
  vecForm srcs rd s fun s => do
    let n := ewBytes x
    let eas := addr s
    let ls ← s.checkElems n .load eas
    let (t, xs) ← s.loadElems n ls
    pure (t.noteElems n true false eas, ofLanes (8 * n) xs)

/-- The lanes of a vector stored at a list of addresses. -/
def scatter (srcs : List (BitVec 5)) (rd : BitVec 5) (x : Mods) (addr : State → List W64) (s : State) : M Fin :=
  vecUse (srcs ++ [rd]) s fun s => do
    let n := ewBytes x
    let eas := addr s
    let ls ← s.checkElems n .store eas
    let t ← s.storeElems n (eas.zip (ls.zip (lanes (s.me.source rd) (8 * n))))
    pure (t.noteElems n false true eas)

/-- The addresses of strided elements (R353). -/
def strided (x : Mods) (imm : BitVec 12) (rs1 : BitVec 5) (s : State) : List W64 :=
  (List.range (64 / ewBytes x)).map fun i => s.me.s (rn rs1) + w64 i * imm.signExtend 64

/-- The addresses of indexed elements (R354). -/
def indexed (x : Mods) (rs2 rs1 : BitVec 5) (s : State) : List W64 :=
  (lanes (s.me.source rs2) (ewWidth x.ew)).map fun k => s.me.s (rn rs1) + w64 (k * ewBytes x)

/-- The address of VLD and VST. -/
def Core.vAddr (c : Core) (rs1 : BitVec 5) (imm : BitVec 10) : W64 := c.s (rn rs1) + (imm.signExtend 64 <<< 3)

/-- A whole-register logical operation. -/
def vlogic (f : Vec → Vec → Vec) (b a rd : BitVec 5) (x : Mods) (s : State) : M Fin := do
  require (x.ew = 0) .illegal 14
  vecForm [b, a] rd s fun s => .ok (s, f (s.me.source a) (s.me.source b))

/-- A mask operation on two masks. -/
def vmask (f : W64 → W64 → W64) (b a rd : BitVec 3) (s : State) : M Fin :=
  pure (.adv (s.modMe fun c => c.setQ rd.toNat (f (c.mask a) (c.mask b))))

/-! ## Meanings -/

/-- VLD (R349). -/
def execVld (imm : BitVec 10) (rs1 rd : BitVec 5) (p : BitVec 1) (s : State) :
    Host.Outcome State Fault Refusal :=
  issue (.vld imm rs1 rd p) s fun _ s => vecForm [] rd s fun s => s.loadItem (s.me.vAddr rs1 imm) false

/-- VLD.dec (R350). -/
def execVldDec (imm : BitVec 10) (rs1 rd : BitVec 5) (p : BitVec 1) (s : State) :
    Host.Outcome State Fault Refusal :=
  issue (.vldDec imm rs1 rd p) s fun _ s => vecForm [] rd s fun s => s.loadItem (s.me.vAddr rs1 imm) true

/-- VST (R349). -/
def execVst (imm : BitVec 10) (rs1 rd : BitVec 5) (p : BitVec 1) (s : State) :
    Host.Outcome State Fault Refusal :=
  issue (.vst imm rs1 rd p) s fun _ s =>
    vecUse [rd] s fun s => s.storeItem (s.me.vAddr rs1 imm) false (s.me.source rd)

/-- VST.cnv (R351). -/
def execVstCnv (imm : BitVec 10) (rs1 rd : BitVec 5) (p : BitVec 1) (s : State) :
    Host.Outcome State Fault Refusal :=
  issue (.vstCnv imm rs1 rd p) s fun _ s =>
    vecUse [rd] s fun s => s.storeItem (s.me.vAddr rs1 imm) true (s.me.source rd)

/-- VLDS (R353). -/
def execVlds (imm : BitVec 12) (rs1 rd : BitVec 5) (p : BitVec 1) (s : State) :
    Host.Outcome State Fault Refusal :=
  issue (.vlds imm rs1 rd p) s fun x s => gather [] rd x (strided x imm rs1) s

/-- VSTS (R353). -/
def execVsts (imm : BitVec 12) (rs1 rd : BitVec 5) (p : BitVec 1) (s : State) :
    Host.Outcome State Fault Refusal :=
  issue (.vsts imm rs1 rd p) s fun x s => scatter [] rd x (strided x imm rs1) s

/-- VGATH (R354). -/
def execVgath (rs2 rs1 rd : BitVec 5) (p : BitVec 1) (s : State) :
    Host.Outcome State Fault Refusal :=
  issue (.vgath rs2 rs1 rd p) s fun x s => gather [rs2] rd x (indexed x rs2 rs1) s

/-- VSCAT (R354). -/
def execVscat (rs2 rs1 rd : BitVec 5) (p : BitVec 1) (s : State) :
    Host.Outcome State Fault Refusal :=
  issue (.vscat rs2 rs1 rd p) s fun x s => scatter [rs2] rd x (indexed x rs2 rs1) s

/-- VADD (R339). -/
def execVadd (t : BitVec 4) (rs2 rs1 rd : BitVec 5) (p : BitVec 1) (s : State) :
    Host.Outcome State Fault Refusal :=
  issue (.vadd t rs2 rs1 rd p) s fun x s => vari .add t [rs2, rs1] rs1 rs2 rd x s

/-- VSUB (R339). -/
def execVsub (t : BitVec 4) (rs2 rs1 rd : BitVec 5) (p : BitVec 1) (s : State) :
    Host.Outcome State Fault Refusal :=
  issue (.vsub t rs2 rs1 rd p) s fun x s => vari .sub t [rs2, rs1] rs1 rs2 rd x s

/-- VMUL (R339). -/
def execVmul (t : BitVec 4) (rs2 rs1 rd : BitVec 5) (p : BitVec 1) (s : State) :
    Host.Outcome State Fault Refusal :=
  issue (.vmul t rs2 rs1 rd p) s fun x s => vari .mul t [rs2, rs1] rs1 rs2 rd x s

/-- VMIN (R339). -/
def execVmin (t : BitVec 4) (rs2 rs1 rd : BitVec 5) (p : BitVec 1) (s : State) :
    Host.Outcome State Fault Refusal :=
  issue (.vmin t rs2 rs1 rd p) s fun x s => vari .min t [rs2, rs1] rs1 rs2 rd x s

/-- VMAX (R339). -/
def execVmax (t : BitVec 4) (rs2 rs1 rd : BitVec 5) (p : BitVec 1) (s : State) :
    Host.Outcome State Fault Refusal :=
  issue (.vmax t rs2 rs1 rd p) s fun x s => vari .max t [rs2, rs1] rs1 rs2 rd x s

/-- VABS (R339). -/
def execVabs (t : BitVec 4) (rs1 rd : BitVec 5) (p : BitVec 1) (s : State) :
    Host.Outcome State Fault Refusal :=
  issue (.vabs t rs1 rd p) s fun x s => vari .abs t [rs1] rs1 rs1 rd x s

/-- VNEG (R339). -/
def execVneg (t : BitVec 4) (rs1 rd : BitVec 5) (p : BitVec 1) (s : State) :
    Host.Outcome State Fault Refusal :=
  issue (.vneg t rs1 rd p) s fun x s => vari .neg t [rs1] rs1 rs1 rd x s

/-- VFMA (R340). -/
def execVfma (t : BitVec 4) (rs2 rs1 rd : BitVec 5) (p : BitVec 1) (s : State) :
    Host.Outcome State Fault Refusal :=
  issue (.vfma t rs2 rs1 rd p) s fun x s => vmac false false t rs2 rs1 rd x s

/-- VFMS (R340). -/
def execVfms (t : BitVec 4) (rs2 rs1 rd : BitVec 5) (p : BitVec 1) (s : State) :
    Host.Outcome State Fault Refusal :=
  issue (.vfms t rs2 rs1 rd p) s fun x s => vmac false true t rs2 rs1 rd x s

/-- VFNMA (R340). -/
def execVfnma (t : BitVec 4) (rs2 rs1 rd : BitVec 5) (p : BitVec 1) (s : State) :
    Host.Outcome State Fault Refusal :=
  issue (.vfnma t rs2 rs1 rd p) s fun x s => vmac true false t rs2 rs1 rd x s

/-- VAND (R345). -/
def execVand (rs2 rs1 rd : BitVec 5) (p : BitVec 1) (s : State) :
    Host.Outcome State Fault Refusal :=
  issue (.vand rs2 rs1 rd p) s fun x s => vlogic (fun a b => a &&& b) rs2 rs1 rd x s

/-- VOR (R345). -/
def execVor (rs2 rs1 rd : BitVec 5) (p : BitVec 1) (s : State) :
    Host.Outcome State Fault Refusal :=
  issue (.vor rs2 rs1 rd p) s fun x s => vlogic (fun a b => a ||| b) rs2 rs1 rd x s

/-- VXOR (R345). -/
def execVxor (rs2 rs1 rd : BitVec 5) (p : BitVec 1) (s : State) :
    Host.Outcome State Fault Refusal :=
  issue (.vxor rs2 rs1 rd p) s fun x s => vlogic (fun a b => a ^^^ b) rs2 rs1 rd x s

/-- VANDN (R345). -/
def execVandn (rs2 rs1 rd : BitVec 5) (p : BitVec 1) (s : State) :
    Host.Outcome State Fault Refusal :=
  issue (.vandn rs2 rs1 rd p) s fun x s => vlogic (fun a b => a &&& ~~~b) rs2 rs1 rd x s

/-- VCMP (R343). -/
def execVcmp (t : BitVec 4) (c : BitVec 3) (rs2 rs1 : BitVec 5) (rd : BitVec 3) (p : BitVec 1) (s : State) :
    Host.Outcome State Fault Refusal :=
  issue (.vcmp t c rs2 rs1 rd p) s fun x s => do
    let ty := vty t
    ty.accepts x false
    vecUse [rs2, rs1] s fun s =>
      let k := s.me
      let w := ty.width
      .ok (s.modMe fun k' => k'.setQ rd.toNat (maskOf ((List.range (512 / w)).map fun i =>
        vcmpLane ty c.toNat x.ftz (lane (k.source rs1) w i) (lane (k.source rs2) w i))))

/-- VSEL (R345). -/
def execVsel (m : BitVec 3) (rs2 rs1 rd : BitVec 5) (p : BitVec 1) (s : State) :
    Host.Outcome State Fault Refusal :=
  issue (.vsel m rs2 rs1 rd p) s fun x s =>
    vecForm [rs2, rs1] rd s fun s =>
      let k := s.me
      let w := ewWidth x.ew
      .ok (s, ofLanes w ((List.range (512 / w)).map fun i =>
        if bit (k.mask m) i then lane (k.source rs1) w i else lane (k.source rs2) w i))

/-- VRED.ADD (R347). -/
def execVredAdd (t : BitVec 4) (q : BitVec 3) (rs1 rd : BitVec 5) (p : BitVec 1) (s : State) :
    Host.Outcome State Fault Refusal :=
  issue (.vredAdd t q rs1 rd p) s fun x s => vred .add t q rs1 rd x s

/-- VRED.MAX (R347). -/
def execVredMax (t : BitVec 4) (q : BitVec 3) (rs1 rd : BitVec 5) (p : BitVec 1) (s : State) :
    Host.Outcome State Fault Refusal :=
  issue (.vredMax t q rs1 rd p) s fun x s => vred .max t q rs1 rd x s

/-- VRED.MIN (R347). -/
def execVredMin (t : BitVec 4) (q : BitVec 3) (rs1 rd : BitVec 5) (p : BitVec 1) (s : State) :
    Host.Outcome State Fault Refusal :=
  issue (.vredMin t q rs1 rd p) s fun x s => vred .min t q rs1 rd x s

/-- VCVT (R348, R465). Under sto the index of an element is its number within the conversion, 0 to n - 1, whatever part it
comes from or goes to (log entry 90). -/
def execVcvt (st : BitVec 4) (part : BitVec 2) (t : BitVec 4) (rs1 rd : BitVec 5) (p : BitVec 1) (s : State) :
    Host.Outcome State Fault Refusal :=
  issue (.vcvt st part t rs1 rd p) s fun x s => do
    let src := vty st
    let dst := vty t
    cvtAccepts src dst x
    vecForm [rs1] rd s fun s =>
      let c := s.me
      let n := 512 / max src.width dst.width
      let from' := if src.width < dst.width then part.toNat * n else 0
      let at' := if dst.width < src.width then part.toNat * n else 0
      let out := (List.range n).map fun i =>
        cvtElem src dst x (c.rndOf x true i) (lane (c.source rs1) src.width (from' + i))
      let codes := out.map (·.1)
      let v := ofLanes dst.width ((List.range (512 / dst.width)).map fun i =>
        if at' ≤ i && i < at' + n then codes.getD (i - at') 0 else lane (c.vr rd) dst.width i)
      .ok (s.modMe fun c => c.raise (laneFlags out), v)

/-- VBCST (R345). -/
def execVbcst (rs1 rd : BitVec 5) (p : BitVec 1) (s : State) :
    Host.Outcome State Fault Refusal :=
  issue (.vbcst rs1 rd p) s fun x s =>
    vecForm [] rd s fun s =>
      let w := ewWidth x.ew
      .ok (s, ofLanes w (List.replicate (512 / w) (s.me.s (rn rs1)).toNat))

/-- VEXT (R345). -/
def execVext (e : BitVec 1) (rs2 rs1 rd : BitVec 5) (p : BitVec 1) (s : State) :
    Host.Outcome State Fault Refusal :=
  issue (.vext e rs2 rs1 rd p) s fun x s =>
    vecUse [rs1] s fun s =>
      let w := ewWidth x.ew
      let k := lane (s.me.source rs1) w ((s.me.s (rn rs2)).toNat % (512 / w))
      .ok (s.modMe fun c => c.setS (rn rd) (if e = 1 then sext w k else w64 k))

/-- VPERM (R345). -/
def execVperm (rs2 rs1 rd : BitVec 5) (p : BitVec 1) (s : State) :
    Host.Outcome State Fault Refusal :=
  issue (.vperm rs2 rs1 rd p) s fun x s =>
    vecForm [rs2, rs1] rd s fun s =>
      let k := s.me
      let w := ewWidth x.ew
      .ok (s, ofLanes w ((List.range (512 / w)).map fun i => lane (k.source rs1) w (lane (k.source rs2) w i % (512 / w))))

/-- VMSK.AND (R346). -/
def execVmskAnd (rs2 rs1 rd : BitVec 3) (p : BitVec 1) (s : State) :
    Host.Outcome State Fault Refusal :=
  issue (.vmskAnd rs2 rs1 rd p) s fun _ s => vmask (fun a b => a &&& b) rs2 rs1 rd s

/-- VMSK.OR (R346). -/
def execVmskOr (rs2 rs1 rd : BitVec 3) (p : BitVec 1) (s : State) :
    Host.Outcome State Fault Refusal :=
  issue (.vmskOr rs2 rs1 rd p) s fun _ s => vmask (fun a b => a ||| b) rs2 rs1 rd s

/-- VMSK.XOR (R346). -/
def execVmskXor (rs2 rs1 rd : BitVec 3) (p : BitVec 1) (s : State) :
    Host.Outcome State Fault Refusal :=
  issue (.vmskXor rs2 rs1 rd p) s fun _ s => vmask (fun a b => a ^^^ b) rs2 rs1 rd s

/-- VMSK.ANDN (R346). -/
def execVmskAndn (rs2 rs1 rd : BitVec 3) (p : BitVec 1) (s : State) :
    Host.Outcome State Fault Refusal :=
  issue (.vmskAndn rs2 rs1 rd p) s fun _ s => vmask (fun a b => a &&& ~~~b) rs2 rs1 rd s

/-- VMSK.TOS (R346). -/
def execVmskTos (rs1 : BitVec 3) (rd : BitVec 5) (p : BitVec 1) (s : State) :
    Host.Outcome State Fault Refusal :=
  issue (.vmskTos rs1 rd p) s fun _ s => pure (.adv (s.modMe fun c => c.setS (rn rd) (c.mask rs1)))

/-- VMSK.FROMS (R346). -/
def execVmskFroms (rs1 : BitVec 5) (rd : BitVec 3) (p : BitVec 1) (s : State) :
    Host.Outcome State Fault Refusal :=
  issue (.vmskFroms rs1 rd p) s fun _ s => pure (.adv (s.modMe fun c => c.setQ rd.toNat (c.s (rn rs1))))

/-- VMSK.POPC (R346). -/
def execVmskPopc (rs1 : BitVec 3) (rd : BitVec 5) (p : BitVec 1) (s : State) :
    Host.Outcome State Fault Refusal :=
  issue (.vmskPopc rs1 rd p) s fun _ s =>
    pure (.adv (s.modMe fun c => c.setS (rn rd) (w64 (popN 64 (c.mask rs1).toNat))))

/-- VMSK.FIRST (R346). -/
def execVmskFirst (rs1 : BitVec 3) (rd : BitVec 5) (p : BitVec 1) (s : State) :
    Host.Outcome State Fault Refusal :=
  issue (.vmskFirst rs1 rd p) s fun _ s =>
    pure (.adv (s.modMe fun c => c.setS (rn rd) (w64 (ctzN 64 (c.mask rs1).toNat))))

/-- VEXP2 (R342). -/
def execVexp2 (t : BitVec 4) (rs1 rd : BitVec 5) (p : BitVec 1) (s : State) :
    Host.Outcome State Fault Refusal :=
  issue (.vexp2 t rs1 rd p) s fun x s => vtrn .exp2 t rs1 rd x s

/-- VLOG2 (R342). -/
def execVlog2 (t : BitVec 4) (rs1 rd : BitVec 5) (p : BitVec 1) (s : State) :
    Host.Outcome State Fault Refusal :=
  issue (.vlog2 t rs1 rd p) s fun x s => vtrn .log2 t rs1 rd x s

/-- VRCP (R342). -/
def execVrcp (t : BitVec 4) (rs1 rd : BitVec 5) (p : BitVec 1) (s : State) :
    Host.Outcome State Fault Refusal :=
  issue (.vrcp t rs1 rd p) s fun x s => vtrn .rcp t rs1 rd x s

/-- VRSQ (R342). -/
def execVrsq (t : BitVec 4) (rs1 rd : BitVec 5) (p : BitVec 1) (s : State) :
    Host.Outcome State Fault Refusal :=
  issue (.vrsq t rs1 rd p) s fun x s => vtrn .rsq t rs1 rd x s

/-- VTANH (R342). -/
def execVtanh (t : BitVec 4) (rs1 rd : BitVec 5) (p : BitVec 1) (s : State) :
    Host.Outcome State Fault Refusal :=
  issue (.vtanh t rs1 rd p) s fun x s => vtrn .tanh t rs1 rd x s

/-- VSCL (R341). -/
def execVscl (t : BitVec 4) (rs2 rs1 rd : BitVec 5) (p : BitVec 1) (s : State) :
    Host.Outcome State Fault Refusal :=
  issue (.vscl t rs2 rs1 rd p) s fun x s => do
    let ty := vty t
    ty.accepts x false
    match ty with
    | .int _ _ => trap .illegal 1
    | .fp f =>
      vecForm [rs2, rs1] rd s fun s =>
        let c := s.me
        let w := f.bits
        .ok (s.laneResults w ((List.range (512 / w)).map fun i =>
          f.round (c.rndOf x false i) (scaleBy (f.operand x.ftz (lane (c.source rs1) w i))
            (scaleExp (toSigned w (lane (c.source rs2) w i))))))

/-- VIDX (R345). -/
def execVidx (rs2 rs1 rd : BitVec 5) (p : BitVec 1) (s : State) :
    Host.Outcome State Fault Refusal :=
  issue (.vidx rs2 rs1 rd p) s fun x s =>
    vecForm [] rd s fun s =>
      let w := ewWidth x.ew
      let k := s.me
      .ok (s, ofLanes w ((List.range (512 / w)).map fun i => (k.s (rn rs1) + w64 i * k.s (rn rs2)).toNat))

/-- VDOT (R344). -/
def execVdot (m : BitVec 2) (rs2 rs1 rd : BitVec 5) (p : BitVec 1) (s : State) :
    Host.Outcome State Fault Refusal :=
  issue (.vdot m rs2 rs1 rd p) s fun x s => do
    require (x.ew = 0) .illegal 14
    vecForm [rs2, rs1] rd s fun s =>
      let k := s.me
      .ok (s, ofLanes 32 ((List.range 16).map fun i =>
        vdotLane m.toNat x.sat (lane (k.source rs1) 32 i) (lane (k.source rs2) 32 i) (lane (k.vr rd) 32 i)))

/-- VMOV (R345). -/
def execVmov (rs1 rd : BitVec 5) (p : BitVec 1) (s : State) :
    Host.Outcome State Fault Refusal :=
  issue (.vmov rs1 rd p) s fun x s => do
    require (x.ew = 0) .illegal 14
    vecForm [rs1] rd s fun s => .ok (s, s.me.source rs1)

end Sys2Proof.Machine
end

