-- ==== Sys2Proof/Machine/Streams.lean ====
section
/-! DEFINITION. Stream-port and link instructions (spec/12 R355 to R362, spec/06 R206), and yields (R472). -/

namespace Sys2Proof.Machine

/-! ## Stream ports -/

/-- The four corner items of a pattern (R356). -/
def Port.corners (p : Port) : List Nat :=
  let a := p.count0.toNat - 1
  let b := p.count0.toNat * (p.count1.toNat - 1)
  [0, a, b, a + b]

/-- The unit of TCM or scratch that a pointer lies in: its first offset and its length; none elsewhere (R356). -/
def State.portUnit (s : State) (a : Nat) (ptr : W32) : Option (Nat × Nat) :=
  let off := field ptr 0 28
  match regionOf a off with
  | some (.tcm _) => some (off / 0x2000 * 0x2000, 0x2000)
  | some (.bay b) => some (0x80000 + b * 0x8000, bayArea (s.bayFormat (clusterOf a) b))
  | _ => none

/-- A corner item is aligned and lies in the unit of the base. -/
def Port.cornerOk (p : Port) (u : Nat × Nat) (n k : Nat) : Bool :=
  let i0 := k % p.count0.toNat
  let i1 := k / p.count0.toNat
  let off : Int := (field p.base 0 28 : Nat) + (i0 : Int) * toSigned 32 p.stride0.toNat + (i1 : Int) * toSigned 26 p.stride1.toNat
  off % (n : Int) = 0 && (u.1 : Int) ≤ off && off + n ≤ ((u.1 + u.2 : Nat) : Int)

/-- A port drained and unbound (R359). -/
def State.unbind (s : State) (i : Nat) : State :=
  (s.drainPort s.cur i).modMe fun c => c.setPort i Port.reset

/-- SBIND (R355, R356). -/
def execSbind (mode : BitVec 2) (dir : BitVec 1) (port : BitVec 2) (rs2 rs1 : BitVec 5) (stride : BitVec 26) (s : State) :
    Host.Outcome State Fault Refusal :=
  issue (.sbind mode dir port rs2 rs1 stride) s fun _ s => do
    let s ← s.writeThrough
    let c := s.me
    let base := c.s (rn rs1)
    let w := c.s (rn rs2)
    let t := s.unbind port.toNat
    let p : Port := { Port.reset with
      bound := true, out := dir = 1, mode := mode, base := base.setWidth 32, stride1 := stride
      count0 := w.extractLsb' 0 16, count1 := w.extractLsb' 16 16, stride0 := w.extractLsb' 32 32 }
    if p.count0 = 0 || p.count1 = 0 then .error (.trapAt t .streamFault 5)
    else
      match (if field base 32 32 = 0 then t.portUnit t.cur p.base else none) with
      | none => .error (.trapAt t .streamFault 1)
      | some u =>
        if p.corners.all fun k => p.cornerOk u (t.portBytes t.cur p) k then
          pure (.adv (t.modMe fun c => c.setPort port.toNat p))
        else .error (.trapAt t .streamFault 1)

/-- SUNB (R359). -/
def execSunb (port : BitVec 2) (s : State) : Host.Outcome State Fault Refusal :=
  issue (.sunb port) s fun _ s => pure (.adv (s.unbind port.toNat))

/-- What SSTAT reads (R359). -/
def Port.status (p : Port) : W64 :=
  if p.bound then
    w64 (p.done % 2 ^ 32 + p.items.length % 8 * 2 ^ 32 + b2n p.pend.isSome * 2 ^ 59 + p.mode.toNat * 2 ^ 60
      + b2n p.out * 2 ^ 62 + 2 ^ 63)
  else 0

/-- SSTAT (R359). -/
def execSstat (q : BitVec 2) (rd : BitVec 5) (p : BitVec 1) (s : State) : Host.Outcome State Fault Refusal :=
  issue (.sstat q rd p) s fun _ s => pure (.adv (s.modMe fun c => c.setS (rn rd) (c.port q.toNat).status))

/-! ## Links (R206, R361) -/

/-- The east neighbour of a core in its row's ring: its lw is the core's le. -/
def eastOf (a : Nat) : Nat := a / 8 * 8 + (a % 8 + 1) % 8

/-- A link has room for another word. -/
def State.linkRoom (s : State) : Bool := (s.core (eastOf s.cur)).lw.length < 4

/-- A word pushed into le. -/
def State.linkPush (s : State) (v : Vec) : State := s.modCore (eastOf s.cur) fun c => { c with lw := c.lw ++ [v] }

/-- LRD (R361). -/
def execLrd (f : BitVec 1) (rd : BitVec 5) (p : BitVec 1) (s : State) : Host.Outcome State Fault Refusal :=
  issue (.lrd f rd p) s fun _ s =>
    vecForm [] rd s fun s => do
      let s ← s.writeThrough
      match s.me.lw with
      | [] => stallFor s (.link true)
      | v :: rest =>
        if f = 1 && !s.linkRoom then stallFor s (.link false)
        else
          let t := s.modMe fun c => { c with lw := rest }
          pure (if f = 1 then t.linkPush v else t, v)

/-- LWR (R361). -/
def execLwr (rs1 : BitVec 5) (p : BitVec 1) (s : State) : Host.Outcome State Fault Refusal :=
  issue (.lwr rs1 p) s fun _ s =>
    vecUse [rs1] s fun s => do
      let s ← s.writeThrough
      if s.linkRoom then pure (s.linkPush (s.me.source rs1)) else stallFor s (.link false)

/-- LSTAT (R361). -/
def execLstat (rd : BitVec 5) (p : BitVec 1) (s : State) : Host.Outcome State Fault Refusal :=
  issue (.lstat rd p) s fun _ s =>
    pure (.adv (s.modMe fun c => c.setS (rn rd) (w64 (c.lw.length + (s.core (eastOf s.cur)).lw.length * 16))))

/-! ## Yield blocks (spec/06 R472) -/

/-- Bytes put one after another, each value with its size. -/
def packBytes : List (Nat × Nat) → Nat
  | [] => 0
  | (n, x) :: t => x % 2 ^ (8 * n) + 2 ^ (8 * n) * packBytes t

/-- The 1,280 bytes of a yield block; the bit of p0, which reads true, is stored as 1. -/
def Core.yieldBlock (c : Core) (pc : W32) : Nat :=
  packBytes ((List.range 7).map (fun i => (8, (vget c.g (i + 1) 0).toNat))
    ++ [(8, c.wptr.toNat), (8, c.repc.toNat), (8, c.trapc.toNat), (8, c.trappc.toNat), (8, c.trapv.toNat), (8, c.tvec.toNat),
        (4, pc.toNat), (1, (c.p ||| 1).toNat), (83, 0)]
    ++ (List.range 8).map (fun i => (8, (c.qr i).toNat)) ++ (List.range 16).map (fun i => (64, (vget c.v i 0).toNat)))

/-- The spills and the block of the task on core a fit below WSP.LIMIT. -/
def Core.yieldFits (c : Core) : Bool := areaPtr c.wsp + 192 * c.res + 1280 ≤ areaLimit c.wsp

/-- The running task of core a yields, to go on at `pc`: its state goes into a yield block, and the core is free. One that an
error met by a draining port fenced stays stopped (spec/02 R100). -/
def State.yieldTask (s : State) (a : Nat) (pc : W32) : State :=
  let c := s.core a
  let block := c.yieldBlock pc
  let s := s.closePorts a
  if (s.core a).act == .stopped then s else
  let s := s.spillFrames a c.res
  let at' := areaPtr (s.core a).wsp
  (s.tcmWrite a at' 1280 block).modCore a fun k =>
    { k.setEntry k.taskId ((k.entry k.taskId).withState 4) with
      wsp := setPtr k.wsp (at' + 1280), yields := (k.taskId, at' + 1280) :: k.yields, act := .idle, sleep := .none,
      latch := none, repc := 0, repBuf := [], repSusp := false }

/-- The registers that a block holds, restored into a core whose WSP.PTR stands at the block's end; the state then has
frame CWP filled and one resident frame. A task that yielded in a trap handler goes on in it, with a replay suspended (spec/08 R271). -/
def State.unblock (s : State) (a : Nat) : State :=
  let c := s.core a
  let at' := areaPtr c.wsp - 1280
  let b : BitVec 10240 := BitVec.ofNat 10240 (s.read (tcmBase a + at') 1280)
  let w (k : Nat) : W64 := b.extractLsb' (8 * k) 64
  let wptr := w 56
  let s := s.modCore a fun k =>
    { k with
      g := Vector.ofFn fun i => if i.val = 0 then 0 else w (8 * (i.val - 1))
      wptr := wptr, repc := w 64, trapc := w 72, trappc := w 80, trapv := w 88, tvec := w 96
      pc := b.extractLsb' 832 32, p := b.extractLsb' 864 8 &&& 0xFE#8
      q := Vector.ofFn fun i => w (192 + 8 * i.val)
      v := Vector.ofFn fun i => b.extractLsb' (8 * (256 + 64 * i.val)) 512
      wsp := setPtr k.wsp at', yields := k.yields.tail, latch := none, repBuf := []
      repSusp := bit (w 72) 30 && field (w 64) 52 12 ≠ 0 }
  (s.fillFrame a (field wptr 0 3 % 6)).modCore a fun k => { k with wptr := setWindow wptr (field wptr 0 3 % 6) 1 }

/-- What the restart of a yielded task reads of the TCM, for a WSP.PTR at its block's end: the newest frame and the block. -/
def yieldReads (p : Nat) : List (Nat × Nat) := [(p - 1472, 192), (p - 1280, 1280)]

/-- A yielded task restarted from the block that ends at WSP.PTR. An error in what it reads fences the core (spec/02 R97, R100). -/
def State.resumeYield (s : State) (a : Nat) : State :=
  let l := yieldReads (areaPtr (s.core a).wsp)
  match s.tcmChecks a l with
  | .error (.trap c v) => s.detect a c v
  | _ => (s.tcmSoft a l).unblock a

end Sys2Proof.Machine
end

