-- ==== Sys2Proof/Machine/System.lean ====
section
/-! DEFINITION. System instructions: special registers (spec/06 R198 to R200, spec/15 R412, R413), TRAP, ERET, the task
instructions (R432, R433), BRK, TRC and CNT (spec/16), and deferred traps (spec/11 R323). -/

namespace Sys2Proof.Machine

/-! ## The numbers and the access rules (R198, R413) -/

/-- A number that R413 assigns. -/
def specKnown (n : Nat) : Bool :=
  n ≤ 0x08 || (0x10 ≤ n && n ≤ 0x13) || (0x18 ≤ n && n ≤ 0x1B) || n == 0x20 || n == 0x21 || (0x28 ≤ n && n ≤ 0x2B)
    || (0x30 ≤ n && n ≤ 0x33) || n == 0x40

/-- The register exists on the kind of core of agent a. -/
def specPresent (a n : Nat) : Bool :=
  if (0x19 ≤ n && n ≤ 0x1B) || n == 0x20 || n == 0x21 || (0x28 ≤ n && n ≤ 0x2B) then isOrdinary a
  else if n = 0x40 then isHub a
  else true

/-- RDS may read the register at a level. -/
def specReadable (lvl n : Nat) : Bool :=
  if 0x30 ≤ n && n ≤ 0x33 then 1 ≤ lvl else if n = 0x40 then 2 ≤ lvl else true

/-- WRS may write the register at a level. -/
def specWritable (lvl n : Nat) : Bool :=
  if n = 0x00 || n = 0x01 || n = 0x06 || (0x28 ≤ n && n ≤ 0x2B) then true
  else if n = 0x07 || (0x10 ≤ n && n ≤ 0x13) || n = 0x20 || n = 0x21 || (0x30 ≤ n && n ≤ 0x33) then 1 ≤ lvl
  else if n = 0x40 then 2 ≤ lvl
  else false

/-- The value of a special register of core a. -/
def State.spec (s : State) (a n : Nat) : W64 :=
  let c := s.core a
  match n with
  | 0x00 => c.fcsr
  | 0x01 => c.srseed
  | 0x02 => c.tsk
  | 0x03 => c.tstamp
  | 0x04 =>
    if isOrdinary a then w64 (field c.ssn 0 32 + (s.cluster (clusterOf a)).stage.toNat * 2 ^ 32) else w64 (field c.ssn 0 32)
  | 0x05 => c.xt
  | 0x06 => c.xpc
  | 0x07 => c.syncm
  | 0x08 => c.vote
  | 0x10 => c.wptr
  | 0x11 => c.wsp
  | 0x12 => c.dsd
  | 0x13 => c.repc
  | 0x18 => c.curpol
  | 0x19 => c.gst
  | 0x1A => c.aw0
  | 0x1B => c.aw1
  | 0x20 => c.atp
  | 0x21 => c.gcfg
  | 0x28 => c.recm
  | 0x29 => c.logb
  | 0x2A => c.logl
  | 0x2B => c.logp
  | 0x30 => c.trapc
  | 0x31 => c.trappc
  | 0x32 => c.trapv
  | 0x33 => c.tvec
  | _ => s.hub.lvslope

/-! ## WSP and DSD (spec/02 R54, R55) -/

/-- A range of TCM bytes: its first byte and one past its last. -/
abbrev Range := Nat × Nat

/-- The area of WSP or DSD. -/
def areaRange (w : W64) : Range := (areaBase w, areaLimit w)

/-- The domain spill area of DSD; empty when SPV is 0. -/
def spillRange (w : W64) : Range :=
  let b := field w 56 4 * 1024
  if bit w 55 then (b, b + 1024) else (b, b)

/-- Two ranges share a byte. -/
def Range.meets (x y : Range) : Bool := Nat.max x.1 y.1 < Nat.min x.2 y.2

/-- A TCM granule, by its number, lies in a range. -/
def Range.holds (x : Range) (g : Nat) : Bool := x.1 ≤ 32 * g && 32 * g < x.2

/-- A value that R55 refuses: a live area, bad bounds, or regions that overlap. -/
def Core.areaBad (c : Core) (old wsp dsd new : W64) : Bool :=
  areaPtr old ≠ areaBase old || c.depth ≠ 0 || areaLimit new < areaBase new || 0x4000 < areaLimit new
    || areaBase new % 64 ≠ 0 || areaLimit new % 64 ≠ 0
    || (areaRange wsp).meets (areaRange dsd) || (areaRange wsp).meets (spillRange dsd) || (areaRange dsd).meets (spillRange dsd)

/-- Every byte of a range lies in TCM halves of core a that polder p owns. -/
def State.ownsRange (s : State) (a : Nat) (p : BitVec 12) (x : Range) : Bool :=
  x.2 ≤ x.1 || ((0x2000 ≤ x.1 || s.tcmOwner a false = some p) && (x.2 ≤ 0x2000 || s.tcmOwner a true = some p))

/-- Granules that change hands: those that leave are zeroed, with tag 0, and empty; those that enter are zeroed, with tag
0xF, and empty (R55, R77). -/
def State.changeAreas (s : State) (a : Nat) (old new : List Range) : State :=
  (List.range 512).foldl (fun (s : State) g =>
    let was := old.any fun x => x.holds g
    let is := new.any fun x => x.holds g
    let k := tcmBase a + 32 * g
    if was && !is then s.scrub k 32
    else if is && !was then (s.scrub k 32).setTag (k / 32) 0xF
    else s) s

/-- WSP written (R55): PTR starts at the new BASE. -/
def State.writeWsp (s : State) (a : Nat) (x : W64) : M State := do
  let c := s.core a
  let new := setPtr (x &&& 0x0000FFFFFFFF0000#64) (areaBase x)
  require (!(c.areaBad c.wsp new c.dsd new)) .illegal 4
  require (s.ownsRange a c.pol (areaRange new)) .polderAccess 2
  pure ((s.changeAreas a [areaRange c.wsp] [areaRange new]).modCore a fun c => { c with wsp := new })

/-- DSD written (R55). -/
def State.writeDsd (s : State) (a : Nat) (x : W64) : M State := do
  let c := s.core a
  let new := setPtr (x &&& 0x0F80FFFFFFFF0000#64) (areaBase x)
  require (!(c.areaBad c.dsd c.wsp new new)) .illegal 4
  require (s.ownsRange a c.pol (areaRange new) && s.ownsRange a c.pol (spillRange new)) .polderAccess 2
  pure ((s.changeAreas a [areaRange c.dsd, spillRange c.dsd] [areaRange new, spillRange new]).modCore a fun c =>
    { c with dsd := new })

/-! ## WRS -/

/-- A value of WPTR that R293 refuses. -/
def Core.wptrBad (c : Core) (x : W64) : Bool :=
  let f := field x 16 16
  field x 3 4 < 1 || 6 < field x 3 4 || 5 < field x 0 3 || f % 64 ≠ 0 || f < areaBase c.wsp || areaPtr c.wsp < f

/-- REPC written (spec/10 R294): a handler that writes a live replay leaves it suspended until its ERET. -/
def writeRepc (c : Core) (x : W64) : M Core := do
  let n := field x 52 12
  let len := if field x 32 4 = 0 then 16 else field x 32 4
  require (n = 0 || (field x 40 12 < n && field x 36 4 < len)) .illegal 1
  pure { c with repc := x, repSusp := n ≠ 0, repBuf := [] }

/-- A log pointer written (spec/14 R391). -/
def logPtr (x : W64) : M W64 := do
  require (field x 0 5 = 0) .illegal 1
  pure (x &&& 0x00000000FFFFFFE0#64)

/-- A special register of core a written, each under its own description; the access rules have passed. -/
def State.writeSpec (s : State) (a n : Nat) (x : W64) : M State := do
  let c := s.core a
  match n with
  | 0x00 => do
    require (field x 11 53 = 0 && field x 5 3 = 0 && field x 8 3 < 6) .illegal 15
    pure (s.setCore a { c with fcsr := x })
  | 0x01 => pure (s.setCore a { c with srseed := x })
  | 0x06 => pure (s.setCore a { c with xpc := x &&& 0xFFFFFFFF#64 })
  | 0x07 => pure (s.setCore a { c with syncm := x &&& 0xFFFF#64 })
  | 0x10 => do
    require (!(c.wptrBad x)) .illegal 1
    pure (s.setCore a { c with wptr := x &&& 0xFFFF007F#64 })
  | 0x11 => s.writeWsp a x
  | 0x12 => s.writeDsd a x
  | 0x13 => do
    let c ← writeRepc c x
    pure (s.setCore a c)
  | 0x20 => do
    require (field x 32 4 ≤ 8) .illegal 1
    pure (s.setCore a { c with atp := x &&& 0xC000000F00000000#64 })
  | 0x21 => do
    require (field x 32 2 ≠ 3 && 0x1000 ≤ field x 0 32 && c.tileq = []) .illegal 1
    pure (s.setCore a { c with gcfg := x &&& 0x3FFFFFFFF#64 })
  | 0x28 => do
    require (c.depth = 0) .privilege 1
    pure (s.setCore a { c with recm := x &&& 0xFFFF0003#64 })
  | 0x29 => do
    require (c.depth = 0) .privilege 1
    let x ← logPtr x
    pure (s.setCore a { c with logb := x })
  | 0x2A => do
    require (c.depth = 0) .privilege 1
    let x ← logPtr x
    pure (s.setCore a { c with logl := x })
  | 0x2B => do
    require (c.depth = 0) .privilege 1
    let x ← logPtr x
    pure (s.setCore a { c with logp := x })
  | 0x30 => pure (s.setCore a { c with trapc := x &&& 0xFFFFFFFFF00000FF#64 })
  | 0x31 => pure (s.setCore a { c with trappc := x })
  | 0x32 => pure (s.setCore a { c with trapv := x })
  | 0x33 => pure (s.setCore a { c with tvec := x })
  | 0x40 => do
    require (25 ≤ field x 0 10 && field x 0 10 ≤ 800) .illegal 1
    pure (s.modHub fun h => { h with lvslope := x &&& 0x3FF#64 })
  | _ => pure s

/-- The access rules of R412 for a write by the core that moves, then the write; an ordered task first becomes
write-through for every register but FCSR and SRSEED (spec/05 R173). -/
def State.wrs (s : State) (n : Nat) (x : W64) : M State := do
  let a := s.cur
  require (specKnown n) .illegal 1
  require (specPresent a n) .illegal 3
  require (specWritable s.me.level n) .privilege 1
  let _ ← s.writeSpec a n x
  let s ← if n ≤ 1 then pure s else s.writeThrough
  s.writeSpec a n x

/-- RDS (R412). -/
def execRds (n : BitVec 12) (rd : BitVec 5) (p : BitVec 1) (s : State) : Host.Outcome State Fault Refusal :=
  issue (.rds n rd p) s fun _ s => do
    require (specKnown n.toNat) .illegal 1
    require (specPresent s.cur n.toNat) .illegal 3
    require (specReadable s.me.level n.toNat) .privilege 2
    pure (.adv (s.modMe fun c => c.setS (rn rd) (s.spec s.cur n.toNat)))

/-- WRS (R412). -/
def execWrs (n : BitVec 12) (rs1 : BitVec 5) (p : BitVec 1) (s : State) : Host.Outcome State Fault Refusal :=
  issue (.wrs n rs1 p) s fun _ s => do
    let t ← s.wrs n.toNat (s.me.s (rn rs1))
    pure (.adv t)

/-! ## Writes and accesses that have rows of their own -/

/-- A core runs a task, an exchange routine, and nothing makes it wait. -/
def Core.awake (c : Core) : Bool := (c.act == .task || c.act == .exchange) && c.sleep == .none

/-- The core after an access that stands for one word of its program. -/
def Core.oneWord (c : Core) : Core :=
  { c.count 2 1 with latch := none, sleep := .none, farReq := none, passHit := false, pc := c.pc + 4 }

/-- An access that the core that moves makes, as the one-word instruction that its row stands for. A core that does not run
makes none (log entry 9). -/
def asWord (s : State) (f : State → M State) : Host.Outcome State Fault Refusal :=
  event (if s.me.act == .task || s.me.act == .exchange then
    match f s with
    | .ok t => t.modMe Core.oneWord
    | .error (.trap c v) => s.takeTrap c v
    | .error (.trapAt t c v) => t.takeTrap c v
    | .error (.stall t) => t
  else s)

/-- WSP_WRITE (R55): a WRS to WSP by the core that moves. -/
def execWspWrite (val : BitVec 64) (s : State) : Host.Outcome State Fault Refusal := asWord s fun s => s.wrs 0x11 val

/-- DSD_WRITE (R55). -/
def execDsdWrite (val : BitVec 64) (s : State) : Host.Outcome State Fault Refusal := asWord s fun s => s.wrs 0x12 val

/-! ## TRAP and ERET (R432, R433) -/

/-- TRAP: SOFT, with TRAPPC at the next instruction. -/
def execTrap (c : BitVec 12) (s : State) : Host.Outcome State Fault Refusal :=
  issue (.trap c) s fun _ s =>
    pure (.done ((s.modMe fun k => k.count 2 1).trapEntry s.cur .soft (w64 (0x10000 + c.toNat)) (s.me.pc + 4)))

/-- The words of a suspended block captured again, those that may be fetched (spec/08 R271). -/
def State.recapture (s : State) : State :=
  if s.me.repCount = 0 then s
  else
    let b := s.me.repBase
    let l := (List.range 48).filterMap fun i =>
      match s.fetchWord (b + BitVec.ofNat 32 (4 * i)) with
      | .ok w => some ((b + BitVec.ofNat 32 (4 * i)).toNat, w)
      | .error _ => none
    s.modMe fun c => { c with repBuf := l.foldr (fun e m => sset m e.1 e.2) [] }

/-- The core after the handler of a trap that it took with no running task (R209, spec/05 R188): it is idle again, and a gang
entry that could not start is READY again (log entry 91). -/
def Core.endVisit (c : Core) : Core :=
  let i := c.taskId
  let c := if (c.entry i).state = 3 && (c.entry i).gang && field c.tsk 16 3 = 0 then c.setEntry i ((c.entry i).withState 2) else c
  { c with act := .idle, visit := false }

/-- ERET (R220, R433). -/
def execEret (s : State) : Host.Outcome State Fault Refusal :=
  issue .eret s fun _ s => do
    let c := s.me
    let plv := field c.trapc 28 2
    require (1 ≤ c.level) .privilege 1
    require (plv ≠ 3) .illegal 7
    require (plv ≤ c.level) .privilege 2
    require (field c.trappc 0 2 = 0) .align 0x100
    let t := s.modMe fun k => { k.count 2 1 with farReq := none, passHit := false }.leaveTrap
    pure (.done (if c.visit then t.modMe Core.endVisit else t.recapture))

/-! ## Deferred traps (spec/11 R323) -/

/-- A deferred trap is due: the core is at the depth and in the polder for which it was left. -/
def Core.due (c : Core) : Option Deferred := c.deferred.find? fun d => d.depth = c.depth && d.pol == c.pol

/-- Core a takes a deferred trap, with TRAPPC at the instruction that it was about to issue. The engine has already reported
the error that it met (State.detect). -/
def State.takeDue (s : State) (a : Nat) (d : Deferred) : State :=
  (s.modCore a fun c => { c with deferred := c.deferred.erase d }).trapEntry a d.cause d.value (s.core a).pc

/-- Core a takes the deferred trap that is due; a sleeping instruction is abandoned. A core without a running task takes it too,
since it may not arrive at a barrier before it has (spec/05 R188). -/
def State.takeDeferred (s : State) (a : Nat) : State :=
  match (s.core a).due with
  | none => s
  | some d =>
    let s := s.leaveLists a
    if (s.core a).act == .idle then (s.modCore a fun c => { c with act := .task, visit := true }).takeDue a d else s.takeDue a d

/-- A deferred trap of core a is due (spec/11 R323); one waits while a join that has ended, or a sleep in the event unit that has
had its effect there, still has its effect on the core (log entry 92). -/
def State.trapDue (s : State) (a : Nat) : Bool :=
  let c := s.core a
  c.due.isSome && !(s.sleepDone a) && !(match c.join with
    | some j => j.result == some 0
    | none => false)

/-- DEFERRED_TRAP (R323). -/
def execDeferredTrap (a : BitVec 22) (s : State) : Host.Outcome State Fault Refusal :=
  let c := s.core a.toNat
  event (if s.trapDue a.toNat && (c.act == .task || c.act == .exchange || c.act == .idle) then
    s.takeDeferred a.toNat else s)

/-! ## The end of a task (R433, spec/06 R202, R209) -/

/-- Entry i returned to FREE, or to WAIT when it is kept (R202). -/
def Core.endEntry (c : Core) (i : Nat) : Core :=
  let e := c.entry i
  if e.kept then (c.setEntry i (e.withState 1)).wake else c.setEntry i 0

/-- The cores of the gang whose task core a runs, its leader first. -/
def Core.gangOf (c : Core) (a : Nat) : List Nat :=
  let w := if field c.tsk 14 2 = 0 then 8 else if field c.tsk 14 2 = 1 then 4 else 2
  (List.range w).map fun i => groupBase a w + i

/-- A member of the gang of core a still runs its task. -/
def State.gangOn (s : State) (c : Core) (a : Nat) : Bool :=
  (c.gangOf a).any fun b => (s.core b).isGang && (s.core b).act == .task && !(s.core b).visit

/-- Core a has ended its task. The entry of a gang task ends with its last member (R209). A handler that ran with no task ends
none, but for a gang entry that could not start (log entry 91). -/
def State.endTask (s : State) (a : Nat) : State :=
  let c := s.core a
  let s := s.modCore a fun c =>
    { c with
      trapc := setField c.trapc 30 1 0, act := .idle, visit := false, sleep := .none, ordered := none, gang := none, latch := none
      wsp := setPtr c.wsp c.floor, repc := 0, repBuf := [], repSusp := false }
  let l := if c.isGang then (c.gangOf a).headD a else a
  if (c.visit && ((s.core l).entry c.taskId).state ≠ 3) || (c.isGang && s.gangOn c a) then s
  else s.modCore l fun k => { k.endEntry c.taskId with stream := [], setup := k.setup.filter (· ≠ c.taskId) }

/-- The commit of a task that ends (spec/05 R175). -/
def State.commitEnd (s : State) : M State :=
  if s.me.buffered then (if s.isOldest s.cur then s.commit s.cur else stallOldest s) else .ok s

/-- TEND (R433). A core that an error met by a draining port fenced stays stopped (spec/02 R100). -/
def execTend (s : State) : Host.Outcome State Fault Refusal :=
  issue .tend s fun _ s => do
    require (s.me.depth = 0) .taskEndInGate s.me.depth
    require (!s.me.ex) .illegal 19
    let t := s.closePorts s.cur
    if t.me.act == .stopped then pure (.done t) else
    match t.me.due with
    | some d => pure (.done (t.takeDue s.cur d))
    | none => do
      let t ← t.commitEnd
      pure (.done ((t.modMe fun c => c.retire .tend).endTask s.cur))

/-- An ordered task that is not write-through aborted, and back among the ready tasks (spec/05 R177). -/
def State.yieldOrdered (s : State) (a : Nat) : State :=
  let i := (s.core a).taskId
  (s.abortTask a).modCore a fun c => { c.setEntry i ((c.entry i).withState 2) with act := .idle, ordered := none, again := nadd c.again i }

/-- YIELD (R433, spec/06 R472). At a depth above 0 nothing happens, and so an ordered task is not aborted there (log entry 107). -/
def execYield (s : State) : Host.Outcome State Fault Refusal :=
  issue .yield s fun _ s => do
    let c := s.me
    if c.isGang || c.ex || c.depth ≠ 0 || (c.isOrd && !c.buffered) then pure (.adv s)
    else if c.buffered then pure (.done ((s.modMe fun c => c.retire .yield).yieldOrdered s.cur))
    else do
      require c.yieldFits .windowSpillLimit 5
      pure (.done ((s.modMe fun c => c.retire .yield).yieldTask s.cur (c.pc + 4)))

/-! ## TSPAWN (R433) -/

/-- The entries that buffered TSPAWNs have reserved. -/
def Core.reserved (c : Core) : List Nat :=
  match c.ordered with
  | some o => o.spawns.map (·.1)
  | none => []

/-- The lowest entry that is FREE and not reserved. -/
def Core.freeEntry (c : Core) : Option Nat := firstBelow 64 fun i => (c.entry i).state = 0 && !c.reserved.contains i

/-- TSPAWN (R433, spec/05 R172). -/
def execTspawn (rs2 rs1 : BitVec 5) (rd : BitVec 3) (s : State) : Host.Outcome State Fault Refusal :=
  issue (.tspawn rs2 rs1 rd) s fun _ s => do
    let c := s.me
    let y := c.s (rn rs2)
    let e : Entry := c.s (rn rs1) ++ y
    require (field y 0 6 = 0) .illegal 2
    require (!(e.refused s.cur)) .illegal 6
    require (!(c.isOrd && e.ordered && e.ts ≤ field c.tstamp 0 32)) .orderViolation 4
    match c.freeEntry with
    | none => pure (.adv (s.modMe fun c => c.setP rd.toNat false))
    | some i =>
      match c.ordered with
      | some o =>
        if c.buffered then
          pure (.adv (s.modMe fun c => { c.setP rd.toNat true with ordered := some { o with spawns := o.spawns ++ [(i, e)] } }))
        else pure (.adv (s.modMe fun c => (c.setP rd.toNat true).addEntry i e))
      | none => pure (.adv (s.modMe fun c => (c.setP rd.toNat true).addEntry i e))

/-! ## BRK, TRC and CNT (R432, spec/16) -/

/-- A BRK code that halts its core under halt-at-hit (spec/16 R453). -/
def State.brkHalts (s : State) (code : Nat) : Bool :=
  (match s.jobOf s.cur with
   | some j => j.stand.haltAll
   | none => false)
  || s.hub.hbrk.toList.any fun h => bit h 63 && field h 0 12 == code

/-- BRK (R432, spec/16 R450, R452). -/
def execBrk (c : BitVec 12) (s : State) : Host.Outcome State Fault Refusal :=
  issue (.brk c) s fun _ s =>
    if s.haltAtHit s.cur && s.brkHalts c.toNat then .error (.stall (s.haltStand s.cur))
    else
      let t := s.trace s.cur 2 0x80 (c.toNat + s.me.pc.toNat * 2 ^ 32)
      pure (.adv (t.modMe fun k => k.count 16 1))

/-- TRC (R432, spec/16 R437). -/
def execTrc (t : BitVec 7) (rs2 rs1 : BitVec 5) (p : BitVec 1) (s : State) : Host.Outcome State Fault Refusal :=
  issue (.trc t rs2 rs1 p) s fun _ s =>
    pure (.adv (s.trace s.cur 1 t.toNat ((s.me.s (rn rs1)).toNat + field (s.me.s (rn rs2)) 0 32 * 2 ^ 64)))

/-- CNT (R432). -/
def execCnt (c : BitVec 2) (rd : BitVec 5) (p : BitVec 1) (s : State) : Host.Outcome State Fault Refusal :=
  issue (.cnt c rd p) s fun _ s => pure (.adv (s.modMe fun k => k.setS (rn rd) (vget k.ctr c.toNat 0)))

/-- An event that a core counter may count (spec/16 R446). -/
def coreEvent (n : Nat) : Bool := n ≤ 4 || n == 10 || n == 16

/-- A core counter selected anew and cleared (spec/16 R445, R446). -/
def Core.selectCounter (c : Core) (i n : Nat) : Core :=
  { c with ctrSel := vset c.ctrSel i (w64 n)
           ctr := vset c.ctr i (if coreEvent n then 0 else 0x8000000000000000#64) }

/-- CNT.sel (R432): the counter counts from the next instruction on (spec/17 R462). -/
def execCntSel (c : BitVec 2) (rs1 : BitVec 5) (p : BitVec 1) (s : State) : Host.Outcome State Fault Refusal :=
  issue (.cntSel c rs1 p) s fun _ s => do
    require (1 ≤ s.me.level) .privilege 1
    let n := field (s.me.s (rn rs1)) 0 16
    let t ← s.writeThrough
    pure (.done (t.modMe fun k => (k.retire (.cntSel c rs1 p)).selectCounter c.toNat n))

end Sys2Proof.Machine
end

