-- ==== Sys2Proof/Machine/Exchange.lean ====
section
/-! DEFINITION. The exchange phase: SEND, RSEL, SYNC and SYNCV, the flume and its guard tables (spec/15 R414 to R418,
spec/06 R205, spec/09 R290). Cycles are counted in XT, the clock that the members of a barrier group share (log entry 4). -/

namespace Sys2Proof.Machine

/-! ## Links and routes (R415) -/

/-- The number of a link: the cluster that it leaves, and its direction (0 north, 1 east, 2 south, 3 west; the express link
in a direction is 5 more). -/
def linkNo (c dir : Nat) : Nat := c * 16 + dir

/-- The cluster n places away in a direction, within the module. -/
def neighbour (c dir n : Nat) : Option Nat :=
  let x := clusterX c
  let y := clusterY c
  match dir with
  | 0 => if n ≤ y then some (clusterAt x (y - n)) else none
  | 1 => if x + n < 160 then some (clusterAt (x + n) y) else none
  | 2 => if y + n < 128 then some (clusterAt x (y + n)) else none
  | _ => if n ≤ x then some (clusterAt (x - n) y) else none

/-- The link on which a flit arrives after a move in a direction. -/
def arrivalLink (dir : Nat) : Nat := (dir + 2) % 4

/-- An express link leaves a cluster in a direction. -/
def expressAt (c dir : Nat) : Bool := if dir % 2 = 0 then clusterY c % 8 == 0 else clusterX c % 8 == 0

/-- The cycles of a hop: 6 across a die edge, else 1, or 2 for an express hop. -/
def hopCycles (c d n : Nat) : Nat := if c / 2048 ≠ d / 2048 then 6 else if n = 1 then 1 else 2

/-- Symbol i of a route. -/
def routeSym (r : BitVec 29) (i : Nat) : Nat := field r (24 - 3 * i) 3

/-- The symbols of a route up to its first eject, which is left out; none when a reserved symbol stands before it or no
symbol ejects. -/
def routeSyms (r : BitVec 29) : Option (List Nat) :=
  go ((List.range 9).map (routeSym r)) []
where
  go : List Nat → List Nat → Option (List Nat)
    | [], _ => none
    | 6 :: _, acc => some acc.reverse
    | 7 :: _, _ => none
    | x :: t, acc => go t (x :: acc)

/-- A flit on its way: the cluster that it has reached, its heading, the cycle, and the link on which it came. -/
structure Travel where
  cluster : Nat
  heading : Nat
  cycle   : Nat
  link    : Nat
  deriving DecidableEq, Repr

/-- What a hop asks of the module: the link that it enters and the cycle, and the cluster that it reaches. -/
abbrev Hop := Nat × Nat × Nat

/-- One hop of n clusters; none when the grid or the express links end. -/
def Travel.hop (t : Travel) (n : Nat) : Option (Travel × Hop) :=
  if n = 8 && !expressAt t.cluster t.heading then none
  else
    match neighbour t.cluster t.heading n with
    | none => none
    | some d =>
      let x := if n = 8 then 5 else 0
      some ({ t with cluster := d, cycle := t.cycle + hopCycles t.cluster d n, link := arrivalLink t.heading + x },
            (linkNo t.cluster (t.heading + x), t.cycle, d))

/-- n hops over mesh links. -/
def Travel.mesh (t : Travel) (acc : List Hop) : Nat → Option (Travel × List Hop)
  | 0 => some (t, acc)
  | n + 1 =>
    match t.hop 1 with
    | some (u, h) => u.mesh (acc ++ [h]) n
    | none => none

/-- The journey along a route's symbols: where the flit ejects, and its hops; none when it leaves the grid. -/
def Travel.run (t : Travel) (acc : List Hop) : List Nat → Option (Travel × List Hop)
  | [] => some (t, acc)
  | 3 :: rest =>
    match t.hop 8 with
    | some (u, h) => u.run (acc ++ [h]) rest
    | none => none
  | 4 :: rest => { t with heading := (t.heading + 3) % 4 }.run acc rest
  | 5 :: rest => { t with heading := (t.heading + 1) % 4 }.run acc rest
  | k :: rest =>
    match t.mesh acc (2 ^ k) with
    | some (u, l) => u.run l rest
    | none => none

/-- The journey of a flit that is injected in a cycle: two cycles to inject, two to eject. -/
def journey (c : Nat) (r : BitVec 29) (syms : List Nat) (cycle : Nat) : Option (Travel × List Hop) :=
  match ({ cluster := c, heading := field r 27 2, cycle := cycle + 2, link := 4 } : Travel).run [] syms with
  | some (t, l) => some ({ t with cycle := t.cycle + 2 }, l)
  | none => none

/-! ## Guard tables (R415, R416) -/

/-- A cluster that a flit of core a may enter: of its stand, and neither fenced nor retired. -/
def State.mayEnter (s : State) (a c : Nat) : Bool :=
  !s.failed 3 c && (match s.jobOf a with
    | some j => j.clusters.contains c
    | none => false)

/-- A link carries core a's flit in a cycle. -/
def State.linkGives (s : State) (a : Nat) (h : Hop) : Bool :=
  !s.failed 4 h.1 && s.hub.guards.contains (h.1, h.2.1, a) && s.mayEnter a h.2.2

/-- The core to which the ejection stage of a cluster gives a link and cycle. -/
def State.ejectCore (s : State) (c link cycle : Nat) : Option Nat :=
  ((s.cluster c).eject.find? fun e => e.1 == link && e.2.1 == cycle).map (·.2.2)

/-- Flit i of core a's SEND, as it will arrive or be dropped. -/
def State.flitOf (s : State) (a : Nat) (r : BitVec 29) (syms : List Nat) (slot i : Nat) (x : W64) : Flit :=
  match journey (clusterOf a) r syms (slot + i) with
  | some (t, l) =>
    { src := a, idx := i, cluster := t.cluster, link := BitVec.ofNat 4 t.link, cycle := t.cycle, data := x
      drop := !(l.all fun h => s.linkGives a h) || (s.ejectCore t.cluster t.link t.cycle).isNone }
  | none => { src := a, idx := i, cluster := clusterOf a, link := 0, cycle := slot + i, data := x, drop := true }

/-! ## SEND (R414) -/

/-- Flit i's 64 bits. -/
def Core.flitData (c : Core) (vs : BitVec 5) (i : Nat) : W64 :=
  let v := if i < 8 then c.source vs else c.vr (vs + 1)
  v.extractLsb' (64 * (i % 8)) 64

/-- The flits of a SEND injected, and XT moved on to the cycle before the next instruction issues. -/
def State.inject (s : State) (slot k : Nat) (vs : BitVec 5) (r : BitVec 29) (syms : List Nat) : State :=
  let a := s.cur
  let fs := (List.range k).map fun i => s.flitOf a r syms slot i (s.me.flitData vs i)
  { s with flits := s.flits ++ fs }.modMe fun c =>
    { c.consume vs with xt := w64 (min 0xFFFF (Nat.max (field c.xt 0 16) (slot + k - 1))) }

/-- The checks of SEND, and the symbols of its route. -/
def sendChecks (s : State) (slot : BitVec 11) (km1 : BitVec 4) (vs : BitVec 5) (r : BitVec 29) : M (List Nat) := do
  require (!(8 ≤ km1.toNat && vs = 15)) .illegal 8
  match routeSyms r with
  | none => trap .illegal 1
  | some syms => do
    require (!s.me.isOrd) .orderViolation 2
    require s.me.ex .slotViolation 4
    require (s.me.sleep = .engine || field s.me.xt 0 16 ≤ slot.toNat) .slotViolation 1
    pure syms

/-- SEND (R414). A SEND that issued in time waits for its slot. -/
def execSend (slot : BitVec 11) (km1 : BitVec 4) (vs : BitVec 5) (route : BitVec 29) (s : State) :
    Host.Outcome State Fault Refusal :=
  issue (.send slot km1 vs route) s fun _ s => do
    let syms ← sendChecks s slot km1 vs route
    s.sourcesReady [vs]
    if field s.me.xt 0 16 < slot.toNat then stallFor s .engine
    else pure (.adv (s.inject slot.toNat (km1.toNat + 1) vs route syms))

/-- SEND_INJECT (R414): a SEND that waits for its slot reaches it. -/
def execSendInject (a : BitVec 22) (s : State) : Host.Outcome State Fault Refusal :=
  event (
    let t := { s with cur := a.toNat }
    match t.fetchInstr with
    | .ok (.send slot km1 vs route, _, _) =>
      if t.me.act == .exchange && t.me.sleep == .engine then
        match sendChecks t slot km1 vs route with
        | .ok syms =>
          { ((t.inject slot.toNat (km1.toNat + 1) vs route syms).modMe fun c => c.retire (.send slot km1 vs route)) with
            cur := s.cur }
        | .error _ => s
      else s
    | _ => s)

/-! ## RSEL (R417) -/

/-- The selection has passed its last cycle on the core's clock. -/
def Core.passed (c : Core) (x : Sel) : Bool := x.slot + x.k - 1 < field c.xt 0 16

/-- Two selections of one link share a cycle. -/
def Sel.overlaps (x : Sel) (link : BitVec 4) (slot k : Nat) : Bool :=
  x.link == link && x.slot < slot + k && slot < x.slot + x.k

/-- The checks of R417 on the destination. -/
def rselPlace (s : State) (ptr : W64) (k : Nat) : M Unit := do
  let a := s.cur
  require (field ptr 32 32 = 0 && copyable a ptr) .polderAccess 10
  require (field ptr 0 3 = 0) .align 8
  let unit := match regionOf a (field ptr 0 28) with
    | some (.tcm _) => 0x2000
    | _ => 0x8000
  require (field ptr 0 28 % unit + 8 * k ≤ unit) .bounds 0x27
  s.checkAll a s.me.ctx s.me.level .engine
    ((List.range (granules (field ptr 0 28) (8 * k))).map fun i => ptr - w64 (field ptr 0 5) + w64 (32 * i))

/-- The armed selections of a core, oldest first: one that has passed counts until all older ones have (R417). -/
def Core.armed (c : Core) : List Sel := c.sels.dropWhile fun x => c.passed x

/-- RSEL (R417). -/
def execRsel (slot : BitVec 11) (km1 : BitVec 4) (rs1 : BitVec 5) (mcid : BitVec 5) (ce : BitVec 1) (link : BitVec 4)
    (s : State) : Host.Outcome State Fault Refusal :=
  issue (.rsel slot km1 rs1 mcid ce link) s fun _ s => do
    require (link.toNat ≤ 8) .illegal 1
    require (!s.me.isOrd) .orderViolation 2
    require s.me.ex .slotViolation 4
    require (s.me.sleep = .engine || field s.me.xt 0 16 < slot.toNat) .slotViolation 2
    let ptr := s.me.s (rn rs1)
    let k := km1.toNat + 1
    rselPlace s ptr k
    require (!(s.me.sels.any fun x => x.overlaps link slot.toNat k)) .slotViolation 5
    if 8 ≤ s.me.armed.length then stallFor s .engine
    else
      let x : Sel := { ptr := ptr.setWidth 32, k := k, slot := slot.toNat, link := link, ctx := s.me.ctx, failed := false
                       count := if ce = 1 then some mcid else none }
      pure (.adv (s.modMe fun c => { c with sels := c.sels ++ [x] }))

/-! ## Deliveries (R416, R417, spec/06 R205) -/

/-- A message counter raised; one that stands at 0xFFFF stays there and is counted. -/
def State.raiseCounter (s : State) (a : Nat) (m : BitVec 5) : State :=
  let v := vget (s.core a).mc m.toNat 0
  if v = 0xFFFF then s.softEvent a (w64 (0x100 + m.toNat))
  else s.modCore a fun c => { c with mc := vset c.mc m.toNat (v + 1) }.wake

/-- A flit dropped: its sender takes a deferred trap (R416). -/
def State.dropFlit (s : State) (f : Flit) : State :=
  { s with flits := s.flits.erase f }.deferFor f.src (s.core f.src).ctx .slotViolation (w64 (3 + f.idx % 256 * 256)) 0

/-- The core that a flit reaches. -/
def State.flitCore (s : State) (f : Flit) : Option Nat :=
  (s.ejectCore f.cluster f.link.toNat f.cycle).map (agentIn f.cluster)

/-- The armed selection of a core that takes a flit. -/
def Core.selFor (c : Core) (f : Flit) : Option Sel :=
  c.sels.find? fun x => x.link == f.link && x.slot ≤ f.cycle && f.cycle < x.slot + x.k

/-- A selection of a core replaced by one that has failed. -/
def Core.failSel (c : Core) (x : Sel) : Core := { c with sels := c.sels.map fun y => if y = x then { y with failed := true } else y }

/-- A flit written at the selection that takes it, with its two words full; a write that fails its check is discarded, and
the selection's first failure leaves a deferred trap. -/
def State.deliverTo (s : State) (f : Flit) (b : Nat) (x : Sel) : State :=
  let s := { s with flits := s.flits.erase f }
  let i := f.cycle - x.slot
  match s.engineCheck b x.ctx (x.ptr.setWidth 64 + w64 (8 * i)) 8 with
  | .ok l =>
    let s := s.enginePut b l 8 f.data.toNat
    let s := s.countCluster f.cluster 15 1 (s.baseFn b)
    match x.count with
    | some m => if i + 1 = x.k then s.raiseCounter b m else s
    | none => s
  | .error e =>
    match e.trapOf with
    | some (c, v) =>
      if x.failed then s else (s.deferFor b x.ctx c v i).modCore b fun k => k.failSel x
    | none => s

/-- A flit discarded at a core that has armed no selection for it. -/
def State.ejectUnselected (s : State) (f : Flit) (b : Nat) : State :=
  { s with flits := s.flits.erase f }.deferFor b (s.core b).ctx .slotViolation 6 0

/-- A flit's cycle has come at the core that it reaches: its clock stands there, or the core issues nothing that could still
arm a selection. -/
def State.flitDue (s : State) (f : Flit) : Bool :=
  match s.flitCore f with
  | none => false
  | some b =>
    let c := s.core b
    c.act != .exchange || f.cycle ≤ field c.xt 0 16 || !(c.sleep == .none || c.sleep == .engine)

/-- The first flit that the flume drops. -/
def State.dropNext (s : State) : Option Flit := s.flits.find? fun f => f.drop || (s.flitCore f).isNone

/-- The first flit that is due and that a selection takes, with its core and selection. -/
def State.deliverNext (s : State) : Option (Flit × Nat × Sel) :=
  s.flits.findSome? fun f =>
    if f.drop || !s.flitDue f then none
    else
      match s.flitCore f with
      | some b => ((s.core b).selFor f).map fun x => (f, b, x)
      | none => none

/-- The first flit that is due at a core without a selection for it. -/
def State.unselectedNext (s : State) : Option (Flit × Nat) :=
  s.flits.findSome? fun f =>
    if f.drop || !s.flitDue f then none
    else
      match s.flitCore f with
      | some b => if ((s.core b).selFor f).isNone then some (f, b) else none
      | none => none

/-- FLIT_DROP (R416). -/
def execFlitDrop (s : State) : Host.Outcome State Fault Refusal :=
  event (match s.dropNext with
    | some f => s.dropFlit f
    | none => s)

/-- RSEL_DELIVERY (R417). -/
def execRselDelivery (s : State) : Host.Outcome State Fault Refusal :=
  event (match s.deliverNext with
    | some (f, b, x) => s.deliverTo f b x
    | none => s)

/-- FLIT_EJECT_UNSELECTED (R417). -/
def execFlitEjectUnselected (s : State) : Host.Outcome State Fault Refusal :=
  event (match s.unselectedNext with
    | some (f, b) => s.ejectUnselected f b
    | none => s)

/-- What the flume does next, as an event. -/
def State.flumeNext (s : State) : Option Instr :=
  if s.dropNext.isSome then some .flitDrop
  else if s.deliverNext.isSome then some .rselDelivery
  else if s.unselectedNext.isSome then some .flitEjectUnselected
  else none

/-- FLIT_CHECK_ERROR (spec/07 R246): the link is fenced, and the job whose stand holds it ends. -/
def execFlitCheckError (l : BitVec 20) (s : State) : Host.Outcome State Fault Refusal :=
  event (s.fence 4 l.toNat (s.jobOf (agentIn (l.toNat / 16) 0)) 0 0)

/-! ## SYNC and SYNCV (R418) -/

/-- What keeps a core from arriving at the end-of-exchange barrier: its flits, its selections, its copies and pushes (R418,
spec/05 R188). -/
def State.syncHeld (s : State) : Bool :=
  s.flits.any (fun f => f.src == s.cur) || s.me.sels.any (fun x => !s.me.passed x) || 0 < s.copiesOf s.cur
    || s.me.pushes ≠ []

/-- A core at a SYNC or SYNCV, with the vote that it carries. -/
def syncForm (vote : Option (Bool × Bool × BitVec 3)) (s : State) : M Fin := do
  require s.me.ex .slotViolation 4
  if s.syncHeld then stallFor (if 0 < s.copiesOf s.cur then s.copyWork (clusterOf s.cur) else s) .engine
  else pure (.done (s.modMe fun c => { c.count 2 1 with syncv := vote, sleep := .barrier, arrived := s.tick }))

/-- SYNC (R418). -/
def execSync (s : State) : Host.Outcome State Fault Refusal := issue .sync s fun _ s => syncForm none s

/-- SYNCV (R418, spec/06 R214). -/
def execSyncv (o : BitVec 1) (rs1 rd : BitVec 3) (s : State) : Host.Outcome State Fault Refusal :=
  issue (.syncv o rs1 rd) s fun _ s => syncForm (some (o = 1, s.me.pr rs1.toNat, rd)) s

end Sys2Proof.Machine
end

