-- ==== Sys2Proof/Machine/Gates.lean ====
section
/-! DEFINITION. Gates: sluice tables, AWSET, GCALL, GRET, unwinding, revocation and the death of a polder (spec/15 R419 to
R427, spec/10 R312, spec/02 R57, R58). -/

namespace Sys2Proof.Machine

/-! ## Sluice-table entries (R419) -/

/-- An entry of a sluice table, as the hub reads it. -/
structure GateEntry where
  flags : BitVec 32
  entry : W32
  awmax : Nat
  budget : Nat
  allow : W64
  deriving DecidableEq, Repr

/-- T: a tile gate. -/
def GateEntry.tile (g : GateEntry) : Bool := bit g.flags 0
/-- A: abortable. -/
def GateEntry.abortable (g : GateEntry) : Bool := bit g.flags 1
/-- O: open. -/
def GateEntry.isOpen (g : GateEntry) : Bool := bit g.flags 2
/-- ROK. -/
def GateEntry.rok (g : GateEntry) : Bool := bit g.flags 8
/-- WOK. -/
def GateEntry.wok (g : GateEntry) : Bool := bit g.flags 9
/-- HR: a hard revoke is in progress. -/
def GateEntry.revoked (g : GateEntry) : Bool := bit g.flags 16

/-- The entry of gate g of a polder. -/
def State.gate (s : State) (pol : BitVec 12) (g : Nat) : GateEntry :=
  let pa := s.gateAt pol g
  { flags := BitVec.ofNat 32 (s.hubRead pa 4), entry := w32 (s.hubRead (pa + 4) 4), awmax := s.hubRead (pa + 12) 4
    budget := s.hubRead (pa + 20) 4, allow := w64 (s.hubRead (pa + 24) 8) }

/-- INFLIGHT of a gate. -/
def State.inflight (s : State) (pol : BitVec 12) (g : Nat) : Nat := s.hubRead (s.gateAt pol g + 16) 4

/-- Error correction of the hub's read of a gate's entry, which traps on the core that asks for it (spec/04 R138, log entry 130). -/
def State.gateEcc (s : State) (pol : BitVec 12) (g : Nat) : M Unit := s.tableEcc (s.gateAt pol g) 32

/-- The corrected error that such a read finds, counted for the polder's function. -/
def State.gateSoft (s : State) (pol : BitVec 12) (g : Nat) : State := s.tableSoft (s.gateAt pol g) (descVf (s.desc pol))

/-- The polder of a gate handle. -/
def handlePol (h : Nat) : BitVec 12 := BitVec.ofNat 12 (h / 2 ^ 20)

/-- The gate index of a handle. -/
def handleGate (h : Nat) : Nat := h % 2 ^ 12

/-! ## AWSET (R420) -/

/-- The range of a window lies in the own TCM, in the scratch or in the shelf. -/
def State.awPlaced (s : State) (a off len : Nat) : Bool :=
  off + len ≤ 0x4000 || (0x80000 ≤ off && off + len ≤ 0x100000)
    || (0x8000000 ≤ off && off - 0x8000000 + len ≤ s.shelfBytes (dieOf a))

/-- A granule may be reached by the core with the rights asked for: by ownership, or through the windows of its call. -/
def State.reachable (s : State) (a off : Nat) (r w : Bool) : Bool :=
  let x := (s.core a).ctx
  match regionOf a off with
  | none => false
  | some reg =>
    s.ownerAt a off reg = some x.pol ||
      (let ws := x.wins.covering off 32
       (!r || ws.any fun v => bit v 61) && (!w || ws.any fun v => bit v 62))

/-- AW0 or AW1 replaced. -/
def Core.setAw (c : Core) (n : BitVec 1) (x : W64) : Core := if n = 0 then { c with aw0 := x } else { c with aw1 := x }

/-- AWSET (R420). -/
def execAwset (lr n clr w r : BitVec 1) (rs2 rs1 : BitVec 5) (leni : BitVec 17) (s : State) :
    Host.Outcome State Fault Refusal :=
  issue (.awset lr n clr w r rs2 rs1 leni) s fun _ s => do
    if clr = 1 then do
      require (lr = 0 && w = 0 && r = 0 && rs2 = 0 && rs1 = 0 && leni = 0) .illegal 2
      pure (.adv (s.modMe fun c => c.setAw n 0))
    else do
      require (r = 1 || w = 1) .illegal 1
      let len := if lr = 1 then (s.me.s (rn rs2)).toNat else leni.toNat
      let base := s.me.s (rn rs1)
      require (field base 32 32 = 0) .polderAccess 7
      require (field base 0 5 = 0) .align 32
      require (len % 32 = 0 && 32 ≤ len && len ≤ 65536) .bounds 0x27
      let off := field base 0 28
      require (s.awPlaced s.cur off len) .polderAccess 12
      require ((List.range (len / 32)).all fun i => s.reachable s.cur (off + 32 * i) (r = 1) (w = 1)) .polderAccess 12
      pure (.adv (s.modMe fun c =>
        c.setAw n (w64 (field base 0 32 + len * 2 ^ 32 + r.toNat * 2 ^ 61 + w.toNat * 2 ^ 62 + 2 ^ 63))))

/-! ## Save blocks (spec/02 R57) -/

/-- The 64 bytes that hold s1 to s7. -/
def Core.globalBytes (c : Core) : Nat := packBytes ((List.range 7).map fun i => (8, (vget c.g (i + 1) 0).toNat))

/-- s1 to s7 from their block. -/
def globalsOf (x : Nat) : Vector W64 8 := Vector.ofFn fun i => if i.val = 0 then 0 else w64 (x >>> (64 * (i.val - 1)))

/-- The 2,048 bytes that hold a0 to a3. -/
def Core.accumulatorBytes (c : Core) : Nat :=
  packBytes ((List.range 4).flatMap fun n =>
    (List.range 128).map fun i => (4, (vget (vget c.acc n (Vector.replicate 128 0)) i 0).toNat))

/-- a0 to a3 from their block. -/
def accumulatorsOf (x : Nat) : Vector (Vector W32 128) 4 :=
  Vector.ofFn fun n => Vector.ofFn fun i => w32 (x >>> (8 * (512 * n.val + 4 * i.val)))

/-- A domain-stack entry pushed: the oldest of eight resident entries moves into the domain spill area (R58). -/
def State.pushDomain (s : State) (a : Nat) (e : DomEntry) : State :=
  let c := s.core a
  let s := match c.dom[7]? with
    | some o => s.tcmWrite a (c.spillArea + 32 * (c.depth - 8)) 32 o.bytes
    | none => s
  s.modCore a fun c => { c with dom := e :: c.dom.take 7, budget := 0 :: c.budget, vsaved := [] :: c.vsaved }

/-- The entries left resident once those above depth d are gone: the eight newest of the rest. -/
def State.residentBelow (s : State) (a d : Nat) : List DomEntry :=
  (List.range (min d 8)).filterMap fun i => s.domAt a (d - i)

/-- The registers that the save frame of an entry at depth d gives back: the vectors that its call saved, and the
accumulators of a tile gate. -/
def State.unsave (s : State) (a : Nat) (e : DomEntry) (saved : List Nat) : State :=
  let base := tcmBase a + e.savep.toNat + 64
  let vb := base + if e.tile then 2048 else 0
  let s := if e.tile then s.modCore a fun c => { c with acc := accumulatorsOf (s.read base 2048) } else s
  (saved.reverse.zipIdx).foldl (fun (s : State) x =>
    s.modCore a fun c => { c with v := vset c.v x.1 (BitVec.ofNat 512 (s.read (vb + 64 * x.2) 64)) }) s

/-! ## GCALL (R421) -/

/-- The checks of R421 on the handle and its gate. -/
def State.gateChecks (s : State) (c : Core) (h : Nat) : M Unit := do
  require (c.depth ≠ 32) .gateDepth 1
  require (c.depth < 8 || bit c.dsd 55) .gateDepth 2
  require (h / 2 ^ 12 % 2 ^ 8 = 0) .gateDenied 1
  let p := handlePol h
  let d := s.desc p
  require (descV d && !descDead d) .gateDenied 2
  require (handleGate h < descSlcnt d) .gateDenied 3
  s.gateEcc p (handleGate h)
  let g := s.gate p (handleGate h)
  require (g.isOpen && !g.revoked) .gateDenied 4
  require (bit g.allow c.vf.toNat) .gateDenied 5
  let fits (w : W64) : Bool := !bit w 63 || (field w 32 17 ≤ g.awmax && (!bit w 61 || g.rok) && (!bit w 62 || g.wok))
  require (fits c.aw0 && fits c.aw1) .gateDenied 6
  require (!c.isOrd || g.abortable) .orderViolation 3
  require (!(c.ports.toList.any fun p => p.bound)) .gateState 2
  require (g.tile || (c.tileq = [] && !bit c.atp 63)) .gateState 1

/-- A join that stays on record until its instruction is done, so that a stall after it joins no second time. -/
def State.joinStay (s : State) (kind : Nat) (key : List Nat) : M State := do
  let done := match s.me.join with
    | some j => j.kind = kind && j.result = some 0
    | none => false
  if done then pure s
  else do
    let t ← s.joinGroup kind key none none fun m => (.gangMismatch, w64 m)
    pure (t.modMe fun c => { c with join := some ⟨kind, key, s.tick, none, none, some 0, 0, (0, 0)⟩ })

/-- A trap raised in a later state than the one in which the instruction began. -/
def trapsIn {α : Type} (t : State) : M α → M α
  | .error (.trap c v) => .error (.trapAt t c v)
  | m => m

/-- What GCALL still checks after the join: the drain's outcome, the spills and blocks, the target. -/
def gcallFits (c : Core) (g : GateEntry) : M Unit := do
  require (!(g.tile && bit c.atp 63)) .gateState 1
  require (areaPtr c.wsp + 192 * c.res + 64 ≤ areaLimit c.wsp) .windowSpillLimit 1
  require (areaPtr c.dsd + 64 + (if g.tile then 2048 else 0) ≤ areaLimit c.dsd) .windowSpillLimit 2
  require (field g.entry 0 2 = 0) .align 0x100

/-- The window moved to a callee's frame (spec/10 R312). -/
def State.gcallWindow (s : State) (a : Nat) : State :=
  let c := s.core a
  let cwp := c.cwp
  let n := (cwp + 1) % 6
  let s := s.spillFrames a c.res
  let p := areaPtr (s.core a).wsp
  (s.tcmWrite a p 64 c.wptr.toNat).modCore a fun c =>
    { c.setFrame n (calleeFrame (c.frame cwp) 0) with
      wsp := setPtr c.wsp (p + 64), wptr := w64 (n + 8 + (p + 64) * 2 ^ 16) }

/-- The effect of an accepted GCALL but for PC. -/
def State.gcallEffect (s : State) (a h : Nat) (g : GateEntry) : State :=
  let c := s.core a
  let p := areaPtr c.dsd
  let e : DomEntry :=
    { caller := c.pol, callee := handlePol h, gate := BitVec.ofNat 12 h, cgen := BitVec.ofNat 8 (field c.curpol 24 8),
      egen := BitVec.ofNat 8 (descGen (s.desc (handlePol h))), rpc := c.pc + 4, wptr := BitVec.ofNat 3 c.cwp, tile := g.tile,
      abort := g.abortable, vmask := 0, savep := BitVec.ofNat 16 p, aw0 := c.aw0, aw1 := c.aw1 }
  let s := s.tcmWrite a p 64 c.globalBytes
  let s := if g.tile then s.tcmWrite a (p + 64) 2048 c.accumulatorBytes else s
  let s := (s.gcallWindow a).pushDomain a e
  let s := s.modCore a fun k =>
    { k with
      g := Vector.replicate 8 0, acc := if g.tile then Vector.replicate 4 (Vector.replicate 128 0) else k.acc
      dsd := setPtr k.dsd (p + 64 + (if g.tile then 2048 else 0)), aw0 := 0, aw1 := 0, join := none }
  (s.enterPolder a (handlePol h) (c.depth + 1)).gateEnter (handlePol h) (handleGate h)

/-- GCALL (R421). A gate that was closed or revoked while the call waited at its join accepts it no more (R426), so the gate is
checked again before the effect. -/
def execGcall (rs1 : BitVec 5) (s : State) : Host.Outcome State Fault Refusal :=
  issue (.gcall rs1) s fun _ s => do
    let c := s.me
    let h := field (c.s (rn rs1)) 0 32
    let g := s.gate (handlePol h) (handleGate h)
    let s ← match c.join with
      | some _ => pure s
      | none => do
        s.gateChecks c h
        if g.tile then s.writeThrough else pure s
    let t ← if g.tile then s.joinStay 4 [h, field c.gcfg 32 2] else pure s
    if g.tile then t.tileDrained
    let g := t.gate (handlePol h) (handleGate h)
    trapsIn t (t.gateChecks t.me h)
    trapsIn t (gcallFits t.me g)
    pure (.jump ((t.gcallEffect s.cur h g).gateSoft (handlePol h) (handleGate h)) g.entry)

/-! ## GRET (R423) -/

/-- The window moved back to the caller's frame (spec/10 R312). -/
def State.gretWindow (s : State) (a : Nat) : State :=
  let c := s.core a
  let callee := c.frame c.cwp
  let p := areaPtr c.wsp - 64
  let w := w64 (s.read (tcmBase a + p) 8)
  let cwp := field w 0 3 % 6
  let s := (s.modCore a fun k => { k with wsp := setPtr k.wsp p }).fillFrame a cwp
  s.modCore a fun k => { k.setFrame cwp (returnFrame (k.frame cwp) callee) with wptr := setWindow w cwp 1 }

/-- CURPOL and TVEC of a caller at a depth, with the generation that its entry holds. -/
def State.leavePolder (s : State) (a : Nat) (e : DomEntry) (depth : Nat) : State :=
  (s.enterPolder a e.caller depth).modCore a fun c => { c with curpol := setField c.curpol 24 8 e.cgen.toNat }

/-- What a GRET of the core reads back from the hardware regions, as offsets with sizes: the boundary block, the caller's
frame, s1 to s7, the vectors and accumulators that the call saved, and an entry that becomes resident again (spec/02 R56 to
R58). -/
def Core.gretReads (c : Core) (e : DomEntry) : List (Nat × Nat) :=
  let saved := e.savep.toNat
  [(areaPtr c.wsp - 64, 8), (areaPtr c.wsp - 256, 192),
   (saved, 64 + (if e.tile then 2048 else 0) + 64 * (c.vsaved.headD []).length)]
    ++ if 8 < c.depth then [(c.spillArea + 32 * (c.depth - 9), 32)] else []

/-- The effect of an accepted GRET but for PC. -/
def State.gretEffect (s : State) (a : Nat) (e : DomEntry) : State :=
  let d := (s.core a).depth
  let s := (s.gretWindow a).unsave a e ((s.core a).vsaved.headD [])
  let s := s.modCore a fun c =>
    { c with
      g := globalsOf (s.read (tcmBase a + e.savep.toNat) 64), dsd := setPtr c.dsd e.savep.toNat, aw0 := e.aw0, aw1 := e.aw1
      gst := 0, dom := s.residentBelow a (d - 1), budget := c.budget.tail, vsaved := c.vsaved.tail, join := none }
  (s.leavePolder a e (d - 1)).gateLeave e.callee e.gate.toNat

/-- GRET (R423). -/
def execGret (s : State) : Host.Outcome State Fault Refusal :=
  issue .gret s fun _ s => do
    let c := s.me
    match s.domAt s.cur c.depth with
    | none => trap .gateUnderflow 1
    | some e => do
      require (!(c.ports.toList.any fun p => p.bound)) .gateState 2
      match c.due with
      | some d => pure (.done (s.takeDue s.cur d))
      | none => do
        require (c.res = 1 && areaPtr c.wsp = c.floor) .windowSpillLimit 4
        let t ← if e.tile then s.joinStay 5 [e.callee.toNat * 2 ^ 20 + e.gate.toNat, field c.gcfg 32 2] else pure s
        if e.tile then t.tileDrained
        trapsIn t (t.tcmChecks s.cur (c.gretReads e))
        trapsIn t (t.gateEcc e.callee e.gate.toNat)
        pure (.jump (((t.gretEffect s.cur e).tcmSoft s.cur (c.gretReads e)).gateSoft e.callee e.gate.toNat) e.rpc)

/-! ## Notices (R427) -/

/-- The number of notices sent to a polder. -/
def State.noticeCount (s : State) (p : BitVec 12) : BitVec 16 := (sget s.hub.notices p.toNat).getD 0

/-- The 32 bytes of a notice of agent a and its task. -/
def State.noticeBytes (s : State) (a task depth : Nat) (e : DomEntry) : Nat :=
  1 + depth % 2 ^ 8 * 2 ^ 8 + (s.noticeCount e.callee).toNat * 2 ^ 16
    + (task * 16 + a % 2 ^ 22 * 2 ^ 10) * 2 ^ 32 + (e.gate.toNat * 2 ^ 8 + e.caller.toNat * 2 ^ 20) * 2 ^ 64
    + e.rpc.toNat * 2 ^ 96 + s.tick.toNat * 2 ^ 192

/-- A notice to the callee of a discarded frame whose caller is dead; dropped, and counted, when the polder takes none or
the store's walk faults. -/
def State.notice (s : State) (a task depth : Nat) (e : DomEntry) : State :=
  if !descDead (s.desc e.caller) then s
  else
    let d := s.desc e.callee
    let n := s.noticeCount e.callee
    let va := (descNqva d / 32 * 32 + n.toNat % descNqlen d * 32) % 2 ^ 48
    match (if descNqlen d = 0 then WalkRes.fault 1 1 0 false else s.walk e.callee va 1 true) with
    | .fault _ _ _ _ => s.softEvent a 0x400
    | .leaf l large entry =>
      let x := s.noticeBytes a task depth e
      let s := (s.setAccessed entry).modHub fun h => { h with notices := sset h.notices e.callee.toNat (n + 1) }
      let pa := leafPa l large va
      if s.remote l then
        s.sendStores (BitVec.ofNat 12 (leafHome l)) pa (leafKey l) 4 x
      else s.physWrite pa 32 x (allBytes 32) (s.viaOf e.callee (leafKey l) (leafCa l ≠ 0))

/-! ## Unwinding (R425) -/

/-- The frames from the top down to depth d left as the sluice tables and the notice rings see it, and what they saved of
vectors and accumulators given back, newest first; n frames are left. -/
def State.leaveEach (s : State) (a d : Nat) : Nat → State
  | 0 => s
  | n + 1 =>
    match s.domAt a (d + n) with
    | some e =>
      let saved := (s.core a).vsaved[(s.core a).depth - (d + n)]?.getD []
      (((s.gateLeave e.callee e.gate.toNat).notice a (s.core a).taskId (d + n) e).unsave a e saved).leaveEach a d n
    | none => s.leaveEach a d n

/-- FLOOR of depth d of a core, found through the boundary blocks; n calls lie above it. -/
def State.floorAt (s : State) (a floor : Nat) : Nat → Nat
  | 0 => floor
  | n + 1 => s.floorAt a (field (w64 (s.read (tcmBase a + (floor - 64)) 8)) 16 16) n

/-- The windows that n discards read back from the boundary blocks above a floor, as offsets with sizes. -/
def State.floorReads (s : State) (a floor : Nat) : Nat → List (Nat × Nat)
  | 0 => [(floor - 64, 8)]
  | n + 1 => (floor - 64, 8) :: s.floorReads a (field (w64 (s.read (tcmBase a + (floor - 64)) 8)) 16 16) n

/-- What the unwinding of core a down to depth d reads back from its TCM, as offsets with sizes: boundary blocks, spilled
frames, the save blocks of every discarded frame, entries in the domain spill area (spec/02 R56 to R58). -/
def State.unwindReads (s : State) (a d : Nat) : List (Nat × Nat) :=
  let c := s.core a
  let p := s.floorAt a c.floor (c.depth - d) - 64
  let w := w64 (s.read (tcmBase a + p) 8)
  let blocks := (s.frames a).filterMap fun x =>
    if x.1 < d then none
    else some (x.2.savep.toNat, 64 + (if x.2.tile then 2048 else 0) + 64 * (c.vsaved[c.depth - x.1]?.getD []).length)
  let spilled := if 8 < c.depth then [(c.spillArea, 32 * (c.depth - 8))] else []
  s.floorReads a c.floor (c.depth - d) ++ [(p - 192 * min 6 (field w 3 4), 192 * min 6 (field w 3 4))] ++ blocks ++ spilled

/-- The frames from the top down to depth d discarded for a reason (R425). -/
def State.discardFrames (s : State) (a d reason : Nat) : State :=
  let c := s.core a
  match s.domAt a d with
  | none => s.modCore a fun c => { c with unwindTo := none }
  | some e =>
    let n := c.depth - d
    let s := (s.leaveLists a).modCore a Core.leaveJoin
    let s := (s.tileDiscard a).modCore a fun c =>
      { c with deferred := c.deferred.filter fun x => x.depth < d, ports := Vector.replicate 4 Port.reset }
    let p := s.floorAt a c.floor n - 64
    let w := w64 (s.read (tcmBase a + p) 8)
    let cwp := field w 0 3 % 6
    let s := s.leaveEach a d (n + 1)
    let s := (s.modCore a fun k => { k with wsp := setPtr k.wsp p }).fillFrames a cwp (min 6 (field w 3 4))
    let s := s.modCore a fun k =>
      { k with
        freeing := if (s.deeperMutex a (d - 1)).isSome then some (d - 1) else none
        wptr := w, g := globalsOf (s.read (tcmBase a + e.savep.toNat) 64)
        dsd := setPtr k.dsd e.savep.toNat, aw0 := e.aw0, aw1 := e.aw1, dom := s.residentBelow a (d - 1)
        budget := k.budget.drop (n + 1), vsaved := k.vsaved.drop (n + 1), trapc := setField k.trapc 30 1 0
        latch := none, repc := 0, repBuf := [], repSusp := false, gst := w64 (reason + d * 2 ^ 8), sleep := .none
        farReq := none, walked := none, unwindTo := none, passHit := false, pc := e.rpc }
    (s.leavePolder a e (d - 1)).modCore a fun k => k.setS 24 (0 - w64 reason)

/-- The frames from the top down to depth d discarded, with the corrected errors that this finds; an uncorrectable error in what
it reads fences the core instead (spec/02 R96, R100). -/
def State.unwind (s : State) (a d reason : Nat) : State :=
  match s.tcmChecks a (s.unwindReads a d) with
  | .error (.trap c v) => s.detect a c v
  | _ => (s.discardFrames a d reason).tcmSoft a (s.unwindReads a d)

/-- A core asked to discard its frames down to depth d at its next boundary; an earlier, deeper request gives way. -/
def Core.askUnwind (c : Core) (d reason : Nat) : Core :=
  match c.unwindTo with
  | some (k, _) => if d < k then { c with unwindTo := some (d, reason) } else c
  | none => { c with unwindTo := some (d, reason) }

/-- Core a asked so. -/
def State.askUnwind (s : State) (a d reason : Nat) : State := s.modCore a fun c => c.askUnwind d reason

/-- The shallowest depth of core a whose entry satisfies p. -/
def State.shallowest (s : State) (a : Nat) (p : DomEntry → Bool) : Option Nat :=
  ((List.range (s.core a).depth).map (· + 1)).find? fun d =>
    match s.domAt a d with
    | some e => p e
    | none => false

/-- A saved stand whose cores are asked to discard their frames from the shallowest one that satisfies p: they do when the stand
resumes. -/
def State.signalSaved (s : State) (reason : Nat) (p : DomEntry → Bool) (x : Saved) : Saved :=
  { x with cores := x.cores.map fun e =>
      match (s.imaged x).shallowest e.1 p with
      | some d => (e.1, e.2.askUnwind d reason)
      | none => e }

/-- Every core asked to discard its frames from the shallowest one that satisfies p, those of stands in save areas too. -/
def State.signal (s : State) (reason : Nat) (p : DomEntry → Bool) : State :=
  let t := s.cores.foldl (fun (s : State) x =>
    match s.shallowest x.1 p with
    | some d => s.askUnwind x.1 d reason
    | none => s) s
  t.modHub fun h => { h with saves := h.saves.map fun x => s.signalSaved reason p x }

/-- UNWIND (R425): the core discards the frames that it was asked to. -/
def execUnwind (a : BitVec 22) (s : State) : Host.Outcome State Fault Refusal :=
  event (match (s.core a.toNat).unwindTo with
    | some (d, reason) => s.unwind a.toNat d reason
    | none => s)

/-- The shallowest call of core a that has used up its budget (R421, R425). -/
def State.overBudget (s : State) (a : Nat) : Option Nat :=
  let c := s.core a
  ((List.range c.depth).map (· + 1)).find? fun d =>
    match s.domAt a d with
    | some e =>
      let b := (s.gate e.callee e.gate.toNat).budget
      b ≠ 0 && b < c.budget[c.depth - d]?.getD 0
    | none => false

/-- BUDGET_EXHAUSTED (R425). -/
def execBudgetExhausted (a : BitVec 22) (s : State) : Host.Outcome State Fault Refusal :=
  event (match s.overBudget a.toNat with
    | some d => s.askUnwind a.toNat d 3
    | none => s)

/-! ## Revocation and death (R426, R427) -/

/-- A store of a gate handle to REVOKE: every frame of a gate whose HR is set is discarded; with none in flight HR is
cleared at once. -/
def State.revoke (s : State) (h : Nat) : State :=
  let p := handlePol h
  let g := handleGate h
  if !descV (s.desc p) || descSlcnt (s.desc p) ≤ g || !(s.gate p g).revoked then s
  else if s.inflight p g = 0 then
    s.hubWrite (s.gateAt p g) 4 ((setBit (s.gate p g).flags 16 false).toNat)
  else s.signal 1 fun e => e.callee == p && e.gate.toNat == g

/-- REVOKE_WRITE (R426). -/
def execRevokeWrite (val : BitVec 64) (s : State) : Host.Outcome State Fault Refusal := event (s.revoke (field val 0 32))

/-- The notices of every frame of a job's threads, on the module or in its save area. -/
def State.noticeJob (s : State) (j : Job) : State :=
  (s.jobFrames j).foldl (fun (t : State) x => t.notice x.1 ((s.viewOf j).core x.1).taskId x.2.1 x.2.2) s

/-- A thread of a job runs at depth 0 in a polder. -/
def State.basedIn (s : State) (j : Job) (p : BitVec 12) : Bool :=
  let v := s.viewOf j
  j.pol == p || j.agents.any fun a =>
    (sget v.cores a).isSome && ((v.core a).act == .task || (v.core a).act == .exchange) && v.basePol a == p

/-- The signals that follow a polder's death: jobs whose threads are based in it end, other threads leave its frames. -/
def State.polderDied (s : State) (p : BitVec 12) : State :=
  let s := s.hub.jobs.foldl (fun (s : State) j => if s.basedIn j p then (s.noticeJob j).endJob j .polderDead 0 0 else s) s
  s.signal 2 fun e => e.callee == p

/-- POLDER_DEATH (R425 to R427): DEAD is set in a valid descriptor. -/
def execPolderDeath (pol : BitVec 12) (s : State) : Host.Outcome State Fault Refusal :=
  event (if descV (s.desc pol) && !descDead (s.desc pol) then
    (s.modHub fun h => { h with polders := sset h.polders pol.toNat (setBit (s.desc pol) 62 true) }).polderDied pol
  else s)

end Sys2Proof.Machine
end

