-- ==== Sys2Proof/Machine/Tables.lean ====
section
/-! DEFINITION. The start of tasks: choice of the next entry (spec/06 R203, spec/05 R177), gangs and their reservations
(R207, R209), and which waiting cores can go on. -/

namespace Sys2Proof.Machine

/-! ## Cores that can move -/

/-- The stand of a core runs: it is neither held, evicted nor halted (spec/07 R234 to R239, spec/16 R450, R452). A halt lets
a core first come to the end of a prefix and its instruction, which are one unit (spec/08 R258). -/
def State.runs (s : State) (a : Nat) : Bool :=
  match s.jobOf a with
  | some j => !j.stand.held && !j.stand.evicted && (j.stand.halted.isNone || (s.core a).latch.isSome)
  | none => true

/-- The table of core a holds a ready ordered task older than the one that runs (R177). -/
def State.olderReady (s : State) (a : Nat) : Bool :=
  let c := s.core a
  c.buffered && (List.range 64).any fun i =>
    (c.entry i).ordered && (c.entry i).state == 2 && orderKey a i (c.entry i) < s.runKey a

/-- What core a waits for has come. -/
def State.woken (s : State) (a : Nat) : Bool :=
  let c := s.core a
  let k := s.cluster (clusterOf a)
  match c.sleep with
  | .none | .engine => true
  | .arrive n ph => (k.barrier n).phase ≠ ph
  | .wait n ph => (k.barrier n).phase ≠ ph
  | .mutex m => (k.mutex m).heldBy (coreIn a)
  | .event _ w => w
  | .full ws => ws.all (fun w => s.isFull w) || s.olderReady a
  | .walk => c.walked.isSome
  | .record _ => false
  | .ring => false
  | .oldest => s.isOldest a || s.olderReady a
  | .join => match c.join with
    | some j => j.result.isSome
    | none => true
  | .link true => c.lw ≠ []
  | .link false => (s.core (eastOf a)).lw.length < 4
  | .barrier => false

/-! ## Order of the entries (R171, R203) -/

/-- A READY entry, or the YIELDED one whose block is the newest and ends at WSP.PTR (R472). -/
def Core.startable (c : Core) (i : Nat) : Bool :=
  (c.entry i).state == 2 || ((c.entry i).state == 4 && match c.yields with
    | (j, n) :: _ => j == i && areaPtr c.wsp == n
    | [] => false)

/-- The rank of entry i of core a: its order key, with a YIELDED entry after the READY ones of its timestamp. -/
def Core.rank (c : Core) (a i : Nat) : Nat :=
  ((c.entry i).ts * 2 + b2n ((c.entry i).state == 4)) * 2 ^ 26 + a % 2 ^ 20 * 2 ^ 6 + i

/-- The index of lowest rank among those that satisfy p. -/
def Core.lowest (c : Core) (a : Nat) (p : Nat → Bool) : Option Nat :=
  (List.range 64).foldl (fun b i =>
    if p i then
      match b with
      | some j => if c.rank a i < c.rank a j then some i else b
      | none => some i
    else b) none

/-- The ready ordered entry of core a that is the oldest of its cluster. -/
def State.oldestEntry (s : State) (a : Nat) : Option Nat :=
  let c := s.core a
  match c.lowest a fun i => (c.entry i).ordered && (c.entry i).state == 2 with
  | some i =>
    if (s.coresOf (clusterOf a)).all fun b => (s.pendingOn b).all fun k => orderKey a i (c.entry i) ≤ k then some i else none
  | none => none

/-! ## Gangs (R207, R209) -/

/-- The gang entry of lowest rank with which core l reserves its group; none while l runs a task of lower rank. -/
def State.gangTop (s : State) (l : Nat) : Option Nat :=
  let c := s.core l
  match c.lowest l c.startable with
  | some i =>
    if (c.entry i).gang && !(c.act == .task && !c.ex && c.rank l c.taskId < c.rank l i) then some i else none
  | none => none

/-- The leader that has reserved the group of core b, and its entry. -/
def State.reserver (s : State) (b : Nat) : Option (Nat × Nat) :=
  if !isOrdinary b then none
  else [8, 4, 2].findSome? fun w =>
    match s.gangTop (groupBase b w) with
    | some i => if ((s.core (groupBase b w)).entry i).width = w then some (groupBase b w, i) else none
    | none => none

/-- A gang task still runs on a group of core b: no member has started anything else since (R209). -/
def State.gangRuns (s : State) (b : Nat) : Bool :=
  isOrdinary b && [8, 4, 2].any fun w => (tileGroup b w).any fun m =>
    (s.core m).act == .task && (s.core m).isGang && !(s.core m).visit && ((s.core m).gangOf m).length == w

/-! ## Choice (R203, R207, R177) -/

/-- What core a starts next from its table; a gang entry starts its gang. -/
def State.choice (s : State) (a : Nat) : Option Nat :=
  let c := s.core a
  let old := if isOrdinary a then s.oldestEntry a else none
  if s.gangRuns a then none
  else
    match s.reserver a with
    | some (l, i) => if old.isSome then old else if l = a then some i else none
    | none =>
      if c.older then c.lowest a fun i => (c.entry i).ordered && (c.entry i).state == 2
      else
        let starved := c.lowest a fun i => c.startable i && 64 ≤ vget c.passes i 0
        if starved.isSome then (if old.isSome then old else starved) else c.lowest a c.startable

/-- A core with no running task that may start one: in a work phase that has begun, its stand running. -/
def State.canStart (s : State) (a : Nat) : Bool :=
  ((s.core a).act == .idle || (s.core a).act == .atWork) && !(s.core a).gated && s.runs a

/-! ## Starts (R202 to R204, R472) -/

/-- One pass counted against every entry that may start and whose order key is above that of the entry that starts (R203);
`own` is that entry where it stands in this table, and its count is cleared. -/
def Core.pass (c : Core) (a key : Nat) (own : Option Nat) : Core :=
  { c with passes := c.passes.mapIdx fun i n =>
      if own = some i then 0 else if c.startable i && key < orderKey a i (c.entry i) then n + 1 else n }

/-- THRESH taken off the counter of an entry, never below zero. -/
def Core.takeThresh (c : Core) (e : Entry) : Core :=
  { c with mc := vset c.mc e.mcid (BitVec.ofNat 16 ((vget c.mc e.mcid 0).toNat - e.thresh)) }

/-- Entry i of core a started. One that yielded starts at task level as every task does (R204), even where TRAPC.ACT of its block says
that it yielded in a handler (log entry 129). -/
def State.begin (s : State) (a i : Nat) : State :=
  let c := s.core a
  let e := c.entry i
  let back := e.state == 4
  let s := s.modCore a fun c =>
    let c := c.pass a (orderKey a i e) (some i)
    let c := if back || c.again.contains i then c else c.takeThresh e
    { c.setEntry i (e.withState 3) with again := ndel c.again i, older := false, ports := Vector.replicate 4 Port.reset }
  let s := s.startRegs a e i 0
  if back then s.resumeYield a else s

/-- The members of the group of leader l that are fenced, as a mask of columns. -/
def State.fencedMembers (s : State) (l w : Nat) : Nat := columnMask ((tileGroup l w).filter fun b => s.failed 2 b)

/-- The gang entry i of leader l found a member fenced: the leader raises GANG_TIMEOUT, and no member starts the task (R209).
The handler runs in the registers of a task that starts, with TRAPPC at the routine; the entry is RUN while it runs, with
THRESH left on its counter, and the handler's ERET makes it READY again, its TEND ends it (log entry 91). -/
def State.gangFails (s : State) (l i : Nat) : State :=
  let e := (s.core l).entry i
  let t := (s.startRegs l e i 0).modCore l fun c => { c.setEntry i (e.withState 3) with visit := true }
  t.trapEntry l .gangTimeout (w64 (s.fencedMembers l e.width)) e.pc

/-- The gang of entry i of leader l started on every core of its group (R207). -/
def State.beginGang (s : State) (l i : Nat) : State :=
  let e := (s.core l).entry i
  let key := orderKey l i e
  if s.fencedMembers l e.width ≠ 0 then s.gangFails l i
  else
    let dev := (s.core l).setup.contains i
    let s := s.modCore l fun c => ((c.pass l key (some i)).takeThresh e).setEntry i (e.withState 3)
    (tileGroup l e.width).foldl (fun (s : State) b =>
      let s := if b = l then s else s.modCore b fun c => c.pass b key none
      (s.startAs b e i (b - l) dev).modCore b fun c =>
        { c with ports := Vector.replicate 4 Port.reset, stream := [], ahead := false, older := false
                 gang := if b = l then none else some (l, 0) }) s

/-- The gang that core a may start now: its entry leads the choice and every core of its group is free. -/
def State.gangReady (s : State) (a : Nat) : Option Nat :=
  match s.choice a with
  | some i =>
    let e := (s.core a).entry i
    if e.gang && s.canStart a && (tileGroup a e.width).all (fun b => s.canStart b || s.failed 2 b) then some i else none
  | none => none

/-- The entry, of a task that is no gang, that core a may start now. -/
def State.taskReady (s : State) (a : Nat) : Option Nat :=
  if s.canStart a then
    match s.choice a with
    | some i => if ((s.core a).entry i).gang then none else some i
    | none => none
  else none

/-- TASK_START (R203, R472). -/
def execTaskStart (a : BitVec 22) (s : State) : Host.Outcome State Fault Refusal :=
  event (match s.taskReady a.toNat with
    | some i => s.begin a.toNat i
    | none => s)

/-- GANG_START (R207, R209). -/
def execGangStart (a : BitVec 22) (s : State) : Host.Outcome State Fault Refusal :=
  event (match s.gangReady a.toNat with
    | some i => s.beginGang a.toNat i
    | none => s)

/-! ## Ordered tasks (spec/05 R173, R175) -/

/-- The result of a computation of core a, made as the core that moves: a trap is taken by it. -/
def State.onCore (s : State) (a : Nat) (f : State → M State) : State :=
  let t := { s with cur := a }
  let u := match f t with
    | .ok u => u
    | .error (.trap c v) => t.takeTrap c v
    | .error (.trapAt u c v) => u.takeTrap c v
    | .error (.stall u) => u
  { u with cur := s.cur }

/-- WRITE_THROUGH (R173, R179): a task that waits to be the oldest is so now; it commits and is write-through, and its
instruction, with the words that the core holds (spec/08 R264), goes on. -/
def execWriteThrough (a : BitVec 22) (s : State) : Host.Outcome State Fault Refusal :=
  event (if (s.core a.toNat).sleep == .oldest && (s.core a.toNat).buffered && s.isOldest a.toNat then
    s.onCore a.toNat fun t => do
      let u ← t.writeThrough
      pure (u.modMe fun c => { c with sleep := .engine })
  else s)

/-- ORDERED_COMMIT (R175): a task that waits at its TEND to be the oldest commits and ends. -/
def execOrderedCommit (a : BitVec 22) (s : State) : Host.Outcome State Fault Refusal :=
  let t := { s with cur := a.toNat }
  match t.fetchInstr with
  | .ok (.tend, _, _) =>
    if t.me.sleep == .oldest && t.me.buffered && t.isOldest a.toNat then
      match execTend t with
      | .next u => event { u with cur := s.cur }
      | o => o
    else event s
  | _ => event s

end Sys2Proof.Machine
end

