-- ==== Sys2Proof/Machine/Superstep.lean ====
section
/-! DEFINITION. Supersteps: barrier groups, phases, votes and quiescence (spec/06 R210 to R217, spec/05 R188, R190), ramp slots
(spec/16 R456, R459), the boundary at which a stand is held, copied or compared (spec/07 R235, spec/16 R450 to R452), and
the records of R438 and R437. -/

namespace Sys2Proof.Machine

/-! ## Banks and their holders (spec/16 R440, R441) -/

/-- The cluster with a number of R440. -/
def clusterOfNo (n : Nat) : Nat := n / 1280 * 2048 + n % 1280

/-- A bank that counts nothing, of no counters. -/
def Bank.none : Bank := Bank.reset 0

/-- A die bank. -/
def State.dieBank (s : State) (b : Nat) : Bank := vget (s.die (b / 4)).banks (b % 4) Bank.none

/-- The counters of a bank: of a die bank or of a cluster bank. -/
def State.bankAt (s : State) (u n : Nat) : Bank := if u = 0 then s.dieBank n else (s.cluster (clusterOfNo n)).bank

/-- A bank replaced. -/
def State.setBank (s : State) (u n : Nat) (b : Bank) : State :=
  if u = 0 then s.modDie (n / 4) fun d => { d with banks := vset d.banks (n % 4) b }
  else s.modCluster (clusterOfNo n) fun c => { c with bank := b }

/-- OWN of a unit. -/
def State.own (s : State) (u n : Nat) : W64 := if u = 2 then (s.unit n).1 else (s.bankAt u n).own

/-- MODE of an OWN value. -/
def ownMode (w : W64) : Nat := field w 62 2

/-- A function holds a unit: a guest by its number, the physical function when the host holds it. -/
def holds (w : W64) (f : Nat) : Bool := (ownMode w == 1 && f ≠ 0 && field w 0 6 == f) || (ownMode w == 2 && f == 0)

/-! ## A stand's state (spec/07 R236) -/

/-- The stretches of local memory that belong to a function's polders on a stand: bays, but for those of resident polders, and TCM
halves, each with its first key and length. -/
def State.standMemory (s : State) (j : Job) : List (Nat × Nat) :=
  let ours (o : Option (BitVec 12)) : Bool := match o with
    | some p => descVf (s.desc p) == j.fn.toNat
    | none => false
  let stays (o : Option (BitVec 12)) : Bool := match o with
    | some p => s.hub.resident.contains p
    | none => false
  (j.clusters.flatMap fun c => (List.range 16).filterMap fun b =>
    if ours (s.bayOwner c b) && !stays (s.bayOwner c b) then some (scratchBase c + b * 0x8000, 0x8000) else none)
  ++ j.agents.flatMap fun a =>
    (if ours (s.tcmOwner a false) then [(tcmBase a, 0x2000)] else [])
      ++ if ours (s.tcmOwner a true) then [(tcmBase a + 0x2000, 0x2000)] else []

/-- A key lies in one of the stretches. -/
def inStretch (l : List (Nat × Nat)) (k : Nat) : Bool := l.any fun r => r.1 ≤ k && k < r.1 + r.2

/-- The trace units of the dies whose landing cores serve a job (R440). -/
def Job.landingUnits (j : Job) : List Nat := ((j.landings.map fun l => 20480 + l / 64).eraseDups)

/-- Bytes of memory in a stand's image (log entry 44). -/
def State.imageBytes (s : State) (j : Job) : Nat := (s.standMemory j).foldl (fun n r => n + r.2) 0

/-- Bytes of a function's save area that its images and snapshots take: they stand in it one after another (log entry 98). -/
def State.areaEnd (s : State) (f : Nat) : Nat :=
  ((s.hub.saves ++ s.hub.snaps.map (·.image)).filter fun x => x.fn.toNat == f).foldl (fun n x => Nat.max n (x.off + x.size)) 0

/-- The state of a stand, with LTOWN of its landing cores, the guard-table entries of its senders, and the die banks and the trace
units of its landing cores' dies that its function holds (spec/16 R448). -/
def State.saveStand (s : State) (j : Job) : Saved :=
  let l := s.standMemory j
  { fn := j.fn, jobid := j.jobid, cores := j.agents.map fun a => (a, s.core a), clusters := j.clusters.map fun c => (c, s.cluster c)
    ltown := j.landings.map fun l => (l, vget (s.die (l / 64)).ltown (l % 64) 0)
    guards := s.hub.guards.filter fun g => j.agents.contains g.2.2
    foreign := false, off := s.areaEnd j.fn.toNat, size := s.imageBytes j
    banks := (List.range 64).filterMap fun b => if holds (s.own 0 b) j.fn.toNat then some (b, s.dieBank b) else none
    units := j.landingUnits.filterMap fun u => if holds (s.own 2 u) j.fn.toNat then some (u, s.unit u) else none
    mem := s.mem.filter fun e => inStretch l e.1, tags := s.tags.filter fun e => inStretch l (32 * e.1)
    full := s.full.filter fun w => inStretch l (4 * w) }

/-- A TOWN or LTOWN word with the halves that belonged to a function's polders (`ours`) as an image holds them. -/
def restoreHalves (ours : BitVec 12 → Bool) (w old : W64) : W64 :=
  let half (up : Bool) : Bool := match halfOwner old up with
    | some p => ours p
    | none => false
  let w := if half false then setField w 0 32 (field old 0 32) else w
  if half true then setField w 32 32 (field old 32 32) else w

/-- A cluster's part of a stand's state put back: formats, gradient maps, write generations (log entry 132) and owners of the bays and
TCM halves that belonged to the function's polders (`ours`), but for the bays that stay, the queues of its polders, event unit, guard
tables. A queue of another function whose ring lies in a bay put back is empty (spec/02 R94). -/
def Cluster.restore (k old : Cluster) (ours stays : BitVec 12 → Bool) : Cluster :=
  let mine (b : Nat) : Bool := match ownerOf (vget old.bown b 0) with
    | some p => ours p && !stays p
    | none => false
  let pick {n : Nat} (new was : Vector W64 n) : Vector W64 n :=
    Vector.ofFn fun i => if mine i.val then vget was i.val 0 else vget new i.val 0
  { k with
    bfmt := pick k.bfmt old.bfmt, gmap := pick k.gmap old.gmap, bown := pick k.bown old.bown, wgen := pick k.wgen old.wgen
    town := Vector.ofFn fun i => restoreHalves ours (vget k.town i.val 0) (vget old.town i.val 0)
    queues := Vector.ofFn fun i =>
      let o := vget old.queues i.val QDesc.empty
      let q := vget k.queues i.val QDesc.empty
      if o.valid && ours (o.w0.extractLsb' 40 12) then o else if q.valid && mine q.bay then QDesc.empty else q
    barriers := old.barriers, mutexes := old.mutexes, events := old.events, copies := old.copies
    stage := old.stage, slot := old.slot, eject := old.eject }

/-- An event that a bank may count (spec/16 R446): of a die bank, or of a cluster bank. -/
def bankEvent (u n : Nat) : Bool :=
  if u = 0 then n ≤ 1 || n == 4 || n == 5 || (12 ≤ n && n ≤ 14)
  else n ≤ 1 || (6 ≤ n && n ≤ 9) || n == 11 || n == 14 || n == 15

/-- What a counter reads whose select names an event that the part lacks (spec/16 R445). -/
def noEvent : W64 := 0x8000000000000000#64

/-- A bank whose selects of events that this part lacks read so. -/
def Bank.checked (b : Bank) (u : Nat) : Bank :=
  { b with ctr := b.ctr.mapIdx fun i v => if bankEvent u (b.sel[i]?.getD 0).toNat then v else noEvent }

/-- A core whose selects of events that this part lacks read so. -/
def Core.checkCounters (c : Core) : Core :=
  { c with ctr := Vector.ofFn fun i => if coreEvent (vget c.ctrSel i.val 0).toNat then vget c.ctr i.val 0 else noEvent }

/-- The loss of a unit told to the guest that held it (spec/16 R442). -/
def State.lose (s : State) (u n g : Nat) : State :=
  s.modFunc g fun x =>
    if u = 0 then { x with lostd := setBit x.lostd n true }
    else { x with lostc := if x.lostc.toNat + 1 < 2 ^ 63 then x.lostc + 1 else w64 (2 ^ 63 - 1) }

/-- A unit of an image put back by `put`: one of this module while its holder is still the one that it had (spec/16 R441); one of
another module if the unit is free here, and is lost to the function otherwise (R448). -/
def State.putOwned (s : State) (x : Saved) (u n : Nat) (own : W64) (put : State → State) : State :=
  if x.foreign then
    if !holds own x.fn.toNat then s else if ownMode (s.own u n) = 0 then put s else s.lose u n x.fn.toNat
  else if s.own u n = own then put s else s

/-- A bank of an image put back. -/
def State.putBank (s : State) (x : Saved) (u n : Nat) (b : Bank) : State :=
  s.putOwned x u n b.own fun s => s.setBank u n (if x.foreign then b.checked u else b)

/-- A trace unit of an image put back. -/
def State.putUnit (s : State) (x : Saved) (e : Nat × W64 × W64 × Bool) : State :=
  s.putOwned x 2 e.1 e.2.1 fun s => s.setUnit e.1 e.2.1 e.2.2.1 e.2.2.2

/-- The counter banks and trace units of an image put back (spec/16 R448). -/
def State.putUnits (s : State) (x : Saved) : State :=
  let s := x.banks.foldl (fun (s : State) e => s.putBank x 0 e.1 e.2) s
  let s := x.clusters.foldl (fun (s : State) e =>
    (s.putBank x 1 (clusterNo e.1) e.2.bank).putUnit x (clusterNo e.1, e.2.tuOwn, e.2.tuCtl, e.2.tuLost)) s
  x.units.foldl (fun (s : State) e => s.putUnit x e) s

/-- Stretches of memory as they were: their bytes, tags and full words, and nothing else in them. -/
def State.putMemory (s : State) (span : List (Nat × Nat)) (mem : List Host.Cell) (tags : List (Nat × BitVec 4)) (full : List Nat) :
    State :=
  let s := span.foldl (fun (s : State) r => s.scrub r.1 r.2) s
  let s := mem.foldl (fun (s : State) e => s.setByte e.1 e.2) s
  let s := tags.foldl (fun (s : State) e => s.setTag e.1 e.2) s
  full.foldl (fun (s : State) w => s.setFull w) s

/-- The state of a stand put back: first its bays and TCM halves as it owned them, then what they held. The L1s and watch units
of its cores are no part of that state. -/
def State.loadStand (s : State) (j : Job) (x : Saved) : State :=
  let ours (p : BitVec 12) : Bool := descVf (s.desc p) == j.fn.toNat
  let s := x.clusters.foldl (fun (s : State) e => s.modCluster e.1 fun k => k.restore e.2 ours (fun p => s.hub.resident.contains p)) s
  let s := x.ltown.foldl (fun (s : State) e => s.modDie (e.1 / 64) fun d =>
    { d with ltown := vset d.ltown (e.1 % 64) (restoreHalves ours (vget d.ltown (e.1 % 64) 0) e.2) }) s
  let s := (s.putUnits x).modHub fun h => { h with guards := (h.guards.filter fun g => !j.agents.contains g.2.2) ++ x.guards }
  let s := s.putMemory (s.standMemory j) x.mem x.tags x.full
  x.cores.foldl (fun (s : State) e => s.modCore e.1 fun c =>
    { (if x.foreign then e.2.checkCounters else e.2) with l1 := c.l1, wctl := c.wctl, wbase := c.wbase }) s

/-- Frames of a function's save area. -/
def State.saveFrames (s : State) (f : Nat) : Nat := field (s.func f).vfsave 32 16

/-- First byte of a function's save area. -/
def State.saveBase (s : State) (f : Nat) : Nat := field (s.func f).vfsave 0 25 * 0x10000

/-- n bytes from an address up written by a landing core with an image, whose format the manual does not give (log entry 98). -/
def State.writeImage (s : State) (base n : Nat) : State :=
  (List.range n).foldl (fun (s : State) i => { s.setByte (base + i) (Config.imageByte s.free) with free := s.free + 1 }) s

/-- A snapshot of a stand, for the work phase that follows (R451). -/
def State.snapOf (s : State) (j : Job) : Snapshot := { ssn := BitVec.ofNat 32 (s.jobSsn j), tick := s.tick, image := s.saveStand j }

/-- A snapshot taken: the save area holds the two latest of a stand (R451). A third takes the place of the oldest where it fits there;
what would lie beyond the end of the area is not written (log entry 98). -/
def State.takeSnapshot (s : State) (j : Job) : State :=
  let f := j.fn.toNat
  let mine := s.hub.snaps.filter fun x => x.ofJob j
  let x := s.snapOf j
  let off := match mine with
    | a :: _ :: _ => if x.image.size ≤ a.image.size then a.image.off else x.image.off
    | _ => x.image.off
  let s := s.writeImage (s.saveBase f + off) (min x.image.size (s.saveFrames f * 0x10000 - off))
  s.modHub fun h => { h with snaps := (h.snaps.filter fun y => !y.ofJob j) ++ mine.drop (mine.length - 1)
                                        ++ [{ x with image := { x.image with off := off } }] }

/-! ## Ramp slots (spec/16 R456, R459) -/

/-- Cycles of a ramp slot. -/
def slotCycles : Nat := 1152

/-- The clusters that a slot admits. -/
def State.slotRoom (s : State) : Nat := field s.hub.lvslope 0 10 * 512 / 370

/-- The clusters counted against a slot that begins at a tick. -/
def rampLoad (l : List (Nat × Nat)) (t : Nat) : Nat :=
  l.foldl (fun n e => if e.1 < t + slotCycles && t < e.1 + slotCycles then n + e.2 else n) 0

/-- The first slot from k on that has room, of a work phase whose slots begin at tick t. -/
def firstSlot (l : List (Nat × Nat)) (room t k : Nat) : Nat → Nat
  | 0 => k
  | n + 1 => if rampLoad l (t + k * slotCycles) < room then k else firstSlot l room t (k + 1) n

/-- Insertion by stage, then die, then index. -/
def State.insertStage (s : State) (c : Nat) : List Nat → List Nat
  | [] => [c]
  | d :: t =>
    if (s.cluster c).stage < (s.cluster d).stage || ((s.cluster c).stage = (s.cluster d).stage && c < d) then c :: d :: t
    else d :: s.insertStage c t

/-- Clusters in stage order. -/
def State.stageOrder (s : State) (l : List Nat) : List Nat := l.foldr (fun c l => s.insertStage c l) []

/-- One cluster placed in its slot. -/
def State.placeSlot (s : State) (t c : Nat) : State :=
  let k := firstSlot s.hub.ramp s.slotRoom t 0 (2 * s.hub.ramp.length + 2)
  let at' := t + k * slotCycles
  (s.modHub fun h => { h with ramp := sset h.ramp at' ((sget h.ramp at').getD 0 + 1) }).modCluster c fun x =>
    { x with slot := k }

/-- The clusters that a pinned stand reserves in slot 0. -/
def Job.reserve (j : Job) : Nat := ceilDiv (j.pstep.toNat * 100) 37

/-- Slots given to the clusters of a work phase whose first cycle is tick t. -/
def State.giveSlots (s : State) (j : Job) (cs : List Nat) (t : Nat) : State :=
  let s := s.modHub fun h => { h with ramp := h.ramp.filter fun e => t < e.1 + slotCycles }
  if j.pin then
    let s := s.modHub fun h => { h with ramp := sset h.ramp t ((sget h.ramp t).getD 0 + j.reserve) }
    cs.foldl (fun (s : State) c => s.modCluster c fun x => { x with slot := 0 }) s
  else (s.stageOrder cs).foldl (fun (s : State) c => s.placeSlot t c) s

/-- A record that the hub writes only while TBCTL.IMB is set (spec/16 R439). -/
def State.imbTrace (s : State) (f ssn agent task dom ty aux payload : Nat) (rpl : Bool) : State :=
  if bit (s.func f).tbctl 1 then s.hubTrace f ssn agent task dom ty aux payload rpl else s

/-- A number that stays at the largest of n bits. -/
def satTo (n x : Nat) : Nat := min x (2 ^ n - 1)

/-- The work phase of some cores of a stand begun at a release in the present tick: slots, and the SLOTS record. Landing
cores wait for no slot (R463). -/
def State.startWork (s : State) (j : Job) (bs : List Nat) : State :=
  let cs := ((bs.filter isOrdinary).map clusterOf).eraseDups
  let s := if cs = [] then s else s.giveSlots j cs (s.tick.toNat + 1)
  let s := bs.foldl (fun (s : State) b => s.modCore b fun c =>
    { c with since := s.tick, gated := isOrdinary b && (s.cluster (clusterOf b)).slot ≠ 0 }) s
  let slots := cs.map fun c => (s.cluster c).slot
  let lo := slots.foldl min (slots.headD 0)
  let hi := slots.foldl Nat.max 0
  let s := if cs = [] then s else
    s.imbTrace j.fn.toNat (field (s.core (bs.headD 0)).ssn 0 32) (bs.headD 0) 0 0 0x86 j.pol.toNat
      (satTo 16 lo + satTo 16 hi * 2 ^ 16 + (if j.pin then 0 else satTo 16 cs.length) * 2 ^ 32) j.stand.replaying
  if field (s.core (bs.headD 0)).ssn 0 32 = 0 && cs ≠ [] then
    s.modJob j fun k => { k with slotLo := BitVec.ofNat 16 (satTo 16 lo), slotHi := BitVec.ofNat 16 (satTo 16 hi) }
  else s

/-- RAMP_SLOT_BEGIN (R456): the slot of a cluster has begun; its cores enter their work phase. -/
def execRampSlotBegin (c : BitVec 15) (s : State) : Host.Outcome State Fault Refusal :=
  let k := c.toNat
  let wait := (s.cluster k).slot * slotCycles
  event (((List.range 32).map (agentIn k)).foldl (fun (s : State) b =>
    if (s.core b).gated && (s.core b).since.toNat + wait ≤ s.tick.toNat && s.runs b then
      s.modCore b fun x => { x.count 10 wait with gated := false }
    else s) s)

/-! ## Barrier groups (R210, R211) -/

/-- The domains joined to those of m by n rounds of shared members. -/
def State.joinMasks (s : State) (ag : List Nat) (m : BitVec 16) : Nat → BitVec 16
  | 0 => m
  | n + 1 =>
    s.joinMasks ag (ag.foldl (fun m b => if s.maskOf b &&& m ≠ 0 then m ||| s.maskOf b else m) m) n

/-- The barrier group of core a. A core of no domain stands alone. -/
def State.groupOf (s : State) (j : Job) (a : Nat) : List Nat :=
  if s.maskOf a = 0 then [a]
  else
    let m := s.joinMasks j.agents (s.maskOf a) 16
    j.agents.filter fun b => s.maskOf b &&& m ≠ 0

/-- The domains of a group. -/
def State.groupMask (s : State) (g : List Nat) : BitVec 16 := g.foldl (fun m b => m ||| s.maskOf b) 0

/-- The core stands at its end-of-work barrier. -/
def Core.atWorkEnd (c : Core) : Bool := c.act == .atWork

/-- The core stands at its end-of-exchange barrier. -/
def Core.atExchangeEnd (c : Core) : Bool := c.act == .atExchange || (c.act == .exchange && c.sleep == .barrier)

/-- The core has arrived. -/
def Core.arrivedAt (c : Core) : Bool := c.atWorkEnd || c.atExchangeEnd

/-! ## Arrival at the end-of-work barrier (R212, R188) -/

/-- Core a meets every condition of R212: its BCOPYs and FPUSHes have completed, with their traps taken (R188), and its tile queue
is empty (spec/13 R369). -/
def State.mayArrive (s : State) (a : Nat) : Bool :=
  let c := s.core a
  c.act == .idle && !c.gated && s.runs a && (s.jobOf a).isSome
    && (List.range 64).all (fun i => (c.entry i).state ≠ 2 && (c.entry i).state ≠ 4)
    && (!isOrdinary a || s.copiesOf a = 0) && c.pushes = [] && c.deferred = [] && c.tileq = [] && c.reissue = [] && (s.reserver a).isNone

/-- CORE_ARRIVE (R212): the arrival is a release at dev scope (R190). -/
def execCoreArrive (a : BitVec 22) (s : State) : Host.Outcome State Fault Refusal :=
  event (if s.mayArrive a.toNat then
    (s.l1Barrier a.toNat false).modCore a.toNat fun c => { c with act := .atWork, arrived := s.tick }
  else s)

/-! ## Release (R211, R214, R215) -/

/-- A flit or a landing push on its way to the memory of a group's clusters (R190). -/
def State.deliveriesFor (s : State) (j : Job) (g : List Nat) : Bool :=
  let cs := (g.filter isOrdinary).map clusterOf
  s.flits.any (fun f => cs.contains f.cluster)
    || j.landings.any fun l => (s.core (landingAgent l)).pushes.any fun p => cs.contains (clusterTo l p)
where
  /-- The cluster to which a push of a landing core goes: one of its own die. -/
  clusterTo (l : Nat) (p : Push) : Nat := l / 64 * 2048 + p.cluster.toNat

/-- The rounds of the dissemination barrier that a domain of a job needs, and those it has completed (R215). -/
def State.roundsDue (s : State) (j : Job) (d : Nat) : Nat :=
  if bit j.xdom d then
    Config.spanRounds j.fn.toNat d ((s.hub.gone.filter fun w => w.1 == j.fn && w.2 == d).length)
  else 0

/-- The rounds that a domain of a function has completed. -/
def State.roundsDone (s : State) (f : BitVec 6) (d : Nat) : Nat :=
  ((s.hub.rounds.find? fun r => r.1 == f && r.2.1 == d).map (·.2.2)).getD 0

/-- The rounds of a domain set. -/
def State.setRounds (s : State) (f : BitVec 6) (d n : Nat) : State :=
  s.modHub fun h => { h with rounds := (h.rounds.filter fun r => !(r.1 == f && r.2.1 == d)) ++ if n = 0 then [] else [(f, d, n)] }

/-- Every link of a group's clusters has its full width (spec/16 R460). -/
def State.fullWidth (s : State) (g : List Nat) : Bool :=
  !s.hub.narrow.any fun e => (g.filter isOrdinary).any fun b => clusterOf b == e.1 / 16

/-- Every member of a group has arrived, on this module. -/
def State.gathered (s : State) (j : Job) (g : List Nat) : Bool :=
  g.all (fun b => (s.core b).arrivedAt) && (!g.any (fun b => (s.core b).atExchangeEnd) || !s.deliveriesFor j g)

/-- A link is due to have the width of its plan again: a group of its cluster is gathered at its end-of-work barrier (spec/16 R460). -/
def State.widthDue (s : State) (l : Nat) : Bool :=
  match s.jobOf (agentIn (l / 16) 0) with
  | some j => ((List.range 32).map (agentIn (l / 16))).any fun b => (s.core b).atWorkEnd && s.gathered j (s.groupOf j b)
  | none => false

/-- A group may be released. -/
def State.releasable (s : State) (j : Job) (g : List Nat) : Bool :=
  s.gathered j g && s.fullWidth g
    && (List.range 16).all fun d => !bit (s.groupMask g) d || s.roundsDue j d ≤ s.roundsDone j.fn d

/-- DISSEMINATION_ROUND (R215): a round of a domain of the function completes, its local members having arrived. -/
def execDisseminationRound (f : BitVec 6) (d : BitVec 4) (s : State) : Host.Outcome State Fault Refusal :=
  event (match s.hub.jobs.find? fun j => j.fn == f && s.roundsDone f d.toNat < s.roundsDue j d.toNat
      && (j.agents.any fun b => bit (s.maskOf b) d.toNat)
      && (match j.agents.find? fun b => bit (s.maskOf b) d.toNat with
          | some b => s.gathered j (s.groupOf j b)
          | none => false) with
    | some _ => s.setRounds f d.toNat (s.roundsDone f d.toNat + 1)
    | none => s)

/-- The IMBALANCE record of a domain at the release of its end-of-work barrier (spec/16 R438). -/
def State.imbalance (s : State) (j : Job) (ws : List Nat) (d : Nat) : State :=
  let ms := ws.filter fun b => bit (s.maskOf b) d
  if ms = [] then s
  else
    let at' (b : Nat) : Nat := ((s.core b).arrived - (s.core b).since).toNat
    let hi := (ms.map at').foldl Nat.max 0
    let lo := (ms.map at').foldl min hi
    let last := (ms.filter fun b => at' b = hi).foldl min ((ms.filter fun b => at' b = hi).headD 0)
    let sum := (ms.map at').foldl (· + ·) 0
    s.imbTrace j.fn.toNat (field (s.core last).ssn 0 32) last (s.core last).taskId d 0x82 (satTo 20 ms.length)
      (satTo 28 lo + satTo 28 hi * 2 ^ 28 + satTo 40 sum * 2 ^ 56) j.stand.replaying

/-- Every task entry of every core of a stand is FREE (spec/07 R230). -/
def State.allFree (s : State) (j : Job) : Bool :=
  j.agents.all fun a => (List.range 64).all fun i => ((s.core a).entry i).state = 0

/-- SYNCM.MASK taken over as a core leaves a barrier (R210). -/
def Core.takeMask (c : Core) : Core := { c with member := c.syncm.extractLsb' 0 16 }

/-- A core leaves the end-of-work barrier (R212), an acquire at dev scope (R190). -/
def State.enterExchange (s : State) (b : Nat) : State :=
  let s := (s.l1Barrier b true).modCore b fun c =>
    { c.takeMask with
      xt := 0, begun := false, sels := [], syncv := none, arrived := s.tick, ports := Vector.replicate 4 Port.reset }
  if field (s.core b).xpc 0 32 = 0 then s.modCore b fun c => { c with act := .atExchange } else s.exchangeRegs b

/-- The result of a vote among the cores that leave the end-of-exchange barrier (R214); none when their operations differ. -/
def State.voteOf (s : State) (xs : List Nat) : Option Bool :=
  let vs := xs.filterMap fun b => (s.core b).syncv
  if vs.all fun v => v.1 then some (vs.any fun v => v.2.1)
  else if vs.all fun v => !v.1 then some (vs.all fun v => v.2.1)
  else none

/-- A core leaves the end-of-exchange barrier, an acquire at dev scope (R190): its OUT ports are drained and every port unbound
(spec/12 R360), its vote is delivered, SSN counts on, the exchange ends (R200, R212, R214). One that an error met by a draining
port fenced stays stopped (spec/02 R100). -/
def State.leaveExchange (s : State) (vote : Option Bool) (b : Nat) : State :=
  let s := (s.l1Barrier b true).closePorts b
  let c := s.core b
  if c.act == .stopped then s else
  let r := vote.getD false
  let s := match c.syncv with
    | some _ => if vote.isNone then s.softEvent b 0x200 else s
    | none => s
  s.modCore b fun c =>
    let c := match c.syncv with
      | some (_, _, d) => { c.setP d.toNat r with vote := w64 (2 + b2n r) }
      | none => { c with vote := 0 }
    { c.takeMask with
      ssn := setField c.ssn 0 32 (field c.ssn 0 32 + 1), tsk := setField c.tsk 21 1 0, xt := 0, act := .idle, sleep := .none
      sels := [], syncv := none, latch := none, repc := 0, repBuf := [], repSusp := false, begun := false
      trapc := setField c.trapc 30 1 0 }

/-- A function holds its stands at their next boundary (spec/07 R235, R239, R243). -/
def State.holdsStands (s : State) (f : Nat) : Bool := (s.func f).ending || bit (s.func f).vfctl 62 || s.vfState f = 4

/-- A core without the ticks that the model notes in it, and without what is no part of a stand's state (R236). -/
def Core.timeless (c : Core) : Core := { c with since := 0, arrived := 0, wctl := Core.reset.wctl, wbase := Core.reset.wbase, l1 := [] }

/-- A snapshot without its times. -/
def Snapshot.timeless (x : Snapshot) : Snapshot :=
  { x with tick := 0, image := { x.image with cores := x.image.cores.map fun e => (e.1, e.2.timeless), off := 0, size := 0 } }

/-- A pause has taken hold: every stand of the function is stopped (spec/07 R239). -/
def State.settlePause (s : State) (f : Nat) : State :=
  if bit (s.func f).vfctl 62 && s.vfState f ≠ 4
      && s.hub.jobs.all (fun j => j.fn.toNat != f || j.stand.held || j.stand.away) then s.setVfState f 3 else s

/-- The hub still lists a job. -/
def State.hasJob (s : State) (j : Job) : Bool := s.hub.jobs.any fun k => k.same j

/-- The job as the hub lists it now. -/
def State.jobNow (s : State) (j : Job) : Job := (s.hub.jobs.find? fun k => k.same j).getD j

/-- A function that gives up its turn owes, as its debt, the time from the end of its slice to the present hold of a stand; the last
hold counts (spec/07 R235, R237). -/
def State.noteDebt (s : State) (f : Nat) : State :=
  if (s.func f).ending then s.modFunc f fun x => { x with debt := (s.tick - x.sliceEnd).toNat } else s

/-- A domain of a job has an open collective: it spans modules, has a member here, and its present phase has not released (spec/07
R244). -/
def State.openCollectives (s : State) (j : Job) : List Nat :=
  let v := s.viewOf j
  (List.range 16).filter fun d => bit j.xdom d && j.agents.any fun a => bit (v.maskOf a) d

/-- A job of a function that is being reset ended (spec/07 R243); the collectives that it has open are withdrawn from later. -/
def State.resetEnd (s : State) (j : Job) : State :=
  let ds := s.openCollectives j
  ((s.noticeJob j).modFunc j.fn.toNat fun x => { x with opened := (x.opened ++ ds).eraseDups }).endJob j .vfreset 0 0

/-- The stand at the boundary of domain 0: clocks and ramp violations give way (spec/00 R5, R459), a replay ends with its
comparison (spec/16 R452), a snapshot is taken (R451), and the stand is held when someone asked for it (R235, R450). A
stand of a function that is being reset ends there (spec/07 R243). -/
def State.boundary (s : State) (j : Job) : State :=
  let differs := match s.hub.snaps.find? fun x => x.ofJob j && x.ssn.toNat == s.jobSsn j with
    | some x => !((s.snapOf j).timeless == x.timeless)
    | none => false
  let s := if j.stand.replaying then
      s.modJob j fun k => { k with stand := { k.stand with
        replaying := false, stopReq := true, diverged := k.stand.diverged || differs } }
    else if j.stand.snapMode then s.takeSnapshot j else s
  let s := s.modJob j fun k => { k with stand := { k.stand with
    halfClock := k.stand.halfNext, ramped := false
    held := k.stand.stopReq || s.holdsStands k.fn.toNat } }
  if s.vfState j.fn.toNat = 4 then s.resetEnd (s.jobNow j) else (s.noteDebt j.fn.toNat).settlePause j.fn.toNat

/-- A group released (R211): each member goes on from the barrier at which it waits. When domain 0 leaves its end-of-work
barrier with every entry FREE, the job ends and nothing else happens (R230, R469). -/
def State.releaseGroup (s : State) (j : Job) (g : List Nat) : State :=
  let ws := g.filter fun b => (s.core b).atWorkEnd
  let xs := g.filter fun b => (s.core b).atExchangeEnd
  let s := (List.range 16).foldl (fun (s : State) d =>
    if bit (s.groupMask g) d then s.setRounds j.fn d 0 else s) s
  let s := (List.range 16).foldl (fun (s : State) d => s.imbalance j ws d) s
  if (ws.any fun b => bit (s.maskOf b) 0) && s.allFree j then s.endJob j .done 0 0
  else
    let fails := s.hub.broken.any fun e => e.1 == j.fn && bit (s.groupMask g) e.2
    let vote := if fails then some false else s.voteOf xs
    let s := if xs = [] then s else s.modHub fun h =>
      { h with broken := h.broken.filter fun e => !(e.1 == j.fn && bit (s.groupMask g) e.2) }
    let s := s.modHub fun h => { h with ballast := h.ballast.filter fun e => !ws.any fun b => isOrdinary b && clusterOf b == e.1 }
    let zero := xs.any fun b => bit (s.maskOf b) 0
    let s := ws.foldl (fun (s : State) b => s.enterExchange b) s
    let s := xs.foldl (fun (s : State) b => if s.hasJob j then s.leaveExchange vote b else s) s
    let s := if zero && s.hasJob j then s.boundary (s.jobNow j) else s
    if xs = [] || !s.hasJob j then s
    else if (s.jobNow j).stand.held then
      xs.foldl (fun (s : State) b => s.modCore b fun c => { c with since := s.tick, gated := true }) s
    else s.startWork (s.jobNow j) xs

/-- BARRIER_GROUP_RELEASE (R211): the group of core a. -/
def execBarrierGroupRelease (a : BitVec 22) (s : State) : Host.Outcome State Fault Refusal :=
  event (match s.jobOf a.toNat with
    | some j => if s.runs a.toNat && s.releasable j (s.groupOf j a.toNat) then s.releaseGroup j (s.groupOf j a.toNat) else s
    | none => s)

/-- The job that owns a fault record. -/
def State.recJob (s : State) (r : FaultRec) : Option Job := s.hub.jobs.find? fun j => j.fn == r.fn && j.agents.contains r.req.agent

/-- A current record answered and retired (spec/15 R431): its access walks again, or its job ends. -/
def State.answerRec (s : State) (r : FaultRec) (term : Bool) : State :=
  let s := s.modHub fun h => { h with faults := h.faults.erase r }
  if term then
    match s.recJob r with
    | some j => s.endJob j .terminated r.req.agent 0x08
    | none => s
  else s.walkAgain r.req

/-- The answers that the hub holds for the records of a stand applied (spec/07 R238); with the first that ends the job, the rest have
nothing to act on. -/
def State.applyAnswers (s : State) (j : Job) : State :=
  let held (r : FaultRec) : Bool := r.later.isSome && r.fn == j.fn && j.agents.contains r.req.agent
  let s := (s.hub.faults.filter held).foldl (fun (s : State) r =>
    if s.hasJob j then s.answerRec r (r.later.getD false) else s) s
  s.modHub fun h => { h with faults := h.faults.filter fun r => !held r }

/-- A held stand goes on, unless something still holds it: a stand held at a boundary begins its work phase, an evicted one
goes on where it stopped, with the answers that its records have had meanwhile. -/
def State.letGo (s : State) (j : Job) : State :=
  if !j.stand.held || j.stand.away || j.stand.stopReq || s.holdsStands j.fn.toNat then s
  else
    let s := (s.modJob j fun k => { k with stand := { k.stand with held := false, evicted := false } }).applyAnswers j
    if j.stand.evicted || !s.hasJob j then s else s.startWork (s.jobNow j) (j.agents.filter fun b => (s.core b).gated)

/-! ## Watchdog and quiescence (R213, R217) -/

/-- A trap on core a at its instruction, from outside: a wait of its event unit is abandoned. -/
def State.trapCore (s : State) (a : Nat) (cause : Cause) (v : W64) : State :=
  { { s.leaveLists a with cur := a }.takeTrap cause v with cur := s.cur }

/-- EXCHANGE_WATCHDOG (R213): XT reaches 0xFFFF in a routine that has not arrived. -/
def execExchangeWatchdog (a : BitVec 22) (s : State) : Host.Outcome State Fault Refusal :=
  let c := s.core a.toNat
  event (if c.act == .exchange && c.sleep ≠ .barrier && field c.xt 0 16 ≠ 0xFFFF then
    (s.modCore a.toNat fun c => { c with xt := 0xFFFF }).trapCore a.toNat .watchdog 1
  else s)

/-- TRAPV of NO_PROGRESS for a core that is blocked away from a barrier; none for any other core (R217). -/
def State.blocked (s : State) (a : Nat) : Option Nat :=
  if s.woken a || !((s.core a).act == .task || (s.core a).act == .exchange) then none
  else
    match (s.core a).sleep with
    | .full _ => some 1
    | .arrive _ _ | .wait _ _ | .mutex _ | .event _ _ => some 2
    | .link true => some 3
    | _ => none

/-- What a blocked core awaits: the local pointer of its access, or the link code 3 (spec/16 R437). -/
def Core.awaited (c : Core) : Nat :=
  match c.sleep with
  | .link _ => 3
  | _ => c.awaits.toNat

/-- No engine write, push or delivery is pending to the memory of a domain's members. -/
def State.quietEngines (s : State) (j : Job) (ms : List Nat) : Bool :=
  let cs := ((ms.filter isOrdinary).map clusterOf).eraseDups
  !s.deliveriesFor j ms && cs.all (fun c => (s.cluster c).copies = [])
    && ms.all fun b => (s.core b).pushes = [] && (s.core b).ports.toList.all fun p => !p.out || p.items = []

/-- The members of domain d of a job when R217 holds of it: every one blocked, not every one at its barrier. -/
def State.stuckMembers (s : State) (j : Job) (d : Nat) : Option (List Nat) :=
  let ms := j.agents.filter fun b => bit (s.maskOf b) d
  if ms ≠ [] && s.quietEngines j ms && ms.all (fun b => (s.core b).arrivedAt || (s.blocked b).isSome)
      && ms.any (fun b => (s.blocked b).isSome) && j.agents.all (fun b => s.runs b)
  then some ms else none

/-- One member of a domain without progress trapped, with its record. -/
def State.trapBlocked (s : State) (b : Nat) : State :=
  match s.blocked b with
  | some v => (s.trace b 0 0x84 ((s.core b).awaited + v * 2 ^ 32)).trapCore b .noProgress (w64 v)
  | none => s

/-- The domains of a job that make no progress, each with the tick since which it does not (R217). -/
def State.stuckOf (s : State) (j : Job) : List (Nat × W64) :=
  (List.range 16).filterMap fun d =>
    if (s.stuckMembers j d).isSome then some (d, (sget j.stuck d).getD s.tick) else none

/-- What the sync tree watches for noted as it stands now (R217). -/
def State.noteStuck (s : State) : State :=
  s.modHub fun h => { h with jobs := h.jobs.map fun j => { j with stuck := s.stuckOf j } }

/-- A domain of a job has made no progress for 4,096 cycles. -/
def State.stuckLong (s : State) (j : Job) (d : Nat) : Bool :=
  match sget j.stuck d with
  | some t => 4096 ≤ (s.tick - t).toNat
  | none => false

/-- NO_PROGRESS (R217): the state has lasted 4,096 cycles. -/
def execNoProgress (f : BitVec 6) (d : BitVec 4) (s : State) : Host.Outcome State Fault Refusal :=
  event (match s.hub.jobs.findSome? fun j =>
      if j.fn == f && s.stuckLong j d.toNat then s.stuckMembers j d.toNat else none with
    | some ms => ms.foldl (fun (s : State) b => s.trapBlocked b) s
    | none => s)

/-! ## The rise of a pinned stand (spec/16 R459) -/

/-- RAMP_CHECK (R459, R437): the measured rise of a pinned stand is recorded; one more than 10 % above PSTEP is a counted
event, and the stand runs at half clock until its next end-of-exchange release. -/
def execRampCheck (f : BitVec 6) (jid : BitVec 32) (rise : BitVec 32) (s : State) : Host.Outcome State Fault Refusal :=
  event (match s.hub.jobs.find? fun j => j.fn == f && j.jobid == jid && j.pin with
    | some j =>
      let steep := j.pstep.toNat * 11 < rise.toNat * 10
      let a := agentIn (j.clusters.headD 0) 0
      let s := s.hubTrace f.toNat (s.jobSsn j) a 0 0 0x85 j.pol.toNat (rise.toNat * 2 ^ 16 + b2n steep * 2 ^ 48) j.stand.replaying
      if steep then
        (s.recordCause (coreCause a (s.core a) 1 false .rampViolation (rise.setWidth 64))).modJob j fun k =>
          { k with stand := { k.stand with ramped := true, halfClock := true } }
      else s
    | none => s)

end Sys2Proof.Machine
end

