-- ==== Sys2Proof/Machine/Counters.lean ====
section
/-! DEFINITION. Counter banks and trace units: ownership, the counter aperture (spec/16 R440 to R447), the trace buffers (R436,
R439), and partitions as far as ownership needs them (spec/07 R231). -/

namespace Sys2Proof.Machine

/-! ## Partitions (R231) -/

/-- PART of a number. -/
def State.part (s : State) (p : Nat) : W64 := vget s.hub.part p 0

/-- A cluster lies in the rectangle of a PART value with V set. -/
def partHolds (w : W64) (c : Nat) : Bool :=
  bit w 63 && field w 0 8 ≤ clusterX c && clusterX c ≤ field w 16 8 && field w 8 8 ≤ clusterY c && clusterY c ≤ field w 24 8

/-- A cluster lies in the partition of a function. -/
def State.inPartition (s : State) (f c : Nat) : Bool := partHolds (s.part (field (s.func f).vfctl 40 5)) c

/-- The clusters of a die. -/
def clustersOfDie (d : Nat) : List Nat := (List.range 1280).map fun i => d * 2048 + i

/-! ## Units and their owners (R440, R441) -/

/-- Kinds of owned units: 0 a die bank (4 × die + bank), 1 a cluster bank, 2 a trace unit; and how many there are. -/
def unitCount (u : Nat) : Nat := if u = 0 then 64 else if u = 1 then 20480 else if u = 2 then 20500 else 0

/-- OWN of a unit changed: counters 0, selects at event 0, TUCTL clear. -/
def State.changeOwn (s : State) (u n : Nat) (v : W64) : State :=
  if v = s.own u n then s
  else if u = 2 then s.setUnit n v 0 false
  else
    let b := s.bankAt u n
    s.setBank u n { ctr := b.ctr.map fun _ => 0, sel := b.sel.map fun _ => 0, own := v }

/-- A guest may claim a unit: its clusters lie in the guest's partition. -/
def State.mayClaim (s : State) (f u n : Nat) : Bool :=
  if u = 0 then true
  else if u = 1 || n < 20480 then s.inPartition f (clusterOfNo n)
  else if n < 20496 then (clustersOfDie (n - 20480)).any fun c => s.inPartition f c
  else false

/-- A store to OWN of unit n of kind u by function f (R441). -/
def State.storeOwn (s : State) (f u n : Nat) (v : W64) : State :=
  let old := s.own u n
  let m := ownMode v
  if unitCount u ≤ n then s
  else if f = 0 then
    if m = 2 then
      let t := s.changeOwn u n (w64 (2 ^ 63))
      if ownMode old = 1 then t.lose u n (field old 0 6) else t
    else if m = 0 then s.changeOwn u n 0
    else s
  else if m = 1 then
    if (ownMode old = 0 || holds old f) && s.mayClaim f u n then s.changeOwn u n (w64 (2 ^ 62 + f)) else s
  else if m = 0 && holds old f then s.changeOwn u n 0
  else s

/-- OWN_GUEST_CLAIM (R441). -/
def execOwnGuestClaim (f : BitVec 6) (u : BitVec 2) (n : BitVec 16) (s : State) : Host.Outcome State Fault Refusal :=
  event (if f = 0 then s else s.storeOwn f.toNat u.toNat n.toNat (w64 (2 ^ 62)))

/-- OWN_HOST_CLAIM (R441). -/
def execOwnHostClaim (u : BitVec 2) (n : BitVec 16) (s : State) : Host.Outcome State Fault Refusal :=
  event (s.storeOwn 0 u.toNat n.toNat (w64 (2 ^ 63)))

/-- OWN_RELEASE (R441). -/
def execOwnRelease (f : BitVec 6) (u : BitVec 2) (n : BitVec 16) (s : State) : Host.Outcome State Fault Refusal :=
  event (s.storeOwn f.toNat u.toNat n.toNat 0)

/-! ## CSTAT (R442) -/

/-- A store to CSTAT or to CSTAT + 8 by a function. -/
def State.storeCstat (s : State) (f : Nat) (hi : Bool) (v : W64) : State :=
  s.modFunc f fun x => if hi then (if v = 0 then { x with lostc := 0 } else x) else { x with lostd := x.lostd &&& ~~~v }

/-- CSTAT_CLEAR (R442). -/
def execCstatClear (f : BitVec 6) (hi : BitVec 1) (val : BitVec 64) (s : State) : Host.Outcome State Fault Refusal :=
  event (s.storeCstat f.toNat (hi = 1) val)

/-! ## Counters and selects (R443 to R446) -/

/-- What a function reads in place of a value that it may not see; none when it may (R443). -/
def refusedRead (own : W64) (f : Nat) : Option W64 :=
  if f = 0 || holds own f then none
  else some (if ownMode own = 2 then 0x8000000000000001#64 else 0x8000000000000002#64)

/-- A counter of a bank as a function reads it; SLOT_ASSIGNED shows the cluster's ramp slot (R446). -/
def State.readCounter (s : State) (f u n i : Nat) : W64 :=
  let b := s.bankAt u n
  match refusedRead b.own f with
  | some v => v
  | none => if u = 1 && b.sel[i]? = some 11 then w64 (s.cluster (clusterOfNo n)).slot else b.ctr[i]?.getD 0

/-- A select of a bank as a function reads it. -/
def State.readSelect (s : State) (f u n i : Nat) : W64 :=
  let b := s.bankAt u n
  (refusedRead b.own f).getD (b.sel[i]?.getD 0)

/-- A store to a counter by a function that holds the bank: bits [62:0] are its count (R445). A counter whose select names no event
of the bank reads its code until it is selected again (R446). -/
def State.storeCounter (s : State) (f u n i : Nat) (v : W64) : State :=
  let b := s.bankAt u n
  if holds b.own f && bankEvent u ((b.sel[i]?).getD 0).toNat then
    s.setBank u n { b with ctr := b.ctr.set i (v &&& 0x7FFFFFFFFFFFFFFF#64) }
  else s

/-- A store to a select by a function that holds the bank: the counter starts from zero, or reads the code of R445. -/
def State.storeSelect (s : State) (f u n i : Nat) (v : W64) : State :=
  let b := s.bankAt u n
  if holds b.own f then
    s.setBank u n { b with sel := b.sel.set i v,
                           ctr := b.ctr.set i (if bankEvent u v.toNat then 0 else 0x8000000000000000#64) }
  else s

/-- COUNTER_SELECT_WRITE (R443). -/
def execCounterSelectWrite (f : BitVec 6) (u : BitVec 2) (n : BitVec 16) (i : BitVec 4) (val : BitVec 64) (s : State) :
    Host.Outcome State Fault Refusal :=
  event (if 1 < u.toNat || unitCount u.toNat ≤ n.toNat then s else s.storeSelect f.toNat u.toNat n.toNat i.toNat val)

/-- TUCTL's bits (R444). -/
def tuctlMask : W64 := 0x1FFFF#64

/-- TBCTL's bits (R439). -/
def tbctlMask : W64 := 0xFFFFFFFFF803#64

/-! ## The counter aperture (R440) -/

/-- A register of the aperture: what it is and where. -/
inductive ApReg where
  | counter (u n i : Nat)
  | select (u n i : Nat)
  | own (u n : Nat)
  | tuctl (n : Nat)
  | lostd | lostc | tbctl | tbhead | tbtail
  deriving DecidableEq, Repr

/-- The register at an offset of the aperture, aligned to 8 bytes. -/
def apReg (o : Nat) : Option ApReg :=
  if o % 8 ≠ 0 then none
  else if o < 0x4000 then
    let i := o % 0x100 / 8
    some (if i < 16 then .counter 0 (o / 0x100) i else .select 0 (o / 0x100) (i - 16))
  else if o < 0x4200 then some (.own 0 ((o - 0x4000) / 8))
  else if 0x100000 ≤ o && o < 0x100000 + 0x80 * 20480 then
    let k := o - 0x100000
    let i := k % 0x80 / 8
    some (if i < 8 then .counter 1 (k / 0x80) i else .select 1 (k / 0x80) (i - 8))
  else if 0x400000 ≤ o && o < 0x400000 + 8 * 20480 then some (.own 1 ((o - 0x400000) / 8))
  else if 0x500000 ≤ o && o < 0x500000 + 8 * 20500 then some (.own 2 ((o - 0x500000) / 8))
  else if 0x580000 ≤ o && o < 0x580000 + 8 * 20500 then some (.tuctl ((o - 0x580000) / 8))
  else if o = 0x600000 then some .lostd
  else if o = 0x600008 then some .lostc
  else if o = 0x600010 then some .tbctl
  else if o = 0x600018 then some .tbhead
  else if o = 0x600020 then some .tbtail
  else none

/-- A register of the aperture read by a function. -/
def State.apRead (s : State) (f : Nat) : ApReg → W64
  | .counter u n i => s.readCounter f u n i
  | .select u n i => s.readSelect f u n i
  | .own u n => s.own u n
  | .tuctl n => (refusedRead (s.own 2 n) f).getD (s.unit n).2.1
  | .lostd => (s.func f).lostd
  | .lostc => (s.func f).lostc
  | .tbctl => (s.func f).tbctl
  | .tbhead => (s.func f).tbhead
  | .tbtail => (s.func f).tbtail

/-- A register of the aperture stored to by a function. -/
def State.apWrite (s : State) (f : Nat) (v : W64) : ApReg → State
  | .counter u n i => s.storeCounter f u n i v
  | .select u n i => s.storeSelect f u n i v
  | .own u n => s.storeOwn f u n v
  | .tuctl n => if holds (s.own 2 n) f then s.setUnit n (s.unit n).1 (v &&& tuctlMask) (s.unit n).2.2 else s
  | .lostd => s.storeCstat f false v
  | .lostc => s.storeCstat f true v
  | .tbctl => s.modFunc f fun x => { x with tbctl := v &&& tbctlMask }
  | .tbhead => s.modFunc f fun x => { x with tbhead := v }
  | .tbtail => s.modFunc f fun x => { x with tbtail := v }

/-! ## Trace buffers (R436, R439) -/

/-- The order in which the aggregator takes records: by tick, agent and type. -/
def TraceRec.order (r : TraceRec) : Nat := field r.bytes 0 64 * 2 ^ 40 + field r.bytes 106 22 * 2 ^ 8 + field r.bytes 128 8

/-- The record that the aggregator takes next. -/
def State.traceNext (s : State) : Option TraceRec :=
  s.hub.traces.foldl (fun b r =>
    match b with
    | some x => if r.order < x.order then some r else b
    | none => some r) none

/-- Records of a unit were dropped. -/
def State.unitLost (s : State) (r : TraceRec) : Bool := if r.unit < 20500 then (s.unit r.unit).2.2 else (s.func r.fn.toNat).tbLost

/-- The mark of dropped records of a unit set or cleared. -/
def State.markLost (s : State) (r : TraceRec) (b : Bool) : State :=
  if r.unit < 20500 then let (o, c, _) := s.unit r.unit; s.setUnit r.unit o c b
  else s.modFunc r.fn.toNat fun x => { x with tbLost := b }

/-- Where a record goes in its function's buffer: a leaf, whether it is large, its entry, and the address; none when
the buffer takes none. -/
def State.tracePlace (s : State) (r : TraceRec) : Option (W64 × Bool × Nat × Nat × BitVec 12) :=
  let x := s.func r.fn.toNat
  let n := field x.tbctl 11 5
  if !bit x.tbctl 0 || n < 6 || 24 < n || 2 ^ n ≤ countDiff x.tbtail.toNat x.tbhead.toNat then none
  else
    match r.pol with
    | none => none
    | some p =>
      let va := (field x.tbctl 16 32 * 2 ^ 16 + x.tbtail.toNat % 2 ^ n * 32) % 2 ^ 48
      match s.walk p va 1 true with
      | .leaf l large entry => some (l, large, entry, va, p)
      | .fault _ _ _ _ => none

/-- 32 bytes written at an address under a leaf of a polder, or sent to the peer that holds it. -/
def State.storeFar32 (s : State) (p : BitVec 12) (l : W64) (large : Bool) (va x : Nat) : State :=
  let pa := leafPa l large va
  if s.remote l then
    s.sendStores (BitVec.ofNat 12 (leafHome l)) pa (leafKey l) 4 x
  else s.physWrite pa 32 x (allBytes 32) (s.viaOf p (leafKey l) (leafCa l ≠ 0))

/-- A record written to its buffer, or dropped. -/
def State.writeTrace (s : State) (r : TraceRec) : State :=
  let f := r.fn.toNat
  let s := s.modHub fun h => { h with traces := h.traces.erase r }
  match s.tracePlace r with
  | none => s.markLost r true
  | some (l, large, entry, va, p) =>
    let x := setBit r.bytes 159 (s.unitLost r)
    (((s.setAccessed entry).storeFar32 p l large va x.toNat).modFunc f fun y => { y with tbtail := y.tbtail + 1 }).markLost r false

/-- TRACE_RECORD_WRITE (R439). -/
def execTraceRecordWrite (s : State) : Host.Outcome State Fault Refusal :=
  event (match s.traceNext with
    | some r => s.writeTrace r
    | none => s)

end Sys2Proof.Machine
end

