-- ==== Sys2Proof/Machine/Debug.lean ====
section
/-! DEFINITION. The debugger: stops, snapshots, replays and the debug aperture (spec/16 R449 to R453). -/

namespace Sys2Proof.Machine

/-! ## Commands (R453) -/

/-- A command that the stand's state does not allow: ignored, with ERR set. -/
def State.debugError (s : State) : State := s.modHub fun h => { h with derr := true }

/-- The stand on which DCMD, DARG and DSTAT act. -/
def State.debugged (s : State) : Option Job := s.jobOf (field s.hub.ssel 0 22)

/-- A stand changed by f. -/
def State.modStand (s : State) (j : Job) (f : Stand → Stand) : State := s.modJob j fun k => { k with stand := f k.stand }

/-- The stand is held at the debugger's request. -/
def Stand.stopped (x : Stand) : Bool := x.held && x.stopReq

/-- A halted core made ready to run on at the instruction that halted it. -/
def Core.runOn (c : Core) : Core :=
  if c.act == .halted then { c with act := if c.ex then .exchange else .task, passHit := true } else c

/-- STOP. -/
def State.debugStop (s : State) (j : Job) : State :=
  if j.stand.halted.isSome then s.debugError else s.modStand j fun x => { x with stopReq := true }

/-- RESUME. -/
def State.debugResume (s : State) (j : Job) : State :=
  let x := j.stand
  if !x.stopReq && x.halted.isNone && !x.haltAll then s.debugError
  else
    let s := match x.halted with
      | some a => s.modCore a Core.runOn
      | none => s
    let s := s.modStand j fun x => { x with stopReq := false, halted := none, haltAll := false }
    s.letGo (s.jobNow j)

/-- REPLAY (R452): the snapshot of a superstep restored, and the superstep run again under halt-at-hit. -/
def State.debugReplay (s : State) (j : Job) (ssn : Nat) : State :=
  match s.hub.snaps.find? fun x => x.ofJob j && x.ssn.toNat == ssn with
  | some x =>
    if j.stand.stopped then
      let s := s.loadStand j x.image
      let s := s.modStand j fun x => { x with replaying := true, diverged := false, stopReq := false, held := false }
      s.startWork (s.jobNow j) j.agents
    else s.debugError
  | none => s.debugError

/-- A command of DCMD. -/
def State.debugCommand (s : State) (n : Nat) : State :=
  match s.debugged with
  | none => s.debugError
  | some j =>
    match n with
    | 1 => s.debugStop j
    | 2 => s.debugResume j
    | 3 => s.modStand j fun x => { x with snapMode := true }
    | 4 => s.modStand j fun x => { x with snapMode := false }
    | 5 => s.debugReplay j (field s.hub.darg 0 32)
    | 6 => s.modStand j fun x => { x with haltAll := true }
    | _ => s.debugError

/-- DEBUG_STOP. -/
def execDebugStop (s : State) : Host.Outcome State Fault Refusal := event (s.debugCommand 1)

/-- DEBUG_RESUME. -/
def execDebugResume (s : State) : Host.Outcome State Fault Refusal := event (s.debugCommand 2)

/-- SNAP_ON. -/
def execSnapOn (s : State) : Host.Outcome State Fault Refusal := event (s.debugCommand 3)

/-- SNAP_OFF. -/
def execSnapOff (s : State) : Host.Outcome State Fault Refusal := event (s.debugCommand 4)

/-- DEBUG_REPLAY: DARG and the command. -/
def execDebugReplay (ssn : BitVec 32) (s : State) : Host.Outcome State Fault Refusal :=
  event ((s.modHub fun h => { h with darg := setField h.darg 0 32 ssn.toNat }).debugCommand 5)

/-- HALT_ALL. -/
def execHaltAll (s : State) : Host.Outcome State Fault Refusal := event (s.debugCommand 6)

/-- SNAPSHOT (R451): the state of a stand in snapshot mode copied while it stands at a boundary. -/
def execSnapshot (f : BitVec 6) (jid : BitVec 32) (s : State) : Host.Outcome State Fault Refusal :=
  event (match s.hub.jobs.find? fun j => j.fn == f && j.jobid == jid && j.stand.snapMode && j.stand.held with
    | some j => s.takeSnapshot j
    | none => s)

/-! ## DSTAT -/

/-- DSTAT of the selected stand. -/
def State.dstat (s : State) : W64 :=
  let e := b2n s.hub.derr * 2 ^ 58
  match s.debugged with
  | none => w64 e
  | some j =>
    let x := j.stand
    w64 (e + b2n x.diverged * 2 ^ 59 + b2n x.halted.isSome * 2 ^ 60 + b2n x.replaying * 2 ^ 61 + b2n x.snapMode * 2 ^ 62
      + b2n x.stopped * 2 ^ 63 + x.halted.getD 0 * 2 ^ 32 + s.jobSsn j)

/-- A value that the host reads. -/
def State.answered (s : State) (v : W64) : State := s.modHub fun h => { h with answer := v }

/-- DSTAT_READ: the value is returned, and ERR clears. -/
def execDstatRead (s : State) : Host.Outcome State Fault Refusal :=
  event ((s.answered s.dstat).modHub fun h => { h with derr := false })

/-! ## The state window -/

/-- The window shows core a: its stand is stopped or the core is halted. -/
def State.shows (s : State) (a : Nat) : Bool :=
  match s.jobOf a with
  | some j => j.stand.stopped || (s.core a).act == .halted
  | none => false

/-- 8 bytes of the state window at an offset; none at an offset that the layout does not list. -/
def State.windowRead (s : State) (a o : Nat) : Option W64 :=
  let c := s.core a
  if o % 8 ≠ 0 then none
  else if o < 0x100 then some (c.s (o / 8))
  else if o = 0x100 then some (w64 (c.p.toNat / 2 * 2 + 1))
  else if 0x140 ≤ o && o < 0x180 then some (c.qr ((o - 0x140) / 8))
  else if 0x800 ≤ o && o < 0x1000 then
    let n := (o - 0x800) / 8
    if specKnown n && specPresent a n then some (s.spec a n) else none
  else if 0x1000 ≤ o && o < 0x1400 then some ((vget c.v ((o - 0x1000) / 64) 0).extractLsb' (8 * (o % 64)) 64)
  else if 0x2000 ≤ o && o < 0x2800 then
    let r := vget c.acc ((o - 0x2000) / 512) (Vector.replicate 128 0)
    let k := o % 512 / 4
    some (vget r (k + 1) 0 ++ vget r k 0)
  else if 0x8000 ≤ o && o < 0xC000 then some (w64 (s.read (tcmBase a + (o - 0x8000)) 8))
  else none

/-- 8 bytes written through the state window; a write that the register refuses sets ERR. -/
def State.windowWrite (s : State) (a o : Nat) (v : W64) : State :=
  if o % 8 ≠ 0 then s
  else if o < 0x100 then s.modCore a fun c => c.setS (o / 8) v
  else if o = 0x100 then s.modCore a fun c => { c with p := v.extractLsb' 0 8 }
  else if 0x140 ≤ o && o < 0x180 then s.modCore a fun c => c.setQ ((o - 0x140) / 8) v
  else if 0x800 ≤ o && o < 0x1000 then
    let n := (o - 0x800) / 8
    if specKnown n && specPresent a n && specWritable 2 n then
      match s.writeSpec a n v with
      | .ok t => t
      | .error _ => s.debugError
    else s.debugError
  else if 0x1000 ≤ o && o < 0x1400 then
    let i := (o - 0x1000) / 64
    s.modCore a fun c => { c with v := vset c.v i (setField (vget c.v i 0) (8 * (o % 64)) 64 v.toNat) }
  else if 0x2000 ≤ o && o < 0x2800 then
    let i := (o - 0x2000) / 512
    let k := o % 512 / 4
    s.modCore a fun c =>
      let r := vget c.acc i (Vector.replicate 128 0)
      { c with acc := vset c.acc i (vset (vset r k (v.extractLsb' 0 32)) (k + 1) (v.extractLsb' 32 32)) }
  else if 0x8000 ≤ o && o < 0xC000 then s.tcmWrite a (o - 0x8000) 8 v.toNat
  else s

/-- STATE_WINDOW_WRITE: discarded while the window does not show the selected core. -/
def execStateWindowWrite (off : BitVec 16) (val : BitVec 64) (s : State) : Host.Outcome State Fault Refusal :=
  let a := field s.hub.dsel 0 22
  event (if s.shows a then s.windowWrite a off.toNat val else s)

/-! ## The debug aperture -/

/-- WCTL's bits. -/
def wctlMask : W64 := 0xB000000000000FFF#64

/-- The debug aperture has a register at an offset, or the state window lies there. -/
def debugReg (o : Nat) : Bool :=
  o % 8 == 0 && ([0x00, 0x10, 0x18, 0x20, 0x28, 0x40, 0x48, 0x50, 0x58].contains o || (0x60 ≤ o && o < 0x80)
    || (0x10000 ≤ o && o < 0x20000))

/-- A register of the debug aperture read: the state after the read, and the value. -/
def State.debugRead (s : State) (o : Nat) : State × W64 :=
  let ones : W64 := 0xFFFFFFFFFFFFFFFF#64
  let a := field s.hub.dsel 0 22
  let c := s.core a
  match o with
  | 0x00 => (s, s.hub.dsel)
  | 0x10 => (s, vget c.wctl 0 0)
  | 0x18 => (s, vget c.wbase 0 0)
  | 0x20 => (s, vget c.wctl 1 0)
  | 0x28 => (s, vget c.wbase 1 0)
  | 0x40 => (s, s.hub.ssel)
  | 0x48 => (s, 0)
  | 0x50 => (s, s.hub.darg)
  | 0x58 => (s.modHub fun h => { h with derr := false }, s.dstat)
  | _ =>
    if 0x60 ≤ o && o < 0x80 && o % 8 = 0 then (s, vget s.hub.hbrk ((o - 0x60) / 8) 0)
    else if 0x10000 ≤ o && o < 0x20000 then (s, if s.shows a then (s.windowRead a (o - 0x10000)).getD ones else ones)
    else (s, ones)

/-- A register of the debug aperture written. -/
def State.debugWrite (s : State) (o : Nat) (v : W64) : State :=
  let a := field s.hub.dsel 0 22
  match o with
  | 0x00 => s.modHub fun h => { h with dsel := w64 (field v 0 22) }
  | 0x10 => s.modCore a fun c => { c with wctl := vset c.wctl 0 (v &&& wctlMask) }
  | 0x18 => s.modCore a fun c => { c with wbase := vset c.wbase 0 (w64 (field v 0 32)) }
  | 0x20 => s.modCore a fun c => { c with wctl := vset c.wctl 1 (v &&& wctlMask) }
  | 0x28 => s.modCore a fun c => { c with wbase := vset c.wbase 1 (w64 (field v 0 32)) }
  | 0x40 => s.modHub fun h => { h with ssel := w64 (field v 0 22) }
  | 0x48 => s.debugCommand v.toNat
  | 0x50 => s.modHub fun h => { h with darg := v }
  | _ =>
    if 0x60 ≤ o && o < 0x80 && o % 8 = 0 then
      s.modHub fun h => { h with hbrk := vset h.hbrk ((o - 0x60) / 8) (v &&& 0x8000000000000FFF#64) }
    else if 0x10000 ≤ o && o < 0x20000 && s.shows a then s.windowWrite a (o - 0x10000) v
    else s

end Sys2Proof.Machine
end

