-- ==== Sys2Proof/Machine/Tenants.lean ====
section
/-! DEFINITION. Functions that share the module: slices, switches and forced eviction (spec/07 R234 to R240), pauses (R239),
resets (R243, R244), and the end of self-tests (R245). -/

namespace Sys2Proof.Machine

/-! ## Slices (R234, R235) -/

/-- PART of a function's stands. -/
def State.partOf (s : State) (f : Nat) : Nat := field (s.func f).vfctl 40 5

/-- The jobs of a function. -/
def State.jobsOf (s : State) (f : Nat) : List Job := s.hub.jobs.filter fun j => j.fn.toNat == f

/-- The hub takes records of a function: its ring is not stopped, and no completion is held (R223, R224). -/
def State.takesRecords (s : State) (f : Nat) : Bool :=
  !(s.func f).launch.stopped && (s.func f).owed = [] && (s.region f).isSome

/-- A launch of a function waits that a turn would let go on: one without EXCL, which waits for no other function to leave the
partition (R234), and whose record the hub takes. -/
def State.waitsTurn (s : State) (f : Nat) : Bool :=
  s.takesRecords f && s.hub.plant.accepting && match (s.func f).waiting with
    | some r => !bit r 129
    | none => false

/-- A function has a job, or a launch that waits for its turn (log entry 134). -/
def State.hasWork (s : State) (f : Nat) : Bool := s.jobsOf f ≠ [] || s.waitsTurn f

/-- Another function has work in the partition of f. -/
def State.shared (s : State) (f : Nat) : Bool :=
  (List.range 64).any fun g => g ≠ f && s.partOf g = s.partOf f && s.hasWork g

/-- A job of a function refuses time-sharing (R234). -/
def State.exclusive (s : State) (f : Nat) : Bool := (s.jobsOf f).any fun j => j.excl

/-- SLICE of a function, in ticks. -/
def State.sliceTicks (s : State) (f : Nat) : Nat := field (s.func f).vfctl 16 16 * 2250

/-- The present slice of a function is over; the first one of a turn is shortened by the function's debt (R235). -/
def State.sliceOver (s : State) (f : Nat) : Bool :=
  let x := s.func f
  s.sliceTicks f - (if x.slice = 0 then x.debt else 0) ≤ (s.tick - x.sliceFrom).toNat

/-- A function's slices run: its stands are on the module, whether or not they are paused. -/
def State.inTurn (s : State) (f : Nat) : Bool :=
  ((s.jobsOf f).any fun j => !j.stand.away) && (s.vfState f = 1 || s.vfState f = 3) && !(s.func f).ending

/-- SLICE_END (R234, R235): the function's slice expires. Alone in its partition it runs on with no debt; otherwise, after
SHARE slices, its stands are held at their next boundary. Its debt is what these holds then make it. -/
def execSliceEnd (f : BitVec 6) (s : State) : Host.Outcome State Fault Refusal :=
  let x := s.func f.toNat
  event (if !s.inTurn f.toNat || !s.sliceOver f.toNat then s
    else if !s.shared f.toNat || s.exclusive f.toNat then s.modFunc f.toNat fun x => { x with debt := 0, sliceFrom := s.tick }
    else if x.slice + 1 < field x.vfctl 32 8 then
      s.modFunc f.toNat fun x => { x with debt := 0, slice := x.slice + 1, sliceFrom := s.tick }
    else s.modFunc f.toNat fun x => { x with debt := 0, slice := x.slice + 1, sliceEnd := s.tick, ending := true })

/-- Every stand of a function on the module is held. -/
def State.allHeld (s : State) (f : Nat) : Bool := (s.jobsOf f).all fun j => j.stand.held || j.stand.away

/-! ## Switches (R236) -/

/-- The event messages on their way to a stand's clusters delivered (spec/02 R90). -/
def State.settleMessages (s : State) (j : Job) : State :=
  let mine (m : Nat × BitVec 5) : Bool := j.clusters.contains m.1
  (s.messages.filter mine).foldl (fun (s : State) m => s.setEvent m.1 m.2.toNat)
    { s with messages := s.messages.filter fun m => !mine m }

/-- A stand written to the save area, behind the function's other images: its clusters are free for the incoming function. An area too
small for the images ends the job with status CONTAINED and an entry of unit kind 0. -/
def State.saveAway (s : State) (j : Job) : State :=
  if j.stand.away then s
  else
    let s := s.settleMessages j
    let x := s.saveStand j
    if s.saveFrames j.fn.toNat * 0x10000 < x.off + x.size then
      (s.containEntry 0 0 false j.fn.toNat).endJob j .contained 0 0
    else
      let s := s.writeImage (s.saveBase j.fn.toNat + x.off) x.size
      let s := j.agents.foldl (fun (s : State) a => s.modCore a Core.discard) s
      let s := j.clusters.foldl (fun (s : State) c => s.modCluster c Cluster.release) s
      (s.modHub fun h => { h.releaseLinks j with saves := h.saves ++ [x] }).modJob j fun k =>
        { k with stand := { k.stand with away := true } }

/-- A stand read back from the save area. -/
def State.loadBack (s : State) (j : Job) : State :=
  match s.hub.saves.find? fun x => x.ofJob j with
  | some x =>
    let s := s.modHub fun h => { h with saves := h.saves.filter fun y => !y.ofJob j }
    (s.loadStand j x).modJob j fun k => { k with stand := { k.stand with away := false } }
  | none => s

/-- The function whose turn follows that of f in its partition, in ascending number and round again (R234): one with work that is
not paused or resetting. Functions whose turns were skipped stand behind it. -/
def State.nextTurn (s : State) (f : Nat) : Option Nat :=
  ((List.range 64).map fun i => ((s.func f).skipped.getD f + 1 + i) % 64).find? fun g =>
    s.partOf g = s.partOf f && s.hasWork g && s.vfState g ≠ 3 && s.vfState g ≠ 4

/-- The turn of a function begins, with a first slice that its debt shortens (R235). -/
def State.beginTurn (s : State) (f : Nat) : State :=
  s.modFunc f fun x => { x with ending := false, slice := 0, sliceFrom := s.tick, skipped := none }

/-- What the loader has done for the launch at the head of a function's ring undone: no effect of it remains (R227, log entry 133). -/
def State.undoLoad (s : State) (f : Nat) : State :=
  let s' := s.modFunc f fun x => { x with loading := none }
  match (s.func f).loading.bind (·.before) with
  | none => s'
  | some b =>
    (b.clusters.foldl (fun (s : State) e =>
      (s.modCluster e.1 fun k =>
        { k with bfmt := e.2.bfmt, bown := e.2.bown, gmap := e.2.gmap, wgen := e.2.wgen, town := e.2.town
                 queues := e.2.queues }).modCore (agentIn e.1 0) Core.discard) s').putMemory b.span b.mem b.tags b.full

/-- A function's stands taken off the module for another's, and what it was loading. -/
def State.switchOut (s : State) (f : Nat) : State :=
  let s := (s.undoLoad f).modFunc f fun x => { x with ending := false, slice := 0 }
  let s := (s.jobsOf f).foldl (fun (s : State) j => s.saveAway j) s
  if s.jobsOf f = [] then s.setVfState f 0 else if s.vfState f = 3 then s else s.setVfState f 2

/-- SWITCH (R235, R236): the outgoing function's turn is over and every one of its stands is held. The next function takes the
partition; one whose debt is at least one slice loses its turn and one slice of debt, and the turn passes on; when it comes round to the outgoing
function itself, its stands run on. -/
def execSwitch (f g : BitVec 6) (s : State) : Host.Outcome State Fault Refusal :=
  let out := f.toNat
  let inn := g.toNat
  event (if !(s.func out).ending || !s.allHeld out || !(s.vfState out = 1 || s.vfState out = 3) || s.partOf out ≠ s.partOf inn
      || !s.hasWork inn || s.vfState inn = 4 || s.nextTurn out ≠ some inn then s
    else if s.sliceTicks inn ≤ (s.func inn).debt then
      (s.modFunc inn fun x => { x with debt := x.debt - s.sliceTicks inn }).modFunc out fun x => { x with skipped := some inn }
    else if out = inn then
      let s := s.beginTurn out
      (s.jobsOf out).foldl (fun (s : State) j => s.letGo j) s
    else s.switchOut out)

/-- SWITCH_DONE (R236, R237): the incoming function's stands are loaded and run. A function whose partition no other uses any more
comes back itself. -/
def execSwitchDone (f g : BitVec 6) (s : State) : Host.Outcome State Fault Refusal :=
  let out := f.toNat
  let inn := g.toNat
  event (if !(s.jobsOf out).all (fun j => j.stand.away) || s.partOf out ≠ s.partOf inn
      || !(s.vfState inn = 2 || (s.jobsOf inn = [] && s.waitsTurn inn)) then s
    else
      let s := (s.modFunc out fun x => { x with skipped := none }).beginTurn inn
      let s := (s.jobsOf inn).foldl (fun (s : State) j => s.loadBack j) s
      let s := if s.jobsOf inn = [] then s else s.setVfState inn 1
      let s := (s.jobsOf inn).foldl (fun (s : State) j => s.letGo j) s
      let s := s.settlePause inn
      if s.waitsTurn inn then { s with agenda := s.agenda ++ [.launchResumed g] } else s)

/-! ## Forced eviction (R237 to R240) -/

/-- What R238 waits for has come: the stand's flits are ejected or dropped and its selections passed, its copies done, its pushes
done or waiting on a record, and every join that has ended has had its effect. -/
def State.evictable (s : State) (j : Job) : Bool :=
  j.agents.all (fun a =>
    let c := s.core a
    c.sels.all (fun x => c.passed x) && c.pushes.all (fun p => p.seq.isSome) && !c.join.any fun x => x.result.isSome)
    && s.flits.all (fun f => !j.clusters.contains f.cluster) && j.clusters.all fun c => (s.cluster c).copies = []

/-- The sleep of a core in the event unit saved as R87 gives: an arrival becomes a wait for the phase after its token, other waits
are abandoned, and one that has had its effect stays. -/
def State.saveSleep (s : State) (a : Nat) : State :=
  if s.sleepDone a then s
  else
    match (s.core a).sleep with
    | .arrive n ph => (s.modCluster (clusterOf a) fun k =>
        let b := k.barrier n
        k.setBarrier n { b with tokens := vset b.tokens (coreIn a) (ph.setWidth 32) }).modCore a fun c =>
          { c with sleep := .wait n ph }
    | .mutex _ | .event _ _ => (s.leaveLists a).modCore a fun c => { c with sleep := .none }
    | _ => s

/-- A core stopped by a forced eviction: an ordered task that is not write-through is aborted, waits of the event unit are
saved as R87 gives, OUT ports drained and IN items discarded, with faults not yet consumed (spec/12 R360), its wait for a tile group
abandoned and its tile queue taken into the image (spec/13 R384; a REVERSE stays at its record, spec/14 R407); one that was running
takes WATCHDOG in the cause table. -/
def State.evictCore (s : State) (a : Nat) : State :=
  let c := s.core a
  let runs := c.act == .task || (c.act == .exchange && c.sleep != .barrier)
  let s := if c.buffered then s.abortTask a else s
  let s := (List.range 4).foldl (fun (s : State) i => if ((s.core a).port i).out then s.drainPort a i else s) s
  let s := s.modCore a fun c =>
    { (c.toBoundary.quitJoin.requeue) with
      ports := c.ports.map fun p => if p.out then p else { p with items := [], pend := none } }
  let s := s.saveSleep a
  if runs then s.recordCause (coreCause a c 0 false .watchdog 2) else s

/-- A stand stopped in mid-superstep; the debt runs to the end of the eviction (R237). -/
def State.evict (s : State) (j : Job) : State :=
  let ag := j.agents.filter fun a => (sget s.cores a).isSome
  let s := ag.foldl (fun (s : State) a => s.tileHalt a) s
  let s := ag.foldl (fun (s : State) a => s.evictCore a) s
  let s := s.modJob j fun k => { k with stand := { k.stand with held := true, evicted := true } }
  (s.noteDebt j.fn.toNat).settlePause j.fn.toNat

/-- FORCED_EVICTION (R237, R239): 2 ms after its slice ended, or after a pause, a stand has reached no boundary. -/
def execForcedEviction (f : BitVec 6) (jid : BitVec 32) (s : State) : Host.Outcome State Fault Refusal :=
  event (match s.hub.jobs.find? fun j => j.fn == f && j.jobid == jid && !j.stand.held && !j.stand.away with
    | some j =>
      if ((s.func f.toNat).ending || bit (s.func f.toNat).vfctl 62) && s.evictable j then s.evict j else s
    | none => s)

/-- EVICTION_OVERRUN (R240): a cluster has not finished its part; it is fenced, all its cores stop, and the job ends. -/
def execEvictionOverrun (c : BitVec 15) (s : State) : Host.Outcome State Fault Refusal :=
  event (match s.jobOf (agentIn c.toNat 0) with
    | some j =>
      if s.holdsStands j.fn.toNat && !j.stand.held then s.fenceCluster c.toNat else s
    | none => s)

/-! ## Pauses (R239) -/

/-- PAUSE set: the stands stop at their next boundaries. During a reset the bit is kept, and nothing else happens. -/
def State.pause (s : State) (f : Nat) : State := (s.modFunc f fun x => { x with vfctl := setBit x.vfctl 62 true }).settlePause f

/-- PAUSE cleared: the stands run on. -/
def State.unpause (s : State) (f : Nat) : State :=
  let s := s.modFunc f fun x => { x with vfctl := setBit x.vfctl 62 false }
  let js := s.jobsOf f
  let s := if s.vfState f = 3 then
      s.setVfState f (if js = [] then 0 else if js.all (fun j => j.stand.away) then 2 else 1)
    else s
  js.foldl (fun (s : State) j => s.letGo j) s

/-- VF_PAUSE. -/
def execVfPause (f : BitVec 6) (s : State) : Host.Outcome State Fault Refusal := event (s.pause f.toNat)

/-- VF_UNPAUSE. -/
def execVfUnpause (f : BitVec 6) (s : State) : Host.Outcome State Fault Refusal := event (s.unpause f.toNat)

/-- VFCTL as it reads: CANON is set while the function is paused with every stand at a boundary (R232, R239). -/
def State.readVfctl (s : State) (f : Nat) : W64 :=
  setBit (s.func f).vfctl 61 (s.vfState f = 3 && (s.jobsOf f).all fun j => j.stand.held && !j.stand.evicted)

/-! ## The launch ring (R223, R226, R227) -/

/-- The record of a function's launch ring with a count; none without a region. -/
def State.recordAt (s : State) (f n : Nat) : Option (BitVec 512) :=
  (s.region f).map fun b => BitVec.ofNat 512 (s.read (b + 0xE000 + 64 * (n % 32)) 64)

/-- The record at the head of a function's launch ring. -/
def State.nextRecord (s : State) (f : Nat) : Option (BitVec 512) :=
  let h := (s.func f).launch.hub.toNat
  if s.winGet f 0xF818 = h then none else s.recordAt f h

/-- The record with a count was placed by the hub (R226). -/
def State.placedAt (s : State) (f n : Nat) : Bool := (s.func f).placed.contains n

/-- Fabric launches put into the ring while it has free slots (R226). -/
def State.placeFabric (s : State) (f : Nat) : Nat → State
  | 0 => s
  | n + 1 =>
    match (s.func f).fabric, s.region f with
    | r :: rest, some b =>
      let tail := s.winGet f 0xF818
      if (s.func f).launch.stopped || 32 ≤ countDiff tail (s.func f).launch.hub.toNat then s
      else
        let s := s.write (b + 0xE000 + 64 * (tail % 32)) 64 (setBit r 130 true).toNat
        let s := s.modFunc f fun x => { x with fabric := rest, placed := x.placed ++ [tail] }
        (s.winPut f 0xF818 8 ((tail + 1) % 2 ^ 64)).placeFabric f n
    | _, _ => s

/-- The head of a launch ring moved past its record, and past those behind it that the hub has taken already; n bounds these. -/
def Func.passHead (x : Func) : Nat → Func
  | 0 => x
  | n + 1 =>
    let h := x.launch.hub.toNat
    let x := { x with launch := { x.launch with hub := x.launch.hub + 1 }, placed := x.placed.filter (· ≠ h)
                      taken := x.taken.filter (· ≠ h) }
    if x.taken.contains x.launch.hub.toNat then x.passHead n else x

/-- The head of a function's launch ring moved past a record; a fabric launch may take the slot. -/
def State.takeRecord (s : State) (f : Nat) : State :=
  let s := s.modFunc f fun x => x.passHead 32
  (s.winPut f 0xF820 8 (s.func f).launch.hub.toNat).placeFabric f (s.func f).fabric.length

/-! ## Reset (R243, R244) -/

/-- A record of a function completed with a status and nothing done. -/
def State.refuseRecord (s : State) (f : Nat) (st : Status) (r : BitVec 512) : State :=
  s.complete f (complBytes st (r.extractLsb' 320 64) (r.extractLsb' 160 32) 0 0 0 0 0)

/-- Every record that a function has queued, of whichever OP, completed with a status: those of the ring, the one that waits at its
head among them, and those behind it; n bounds their number. -/
def State.refuseQueued (s : State) (f : Nat) (st : Status) : Nat → State
  | 0 => s
  | n + 1 =>
    match s.nextRecord f with
    | none => s
    | some r => ((s.takeRecord f).refuseRecord f st r).refuseQueued f st n

/-- A reset of a function (R243): launches refused, those queued completed, but for those of a ring that is stopped (R224); the stands that stand at a boundary end at once, the
others at their next boundary or when they are stopped. -/
def State.vfReset (s : State) (f : Nat) : State :=
  if s.vfState f = 4 then s
  else
    let s := s.setVfState f 4
    let x := s.func f
    let s := (s.undoLoad f).modFunc f fun x => { x with waiting := none, again := false, fabric := [], ending := false, opened := [] }
    let s := if x.launch.stopped then s else s.refuseQueued f .vfreset 32
    let s := x.fabric.foldl (fun (s : State) r => s.refuseRecord f .vfreset r) s
    (s.jobsOf f).foldl (fun (s : State) j => if j.stand.held || j.stand.away then s.resetEnd j else s) s

/-- VF_RESET (R243). -/
def execVfReset (f : BitVec 6) (s : State) : Host.Outcome State Fault Refusal := event (s.vfReset f.toNat)

/-- VF_RESET_STAND_STOP (R243): 2 ms after the write, the stands that reached no boundary are stopped. -/
def execVfResetStandStop (f : BitVec 6) (s : State) : Host.Outcome State Fault Refusal :=
  event (if s.vfState f.toNat = 4 then (s.jobsOf f.toNat).foldl (fun (s : State) j => s.resetEnd j) s else s)

/-- A cluster without the valid queue descriptors of some polders. -/
def Cluster.dropQueues (k : Cluster) (owned : BitVec 12 → Bool) : Cluster :=
  { k with queues := k.queues.map fun q => if q.valid && owned (q.w0.extractLsb' 40 12) then QDesc.empty else q }

/-- An image without them. -/
def Saved.dropQueues (x : Saved) (owned : BitVec 12 → Bool) : Saved :=
  { x with clusters := x.clusters.map fun e => (e.1, e.2.dropQueues owned) }

/-- Queue descriptors of a function's polders invalidated (R94, R243), those that images of stands hold too. -/
def State.dropQueues (s : State) (f : Nat) : State :=
  let owned (p : BitVec 12) : Bool := descV (s.desc p) && descVf (s.desc p) == f
  (s.clusters.foldl (fun (s : State) e => s.modCluster e.1 fun k => k.dropQueues owned) s).modHub fun h =>
    { h with saves := h.saves.map fun x => x.dropQueues owned
             snaps := h.snaps.map fun x => { x with image := x.image.dropQueues owned } }

/-- VF_RESET_DONE (R243): no stand is left; queues are invalidated, withdraws sent for the collectives that were open, GEN counts on
and the function is idle. -/
def execVfResetDone (f : BitVec 6) (s : State) : Host.Outcome State Fault Refusal :=
  event (if s.vfState f.toNat = 4 && s.jobsOf f.toNat = [] then
    let s := s.dropQueues f.toNat
    let s := s.modHub fun h => { h with withdrawn := h.withdrawn ++ (s.func f.toNat).opened.map fun d => (f, d) }
    (s.modFunc f.toNat fun x =>
      { x with opened := [], vfctl := setField x.vfctl 48 8 (field x.vfctl 48 8 + 1) }).setVfState f.toNat 0
  else s)

/-- PEER_WITHDRAW_RECEIVED (R244): the domain goes on with one module fewer, its votes of this phase fail, and an entry is
written. -/
def execPeerWithdrawReceived (f : BitVec 6) (d : BitVec 4) (s : State) : Host.Outcome State Fault Refusal :=
  event (if s.hub.jobs.any fun j => j.fn == f && bit j.xdom d.toNat then
    (s.modHub fun h => { h with gone := h.gone ++ [(f, d.toNat)], broken := h.broken ++ [(f, d.toNat)] }).hubEvent f.toNat
      (0x300 + d.toNat)
  else s)

/-! ## Self-tests (R245) -/

/-- A unit zeroed as it returns to service. The zeroing of a bay counts as one write of it (spec/02 R75, R99); a cluster's bays keep
what their own self-tests, scrubs and retirements say (R101). -/
def State.zeroUnit (s : State) (kind n : Nat) : State :=
  match kind with
  | 1 =>
    let c := n / 16
    let b := n % 16
    ((s.scrub (scratchBase c + b * 0x8000) 0x8000).modCluster c fun k =>
      { k with bstat := vset k.bstat b (setField (vget k.bstat b 0) 30 2 0) }).bumpWgen c b 1
  | 2 | 5 => (s.scrub (tcmBase n) 0x4000).setCore n Core.reset
  | 3 => ((List.range 32).map (agentIn n)).foldl (fun (s : State) a => s.setCore a Core.reset)
      (((s.scrub (scratchBase n) 0x80000).scrub (tcmBase (agentIn n 0)) 0x80000).modCluster n fun k =>
        { Cluster.reset with
          bstat := k.bstat.map fun st => setField 0 29 3 (field st 29 3), bank := k.bank
          tuOwn := k.tuOwn, tuCtl := k.tuCtl, tuLost := k.tuLost })
  | 6 => { s with mem := s.mem.filter fun e => !(e.1 < hbmEnd && channelOf e.1 == n)
                  tags := s.tags.filter fun e => !(32 * e.1 < hbmEnd && channelOf (32 * e.1) == n) }
  | _ => s

/-- A memory key lies in the memory of a unit. -/
def unitHolds (kind n k : Nat) : Bool :=
  match kind with
  | 1 => let base := scratchBase (n / 16) + n % 16 * 0x8000; base ≤ k && k < base + 0x8000
  | 2 | 5 => tcmBase n ≤ k && k < tcmBase n + 0x4000
  | 3 => (scratchBase n ≤ k && k < scratchBase n + 0x80000)
    || (tcmBase (agentIn n 0) ≤ k && k < tcmBase (agentIn n 0) + 0x80000)
  | 6 => k < hbmEnd && channelOf k == n
  | _ => false

/-- The errors of a unit that is in service again are gone. -/
def State.clearErrors (s : State) (kind n : Nat) : State :=
  { s with badWords := s.badWords.filter fun w => !unitHolds kind n (4 * w)
           badTags := s.badTags.filter fun g => !unitHolds kind n (32 * g)
           softWords := s.softWords.filter fun w => !unitHolds kind n (4 * w)
           softTags := s.softTags.filter fun g => !unitHolds kind n (32 * g) }

/-- A bay of cluster c retired: FENCED and RETIRED are set, its self-test no longer runs (spec/02 R99, R101), and the queues whose
rings lie in it are empty (R94). -/
def State.retireBay (s : State) (c b : Nat) : State :=
  s.modCluster c fun k =>
    { k with
      bstat := vset k.bstat b (setField (vget k.bstat b 0) 29 3 5)
      queues := k.queues.map fun q => if q.valid && q.bay = b then QDesc.empty else q }

/-- A unit passed its self-test: it is zeroed and back in service (R245). -/
def State.passTest (s : State) (kind n : Nat) : State :=
  let f := s.unitFn kind n
  let s := s.modHub fun h => { h with units := h.units.filter fun u => !(u.kind == kind && u.number == n) }
  ((s.zeroUnit kind n).clearErrors kind n).containEntry kind n false f

/-- A unit failed its self-test: it is retired until the next cold start, and the error history has it (R245). -/
def State.failTest (s : State) (kind n : Nat) : State :=
  let f := s.unitFn kind n
  let s := s.modHub fun h => { h with
    units := (h.units.filter fun u => !(u.kind == kind && u.number == n)) ++ [{ kind := kind, number := n, retired := true }]
    history := if h.history.contains (kind, n) then h.history else h.history ++ [(kind, n)] }
  (if kind = 1 then s.retireBay (n / 16) (n % 16) else s).containEntry kind n true f

/-- A self-test of a fenced unit ended (R245). -/
def State.selfTest (s : State) (kind n : Nat) (pass : Bool) : State :=
  match s.hub.units.find? fun u => u.kind == kind && u.number == n && !u.retired with
  | none => s
  | some _ => if pass then s.passTest kind n else s.failTest kind n

/-- A unit in service passed a self-test: its words are set empty (spec/02 R77), and the cause table has the result (R241). What else
it holds stays (log entry 79). -/
def State.passService (s : State) (kind n : Nat) : State :=
  { s with full := s.full.filter fun w => !unitHolds kind n (4 * w) }.containEntry kind n false (s.unitFn kind n)

/-- The tests of a warm start, or of dies that return to service (spec/00 R7, R8, R248): those of the units that the error history
flags and that are not retired. Which of them pass is not the manual's to say (log entry 79). -/
def State.retest (s : State) : State :=
  (s.hub.history.filter fun u => !s.hub.units.any fun v => v.kind == u.1 && v.number == u.2 && v.retired).foldl
    (fun (s : State) u =>
      let pass := Config.testPasses s.free
      let s := { s with free := s.free + 1 }
      if !pass then s.failTest u.1 u.2 else if s.failed u.1 u.2 then s.passTest u.1 u.2 else s.passService u.1 u.2) s

/-- SELF_TEST_DONE (R245). -/
def execSelfTestDone (kind : BitVec 3) (n : BitVec 32) (pass : BitVec 1) (s : State) : Host.Outcome State Fault Refusal :=
  event (s.selfTest kind.toNat n.toNat (pass = 1))

end Sys2Proof.Machine
end

