-- ==== Sys2Proof/Machine/DevCtl.lean ====
section
/-! DEFINITION. The device-control space (spec/07 R233): the registers of dies and hub, with the rules by which each refuses a
store, way conversions (spec/04 R134 to R136, R140), key slots and their purge (R141, R144). -/

namespace Sys2Proof.Machine

/-! ## Way conversions (R134, R135) -/

/-- WAYMASK of a die stored to by agent a. A store that is refused for both reasons is refused for its CWAYS (log entry 99). -/
def State.writeWaymask (s : State) (a d : Nat) (v : W64) : M State := do
  let x := s.die d
  let t := field v 0 5
  require (8 ≤ t && t ≤ 16) .writeProtect 4
  require (!bit x.waymask 62) .writeProtect 6
  if t = x.cways then pure s
  else
    pure (s.modDie d fun y =>
      { y with waymask := w64 (2 ^ 62 + t * 2 ^ 8 + x.cways)
               convert := some { lo := min x.cways t, hi := Nat.max x.cways t, next := min x.cways t, drained := false, agent := a } })

/-- A cache way emptied: its lines written back and dropped, its sectors with errors reported. -/
def State.emptyWay (s : State) (a d w : Nat) : State :=
  ((s.die d).lines.filter fun l => l.way == w).foldl (fun (s : State) l =>
    let s := s.sectorErrors a l fun _ => true
    (s.writeLine l).modDie d fun x => { x with lines := x.lines.filter fun m => !(m.set == l.set && m.way == l.way) }) s

/-- The next way of a conversion processed. -/
def State.convertWay (s : State) (d : Nat) (c : Convert) : State :=
  let w := c.next
  let s := (s.emptyWay c.agent d w).scrub (shelfBase d + (15 - w) * 2 ^ 24) (2 ^ 24)
  let s := s.modDie d fun x => { x with segs := x.segs.filter fun e => e.1 / 256 ≠ 15 - w }
  if w + 1 < c.hi then s.modDie d fun x => { x with convert := some { c with next := w + 1 } }
  else s.modDie d fun x =>
    { x with convert := none, waymask := w64 (2 ^ 63 + field x.waymask 8 5 * 2 ^ 8 + field x.waymask 8 5) }

/-- A push of a landing core of a die has moved part of its bytes, and may have moved them through an affected way (R135, log
entry 100). -/
def State.halfMoved (s : State) (d : Nat) : Bool :=
  s.cores.any fun e => isLanding e.1 && dieOf e.1 = d && e.2.pushes.any fun p => p.progress ≠ 0

/-- CONVERSION_DRAINED (R135): no engine operation that had moved a beat through an affected way is left; a push of
the die's landing cores that is partly moved counts as one (log entry 100). -/
def execConversionDrained (d : BitVec 4) (s : State) : Host.Outcome State Fault Refusal :=
  event (match (s.die d.toNat).convert with
    | some c => if s.halfMoved d.toNat then s else s.modDie d.toNat fun x => { x with convert := some { c with drained := true } }
    | none => s)

/-- CONVERSION_WAY_DONE (R135). -/
def execConversionWayDone (d : BitVec 4) (s : State) : Host.Outcome State Fault Refusal :=
  event (match (s.die d.toNat).convert with
    | some c => if c.drained then s.convertWay d.toNat c else s
    | none => s)

/-! ## Key slots (R141, R144) -/

/-- A key slot. -/
def State.keySlot (s : State) (k : Nat) : KeySlot := vget s.hub.keys k { kslot := 0, words := 0 }

/-- A key slot replaced. -/
def State.setKeySlot (s : State) (k : Nat) (x : KeySlot) : State := s.modHub fun h => { h with keys := vset h.keys k x }

/-- The purge of a slot: L1s and berms write back and drop its lines, translation caches its leaves. -/
def State.purge (s : State) (k : Nat) : State :=
  let s := s.cores.foldl (fun (s : State) e => s.l1Sweep e.1 true fun l => l.key.toNat == k) s
  let s := s.bermSweep true fun l => allSectors (l.key.toNat == k)
  let keep (t : Tlb) : Bool := leafKey t.leaf ≠ k
  let s := s.dies.foldl (fun (s : State) e => s.modDie e.1 fun d => { d with tlb := d.tlb.filter keep }) s
  s.modHub fun h => { h with tlb := h.tlb.filter keep }

/-- KSLOT of a slot stored to. -/
def State.writeKslot (s : State) (k : Nat) (v : W64) : M State := do
  require (k ≠ 0) .writeProtect 4
  let x := s.keySlot k
  let used := bit x.kslot 63 || bit x.kslot 62
  require (!used || field v 0 6 = field x.kslot 0 6) .writeProtect 6
  let clears := bit x.kslot 63 && !bit v 63
  let new := w64 (field v 0 6 + b2n (bit v 63) * 2 ^ 63 + b2n (bit x.kslot 62 || clears) * 2 ^ 62)
  let t := if clears then s.purge k else s
  pure (t.setKeySlot k { x with kslot := new })

/-- A key word of a slot stored to. -/
def State.writeKeyWord (s : State) (k i : Nat) (v : W64) : M State := do
  require (k ≠ 0) .writeProtect 4
  let x := s.keySlot k
  require (!bit x.kslot 63 && !bit x.kslot 62) .writeProtect 6
  pure (s.setKeySlot k { x with words := setField x.words (64 * i) 64 v.toNat })

/-- PURGE_DONE (R144). -/
def execPurgeDone (k : BitVec 6) (s : State) : Host.Outcome State Fault Refusal :=
  let x := s.keySlot k.toNat
  event (if bit x.kslot 62 then s.setKeySlot k.toNat { x with kslot := setBit x.kslot 62 false } else s)

/-! ## Hub registers -/

/-- A PART value that R231 refuses for its bounds. -/
def partBad (v : W64) : Bool :=
  bit v 63 && (field v 16 8 < field v 0 8 || field v 24 8 < field v 8 8 || 159 < field v 16 8 || 127 < field v 24 8)

/-- Two valid partitions share a cluster. -/
def partsMeet (v w : W64) : Bool :=
  bit v 63 && bit w 63 && field v 0 8 ≤ field w 16 8 && field w 0 8 ≤ field v 16 8
    && field v 8 8 ≤ field w 24 8 && field w 8 8 ≤ field v 24 8

/-- PART of a number stored to (R231). -/
def State.writePart (s : State) (p : Nat) (v : W64) : M State := do
  let new := v &&& 0x80000000FFFFFFFF#64
  require (!partBad new) .writeProtect 4
  require (!((List.range 32).any fun q => q ≠ p && partsMeet new (s.part q))) .writeProtect 4
  require (!(s.hub.jobs.any fun j => j.clusters.any fun c => partHolds (s.part p) c)) .writeProtect 6
  pure (s.modHub fun h => { h with part := vset h.part p new })

/-- VFCTL of a function stored to (R232). -/
def State.writeVfctl (s : State) (f : Nat) (v : W64) : M State := do
  require (field v 32 8 ≠ 0) .writeProtect 4
  require (1000 ≤ field v 16 16) .writeProtect 4
  let old := (s.func f).vfctl
  let s := s.modFunc f fun x =>
    { x with vfctl := setField (setField (setField old 40 5 (field v 40 5)) 32 8 (field v 32 8)) 16 16 (field v 16 16) }
  let s := if bit v 62 && !bit old 62 then s.pause f else if !bit v 62 && bit old 62 then s.unpause f else s
  pure (if bit v 63 then s.vfReset f else s)

/-- The bits of each word of a polder descriptor (spec/01 R18). -/
def descMask (w : Nat) : W64 :=
  if w = 0 then 0xC003FFF001FFFFFF#64 else if w = 1 then 0xFFFFFFFF00000000#64
  else if w = 2 then 0x0000003FFFFFFFFF#64 else 0xFFFFFFFFFFFFFFFF#64

/-- A word of a polder descriptor stored to: V set anew starts the polder's count of notices, DEAD set begins its death
(spec/15 R426, R427). -/
def State.writeDesc (s : State) (p w : Nat) (v : W64) : State :=
  let pol := BitVec.ofNat 12 p
  let old := s.desc pol
  let new := setField old (64 * w) 64 (v &&& descMask w).toNat
  let t := s.modHub fun h => { h with polders := if new = 0 then serase h.polders p else sset h.polders p new }
  let t := if descV new && !descV old then t.modHub fun h => { h with notices := serase h.notices p } else t
  if descV new && descDead new && !(descV old && descDead old) then t.polderDied pol else t

/-- HFTINV stored to: the hub drops its cached byte of a frame (spec/04 R153). -/
def State.dropFrameByte (s : State) (n : Nat) : State := s.modHub fun h => { h with hftCache := serase h.hftCache n }

/-! ## The map (R233) -/

/-- A register of the device-control space. -/
inductive DevReg where
  | quota (d f : Nat) | waymask (d : Nat) | segment (d k : Nat) | ltown (l : Nat) | tcm (a off : Nat) | tcmTag (a g : Nat)
  | kslot (k : Nat) | keyWord (k i : Nat) | wreg (k : Nat) | ltab (f : Nat) | part (p : Nat) | vfctl (f : Nat)
  | vfsave (f : Nat) | hftbase | hftinv | revoke | desc (p w : Nat) | counter (o : Nat) | debug (o : Nat)
  deriving DecidableEq, Repr

/-- A register of a die at an offset of its part of the space. -/
def dieReg (d o : Nat) : Option DevReg :=
  if o < 0x200 then some (.quota d (o / 8))
  else if o = 0x200 then some (.waymask d)
  else if 0x10000 ≤ o && o < 0x14000 then some (.segment d ((o - 0x10000) / 8))
  else if 0x20000 ≤ o && o < 0x20200 then some (.ltown (d * 64 + (o - 0x20000) / 8))
  else if 0x100000 ≤ o && o < 0x200000 then
    some (.tcm (landingAgent (d * 64 + (o - 0x100000) / 0x4000)) ((o - 0x100000) % 0x4000))
  else if 0x300000 ≤ o && o < 0x340000 then
    some (.tcmTag (landingAgent (d * 64 + (o - 0x300000) / 0x1000)) ((o - 0x300000) % 0x1000 / 8))
  else none

/-- A register of the hub at an offset of its part of the space. -/
def hubReg (o : Nat) : Option DevReg :=
  if o < 0x2000 then
    let r := o % 0x80 / 8
    if r = 0 then some (.kslot (o / 0x80)) else if r ≤ 8 then some (.keyWord (o / 0x80) (r - 1)) else none
  else if o < 0x2200 then some (.wreg ((o - 0x2000) / 8))
  else if 0x2400 ≤ o && o < 0x2600 then some (.ltab ((o - 0x2400) / 8))
  else if 0x2800 ≤ o && o < 0x2900 then some (.part ((o - 0x2800) / 8))
  else if 0x2C00 ≤ o && o < 0x2E00 then some (.vfctl ((o - 0x2C00) / 8))
  else if 0x2E00 ≤ o && o < 0x3000 then some (.vfsave ((o - 0x2E00) / 8))
  else if o = 0x3000 then some .hftbase
  else if o = 0x3008 then some .hftinv
  else if o = 0x3010 then some .revoke
  else if 0x100000 ≤ o && o < 0x120000 then some (.desc ((o - 0x100000) / 0x20) ((o - 0x100000) % 0x20 / 8))
  else if 0x10000000 ≤ o && o < 0x10800000 then some (.counter (o - 0x10000000))
  else if 0x20000000 ≤ o && o < 0x20100000 then some (.debug (o - 0x20000000))
  else none

/-- The register at a physical address of the space. -/
def devReg (pa : Nat) : Option DevReg :=
  if pa % 8 ≠ 0 || pa < 0x1E000000000 then none
  else if pa < 0x1E100000000 then dieReg ((pa - 0x1E000000000) / 0x10000000) ((pa - 0x1E000000000) % 0x10000000)
  else hubReg (pa - 0x1E100000000)

/-- Error correction of a register that is a word or a granule tag of a landing core's TCM (spec/02 R97, R100): an error there
fences that core. -/
def State.devEcc (s : State) : DevReg → M Unit
  | .tcm a o => detecting s a (s.tcmCheck a o 8)
  | .tcmTag a g => detecting s a
      (require (!s.badTags.contains (tcmBase a / 32 + g)) .uncorrectable (errorValue a ⟨.tcm false, 32 * g, tcmBase a + 32 * g⟩ (tcmBase a + 32 * g) true false))
  | _ => .ok ()

/-- A register loaded: the state after the load, and the value. Slot 0 of the keys, which has no registers, loads 0 (log entry 119). -/
def State.devLoad (s : State) : DevReg → State × W64
  | .quota d f => (s, vget (s.die d).quota f 0)
  | .waymask d => (s, (s.die d).waymask)
  | .segment d k => (s, (sget (s.die d).segs k).getD 0)
  | .ltown l => (s, vget (s.die (l / 64)).ltown (l % 64) 0)
  | .tcm a o => (s.tcmSoft a [(o, 8)], w64 (s.read (tcmBase a + o) 8))
  | .tcmTag a g => (s.softTag a ⟨.tcm false, 32 * g, tcmBase a + 32 * g⟩, (s.tag (tcmBase a / 32 + g)).setWidth 64)
  | .kslot k => (s, if k = 0 then 0 else (s.keySlot k).kslot)
  | .keyWord _ _ => (s, 0)
  | .wreg k => (s, vget s.hub.wreg k 0)
  | .ltab f => (s, (s.func f).ltab)
  | .part p => (s, s.part p)
  | .vfctl f => (s, s.readVfctl f)
  | .vfsave f => (s, (s.func f).vfsave)
  | .hftbase => (s, s.hub.hftbase)
  | .hftinv => (s, 0)
  | .revoke => (s, 0)
  | .desc p w => (s, (s.desc (BitVec.ofNat 12 p)).extractLsb' (64 * w) 64)
  | .counter o => (s, match apReg o with
    | some r => s.apRead 0 r
    | none => 0xFFFFFFFFFFFFFFFF#64)
  | .debug o => s.debugRead o

/-- A register stored to by agent a. -/
def State.devStore (s : State) (a : Nat) (v : W64) : DevReg → M State
  | .quota d f => do
    require (field v 0 5 ≤ 16) .writeProtect 4
    pure (s.modDie d fun x => { x with quota := vset x.quota f (w64 (field v 0 5)) })
  | .waymask d => s.writeWaymask a d v
  | .segment d k => pure (s.writeSegment d k v)
  | .ltown l => pure (s.writeLtown l v)
  | .tcm b o => pure (s.enginePut b ⟨.tcm (0x2000 ≤ o), o, tcmBase b + o⟩ 8 v.toNat)
  | .tcmTag b g => do
    require (field v 0 4 ≠ 15) .writeProtect 4
    pure (s.putTag ⟨.tcm false, 32 * g, tcmBase b + 32 * g⟩ (v.extractLsb' 0 4))
  | .kslot k => s.writeKslot k v
  | .keyWord k i => s.writeKeyWord k i v
  | .wreg k => pure (s.modHub fun h => { h with wreg := vset h.wreg k (v &&& 0x800000000000003F#64) })
  | .ltab f => pure (s.modFunc f fun x => { x with ltab := v &&& 0x800000000FFF0FFF#64 })
  | .part p => s.writePart p v
  | .vfctl f => s.writeVfctl f v
  | .vfsave f => pure (s.modFunc f fun x => { x with vfsave := v &&& 0x0000FFFF01FFFFFF#64 })
  | .hftbase => pure (s.modHub fun h => { h with hftbase := v &&& 0x8000000001FFFFFF#64 })
  | .hftinv => pure (s.dropFrameByte v.toNat)
  | .revoke => pure (s.revoke (field v 0 32))
  | .desc p w => pure (s.writeDesc p w v)
  | .counter o => pure (match apReg o with
    | some r => s.apWrite 0 v r
    | none => s)
  | .debug o => pure (s.debugWrite o v)

/-- A load of the space by a core: hub cores alone, at device level (R233). -/
def State.devRead (s : State) (pa n : Nat) : M (State × W64) := do
  require (isHub s.cur && s.me.level = 2 && n = 8) .polderAccess 13
  match devReg pa with
  | some r => do
    s.devEcc r
    pure (s.devLoad r)
  | none => trap .polderAccess 13

/-- A register of the space is an ownership entry (spec/01 R21). -/
def DevReg.ownership : DevReg → Bool
  | .segment _ _ | .ltown _ => true
  | _ => false

/-- A store to the space by a core. One to an ownership entry below device level raises PRIVILEGE (spec/01 R21). -/
def State.devWrite (s : State) (pa n : Nat) (v : W64) : M State := do
  require (!((devReg pa).any DevReg.ownership && s.me.level < 2)) .privilege 1
  require (isHub s.cur && s.me.level = 2 && n = 8) .polderAccess 13
  match devReg pa with
  | some r => s.devStore s.cur v r
  | none => trap .polderAccess 13

/-! ## Stores that have rows of their own -/

/-- A store made through the device-control path: by the hub core that moves, as its one-word instruction; else as another
agent's, which takes no trap when the register refuses it. -/
def devEvent (s : State) (f : State → M State) : Host.Outcome State Fault Refusal :=
  if isHub s.cur then asWord s f
  else event (match f s with
    | .ok t => t
    | .error _ => s)

/-- REGISTER_WRITE (R412, R233). -/
def execRegisterWrite (addr : BitVec 41) (val : BitVec 64) (s : State) : Host.Outcome State Fault Refusal :=
  devEvent s fun s =>
    match devReg addr.toNat with
    | some r => s.devStore s.cur val r
    | none => trap .polderAccess 13

/-- WAYMASK_WRITE (R134). -/
def execWaymaskWrite (d : BitVec 4) (val : BitVec 64) (s : State) : Host.Outcome State Fault Refusal :=
  devEvent s fun s => s.writeWaymask s.cur d.toNat val

/-- KSLOT_CLEAR (R144). -/
def execKslotClear (k : BitVec 6) (val : BitVec 64) (s : State) : Host.Outcome State Fault Refusal :=
  devEvent s fun s => s.writeKslot k.toNat (setBit val 63 false)

/-- HFTINV_WRITE (R153). -/
def execHftinvWrite (val : BitVec 64) (s : State) : Host.Outcome State Fault Refusal :=
  devEvent s fun s => pure (s.dropFrameByte val.toNat)

/-- LTOWN_WRITE (R233). -/
def execLtownWrite (l : BitVec 10) (val : BitVec 64) (s : State) : Host.Outcome State Fault Refusal :=
  devEvent s fun s => pure (s.writeLtown l.toNat val)

/-- SEGMENT_OWNER_WRITE (spec/01 R21, R22). -/
def execSegmentOwnerWrite (d : BitVec 4) (k : BitVec 11) (val : BitVec 64) (s : State) : Host.Outcome State Fault Refusal :=
  devEvent s fun s => pure (s.writeSegment d.toNat k.toNat val)

/-! ## The control block and the ends of scrubs (spec/02 R69, R72, R73, spec/01 R22) -/

/-- BFMT_WRITE (R69, R71): a value that BFMT refuses changes nothing. -/
def execBfmtWrite (c : BitVec 15) (b : BitVec 4) (val : BitVec 64) (s : State) : Host.Outcome State Fault Refusal :=
  event (match s.writeBfmt c.toNat b.toNat val with
    | .ok t => t
    | .error _ => s)

/-- BOWN_WRITE (R72). -/
def execBownWrite (c : BitVec 15) (b : BitVec 4) (val : BitVec 64) (s : State) : Host.Outcome State Fault Refusal :=
  event (s.writeBown c.toNat b.toNat val)

/-- TOWN_WRITE (R73). -/
def execTownWrite (c : BitVec 15) (k : BitVec 5) (val : BitVec 64) (s : State) : Host.Outcome State Fault Refusal :=
  event (s.writeTown c.toNat k.toNat val)

/-- SCRUB_END (R22): a bay's scrub ends and BSTAT.SCRUB clears, unless its self-test runs (spec/02 R101); n is cluster × 16 + bay
for kind 0. The scrubs of the other kinds leave no mark. -/
def execScrubEnd (kind : BitVec 2) (n : BitVec 32) (s : State) : Host.Outcome State Fault Refusal :=
  event (if kind = 0 && !(s.hub.units.any fun u => u.kind == 1 && u.number == n.toNat && !u.retired) then
    s.modCluster (n.toNat / 16) fun k =>
      { k with bstat := vset k.bstat (n.toNat % 16) (setBit (vget k.bstat (n.toNat % 16) 0) 30 false) }
  else s)

end Sys2Proof.Machine
end

