-- ==== Sys2Proof/Machine/Events.lean ====
section
/-! DEFINITION. The rows of the event unit (spec/02 R83 to R91): the accesses of the core that moves, each as the 4-byte load or
store that it stands for, and what the unit does between them; wakes from full waits (spec/11 R318), write-backs of
corrected words (spec/02 R96), the copy engine (spec/11 R322, R323) and the stream ports (spec/12 R357, R358). -/

namespace Sys2Proof.Machine

/-- A 4-byte load at an offset of the event unit, into a scalar register. -/
def unitLoadRow (off : Nat) (rd : BitVec 5) (s : State) : Host.Outcome State Fault Refusal :=
  asWord s fun s => do
    let (t, x) ← s.loadAny (w64 (0x100000 + off)) 4
    pure (t.modMe fun c => c.setS rd.toNat (w64 x))

/-- A 4-byte store at an offset of the event unit. -/
def unitStoreRow (off : Nat) (v : W64) (s : State) : Host.Outcome State Fault Refusal :=
  asWord s fun s => s.storeAny (w64 (0x100000 + off)) 4 v

/-- ARRIVE (R85). -/
def execArrive (n : BitVec 3) (rd : BitVec 5) (s : State) : Host.Outcome State Fault Refusal :=
  unitLoadRow (n.toNat * 0x40) rd s

/-- ARRIVE_NB (R85). -/
def execArriveNb (n : BitVec 3) (rd : BitVec 5) (s : State) : Host.Outcome State Fault Refusal :=
  unitLoadRow (n.toNat * 0x40 + 4) rd s

/-- WAIT_LATCH (R83): the token in a scalar register latched. -/
def execWaitLatch (n : BitVec 3) (rs : BitVec 5) (s : State) : Host.Outcome State Fault Refusal :=
  unitStoreRow (n.toNat * 0x40 + 8) (s.me.s rs.toNat) s

/-- WAIT (R86). -/
def execWait (n : BitVec 3) (rd : BitVec 5) (s : State) : Host.Outcome State Fault Refusal :=
  unitLoadRow (n.toNat * 0x40 + 8) rd s

/-- BARRIER_CFG_WRITE (R85). -/
def execBarrierCfgWrite (n : BitVec 3) (rs : BitVec 5) (s : State) : Host.Outcome State Fault Refusal :=
  unitStoreRow (n.toNat * 0x40 + 0x10) (s.me.s rs.toNat) s

/-- BARRIER_RELEASE (R85): a barrier whose arrivals have reached COUNT. -/
def execBarrierRelease (c : BitVec 15) (n : BitVec 3) (s : State) : Host.Outcome State Fault Refusal :=
  event (s.modCluster c.toNat fun k => k.setBarrier n.toNat (k.barrier n.toNat).settle)

/-- MUTEX_LOCK (R88). -/
def execMutexLock (m : BitVec 4) (rd : BitVec 5) (s : State) : Host.Outcome State Fault Refusal :=
  unitLoadRow (0x800 + m.toNat * 8) rd s

/-- MUTEX_UNLOCK (R88). -/
def execMutexUnlock (m : BitVec 4) (s : State) : Host.Outcome State Fault Refusal := unitStoreRow (0x800 + m.toNat * 8) 0 s

/-- MUTEX_HANDOFF (R88): the first waiter of a free mutex acquires it. -/
def execMutexHandoff (c : BitVec 15) (m : BitVec 4) (s : State) : Host.Outcome State Fault Refusal :=
  event (s.modCluster c.toNat fun k => k.setMutex m.toNat (k.mutex m.toNat).handoff)

/-- EVENT_WAIT (R90). -/
def execEventWait (e rd : BitVec 5) (s : State) : Host.Outcome State Fault Refusal := unitLoadRow (0x1000 + e.toNat * 8) rd s

/-- EVENT_SET (R90). -/
def execEventSet (e : BitVec 5) (s : State) : Host.Outcome State Fault Refusal := unitStoreRow (0x1000 + e.toNat * 8) 0 s

/-- REMOTE_EVENT_SEND (R90): the message word is in a scalar register. -/
def execRemoteEventSend (rs : BitVec 5) (s : State) : Host.Outcome State Fault Refusal :=
  unitStoreRow 0x1100 (s.me.s rs.toNat) s

/-- REMOTE_EVENT_ARRIVAL (R90): the oldest message under way sets its event. -/
def execRemoteEventArrival (s : State) : Host.Outcome State Fault Refusal :=
  event (match s.messages with
    | (c, e) :: t => { s with messages := t }.setEvent c e.toNat
    | [] => s)

/-- FULL_WAKE (spec/11 R318): the words of a sleeping LDF or LDFC are full; it goes on, with the instruction that it holds. -/
def execFullWake (a : BitVec 22) (s : State) : Host.Outcome State Fault Refusal :=
  event (match (s.core a.toNat).sleep with
    | .full ws => if ws.all fun w => s.isFull w then s.modCore a.toNat fun c => { c with sleep := .engine } else s
    | _ => s)

/-- ECC_WRITEBACK (R96): the word at a memory key is written back corrected; a key plus 1 names the tag of its granule. -/
def execEccWriteback (key : BitVec 48) (s : State) : Host.Outcome State Fault Refusal :=
  event (if key.toNat % 4 = 1 then { s with softTags := ndel s.softTags (key.toNat / 32) }
    else { s with softWords := ndel s.softWords (key.toNat / 4) })

/-- COPY_START (spec/11 R322). -/
def execCopyStart (c : BitVec 15) (s : State) : Host.Outcome State Fault Refusal := event (s.copyStart c.toNat)

/-- COPY_COMPLETE (spec/11 R322). -/
def execCopyComplete (c : BitVec 15) (s : State) : Host.Outcome State Fault Refusal := event (s.copyComplete c.toNat)

/-- COPY_STOP (spec/11 R323). -/
def execCopyStop (c : BitVec 15) (s : State) : Host.Outcome State Fault Refusal := event (s.copyStop c.toNat)

/-- STREAM_FETCH (spec/12 R357). -/
def execStreamFetch (a : BitVec 22) (port : BitVec 2) (s : State) : Host.Outcome State Fault Refusal :=
  event (s.portFetch a.toNat port.toNat)

/-- STREAM_WRITE (spec/12 R358). -/
def execStreamWrite (a : BitVec 22) (port : BitVec 2) (s : State) : Host.Outcome State Fault Refusal :=
  event (s.portWrite a.toNat port.toNat)

end Sys2Proof.Machine
end

