-- ==== Sys2Proof/Machine/Sync.lean ====
section
/-! DEFINITION. Full/empty instructions, atomics, fences, hardware queues and OLDEST: majors 0x30 to 0x37 (spec/11 R318,
R319, R324 to R332, spec/04 R156 to R158). -/

namespace Sys2Proof.Machine

/-! ## Full/empty instructions (R318, R319) -/

/-- The checked place of a full/empty access: TCM or scratch. -/
def State.fullPlace (s : State) (ea : W64) (n : Nat) (k : Access) : M Loc := do
  let c := s.me
  let l ← s.localCheck s.cur c.ctx c.level ea n k
  require l.buffers .polderAccess 10
  s.eccCheck s.cur l n (k == .load)
  pure l

/-- The words of n bytes from a key. -/
def wordKeys (key n : Nat) : List Nat := (List.range (n / 4)).map fun i => key / 4 + i

/-- The running ordered task holds a full setting of its own for a word (R319). -/
def State.ownFull (s : State) (w : Nat) : Bool :=
  match s.me.ordered with
  | some o => s.me.buffered && o.lines.any fun l => l.granule == w / 8 && bit l.full (w % 8)
  | none => false

/-- LDF and LDFC: an access of n bytes that waits until its words are full; `clear` for LDFC. -/
def loadFull (clear : Bool) (imm : BitVec 10) (z : BitVec 1) (rs1 rd : BitVec 5) (s : State) : M Fin := do
  let n := if z = 1 then 8 else 4
  let ea := s.me.s (rn rs1) + (imm.signExtend 64 <<< 2)
  let l ← s.fullPlace ea n .load
  let s ← if clear then s.writeThrough else pure s
  if (wordKeys l.key n).all fun w => s.isFull w || s.ownFull w then do
    s.watchStop ea n true false
    let (t, v) ← s.loadAt l n
    let t := if clear then (wordKeys l.key n).foldl State.setEmpty t else t
    pure (.adv ((t.watchNote ea n true false).modMe fun c => c.setS (rn rd) (w64 v)))
  else awaiting ea (stallOrdered s (.full ((wordKeys l.key n).filter fun w => !s.ownFull w)))

/-- One full bit cleared by FEC. -/
def State.clearFull (s : State) (key n : Nat) : State := (wordKeys key (4 * n)).foldl State.setEmpty s

/-! ## Atomics (R324 to R326) -/

/-- The operations of AMO and CAS. -/
inductive AtOp where
  | add | and | or | xor | min | max | minn | maxn | swap | cas
  deriving DecidableEq, Repr

/-- The code of an operation (spec/08 R266); CAS, which has none, comes last. -/
def AtOp.code : AtOp → Nat
  | .add => 0 | .and => 1 | .or => 2 | .xor => 3 | .min => 4 | .max => 5 | .minn => 6 | .maxn => 7 | .swap => 8 | .cas => 9

/-- The value that an atomic of n bits writes over `old`, with D and E (R325). -/
def AtOp.apply (op : AtOp) (n old d e : Nat) : Nat :=
  let x := d % 2 ^ n
  match op with
  | .add => (old + x) % 2 ^ n
  | .and => old &&& x
  | .or => old ||| x
  | .xor => old ^^^ x
  | .min => if toSigned n old ≤ toSigned n x then old else x
  | .max => if toSigned n old ≤ toSigned n x then x else old
  | .minn => Nat.min old x
  | .maxn => Nat.max old x
  | .swap => x
  | .cas => if old = x then e % 2 ^ n else old

/-- The old value as D receives it (R325). -/
def AtOp.extend (op : AtOp) (n old : Nat) : W64 :=
  match op with
  | .add | .min | .max | .swap | .cas => sext n old
  | _ => w64 old

/-- A CAS that fails writes nothing. -/
def AtOp.writes (op : AtOp) (n old d : Nat) : Bool := op ≠ .cas || old = d % 2 ^ n

/-- A posted operation of the multi-chip reduction window (spec/04 R156). -/
def AtOp.posted (op : AtOp) : Bool := op ≠ .swap && op ≠ .cas

/-- An atomic of n bytes at a local pointer. -/
def localAtomic (op : AtOp) (n : Nat) (ea d e : W64) (s : State) : M (State × W64) := do
  let c := s.me
  let l ← s.localCheck s.cur c.ctx c.level ea n .atomic
  require l.tagged .polderAccess 8
  s.eccCheck s.cur l n true
  let t ← s.writeThrough
  t.watchStop ea n true true
  let t := t.softRead s.cur l n
  let old := t.read l.key n
  let u := if op.writes (8 * n) old d.toNat then t.storeNow l n (op.apply (8 * n) old d.toNat e.toNat) false else t
  pure (u.watchNote ea n true true, op.extend (8 * n) old)

/-- An atomic of n bytes at a physical address under a leaf. -/
def physAtomic (op : AtOp) (n pa : Nat) (v : Via) (d e : W64) (s : State) : State × Nat :=
  let (t, old) := s.physRead pa n v
  (if op.writes (8 * n) old d.toNat then t.physWrite pa n (op.apply (8 * n) old d.toNat e.toNat) (2 ^ n - 1) v else t, old)

/-- The line that the core's own L1 holds at an address written back and invalidated (spec/05 R184). -/
def State.l1Leave (s : State) (va : Nat) : State :=
  match s.me.l1Find s.me.pol va with
  | some l => s.l1Evict s.cur l
  | none => s

/-- An atomic of n bytes at a far pointer: at its home, or posted in the reduction window. -/
def farAtomic (op : AtOp) (n : Nat) (ptr d e : W64) (s : State) : M (State × W64) := do
  canonical ptr
  let va := field ptr 0 48
  require (va % n = 0) .align n
  let (s, _) ← s.l1Serve ptr 3
  let s := s.l1Leave va
  let (s, pl) ← s.farPlace ptr 3
  let post := field ptr 44 4 = 0xF && op.posted
  match pl with
  | .line _ => pure (s, 0)
  | .device _ => trap .polderAccess 13
  | .phys pa v => do
    farTag ptr (s.physTag pa)
    s.physEcc pa n true v
    let (t, old) := physAtomic op n pa v d e s
    pure (t, if post then 0 else op.extend (8 * n) old)
  | .away home pa key =>
    if post then
      let x : Posted := { agent := s.cur, op := op.code, size := n, pa := pa, home := BitVec.ofNat 12 home,
                          key := BitVec.ofNat 6 key, value := w64 (d.toNat % 2 ^ (8 * n)), done := false }
      pure (s.modHub fun h => { h with posted := h.posted ++ [x] }, 0)
    else
      let (t, old) := s.nextRemote
      let o := old.toNat % 2 ^ (8 * n)
      let x : Sent := { home := BitVec.ofNat 12 home, pa := pa, size := n, key := BitVec.ofNat 6 key, op := some op.code
                        value := d, other := e }
      pure (t.modHub fun h => { h with sent := h.sent ++ [x] }, op.extend (8 * n) o)

/-- AG and ST hold no reserved value (spec/05 R165). -/
def scopeOk (g st : Nat) : M Unit := require (g ≤ 5 && st ≠ 0) .illegal 5

/-- The oldest posted window atomic is performed at its home and acknowledged, with those that it carries (R157, R158). -/
def State.ackPosted (s : State) : State :=
  match s.hub.posted with
  | p :: t =>
    let same (q : Posted) : Bool := q.done && q.op == p.op && q.size == p.size && q.pa == p.pa && q.key == p.key && q.home == p.home
    let x : Sent := { home := p.home, pa := p.pa, size := p.size, key := p.key, op := some p.op, value := p.value, other := 0 }
    s.modHub fun h => { h with posted := t.filter fun q => !same q, sent := h.sent ++ [x] }
  | [] => s

/-- The core has a posted atomic that is not acknowledged. -/
def State.owesPosted (s : State) : Bool := s.hub.posted.any fun p => p.agent == s.cur

/-- A release at an agent scope waits for posted window atomics at sys scope (R158). -/
def releaseWaits (g ord : Nat) (s : State) : M Unit :=
  if 2 ≤ ord && g = 5 && s.owesPosted then stallFor s.ackPosted .engine else .ok ()

/-- AMO and CAS (R324 to R326). -/
def atomicForm (op : AtOp) (g : BitVec 3) (st rs1 : BitVec 5) (o : BitVec 2) (w : BitVec 1) (r : BitVec 2) (s : State) :
    M Fin := do
  scopeOk g.toNat st.toNat
  releaseWaits g.toNat o.toNat s
  let s := s.l1Order g.toNat false (2 ≤ o.toNat)
  let c := s.me
  let n := if w = 1 then 4 else 8
  let k := 24 + 2 * r.toNat
  let ea := c.s (rn rs1)
  let (t, y) ← if isOrdinary s.cur then localAtomic op n ea (c.s k) (c.s (k + 1)) s
    else farAtomic op n ea (c.s k) (c.s (k + 1)) s
  let t := t.l1Order g.toNat (o = 1 || o = 3) false
  pure (.adv (t.modMe fun c => c.setS k y))

/-! ## Hardware queues (R328 to R330) -/

/-- A queue of the core's cluster. -/
def State.queue (s : State) (q : BitVec 5) : QDesc := vget s.myCluster.queues q.toNat QDesc.empty

/-- A queue of the core's cluster replaced. -/
def State.setQueue (s : State) (q : BitVec 5) (d : QDesc) : State :=
  s.modMyCluster fun k => { k with queues := vset k.queues q.toNat d }

/-- LOGCAP of a descriptor. -/
def QDesc.cap (d : QDesc) : Nat := 2 ^ field d.w0 59 4

/-- The entry size of a descriptor, in bytes. -/
def QDesc.size (d : QDesc) : Nat := 2 ^ field d.w0 56 3

/-- POL of a descriptor. -/
def QDesc.pol (d : QDesc) : BitVec 12 := d.w0.extractLsb' 40 12

/-- The number of entries held (spec/02 R93). -/
def QDesc.count (d : QDesc) : Nat := (d.tail - d.head).toNat

/-- The pointer of entry number k. -/
def QDesc.entry (d : QDesc) (k : BitVec 32) : W64 :=
  w64 (field d.w0 52 4 * 2 ^ 28 + 0x80000 + d.base + k.toNat % d.cap * d.size)

/-- A queue operation of an ordered task is refused (spec/05 R174). -/
def notOrdered (s : State) (v : Nat) : M Unit := require (!s.me.isOrd) .orderViolation v

/-- The queue answers the current polder. -/
def QDesc.mine (d : QDesc) (c : Core) : Bool := d.valid && d.pol == c.pol

/-- The kind of register agrees with the entry size: `v` for a vector. -/
def QDesc.kindOk (d : QDesc) (v : BitVec 1) : M Unit := require ((v = 1) = (16 ≤ d.size)) .illegal 16

/-- A ring beat checked under R27 for the current polder with the queue's tag. -/
def State.ringPlace (s : State) (ea : W64) (n : Nat) (k : Access) : M Loc := do
  let c := s.me
  let l ← s.localCheck s.cur c.ctx c.level ea n k
  s.eccCheck s.cur l n (k == .load)
  pure l

/-- QINIT's configuration is acceptable and the descriptor may be taken (R329). -/
def State.qinitOk (s : State) (q : BitVec 5) (cfg : W64) : Bool :=
  let k := field cfg 0 4
  let e := field cfg 4 3
  1 ≤ k && k ≤ 12 && 2 ≤ e && e ≤ 6 && field cfg 7 57 = 0 && !((s.queue q).valid && (s.queue q).pol != s.me.pol)

/-- A failed QDEQ counted; the sixteenth in a row forces a yield (R330). -/
def State.qdeqFailed (s : State) (next : W32) : State × Bool :=
  let c := s.me
  let i := c.taskId
  if c.ex || c.act != .task then (s, false)
  else
    let n := min 16 (vget c.qfail i 0 + 1)
    let t := s.modMe fun k => { k with qfail := vset k.qfail i n }
    if n = 16 && !c.isGang && c.depth = 0 && c.yieldFits then
      ((t.modMe fun k => { k.count 2 1 with qfail := vset k.qfail i 0 }).yieldTask s.cur next, true)
    else (t, false)

/-! ## Meanings -/

/-- LDF (R318). -/
def execLdf (imm : BitVec 10) (z : BitVec 1) (rs1 rd : BitVec 5) (p : BitVec 1) (s : State) :
    Host.Outcome State Fault Refusal :=
  issue (.ldf imm z rs1 rd p) s fun _ s => loadFull false imm z rs1 rd s

/-- LDFC (R318). -/
def execLdfc (imm : BitVec 10) (z : BitVec 1) (rs1 rd : BitVec 5) (p : BitVec 1) (s : State) :
    Host.Outcome State Fault Refusal :=
  issue (.ldfc imm z rs1 rd p) s fun _ s => loadFull true imm z rs1 rd s

/-- STF (R318). -/
def execStf (imm : BitVec 10) (z : BitVec 1) (rs1 rd : BitVec 5) (p : BitVec 1) (s : State) :
    Host.Outcome State Fault Refusal :=
  issue (.stf imm z rs1 rd p) s fun _ s => do
    let n := if z = 1 then 8 else 4
    let c := s.me
    let ea := c.s (rn rs1) + (imm.signExtend 64 <<< 2)
    let l ← s.fullPlace ea n .store
    s.watchStop ea n false true
    let t ← s.storeAt (s.heldStore ea n) l n ((c.s (rn rd)).toNat % 2 ^ (8 * n)) true
    pure (.adv (t.watchNote ea n false true))

/-- FEC (R319). -/
def execFec (rs2 rs1 : BitVec 5) (p : BitVec 1) (s : State) :
    Host.Outcome State Fault Refusal :=
  issue (.fec rs2 rs1 p) s fun _ s => do
    let c := s.me
    let ptr := c.s (rn rs1)
    let n := (c.s (rn rs2)).toNat
    require (field ptr 0 2 = 0) .align 4
    require (n ≤ 8192) .bounds 0x22
    let g := if n = 0 then 0 else granules (field ptr 0 28) (4 * n)
    let _ ← s.checkGranules s.cur c.ctx c.level (ptr - w64 (field ptr 0 5)) .store true false 10 g
    let t ← s.writeThrough
    pure (.adv (t.clearFull (keyOf s.cur (field ptr 0 28)) n))

/-- FEQ (R319, R332). -/
def execFeq (rs1 : BitVec 5) (rd : BitVec 3) (p : BitVec 1) (s : State) :
    Host.Outcome State Fault Refusal :=
  issue (.feq rs1 rd p) s fun _ s => do
    let ptr := s.me.s (rn rs1)
    let l ← s.fullPlace ptr 4 .load
    let own := s.ownFull (l.key / 4)
    let t ← match s.me.ordered with
      | some o =>
        if s.me.buffered && l.inScratch && !own then
          let rs := if o.reads.contains (l.key / 32) then o.reads else o.reads ++ [l.key / 32]
          if 64 < rs.length then s.writeThrough else pure (s.modMe fun c => { c with ordered := some { o with reads := rs } })
        else pure s
      | none => pure s
    let t := if own then t else t.softRead s.cur l 4
    pure (.adv (t.modMe fun c => c.setP rd.toNat (own || t.isFull (l.key / 4))))

/-- AMO.ADD (R324, R325). -/
def execAmoAdd (g : BitVec 3) (st rs1 : BitVec 5) (o : BitVec 2) (w : BitVec 1) (r : BitVec 2) (p : BitVec 1) (s : State) :
    Host.Outcome State Fault Refusal :=
  issue (.amoAdd g st rs1 o w r p) s fun _ s => atomicForm .add g st rs1 o w r s

/-- AMO.AND (R324, R325). -/
def execAmoAnd (g : BitVec 3) (st rs1 : BitVec 5) (o : BitVec 2) (w : BitVec 1) (r : BitVec 2) (p : BitVec 1) (s : State) :
    Host.Outcome State Fault Refusal :=
  issue (.amoAnd g st rs1 o w r p) s fun _ s => atomicForm .and g st rs1 o w r s

/-- AMO.OR (R324, R325). -/
def execAmoOr (g : BitVec 3) (st rs1 : BitVec 5) (o : BitVec 2) (w : BitVec 1) (r : BitVec 2) (p : BitVec 1) (s : State) :
    Host.Outcome State Fault Refusal :=
  issue (.amoOr g st rs1 o w r p) s fun _ s => atomicForm .or g st rs1 o w r s

/-- AMO.XOR (R324, R325). -/
def execAmoXor (g : BitVec 3) (st rs1 : BitVec 5) (o : BitVec 2) (w : BitVec 1) (r : BitVec 2) (p : BitVec 1) (s : State) :
    Host.Outcome State Fault Refusal :=
  issue (.amoXor g st rs1 o w r p) s fun _ s => atomicForm .xor g st rs1 o w r s

/-- AMO.MIN (R324, R325). -/
def execAmoMin (g : BitVec 3) (st rs1 : BitVec 5) (o : BitVec 2) (w : BitVec 1) (r : BitVec 2) (p : BitVec 1) (s : State) :
    Host.Outcome State Fault Refusal :=
  issue (.amoMin g st rs1 o w r p) s fun _ s => atomicForm .min g st rs1 o w r s

/-- AMO.MAX (R324, R325). -/
def execAmoMax (g : BitVec 3) (st rs1 : BitVec 5) (o : BitVec 2) (w : BitVec 1) (r : BitVec 2) (p : BitVec 1) (s : State) :
    Host.Outcome State Fault Refusal :=
  issue (.amoMax g st rs1 o w r p) s fun _ s => atomicForm .max g st rs1 o w r s

/-- AMO.MINN (R324, R325). -/
def execAmoMinn (g : BitVec 3) (st rs1 : BitVec 5) (o : BitVec 2) (w : BitVec 1) (r : BitVec 2) (p : BitVec 1) (s : State) :
    Host.Outcome State Fault Refusal :=
  issue (.amoMinn g st rs1 o w r p) s fun _ s => atomicForm .minn g st rs1 o w r s

/-- AMO.MAXN (R324, R325). -/
def execAmoMaxn (g : BitVec 3) (st rs1 : BitVec 5) (o : BitVec 2) (w : BitVec 1) (r : BitVec 2) (p : BitVec 1) (s : State) :
    Host.Outcome State Fault Refusal :=
  issue (.amoMaxn g st rs1 o w r p) s fun _ s => atomicForm .maxn g st rs1 o w r s

/-- AMO.SWAP (R324, R325). -/
def execAmoSwap (g : BitVec 3) (st rs1 : BitVec 5) (o : BitVec 2) (w : BitVec 1) (r : BitVec 2) (p : BitVec 1) (s : State) :
    Host.Outcome State Fault Refusal :=
  issue (.amoSwap g st rs1 o w r p) s fun _ s => atomicForm .swap g st rs1 o w r s

/-- CAS (R324, R325). -/
def execCas (g : BitVec 3) (st rs1 : BitVec 5) (o : BitVec 2) (w : BitVec 1) (r : BitVec 2) (p : BitVec 1) (s : State) :
    Host.Outcome State Fault Refusal :=
  issue (.cas g st rs1 o w r p) s fun _ s => atomicForm .cas g st rs1 o w r s

/-- FENCE (R327, spec/04 R146, spec/05 R185). -/
def execFence (g : BitVec 3) (st : BitVec 5) (o : BitVec 2) (s : State) :
    Host.Outcome State Fault Refusal :=
  issue (.fence g st o) s fun _ s => do
    scopeOk g.toNat st.toNat
    require (o ≠ 0) .illegal 5
    let t ← if 2 ≤ o.toNat then s.writeThrough else pure s
    releaseWaits g.toNat o.toNat t
    pure (.adv (if bit st 3 then t.l1Order g.toNat (o = 1 || o = 3) (2 ≤ o.toNat) else t))

/-- QINIT (R329). -/
def execQinit (q rs2 rs1 : BitVec 5) (rd : BitVec 3) (p : BitVec 1) (s : State) :
    Host.Outcome State Fault Refusal :=
  issue (.qinit q rs2 rs1 rd p) s fun _ s => do
    notOrdered s 1
    let c := s.me
    let ptr := c.s (rn rs1)
    let cfg := c.s (rn rs2)
    if !s.qinitOk q cfg then pure (.adv (s.modMe fun c => c.setP rd.toNat false))
    else do
      let k := field cfg 0 4
      let e := field cfg 4 3
      let off := field ptr 0 28
      require (off % 2 ^ e = 0) .align (2 ^ e)
      require (match regionOf s.cur off with
        | some (.bay _) => off % 0x8000 + 2 ^ (k + e) ≤ 0x8000
        | _ => false) .bounds 0x29
      let _ ← s.checkGranules s.cur c.ctx c.level (ptr - w64 (field ptr 0 5)) .store true false 10 (granules off (2 ^ (k + e)))
      let d : QDesc := { w0 := w64 (2 ^ 63 + k * 2 ^ 59 + e * 2 ^ 56 + field ptr 28 4 * 2 ^ 52 + c.pol.toNat * 2 ^ 40
                                    + (off - 0x80000)), head := 0, tail := 0 }
      pure (.adv ((s.setQueue q d).modMe fun c => c.setP rd.toNat true))

/-- QENQ (R329). The descriptor tests come before the port that rs1 may name, and a QENQ that fails them consumes no item of it. -/
def execQenq (q rs1 : BitVec 5) (v : BitVec 1) (rd : BitVec 3) (p : BitVec 1) (s : State) :
    Host.Outcome State Fault Refusal :=
  issue (.qenq q rs1 v rd p) s fun _ s => do
    notOrdered s 1
    let d := s.queue q
    let failed : M Fin := pure (.adv (s.modMe fun c => c.setP rd.toNat false))
    if !d.mine s.me then failed
    else do
      d.kindOk v
      if d.cap ≤ d.count then failed
      else
        vecUse (if v = 1 then [rs1] else []) s fun s => do
          let l ← s.ringPlace (d.entry d.tail) d.size .store
          let x := if v = 1 then (s.me.source rs1).toNat else (s.me.s (rn rs1)).toNat
          let t := s.put s.cur l d.size (x % 2 ^ (8 * d.size)) (allBytes d.size)
          pure ((t.setQueue q { d with tail := d.tail + 1 }).modMe fun c => c.setP rd.toNat true)

/-- QDEQ (R329, R330). -/
def execQdeq (q : BitVec 5) (v : BitVec 1) (c : BitVec 3) (rd : BitVec 5) (p : BitVec 1) (s : State) :
    Host.Outcome State Fault Refusal :=
  issue (.qdeq q v c rd p) s fun _ s => do
    notOrdered s 1
    let d := s.queue q
    let i := Instr.qdeq q v c rd p
    let failed (s : State) : M Fin :=
      let (t, yielded) := (s.modMe fun k => k.setP c.toNat false).qdeqFailed (s.me.nextPc i)
      if yielded then pure (.done t) else pure (.adv t)
    if !d.mine s.me then failed s
    else do
      d.kindOk v
      if d.count = 0 then failed s
      else do
        let l ← s.ringPlace (d.entry d.head) d.size .load
        let x := s.read l.key d.size
        let took (s : State) : State := ((s.softRead s.cur l d.size).setQueue q { d with head := d.head + 1 }).modMe fun k =>
          { k.setP c.toNat true with qfail := vset k.qfail k.taskId 0 }
        if v = 1 then vecForm [] rd s fun s => pure (took s, BitVec.ofNat 512 x)
        else pure (.adv ((took s).modMe fun k => k.setS (rn rd) (w64 x)))

/-- QCNT (R329). -/
def execQcnt (q rd : BitVec 5) (p : BitVec 1) (s : State) :
    Host.Outcome State Fault Refusal :=
  issue (.qcnt q rd p) s fun _ s => do
    notOrdered s 1
    let d := s.queue q
    pure (.adv (s.modMe fun c => c.setS (rn rd) (if d.mine c then w64 d.count else w64 (2 ^ 64 - 1))))

/-- OLDEST (R331). -/
def execOldest (s : State) : Host.Outcome State Fault Refusal :=
  issue .oldest s fun _ s => do
    let t ← s.writeThrough
    pure (.adv t)

end Sys2Proof.Machine
end

