-- ==== Sys2Proof/Machine/FarOps.lean ====
section
/-! DEFINITION. FAR and FQ: far loads and stores, flushes, prefetches, page invalidation, landing pushes and the fault queue
(spec/15 R428 to R431, spec/04 R146 to R149, spec/01 R34, R46 to R51). -/

namespace Sys2Proof.Machine

/-! ## FLD and FST (R429) -/

/-- The bytes of a far load by the core that moves. -/
def State.farRead (s : State) (ptr : W64) (n : Nat) : M (State × Nat) := do
  let va := field ptr 0 48
  let (s, pl) ← s.farPlace ptr 0
  match pl with
  | .line l => do
    farTag ptr (l.tag va)
    pure (s, l.get va n)
  | .phys pa v => do
    farTag ptr (s.physTag pa)
    s.physEcc pa n true v
    pure (s.physRead pa n v)
  | .device pa => do
    let (t, x) ← s.devRead pa n
    pure (t, x.toNat)
  | .away _ _ _ =>
    let (t, x) := s.nextRemote
    pure (t, x.toNat % 2 ^ (8 * n))

/-- A far store of n bytes by the core that moves. -/
def State.farWrite (s : State) (ptr : W64) (n : Nat) (x : W64) : M State := do
  let va := field ptr 0 48
  let (s, pl) ← s.farPlace ptr 1
  match pl with
  | .line l => do
    farTag ptr (l.tag va)
    pure (s.modMe fun c => c.l1Put (l.set' va n x.toNat))
  | .phys pa v => do
    farTag ptr (s.physTag pa)
    s.physEcc pa n false v
    pure (s.physWrite pa n x.toNat (allBytes n) v)
  | .device pa => s.devWrite pa n x
  | .away home pa key =>
    let y : Sent := { home := BitVec.ofNat 12 home, pa := pa, size := n, key := BitVec.ofNat 6 key, op := none
                      value := w64 (x.toNat % 2 ^ (8 * n)), other := 0 }
    pure (s.modHub fun h => { h with sent := h.sent ++ [y] })

/-- The size that FLD and FST name. -/
def farSize (z : BitVec 2) : Nat := 2 ^ z.toNat

/-- FLD (R429). -/
def execFld (x : BitVec 1) (z : BitVec 2) (rs2 rs1 rd : BitVec 5) (p : BitVec 1) (s : State) :
    Host.Outcome State Fault Refusal :=
  issue (.fld x z rs2 rs1 rd p) s fun _ s => do
    require (!(x = 1 && z = 3)) .illegal 1
    let ptr := s.me.s (rn rs1) + s.me.s (rn rs2)
    let n := farSize z
    canonical ptr
    require (field ptr 0 48 % n = 0) .align n
    let (t, v) ← s.farRead ptr n
    pure (.adv (t.modMe fun c => c.setS (rn rd) (if x = 1 then sext (8 * n) v else w64 v)))

/-- FST (R429). -/
def execFst (z : BitVec 2) (rs2 rs1 rd : BitVec 5) (p : BitVec 1) (s : State) : Host.Outcome State Fault Refusal :=
  issue (.fst z rs2 rs1 rd p) s fun _ s => do
    let ptr := s.me.s (rn rs1) + s.me.s (rn rs2)
    let n := farSize z
    canonical ptr
    require (field ptr 0 48 % n = 0) .align n
    let t ← s.farWrite ptr n (s.me.s (rn rd))
    pure (.adv t)

/-! ## FFLUSH (R429, spec/04 R146, R140) -/

/-- The leaves that a polder's tables map below a table frame: virtual address, size and leaf. -/
def State.leavesFrom (s : State) (frame va : Nat) : List (Nat × Nat × Nat) → List (Nat × Nat × W64)
  | [] => []
  | (lvl, lo, n) :: rest =>
    (List.range (2 ^ n)).flatMap fun i =>
      let e := w64 (s.hubRead (frame * 0x10000 + 8 * i) 8)
      if !bit e 0 || bit e 62 then []
      else if lvl = 3 || bit e 61 then [(va + i * 2 ^ lo, 2 ^ lo, e)]
      else s.leavesFrom (leafPfn e) (va + i * 2 ^ lo) rest

/-- A sector of physical memory is mapped by a polder within a stretch of its virtual addresses. -/
def sectorMapped (s : State) (ls : List (Nat × Nat × W64)) (va len pa : Nat) : Bool :=
  ls.any fun x =>
    let base := leafPfn x.2.2 * 0x10000
    !s.remote x.2.2 && base ≤ pa && pa < base + x.2.1
      && (let v := x.1 + (pa - base); v < va + len && va < v + 32)

/-- An L1 line of a polder touches a stretch of its virtual addresses. -/
def L1Line.touches (l : L1Line) (pol : BitVec 12) (va len : Nat) : Bool :=
  let v := l.vtag * 2 ^ 14 + l.set * 128
  l.pol == pol && v < va + len && va < v + 128

/-- A line of the own L1 that an order writes back holds an error in dirty bytes (R139). -/
def State.l1Sound (s : State) (p : L1Line → Bool) : M Unit :=
  match s.me.l1.find? fun l => p l && l.bad ≠ 0 && l.dirty ≠ 0 with
  | some l => trap .uncorrectable (l.errorValue 0)
  | none => .ok ()

/-- The effects of an FFLUSH at an agent scope: over the lines that its range touches, or over everything. -/
def State.farFlush (s : State) (ag : Nat) (inv : Bool) (va len : Nat) : State :=
  if ag < 3 then s
  else
    let a := s.cur
    let pol := s.me.pol
    let s := s.l1Sweep a inv fun l => len = 0 || l.touches pol va len
    if ag = 5 then
      let vf := descVf (s.desc pol)
      let ls := if len = 0 then [] else s.leavesFrom (descRoot (s.desc pol)) 0 walkLevels
      s.bermFlush a fun l => if len = 0 then allSectors (l.vf.toNat == vf) else sectorsOf l (sectorMapped s ls va len)
    else s

/-- FFLUSH (R429). -/
def execFflush (inv : BitVec 1) (g : BitVec 3) (rs2 rs1 : BitVec 5) (p : BitVec 1) (s : State) :
    Host.Outcome State Fault Refusal :=
  issue (.fflush inv g rs2 rs1 p) s fun _ s => do
    require (g.toNat ≤ 5) .illegal 5
    let ptr := s.me.s (rn rs1)
    let len := (s.me.s (rn rs2)).toNat
    canonical ptr
    releaseWaits g.toNat 2 s
    let pol := s.me.pol
    let va := field ptr 0 48
    s.l1Sound fun l => 3 ≤ g.toNat && (len = 0 || l.touches pol va len)
    pure (.adv (s.farFlush g.toNat (inv = 1) va len))

/-! ## FPF (R429) -/

/-- One line prefetched: into its home berm, and into the L1 for CA = 0b10. Nothing is where it would fault, where the page or the
window is uncached (spec/04 R156), and where the line holds an error; tables and translation units stay as they are. -/
def State.prefetchLine (s : State) (va : Nat) : State :=
  let pol := s.me.pol
  match s.walk pol va 0 true with
  | .fault _ _ _ _ => s
  | .leaf e large _ =>
    let pa := leafPa e large va / 128 * 128
    let reads := s.readsOf pol (va / 0x10000)
    if s.remote e || leafCa e = 0 || hbmEnd ≤ pa || inReduction va || !s.bridged s.cur pa
        || !(reads.all fun r => s.bridged s.cur r.1) || (s.tablesBad reads).isSome
        || (failOf (s.lineEcc pa (s.viaOf pol (leafKey e) true))).isSome then s
    else if leafCa e = 2 then
      if (s.me.l1Find pol va).isSome then s else (s.l1Fill s.cur pol va e large).1
    else (List.range 4).foldl (fun (s : State) i => (s.bermFetch (pa + 32 * i) (descVf (s.desc pol)) (leafKey e)).1) s

/-- FPF (R429): a pointer that no access could use prefetches nothing. -/
def execFpf (rs2 rs1 : BitVec 5) (p : BitVec 1) (s : State) : Host.Outcome State Fault Refusal :=
  issue (.fpf rs2 rs1 p) s fun _ s =>
    let ptr := s.me.s (rn rs1)
    let len := min (s.me.s (rn rs2)).toNat 0x10000
    let va := field ptr 0 48
    let n := if len = 0 || field ptr 48 12 ≠ 0 then 0 else (va + len - 1) / 128 - va / 128 + 1
    pure (.adv ((List.range n).foldl (fun (s : State) i => s.prefetchLine ((va / 128 * 128 + 128 * i) % 2 ^ 48)) s))

/-! ## PGINV (R429, spec/01 R48) -/

/-- An address lies in the page of a cached translation or line. -/
def samePage (large : Bool) (x va : Nat) : Bool := x / (if large then 2 ^ 26 else 2 ^ 16) == va / (if large then 2 ^ 26 else 2 ^ 16)

/-- An L1 line belongs to the page of an address. -/
def L1Line.onPage (l : L1Line) (pol : BitVec 12) (va : Nat) : Bool := l.pol == pol && samePage l.large (l.vtag * 2 ^ 14 + l.set * 128) va

/-- A translation other than those of a page. -/
def Tlb.offPage (t : Tlb) (pol : BitVec 12) (va : Nat) : Bool :=
  !(t.pol == pol && t.page == va / (if t.large then 2 ^ 26 else 2 ^ 16))

/-- An agent scope of core a covers every die: on a hub core die acts as dev (spec/05 R163). -/
def allDies (a ag : Nat) : Bool := 3 < ag || (ag = 3 && isHub a)

/-- The landing and hub cores whose L1s an agent scope of core a covers. -/
def State.scopeCores (s : State) (a ag : Nat) : List Nat :=
  if ag < 3 then [a]
  else (s.cores.map (·.1)).filter fun b => !isOrdinary b && (allDies a ag || dieOf b = dieOf a)

/-- A walk that has read the entries of the page of an address for a polder, and waits for room in the fault ring. -/
def Walk.onPage (w : Walk) (pol : BitVec 12) (va : Nat) : Bool :=
  match w.read with
  | some l => w.pol == pol && samePage (l.any fun e => bit e.2 61) (w.page * 0x10000) va
  | none => false

/-- The walks of the unit of agent b that have read a page's entries: the requesters that joined them are judged by these, and no
later miss joins them (R48). -/
def State.shutWalks (s : State) (b : Nat) (pol : BitVec 12) (va : Nat) : State :=
  let s := ((s.walksOf b).filter fun w => w.onPage pol va).foldl (fun (s : State) w => s.completeWalk b w) s
  s.setWalks b ((s.walksOf b).map fun w => if w.onPage pol va then { w with shut := true } else w)

/-- A page removed from the translation units and L1s within an agent scope of core a; dirty bytes are written back. -/
def State.pageInval (s : State) (a ag : Nat) (pol : BitVec 12) (va : Nat) : State :=
  let s := (s.scopeCores a ag).foldl (fun (s : State) b => s.l1Sweep b true fun l => l.onPage pol va) s
  if ag < 3 then s
  else if !allDies a ag then
    let s := s.shutWalks a pol va
    s.setTlb a ((s.tlbOf a).filter fun t => t.offPage pol va)
  else
    let s := ((s.dies.map fun e => landingAgent (64 * e.1)) ++ [hubCore0]).foldl (fun (s : State) b => s.shutWalks b pol va) s
    let s := s.dies.foldl (fun (s : State) e => s.modDie e.1 fun d => { d with tlb := d.tlb.filter fun t => t.offPage pol va }) s
    s.modHub fun h => { h with tlb := h.tlb.filter fun t => t.offPage pol va }

/-- PGINV (R429). -/
def execPginv (g : BitVec 3) (rs2 rs1 : BitVec 5) (p : BitVec 1) (s : State) : Host.Outcome State Fault Refusal :=
  issue (.pginv g rs2 rs1 p) s fun _ s => do
    require (g.toNat ≤ 5) .illegal 5
    require (1 ≤ s.me.level) .privilege 1
    let ptr := s.me.s (rn rs1)
    canonical ptr
    pure (.adv (s.pageInval s.cur g.toNat (BitVec.ofNat 12 (s.me.s (rn rs2)).toNat) (field ptr 0 48)))

/-! ## Landing pushes (R430, spec/04 R147 to R149, spec/01 R34) -/

/-- The cluster that a push of core a writes to. -/
def Push.target (p : Push) (a : Nat) : Nat := dieOf a * 2048 + p.cluster.toNat

/-- The core by whose addresses a push writes, and the local pointer of its byte k. -/
def Push.place (p : Push) (a k : Nat) : Nat × W64 :=
  let c := p.target a
  let t := p.tag.toNat * 2 ^ 28
  if p.tcm then (agentIn c p.core.toNat, w64 (t + p.off + k))
  else (agentIn c 0, w64 (t + 0x80000 + p.bay.toNat * 0x8000 + p.off + k))

/-- A push's destination is a code bay. -/
def State.pushesCode (s : State) (a : Nat) (p : Push) : Bool := !p.tcm && s.bayFormat (p.target a) p.bay.toNat = 1

/-- How a piece of a push ended: moved; waiting for a translation; stopped by a cause with its value. -/
inductive Moved where
  | on (s : State) (n : Nat)
  | waits (s : State)
  | stops (s : State) (c : Cause) (v : W64)
  deriving DecidableEq, Repr

/-- n bytes of a peer module's memory, as it answers. -/
def State.remoteBytes (s : State) : Nat → State × Nat
  | 0 => (s, 0)
  | n + 1 =>
    let (s, x) := s.nextRemote
    let (t, y) := s.remoteBytes n
    (t, x.toNat % 256 + 256 * y)

/-- The bytes of a shelf source, checked as a load of the issuing polder. -/
def State.shelfBytesFor (s : State) (a : Nat) (p : Push) (k n : Nat) : M Nat := do
  let l ← s.localCheck a p.ctx 1 (p.src + w64 k) 1 .load
  require l.tagged .polderAccess 8
  detecting s a (s.eccCheck a l n true)
  pure (s.read l.key n)

/-- The bytes of a far source of core a under a leaf: what the core itself has stored there in its L1 is written back first (spec/05
R186); then tags, errors, and the bytes through the berm, or past it in the reduction window (spec/04 R156). A die that is not
released answers nothing (spec/07 R249). -/
def State.farBytesFor (s : State) (a : Nat) (p : Push) (t : Tlb) (ptr : W64) (n : Nat) : M (State × Nat) := do
  let va := field ptr 0 48
  let pa := leafPa t.leaf t.large va
  if s.remote t.leaf then pure (s.remoteBytes n)
  else if isDevFrame (pa / 0x10000) then trap .polderAccess 13
  else if !s.bridged a pa then .error (.stall s)
  else do
    let s := s.l1Sweep a false fun l => l.pa == pa / 128 * 128
    let v := s.viaOf p.ctx.pol (leafKey t.leaf) (leafCa t.leaf ≠ 0 && !inReduction va)
    farTag p.src (s.physTag pa)
    detecting s a (s.physEcc pa n true v)
    pure (s.physRead pa n v)

/-- n bytes written at byte k of a push's destination, their words set full. An error there is one of the destination's core or
bay. -/
def State.pushPut (s : State) (a : Nat) (p : Push) (k n x : Nat) : M State := do
  let (b, ea) := p.place a k
  let l ← s.localCheck b p.ctx 1 ea 1 .engine
  detecting s b (s.eccCheck b l n false)
  pure (s.enginePut b l n x)

/-- The bytes that move together at byte k: within one granule of the source, one of the destination, and the push. -/
def Push.chunk (p : Push) (a k : Nat) : Nat :=
  min (min (32 - (p.src.toNat + k) % 32) (32 - (p.place a k).2.toNat % 32)) (p.len - k)

/-- The result of a checked move. -/
def Moved.of (s : State) (k n : Nat) : M State → Moved
  | .ok t => .on t n
  | .error (.trap c v) => .stops s c (stopValue v k)
  | .error (.trapAt t c v) => .stops t c (stopValue v k)
  | .error (.stall _) => .waits s

/-- The next bytes of a push of core a, from byte k. A piece that is remote without the flag and would also be refused as one into a
code bay stops for the former (log entry 101). -/
def State.pushPiece (s : State) (a : Nat) (p : Push) (k : Nat) : Moved :=
  let n := p.chunk a k
  let code := s.pushesCode a p
  if p.shelf then
    if code && p.task then .stops s .writeProtect 1
    else Moved.of s k n (do
      let x ← s.shelfBytesFor a p k n
      s.pushPut a p k n x)
  else
    let ptr := setField (p.src + w64 k) 48 16 (field p.src 48 16)
    let go (s : State) (t : Tlb) : Moved :=
      if s.remote t.leaf && !p.rem then .stops s .copySpan (w64 k)
      else if code && leafXn t.leaf then .stops s .execNever 1
      else if code && p.task then .stops s .writeProtect 1
      else Moved.of s k n (do
        let (t, x) ← s.farBytesFor a p t ptr n
        t.pushPut a p k n x)
    let found (s : State) : Option Tlb :=
      match s.tlbFind a p.ctx.pol (field ptr 0 48) with
      | some t => if leafAllows t.leaf 2 && !(p.rem && s.cutOff t.leaf) then some t else none
      | none => none
    match found s with
    | some t => go s t
    | none =>
      let r : FarReq :=
        { agent := a, push := some p.id, ptr := ptr, acc := 2, copy := true, progress := k, pol := p.ctx.pol, own := p.own }
      let s := s.walkNow r
      match found s with
      | some t => go s t
      | none => .waits s

/-- A push changed by f. -/
def State.modPush (s : State) (a id : Nat) (f : Push → Push) : State :=
  s.modCore a fun c => { c with pushes := c.pushes.map fun p => if p.id = id then f p else p }

/-- A push moved from byte k on, until it ends, stops or waits; its last word raises its counter. -/
def State.pushMove (s : State) (a : Nat) (p : Push) (k : Nat) : Nat → State
  | 0 => s
  | fuel + 1 =>
    if p.len ≤ k then
      let s := s.dropPush a p.id
      match p.count with
      | some m => s.raiseCounter (agentIn (p.target a) p.core.toNat) m
      | none => s
    else
      match s.pushPiece a p k with
      | .on t n => (t.modPush a p.id fun q => { q with progress := k + n, own := false }).pushMove a p (k + n) fuel
      | .waits t => t
      | .stops t c v => t.stopPush a p c v

/-- The first push of core a that waits on nothing. -/
def State.pushReady (s : State) (a : Nat) : Option Push :=
  (s.core a).pushes.find? fun p => p.seq.isNone
    && !(s.hub.waitRecs.any fun r => r.req.agent == a && r.req.push == some p.id)

/-- The landing lanes move the next push of core a. -/
def State.pushWork (s : State) (a : Nat) : State :=
  match s.pushReady a with
  | some p => s.pushMove a p p.progress 4100
  | none => s

/-- PUSH_COMPLETE (R430). -/
def execPushComplete (a : BitVec 22) (s : State) : Host.Outcome State Fault Refusal := event (s.pushWork a.toNat)

/-- The checks of FPUSH at issue, and the push. -/
def fpushChecks (sh rem : Bool) (src dst slot : W64) (s : State) : M Push := do
  let a := s.cur
  require (!(sh && rem)) .illegal 1
  require (field slot 12 52 = 0) .illegal 2
  let len := field dst 16 13
  let off := field dst 29 15
  let tcm := bit dst 59
  if sh then
    require (field src 32 32 = 0 && 0x8000000 ≤ field src 0 28 && field src 0 28 + len ≤ 0x10000000) .polderAccess 14
  else canonical src
  require (field dst 0 5 = 0 && !(tcm && field dst 44 4 ≠ 0) && off % 8 = 0 && len % 8 = 0 && 8 ≤ len && len ≤ 4096
    && off + len ≤ (if tcm then 0x4000 else 0x8000)) .bounds 0x28
  require (field dst 48 11 ≤ 1279) .writeProtect 4
  let inside := match s.jobOf a with
    | some j => j.clusters.contains (dieOf a * 2048 + field dst 48 11)
    | none => false
  require inside .polderAccess 9
  if !bit slot 11 then do
    require s.me.ex .slotViolation 4
    require (s.me.sleep = .engine || field s.me.xt 0 16 ≤ field slot 0 11) .slotViolation 1
  pure { id := (s.me.pushes.map (·.id)).foldl Nat.max 0 + 1, src := src, shelf := sh, rem := rem
         cluster := dst.extractLsb' 48 11, tcm := tcm, bay := dst.extractLsb' 44 4, core := dst.extractLsb' 5 5, off := off
         len := len, tag := dst.extractLsb' 60 4, count := if bit dst 15 then some (dst.extractLsb' 10 5) else none
         ctx := s.me.ctx, task := s.me.level = 0, slot := if bit slot 11 then none else some (field slot 0 11)
         progress := 0, seq := none, own := false }

/-- A push that waits for its slot. -/
def Push.early (p : Push) (c : Core) : Bool :=
  match p.slot with
  | some t => field c.xt 0 16 < t
  | none => false

/-- FPUSH (R430). A hub core refuses it before any other check (R428). -/
def execFpush (sh rem : BitVec 1) (rs2 rs1 rd : BitVec 5) (p : BitVec 1) (s : State) : Host.Outcome State Fault Refusal :=
  if isHub s.cur then .next (s.takeTrap .illegal 3)
  else issue (.fpush sh rem rs2 rs1 rd p) s fun _ s => do
    let q ← fpushChecks (sh = 1) (rem = 1) (s.me.s (rn rs1)) (s.me.s (rn rs2)) (s.me.s (rn rd)) s
    if q.early s.me then stallFor s .engine
    else if 8 ≤ s.me.pushes.length then stallFor (s.pushWork s.cur) .engine
    else pure (.adv (s.modMe fun c => { c with pushes := c.pushes ++ [q] }))

/-- FPUSH_SLOT (R430): a slotted push that waits reaches its slot and issues. -/
def execFpushSlot (a : BitVec 22) (s : State) : Host.Outcome State Fault Refusal :=
  event (
    let t := { s with cur := a.toNat }
    match t.fetchInstr with
    | .ok (.fpush sh rem rs2 rs1 rd p, _, _) =>
      if t.me.act == .exchange && t.me.sleep == .engine && t.me.pushes.length < 8 then
        match fpushChecks (sh = 1) (rem = 1) (t.me.s (rn rs1)) (t.me.s (rn rs2)) (t.me.s (rn rd)) t with
        | .ok q =>
          { (t.modMe fun c =>
              { c.retire (.fpush sh rem rs2 rs1 rd p) with
                pushes := c.pushes ++ [q], xt := w64 (Nat.max (field c.xt 0 16) (q.slot.getD 0)) }) with
            cur := s.cur }
        | .error _ => s
      else s
    | _ => s)

/-! ## Walks as steps of their own (spec/01 R43, R46, R51) -/

/-- WALK_START (R46): the miss of core a that found no free slot starts or joins a walk. -/
def execWalkStart (a : BitVec 22) (s : State) : Host.Outcome State Fault Refusal :=
  let c := s.core a.toNat
  event (match c.farReq with
    | some r => if c.sleep == .walk && (s.walkOf a.toNat).isNone then s.startWalk r else s
    | none => s)

/-- WALK_COMPLETE (R43): the walk for which core a waits ends. -/
def execWalkComplete (a : BitVec 22) (s : State) : Host.Outcome State Fault Refusal :=
  event (match s.walkOf a.toNat with
    | some w => if s.walkable a.toNat w then s.completeWalk a.toNat w else s
    | none => s)

/-- FAULT_INSERT_RETRY (R51): the oldest record that waits for room, one of agent a's. -/
def execFaultInsertRetry (a : BitVec 22) (s : State) : Host.Outcome State Fault Refusal :=
  event (match s.hub.waitRecs with
    | r :: _ => if r.req.agent = a.toNat then s.retryInsert else s
    | [] => s)

/-! ## The fault queue (R431) -/

/-- The record of a sequence number. -/
def State.recordOf (s : State) (n : Nat) : Option FaultRec := s.hub.faults.find? fun r => field r.bytes 96 16 = n

/-- A record is current: not voided, and its function has not been reset since. -/
def State.current (s : State) (r : FaultRec) : Bool := !r.voided && field r.bytes 152 8 = s.vfGen r.fn.toNat

/-- REPLAY or TERM of a sequence number, and the predicate's value. -/
def State.answer (s : State) (n : Nat) (term : Bool) : State × Bool :=
  match s.recordOf n with
  | none => (s, false)
  | some r =>
    if r.later.isSome then (s, false)
    else if !s.current r then (s.modHub fun h => { h with faults := h.faults.erase r }, false)
    else
      match s.recJob r with
      | some j =>
        if j.stand.away || j.stand.evicted then
          (s.modHub fun h => { h with faults := h.faults.map fun x =>
            if x = r then { x with later := some term, inRing := false } else x }, true)
        else (s.answerRec r term, true)
      | none => (s.answerRec r term, true)

/-- FQDEQ (R431). -/
def execFqdeq (c : BitVec 3) (rd : BitVec 5) (p : BitVec 1) (s : State) : Host.Outcome State Fault Refusal :=
  issue (.fqdeq c rd p) s fun _ s =>
    match s.hub.faults.find? fun r => r.inRing with
    | none => pure (.adv (s.modMe fun k => k.setP c.toNat false))
    | some r =>
      let t := s.modHub fun h => { h with faults := h.faults.map fun x => if x = r then { x with inRing := false } else x }
      pure (.adv (t.modMe fun k => { k with v := vset k.v rd.toNat (r.bytes.setWidth 512) }.setP c.toNat true))

/-- REPLAY (R431). -/
def execReplay (rs1 : BitVec 5) (rd : BitVec 3) (p : BitVec 1) (s : State) : Host.Outcome State Fault Refusal :=
  issue (.replay rs1 rd p) s fun _ s =>
    let (t, b) := s.answer (field (s.me.s (rn rs1)) 0 16) false
    pure (.adv (t.modMe fun k => k.setP rd.toNat b))

/-- TERM (R431). -/
def execTerm (rs1 : BitVec 5) (rd : BitVec 3) (p : BitVec 1) (s : State) : Host.Outcome State Fault Refusal :=
  issue (.term rs1 rd p) s fun _ s =>
    let (t, b) := s.answer (field (s.me.s (rn rs1)) 0 16) true
    pure (.adv (t.modMe fun k => k.setP rd.toNat b))

end Sys2Proof.Machine
end

