-- ==== Sys2Proof/Machine/Host.lean ====
section
/-! DEFINITION. The host: the window and the counter aperture of a function's BAR (spec/04 R150, R151, spec/16 R440), the HBM
aperture and the host frame table (spec/04 R152, R153), the flush ring (R154), the launch and completion rings
(spec/07 R223, R224, R226), and interrupts (R242). -/

namespace Sys2Proof.Machine

/-! ## Rings (spec/07 R223, R224, spec/04 R154) -/

/-- A ring stopped or restarted after the host wrote a count of it, with the counted event of a stop. -/
def State.checkRing (s : State) (f ring : Nat) (old : Ring) (ok : Bool) (set : Func → Ring → Func) : State :=
  if old.stopped = !ok then s
  else
    let s := s.modFunc f fun x => set x { old with stopped := !ok }
    if ok then s else s.hubEvent f (0x500 + 0x100 * ring + f)

/-- The counts that the host wrote for a function, judged: each ring stops or goes on, owed completions are written, and fabric
launches placed that waited for the launch ring (R226). -/
def State.checkRings (s : State) (f : Nat) : State :=
  let x := s.func f
  let s := s.checkRing f 0 x.launch (countDiff (s.winGet f 0xF818) x.launch.hub.toNat ≤ 32) fun y r => { y with launch := r }
  let s := s.checkRing f 1 x.compl (countDiff x.compl.hub.toNat (s.winGet f 0xF830) ≤ 64) fun y r => { y with compl := r }
  let s := s.checkRing f 2 x.flush (countDiff (s.winGet f 0xF800) x.flush.hub.toNat ≤ 64) fun y r => { y with flush := r }
  (s.payOwed f (s.func f).owed.length).placeFabric f (s.func f).fabric.length

/-- A count of the host's written. A function without a region has no rings. -/
def State.hostCount (s : State) (f off : Nat) (v : W64) : State :=
  if s.region f = none then s else (s.winPut f off 8 v.toNat).checkRings f

/-- FLUSH_TAIL_WRITE (R154, R224). -/
def execFlushTailWrite (f : BitVec 6) (val : BitVec 64) (s : State) : Host.Outcome State Fault Refusal :=
  event (s.hostCount f.toNat 0xF800 val)

/-- LAUNCH_TAIL_WRITE (R223, R224). -/
def execLaunchTailWrite (f : BitVec 6) (val : BitVec 64) (s : State) : Host.Outcome State Fault Refusal :=
  event (s.hostCount f.toNat 0xF818 val)

/-- COMPLETION_HEAD_WRITE (R223, R224): completions that were held are written. -/
def execCompletionHeadWrite (f : BitVec 6) (val : BitVec 64) (s : State) : Host.Outcome State Fault Refusal :=
  event (s.hostCount f.toNat 0xF830 val)

/-! ## The BAR (spec/04 R150, R151, spec/16 R440) -/

/-- The answer of a read by the host (log entry 19). -/
def State.answerWith (s : State) (x : W64) : State := s.modHub fun h => { h with answer := x }

/-- A host access that no region or register of the BAR takes: all ones, or nothing written, and an error counted. -/
def State.hostError (s : State) (wr : Bool) : State :=
  let s := s.modHub fun h => { h with hostErrs := h.hostErrs + 1 }
  if wr then s else s.answerWith 0xFFFFFFFFFFFFFFFF

/-- Offset of the counter aperture in the BAR as the model lays it out (log entry 22). -/
def counterAperture : Nat := 0x800000

/-- Offset of the debug aperture in the physical function's BAR as the model lays it out (log entry 22). -/
def debugAperture : Nat := 0x400000

/-- An access of n bytes by the host to an offset of the debug aperture (spec/16 R453): its registers are 64 bits wide; what lies
outside them is as R440 gives. -/
def State.debugAccess (s : State) (o n : Nat) (wr : Bool) (x : W64) : State :=
  if n ≠ 8 || !debugReg o then s.hostError wr
  else if wr then s.debugWrite o x
  else let (t, v) := s.debugRead o; t.answerWith v

/-- An access of n bytes by the host to an offset of a function's BAR. One in the window that is not naturally aligned touches the
consecutive physical bytes, even past the end of its region (log entry 127). -/
def State.barAccess (s : State) (f off n : Nat) (wr : Bool) (x : W64) : State :=
  if f = 0 && debugAperture ≤ off && off < debugAperture + 0x100000 then s.debugAccess (off - debugAperture) n wr x
  else if off < counterAperture then
    match (s.regions f)[off / 0x10000]? with
    | some k =>
      let pa := windowBase + k * 0x10000 + off % 0x10000
      if wr then (s.write pa n x.toNat).checkRings f else s.answerWith (w64 (s.read pa n))
    | none => s.hostError wr
  else
    match if n = 8 then apReg (off - counterAperture) else none with
    | some r => if wr then s.apWrite f x r else s.answerWith (s.apRead f r)
    | none => s.hostError wr

/-- HOST_WINDOW_ACCESS (R151). -/
def execHostWindowAccess (f : BitVec 6) (off : BitVec 24) (wr : BitVec 1) (sz : BitVec 2) (data : BitVec 64) (s : State) :
    Host.Outcome State Fault Refusal :=
  event (s.barAccess f.toNat off.toNat (2 ^ sz.toNat) (wr = 1) data)

/-! ## The HBM aperture (spec/04 R152, R153) -/

/-- The host-frame-table byte of a frame as the hub sees it: its cached copy, or the byte in HBM. -/
def State.frameByte (s : State) (n : Nat) : Byte :=
  match sget s.hub.hftCache n with
  | some b => b
  | none => BitVec.ofNat 8 (s.hubRead (field s.hub.hftbase 0 25 * 0x10000 + n) 1)

/-- The hub keeps a copy of the byte that it used. -/
def State.keepFrameByte (s : State) (n : Nat) : State :=
  if bit s.hub.hftbase 63 then s.modHub fun h => { h with hftCache := sset h.hftCache n (s.frameByte n) } else s

/-- A frame is granted to a function (R153). -/
def State.granted (s : State) (f n : Nat) : Bool :=
  n < 0x1800000 && bit s.hub.hftbase 63 && bit (s.frameByte n) 7 && field (s.frameByte n) 0 6 == f

/-- Every frame of a range is granted to a function. -/
def State.rangeGranted (s : State) (f pa len : Nat) : Bool :=
  pa + len ≤ hbmEnd
    && (List.range ((pa + len - 1) / 0x10000 - pa / 0x10000 + 1)).all fun i => s.granted f (pa / 0x10000 + i)

/-- HOST_APERTURE_ACCESS (R152): at the memory port of the home stack, past berms and L1s, under no key, as if every
granule held correct data and no channel were fenced (log entry 126). -/
def execHostApertureAccess (f : BitVec 6) (pa : BitVec 41) (wr : BitVec 1) (sz : BitVec 2) (data : BitVec 64) (s : State) :
    Host.Outcome State Fault Refusal :=
  let n := 2 ^ sz.toNat
  let t := s.keepFrameByte (pa.toNat / 0x10000)
  event (if !s.rangeGranted f.toNat pa.toNat n then (if wr = 1 then t else t.answerWith 0xFFFFFFFFFFFFFFFF)
    else if wr = 1 then t.hbmWrite pa.toNat 0 n data.toNat (2 ^ n - 1)
    else t.answerWith (w64 (t.hbmRead pa.toNat 0 n)))

/-! ## Flush commands (spec/04 R154) -/

/-- The next flush command of a function, when its ring is not stopped and no command is under way. -/
def State.nextFlush (s : State) (f : Nat) : Option (BitVec 256) :=
  let x := s.func f
  match s.region f with
  | some b =>
    if x.flush.stopped || x.flushing.isSome || s.winGet f 0xF800 = x.flush.hub.toNat then none
    else some (BitVec.ofNat 256 (s.read (b + 0xF000 + 32 * (x.flush.hub.toNat % 64)) 32))
  | none => none

/-- A flush command is carried out; otherwise it is refused. -/
def State.flushOk (s : State) (f : Nat) (c : BitVec 256) : Bool :=
  let pa := field c 192 64
  let len := field c 128 64
  (field c 0 8 == 1 || field c 0 8 == 2) && len ≠ 0 && pa % 32 == 0 && len % 32 == 0 && s.rangeGranted f pa len

/-- A line of a physical address touches a range. -/
def lineIn (pa len l : Nat) : Bool := pa < l + 128 && l < pa + len

/-- What a flush command does: dirty berm sectors of the range are written back; with INVAL the L1 lines that hold any of its bytes,
whose dirty bytes go to the berm first (log entry 102), and the berm lines are invalidated. -/
def State.flushRange (s : State) (inval : Bool) (pa len : Nat) : State :=
  if inval then
    (s.cores.foldl (fun (s : State) e => s.l1Sweep e.1 true fun l => lineIn pa len l.pa) s).bermSweep true fun l =>
      allSectors (lineIn pa len l.pa)
  else s.bermSweep false fun l => sectorsOf l fun x => pa < x + 32 && x < pa + len

/-- The next command of a function with one of two kinds taken: its effect, and STATUS. -/
def State.takeFlush (s : State) (f : Nat) (inval : Bool) : State :=
  match s.nextFlush f with
  | none => s
  | some c =>
    if (field c 0 8 == 2) ≠ inval then s
    else
      let ok := s.flushOk f c
      let s := if ok then s.flushRange inval (field c 192 64) (field c 128 64) else s
      let s := s.modFunc f fun x => { x with flushing := some (c, ok) }
      s.winPut f (0xF000 + 32 * ((s.func f).flush.hub.toNat % 64) + 7) 1 (b2n !ok)

/-- FLUSH (R154): a command other than FLUSH_INVAL. -/
def execFlush (f : BitVec 6) (s : State) : Host.Outcome State Fault Refusal := event (s.takeFlush f.toNat false)

/-- FLUSH_INVAL (R154). -/
def execFlushInval (f : BitVec 6) (s : State) : Host.Outcome State Fault Refusal := event (s.takeFlush f.toNat true)

/-- FLUSH_COMPLETE (R154): COOKIE and the head count are written, unless the ring is stopped (R224). -/
def execFlushComplete (f : BitVec 6) (s : State) : Host.Outcome State Fault Refusal :=
  event (match if (s.func f.toNat).flush.stopped then none else (s.func f.toNat).flushing with
    | some (c, _) =>
      let n := (s.func f.toNat).flush.hub + 1
      let s := s.modFunc f.toNat fun x => { x with flushing := none, flush := { x.flush with hub := n } }
      (s.winPut f.toNat 0xF810 8 (field c 64 64)).winPut f.toNat 0xF808 8 n.toNat
    | none => s)

/-! ## Launch records (spec/07 R223, R225, R226) -/

/-- OP, JOBID, COOKIE and POL of a launch record. -/
def recOp (r : BitVec 512) : Nat := field r 0 8
def recJobid (r : BitVec 512) : BitVec 32 := r.extractLsb' 160 32
def recCookie (r : BitVec 512) : W64 := r.extractLsb' 320 64
def recPol (r : BitVec 512) : BitVec 12 := r.extractLsb' 192 12

/-- CLUS, IMGLEN and IMAGE of a launch record. -/
def recClus (r : BitVec 512) : Nat := field r 144 16
def recLen (r : BitVec 512) : Nat := field r 384 64
def recImage (r : BitVec 512) : W64 := r.extractLsb' 448 64

/-- A record that R225 refuses, or whose CLUS or IMGLEN is outside its range (log entry 23); `fab` for a record that the
hub placed. -/
def recBad (fab : Bool) (r : BitVec 512) : Bool :=
  field r 8 120 ≠ 0 || field r 131 5 ≠ 0 || field r 136 8 ≠ 0 || field r 204 4 ≠ 0 || field r 256 64 ≠ 0
    || (bit r 130 && !fab) || !(recOp r == 1 || recOp r == 2)
    || (recOp r == 1 && (recClus r == 0 || 20480 < recClus r || recLen r < 64 || 2 ^ 32 < recLen r))

/-- FABRIC_LAUNCH (R226): refused with status SOURCE, or placed at the tail of the launch ring, or queued for a slot. -/
def execFabricLaunch (f : BitVec 6) (src : BitVec 12) (rec : BitVec 512) (s : State) : Host.Outcome State Fault Refusal :=
  let l := (s.func f.toNat).ltab
  event (if !bit l 63 || src.toNat < field l 0 12 || field l 16 12 < src.toNat then s.refuseRecord f.toNat .source rec
    else if s.vfState f.toNat = 4 then s.refuseRecord f.toNat .vfreset rec
    else (s.modFunc f.toNat fun x => { x with fabric := x.fabric ++ [rec] }).placeFabric f.toNat
      ((s.func f.toNat).fabric.length + 1))

/-- The counts of the records behind a launch that waits at the head of a function's ring, without those that the hub has taken. -/
def State.behind (s : State) (f : Nat) : List Nat :=
  let h := (s.func f).launch.hub.toNat
  ((List.range (countDiff (s.winGet f 0xF818) h - 1)).map fun i => (h + 1 + i) % 2 ^ 64).filter fun n =>
    !(s.func f).taken.contains n

/-- A well-formed KILL. -/
def State.isKill (s : State) (f n : Nat) (r : BitVec 512) : Bool := recOp r == 2 && !recBad (s.placedAt f n) r

/-- The KILL that the hub takes next, with its count: the record at the head, or one behind a launch that waits there, which only
later launches wait for (R227, log entry 103). -/
def State.nextKill (s : State) (f : Nat) : Option (Nat × BitVec 512) :=
  let at' (n : Nat) : Option (Nat × BitVec 512) :=
    match s.recordAt f n with
    | some r => if s.isKill f n r then some (n, r) else none
    | none => none
  if (s.func f).waiting.isSome then (s.behind f).findSome? at'
  else if (s.nextRecord f).isSome then at' (s.func f).launch.hub.toNat
  else none

/-- The record with a count taken: the head moves past it, or the hub notes that it is done with. -/
def State.takeAt (s : State) (f n : Nat) : State :=
  if n = (s.func f).launch.hub.toNat then s.takeRecord f
  else s.modFunc f fun x => { x with taken := x.taken ++ [n] }

/-- A queued launch of a function that a KILL names, removed from the ring (R230). -/
def State.killAt (s : State) (f : Nat) (id : BitVec 32) (n : Nat) : State :=
  match s.recordAt f n with
  | some r => if recOp r = 1 && recJobid r = id then (s.takeAt f n).refuseRecord f .killed r else s
  | none => s

/-- Queued launches of a function whose JOBID a KILL names, removed (R230): the launch that waits at the head, those behind it and
before the KILL, and fabric launches that wait for a slot. -/
def State.killQueued (s : State) (f : Nat) (id : BitVec 32) (kill : Nat) : State :=
  let x := s.func f
  let h := x.launch.hub.toNat
  let before := (s.behind f).filter fun n => countDiff n h < countDiff kill h
  let s := s.modFunc f fun x => { x with fabric := x.fabric.filter fun r => recJobid r ≠ id }
  let s := match x.waiting with
    | some r =>
      let s := before.foldl (fun (s : State) n => s.killAt f id n) s
      if recJobid r = id then
        (((s.undoLoad f).modFunc f fun x => { x with waiting := none, again := false }).takeRecord f).refuseRecord f .killed r
      else s
    | none => s
  (x.fabric.filter fun r => recJobid r == id).foldl (fun (s : State) r => s.refuseRecord f .killed r) s

/-- The jobs and queued launches of a function that a JOBID names, ended (R230). -/
def State.killJobs (s : State) (f : Nat) (id : BitVec 32) (kill : Nat) : State :=
  ((s.killQueued f id kill).jobsOf f).foldl (fun (s : State) j => if j.jobid = id then s.endJob j .killed 0 0 else s)
    (s.killQueued f id kill)

/-- KILL (R225, R230): a well-formed KILL record is obeyed and taken; during a reset it is refused as every record is (R243). -/
def execKill (f : BitVec 6) (s : State) : Host.Outcome State Fault Refusal :=
  event (match s.nextKill f.toNat with
    | some (n, r) =>
      if !s.takesRecords f.toNat then s
      else if s.vfState f.toNat = 4 then (s.takeAt f.toNat n).refuseRecord f.toNat .vfreset r
      else (s.killJobs f.toNat (recJobid r) n).takeAt f.toNat n
    | none => s)

/-! ## Interrupts (spec/07 R242) -/

/-- CAUSE_INTERRUPT (R242): one interrupt for every entry with HOST set since the last. -/
def execCauseInterrupt (s : State) : Host.Outcome State Fault Refusal :=
  event (if s.hub.causeIrqPend then s.modHub fun h => { h with causeIrqPend := false, causeIrqSent := h.causeIrqSent + 1 } else s)

/-- COMPLETION_INTERRUPT (R242): one interrupt for every completion of a function since the last. -/
def execCompletionInterrupt (f : BitVec 6) (s : State) : Host.Outcome State Fault Refusal :=
  event (if (s.func f.toNat).irqPend then
    s.modFunc f.toNat fun x => { x with irqPend := false, irqSent := x.irqSent + 1 }
  else s)

end Sys2Proof.Machine
end

