-- ==== Sys2Proof/Machine/Image.lean ====
section
/-! DEFINITION. UOF images (spec/09 R284 to R286): how the loader reads one, its records, and the routes and guard tables that
it gives out (R290, R291). Where the format says nothing, the general ELF64 layout is presumed (log entry 24). -/

namespace Sys2Proof.Machine

/-! ## Reading (spec/07 R225) -/

/-- n bytes of an image from an offset as a number, lowest byte first; none where they cannot be read. -/
abbrev Reader := Nat → Nat → Option Nat

/-- Continue only when a condition holds. -/
def need (b : Bool) : Option Unit := if b then some () else none

/-- One byte of an image in the address space of a polder, read with the pointer's tag (R225). A byte in a peer module's
memory is a free value (log entry 14). -/
def State.imageByte (s : State) (pol : BitVec 12) (ptr : W64) (off : Nat) : Option Nat := do
  let va := field ptr 0 48 + off
  need (field ptr 48 12 = 0 && va < 2 ^ 48)
  need (s.tablesBad (s.readsOf pol (va / 0x10000))).isNone
  match s.walk pol va 0 true with
  | .leaf e large _ => do
    let pa := leafPa e large va
    if s.remote e then pure ((Config.remoteAnswer (2 ^ 64 + va)).toNat % 256)
    else do
      need (!isDevFrame (pa / 0x10000) && (field ptr 60 4 = 15 || field ptr 60 4 = (s.physTag pa).toNat))
      need (match s.physEcc pa 1 true (s.viaOf pol (leafKey e) (leafCa e ≠ 0)) with
        | .ok _ => true
        | .error _ => false)
      pure (s.physRead pa 1 (s.viaOf pol (leafKey e) (leafCa e ≠ 0))).2
  | .fault _ _ _ _ => none

/-- The reader of an image held as a list of bytes. -/
def bytesReader (l : List Byte) : Reader := fun off n => do
  need (off + n ≤ l.length)
  pure ((List.range n).foldr (fun i acc => (l.getD (off + i) 0).toNat + 256 * acc) 0)

/-- The reader of an image of `len` bytes. -/
def State.imageReader (s : State) (pol : BitVec 12) (ptr : W64) (len : Nat) : Reader := fun off n => do
  need (off + n ≤ len)
  (List.range n).foldr (fun i acc => do
    let b ← s.imageByte pol ptr (off + i)
    let r ← acc
    pure (b + 256 * r)) (some 0)

/-! ## Sections and symbols (R284) -/

/-- A section header. -/
structure Section where
  name  : Nat
  type  : Nat
  off   : Nat
  size  : Nat
  link  : Nat
  info  : Nat
  align : Nat
  deriving DecidableEq, Repr

/-- The file header of an image, with its flags (R284): the offset and number of the section headers, and the section that
holds their names. -/
def imageHeader (rd : Reader) (flags : Nat) : Option (Nat × Nat × Nat) := do
  need ((← rd 0 4) = 0x464C457F && (← rd 4 1) = 2 && (← rd 5 1) = 1 && (← rd 6 1) = 1 && (← rd 7 1) = 0)
  need ((← rd 16 2) = 2 && (← rd 18 2) = 0x5646 && (← rd 20 4) = 1 && (← rd 48 4) = flags && (← rd 58 2) = 64)
  pure (← rd 40 8, ← rd 60 2, ← rd 62 2)

/-- The section headers of an image. -/
def imageSections (rd : Reader) (flags : Nat) : Option (List Section × Nat) := do
  let (off, n, names) ← imageHeader rd flags
  let l ← (List.range n).mapM fun i => do
    let o := off + 64 * i
    pure { name := ← rd o 4, type := ← rd (o + 4) 4, off := ← rd (o + 24) 8, size := ← rd (o + 32) 8,
           link := ← rd (o + 40) 4, info := ← rd (o + 44) 4, align := ← rd (o + 48) 8 : Section }
  pure (l, names)

/-- An image's sections, its reader, and the section of their names. -/
structure Image where
  rd    : Reader
  secs  : List Section
  names : Nat

/-- The sections of a type, with their numbers. -/
def Image.ofType (m : Image) (t : Nat) : List (Nat × Section) :=
  (m.secs.mapIdx fun i x => (i, x)).filter fun e => e.2.type == t

/-- The place of a section within its placement: code, constants, data, zeroed space; none for any other section. -/
def Image.order (m : Image) (x : Section) : Option Nat := do
  need (x.type == 1 || x.type == 8)
  let tab ← m.secs[m.names]?
  let c ← m.rd (tab.off + x.name + 1) 1
  if c = 0x74 then some 0 else if c = 0x72 then some 1 else if c = 0x64 then some 2 else if c = 0x62 then some 3 else none

/-- A number rounded up to a multiple. -/
def alignUp (n a : Nat) : Nat := if a = 0 then n else ceilDiv n a * a

/-- The sections of placement p in R285's order, each with its number and its offset from the placement's base. -/
def Image.layout (m : Image) (p : Nat) : List (Nat × Section × Nat) :=
  let mine := (m.secs.mapIdx fun i x => (i, x)).filter fun e => e.2.info == p && (m.order e.2).isSome
  let sorted := (List.range 4).flatMap fun k => mine.filter fun e => m.order e.2 == some k
  (sorted.foldl (fun (acc : List (Nat × Section × Nat) × Nat) e =>
    let o := alignUp acc.2 e.2.align
    (acc.1 ++ [(e.1, e.2, o)], o + e.2.size)) ([], 0)).1

/-- Bytes that a placement's sections take. -/
def Image.extent (m : Image) (p : Nat) : Nat := (m.layout p).foldl (fun n e => Nat.max n (e.2.2 + e.2.1.size)) 0

/-- A symbol: its binding, section and value. -/
structure Sym where
  bind  : Nat
  shndx : Nat
  value : Nat
  deriving DecidableEq, Repr

/-- Symbol i of the symbol table. -/
def Image.sym (m : Image) (i : Nat) : Option Sym := do
  let (_, t) ← (m.ofType 2).head?
  need (24 * i + 24 ≤ t.size)
  let o := t.off + 24 * i
  pure { bind := (← m.rd (o + 4) 1) / 16, shndx := ← m.rd (o + 6) 2, value := ← m.rd (o + 8) 8 }

/-- No global symbol is unresolved (R285). -/
def Image.resolved (m : Image) : Bool :=
  match (m.ofType 2).head? with
  | some (_, t) => (List.range (t.size / 24)).all fun i =>
      i = 0 || match m.sym i with
        | some x => !(x.shndx == 0 && x.bind == 1)
        | none => false
  | none => true

/-- A symbol's value, given the base of each placement: a local pointer with its tag, or an absolute number. -/
def Image.value (m : Image) (base : Nat → Option Nat) (i : Nat) : Option Nat := do
  let x ← m.sym i
  if x.shndx = 0xFFF1 then pure x.value
  else do
    need (x.shndx ≠ 0)
    let t ← m.secs[x.shndx]?
    pure ((← base t.info) + x.value)

/-- The placement that holds a symbol. -/
def Image.home (m : Image) (i : Nat) : Option Nat := do
  let x ← m.sym i
  need (x.shndx ≠ 0 && x.shndx ≠ 0xFFF1)
  pure (← m.secs[x.shndx]?).info

/-! ## Records (R284) -/

/-- The records of a section type, as numbers of n bytes. -/
def Image.records (m : Image) (t n : Nat) : Option (List Nat) := do
  let l ← (m.ofType t).mapM fun e => (List.range (e.2.size / n)).mapM fun i => m.rd (e.2.off + n * i) n
  pure l.flatten

/-- Bytes of a record: n from byte b up. -/
def bytesAt (r b n : Nat) : Nat := r / 256 ^ b % 256 ^ n

/-- A placement record. -/
structure Placement where
  bfmt     : W64
  kind     : Nat
  fixed    : Nat
  tag      : Nat
  resident : Bool
  grad     : Nat
  pol      : Nat
  lo       : Nat
  hi       : Nat
  mask     : Nat
  deriving DecidableEq, Repr

/-- The placement that 32 bytes describe. -/
def Placement.of (r : Nat) : Placement :=
  { bfmt := w64 (bytesAt r 0 8), kind := bytesAt r 12 1, fixed := bytesAt r 13 1, tag := bytesAt r 14 1 % 16
    resident := bytesAt r 14 1 / 16 % 2 = 1, grad := bytesAt r 15 1, pol := bytesAt r 16 2, lo := bytesAt r 18 2, hi := bytesAt r 20 2
    mask := bytesAt r 24 8 }

/-- The placement covers stand index i. -/
def Placement.covers (p : Placement) (i : Nat) : Bool := p.lo ≤ i && i ≤ p.hi

/-- The polder of a placement. -/
def Placement.polder (p : Placement) (d : BitVec 12) : BitVec 12 := if p.pol = 0xFFFF then d else BitVec.ofNat 12 p.pol

/-- A flit-set record. -/
structure FlitSet where
  sym   : Nat
  dom   : Nat
  k     : Nat
  slot  : Nat
  min   : Nat
  lo    : Nat
  hi    : Nat
  src   : Nat
  dst   : Nat
  dx    : Int
  dy    : Int
  route : Nat
  deriving DecidableEq, Repr

/-- The flit set that 32 bytes describe. -/
def FlitSet.of (r : Nat) : FlitSet :=
  { sym := bytesAt r 0 4, dom := bytesAt r 4 1, k := bytesAt r 5 1, slot := bytesAt r 6 2, min := bytesAt r 8 2, lo := bytesAt r 10 2, hi := bytesAt r 12 2
    src := bytesAt r 14 1, dst := bytesAt r 15 1, dx := toSigned 16 (bytesAt r 16 2), dy := toSigned 16 (bytesAt r 18 2)
    route := bytesAt r 20 4 }

/-- A task record, with the offset of its PC in the section. -/
structure TaskRec where
  entry   : BitVec 128
  who     : Nat
  lo      : Nat
  hi      : Nat
  landing : Bool
  deriving DecidableEq, Repr

/-- The task record that 32 bytes describe. -/
def TaskRec.of (r : Nat) : TaskRec :=
  { entry := BitVec.ofNat 128 (bytesAt r 0 16), who := bytesAt r 16 4, lo := bytesAt r 20 2, hi := bytesAt r 22 2, landing := bytesAt r 24 1 = 1 }

/-- A gate record. -/
structure GateRec where
  handle : Nat
  entry  : Nat
  allow  : Nat
  budget : Nat
  awmax  : Nat
  flags  : Nat
  deriving DecidableEq, Repr

/-- The gate record that 32 bytes describe; its flags as the sluice table holds them (spec/15 R419). -/
def GateRec.of (r : Nat) : GateRec :=
  { handle := bytesAt r 0 4, entry := bytesAt r 4 4, allow := bytesAt r 8 8, budget := bytesAt r 16 4, awmax := bytesAt r 20 4
    flags := bytesAt r 24 1 % 8 + bytesAt r 25 1 % 4 * 256 }

/-! ## Routes (R290, R291) -/

/-- The cluster that lies some columns and rows away from another. -/
def clusterFrom (c : Nat) (dx dy : Int) : Option Nat :=
  let x := (clusterX c : Int) + dx
  let y := (clusterY c : Int) + dy
  if 0 ≤ x && x < 160 && 0 ≤ y && y < 128 then some (clusterAt x.toNat y.toNat) else none

/-- A hop that a plan may use: its link and the cluster that it enters work, and that cluster lies in the stand. -/
def State.hopWorks (s : State) (cl : List Nat) (h : Hop) : Bool := !s.failed 4 h.1 && !s.failed 3 h.2.2 && cl.contains h.2.2

/-- One flit's link and ejection cycles given out; none when another flit holds one of them. -/
def Plan.take (p : Plan) (agent core : Nat) (t : Travel) (hops : List Hop) : Option Plan := do
  let p ← hops.foldlM (fun (p : Plan) h => do
    need (!p.guards.any fun g => g.1 == h.1 && g.2.1 == h.2.1)
    pure { p with guards := p.guards ++ [(h.1, h.2.1, agent)] }) p
  need (!p.ejects.any fun e => e.1 == t.cluster && e.2.1 == t.link && e.2.2.1 == t.cycle)
  pure { p with ejects := p.ejects ++ [(t.cluster, t.link, t.cycle, core)] }

/-- The k flits of an instance along a route from a slot; none when the instance is invalid under that route (R290). -/
def State.planRoute (s : State) (cl : List Nat) (p : Plan) (f : FlitSet) (c d slot route : Nat) : Option Plan := do
  let r := BitVec.ofNat 29 route
  let syms ← routeSyms r
  let (t0, _) ← journey c r syms slot
  let p ← (List.range f.k).foldlM (fun (p : Plan) i => do
    let (t, hops) ← journey c r syms (slot + i)
    need (t.cluster == d && hops.all fun h => s.hopWorks cl h)
    p.take (agentIn c f.src) f.dst t hops) p
  pure { p with insts := p.insts ++
    [{ sym := f.sym, src := c, dst := d, slot := slot, route := route, cycle := t0.cycle, link := t0.link }] }

/-- A route string of a heading and symbols, padded with eject (R280). -/
def routeOf (heading : Nat) (syms : List Nat) : Nat :=
  (List.range 9).foldl (fun n i => n + syms.getD i 6 * 2 ^ (24 - 3 * i)) (heading * 2 ^ 27)

/-- The symbol strings of at most n more symbols that lead from a place to a cluster through what works. -/
def State.seek (s : State) (cl : List Nat) (d : Nat) (t : Travel) (syms : List Nat) : Nat → List (List Nat)
  | 0 => if t.cluster = d then [syms] else []
  | n + 1 =>
    (if t.cluster = d then [syms] else []) ++ (List.range 6).flatMap fun x =>
      match t.run [] [x] with
      | some (u, hops) => if hops.all fun h => s.hopWorks cl h then s.seek cl d u (syms ++ [x]) n else []
      | none => []

/-- The replacement routes from one cluster to another with their delays, in the order of R291. -/
def State.replacements (s : State) (cl : List Nat) (c d : Nat) : List (Nat × Nat) :=
  let all := (List.range 4).flatMap fun h =>
    (s.seek cl d { cluster := c, heading := h, cycle := 0, link := 4 } [] 8).filterMap fun syms =>
      match journey c (BitVec.ofNat 29 (routeOf h syms)) syms 0 with
      | some (t, _) => some (t.cycle, syms.length, routeOf h syms)
      | none => none
  (all.mergeSort fun a b =>
    a.1 < b.1 || (a.1 == b.1 && (a.2.1 < b.2.1 || (a.2.1 == b.2.1 && a.2.2 ≤ b.2.2)))).map fun e => (e.1, e.2.2)

/-- One instance planned: under its nominal route, or under the first replacement that qualifies, arriving in the same
cycle; none when no route qualifies. -/
def State.planInst (s : State) (cl : List Nat) (p : Plan) (f : FlitSet) (c : Nat) : Option Plan := do
  let d ← clusterFrom c f.dx f.dy
  let r := BitVec.ofNat 29 f.route
  let (t, _) ← journey c r (← routeSyms r) f.slot
  match if f.min ≤ f.slot && f.slot ≤ 2047 then s.planRoute cl p f c d f.slot f.route else none with
  | some q => pure q
  | none =>
    (s.replacements cl c d).findSome? fun e =>
      if f.min + e.1 ≤ t.cycle && t.cycle ≤ 2047 + e.1 then s.planRoute cl p f c d (t.cycle - e.1) e.2 else none

/-- The whole plan of an image on a stand: instances in record order, then in ascending stand index (R290). -/
def State.planAll (s : State) (cl : List Nat) (fs : List FlitSet) : Option Plan :=
  fs.foldlM (fun (p : Plan) f =>
    ((cl.mapIdx fun i c => (i, c)).filter fun e => f.lo ≤ e.1 && e.1 ≤ f.hi).foldlM (fun (p : Plan) e =>
      s.planInst cl p f e.2) p)
    { guards := [], ejects := [], insts := [] }

/-! ## Relocations (R286) -/

/-- A relocation: its place within the section, type, symbol and addend. -/
structure Reloc where
  off    : Nat
  type   : Nat
  sym    : Nat
  addend : Int
  deriving DecidableEq, Repr

/-- The relocations of section n. -/
def Image.relocs (m : Image) (n : Nat) : Option (List Reloc) := do
  let l ← ((m.ofType 4).filter fun e => e.2.info == n).mapM fun e => (List.range (e.2.size / 24)).mapM fun i => do
    let o := e.2.off + 24 * i
    pure { off := ← m.rd o 8, type := ← m.rd (o + 8) 4, sym := ← m.rd (o + 12) 4, addend := toSigned 64 (← m.rd (o + 16) 8) : Reloc }
  pure l.flatten

/-- The one instance of a flit that leaves or reaches a cluster (R286). -/
def Plan.one (p : Plan) (f : Inst → Bool) : Option Inst :=
  match p.insts.filter f with
  | [x] => some x
  | _ => none

/-- A word with the 32-bit immediate of an LDI or LDIH put into it and its tail. -/
def State.putImm (s : State) (key v : Nat) : State :=
  let h := setField (w64 (s.read key 8)) 15 2 v
  s.write key 8 (setField h 34 30 (v / 4)).toNat

/-- The word at a key is the head of an LDI or LDIH, in a section of code. -/
def State.isImm (s : State) (text : Bool) (key : Nat) : Bool :=
  let w := s.read key 4
  text && w % 4 == 2 && (w / 8 % 128 == 0x09 || w / 8 % 128 == 0x0A)

/-- A branch distance put into the top n bits of the word at a key. -/
def State.putBranch (s : State) (key n : Nat) (x : Int) : Option State := do
  need (x % 4 = 0 && -(2 ^ (n - 1) : Nat) ≤ x / 4 && x / 4 < (2 ^ (n - 1) : Nat))
  pure (s.write key 4 (setField (w32 (s.read key 4)) (32 - n) n (ofInt n (x / 4))).toNat)

/-- The flit instance that a SEND or RSEL at a key names. -/
def State.flitAt (s : State) (p : Plan) (c key sym : Nat) : Option (Bool × Inst) := do
  let major := s.read key 4 / 8 % 128
  if major = 0x70 then do
    pure (true, ← p.one fun x => x.sym == sym && x.src == c)
  else do
    need (major == 0x71)
    pure (false, ← p.one fun x => x.sym == sym && x.dst == c)

/-- One relocation applied at a key whose local pointer is `here`, in cluster c of the plan. -/
def State.relocate (s : State) (m : Image) (p : Plan) (base : Nat → Option Nat) (c key here : Nat) (text : Bool) (r : Reloc) :
    Option State := do
  if r.type = 5 then do
    let (send, x) ← s.flitAt p c key r.sym
    pure (s.write (key + 4) 4 (if send then setField (w32 (s.read (key + 4) 4)) 2 29 x.route
      else setField (w32 (s.read (key + 4) 4)) 2 4 x.link).toNat)
  else if r.type = 6 then do
    let (send, x) ← s.flitAt p c key r.sym
    let t := if send then x.slot else x.cycle
    need (t ≤ 2047)
    pure (s.write key 4 (setField (w32 (s.read key 4)) 21 11 t).toNat)
  else do
    let v : Int := (← m.value base r.sym) + r.addend
    if r.type = 1 || r.type = 7 then do
      need (-(2 ^ 31 : Nat) ≤ v && v < (2 ^ 32 : Nat))
      pure (if s.isImm text key then s.putImm key (ofInt 32 v) else s.write key 4 (ofInt 32 v))
    else if r.type = 2 then do
      need (-(2 ^ 63 : Nat) ≤ v && v < (2 ^ 64 : Nat))
      let x := ofInt 64 v
      pure (if s.isImm text key then (s.putImm key (x % 2 ^ 32)).putImm (key + 8) (x / 2 ^ 32) else s.write key 8 x)
    else if r.type = 3 then s.putBranch key 18 (v - here)
    else if r.type = 4 then s.putBranch key 22 (v - here)
    else none

end Sys2Proof.Machine
end

