-- ==== Sys2Proof/Machine/Loader.lean ====
section
/-! DEFINITION. Launches: the stand (spec/07 R227, R231), the loader (spec/09 R287 to R291), the state before superstep 0
(spec/07 R228, spec/17 R461, spec/18 R463) and the launch events. The loader's pushes take no steps of their own (log entry 25). -/

namespace Sys2Proof.Machine

/-! ## The stand (R227 step 2, R231) -/

/-- The clusters of a function's partition, in ascending y and then x. -/
def State.partitionClusters (s : State) (f : Nat) : List Nat :=
  let w := s.part (s.partOf f)
  if bit w 63 then
    (List.range (field w 24 8 + 1 - field w 8 8)).flatMap fun dy =>
      (List.range (field w 16 8 + 1 - field w 0 8)).map fun dx => clusterAt (field w 0 8 + dx) (field w 8 8 + dy)
  else []

/-- A cluster on which a stand may be placed: neither it nor a core of it fenced or retired, its die released. -/
def State.usable (s : State) (c : Nat) : Bool :=
  !s.failed 3 c && !(s.hub.units.any fun u => u.kind == 2 && isOrdinary u.number && clusterOf u.number == c)
    && (s.die (c / 2048)).released

/-- A launch of a function may go on now: it is its function's turn in the partition, which is not over, no other function loads an
image there, and with EXCL no other function has a job there (R234). -/
def State.launchTurn (s : State) (f : Nat) (excl : Bool) : Bool :=
  !((List.range 64).any fun g => g ≠ f && s.partOf g == s.partOf f && (s.func g).loading.isSome)
    && !(s.hub.jobs.any fun j => j.fn.toNat ≠ f && s.partOf j.fn.toNat == s.partOf f && (excl || !j.stand.away || j.excl))
    && !((s.jobsOf f).any fun j => j.stand.away) && s.vfState f ≠ 3 && s.vfState f ≠ 4 && !(s.func f).ending

/-! ## The image against the record (R284 to R287) -/

/-- A launch record of the image. -/
structure LaunchRec where
  kind : Nat
  bits : Nat
  deriving DecidableEq, Repr

/-- The stand indices of a launch record of kind 1 or 2. -/
def LaunchRec.covers (r : LaunchRec) (i : Nat) : Bool := bytesAt r.bits 4 2 ≤ i && i ≤ bytesAt r.bits 6 2

/-- The records that a launch needs. -/
structure Parsed where
  image    : Image
  places   : List Placement
  tasks    : List (TaskRec × Option Reloc)
  flits    : List FlitSet
  gates    : List GateRec
  launches : List LaunchRec

/-- The task records, each with the relocation of its PC. -/
def Image.taskRecs (m : Image) : Option (List (TaskRec × Option Reloc)) := do
  let l ← (m.ofType 0x70000002).mapM fun e => do
    let rs ← m.relocs e.1
    (List.range (e.2.size / 32)).mapM fun i => do
      let r ← m.rd (e.2.off + 32 * i) 32
      pure (TaskRec.of r, rs.find? fun x => x.off == 32 * i + 12 && x.type == 1)
  pure l.flatten

/-- An image read, with its flags. -/
def parseImage (rd : Reader) (flags : Nat) : Option Parsed := do
  let (secs, names) ← imageSections rd flags
  let m : Image := { rd := rd, secs := secs, names := names }
  need m.resolved
  pure { image := m, places := (← m.records 0x70000001 32).map Placement.of, tasks := ← m.taskRecs
         flits := (← m.records 0x70000003 32).map FlitSet.of, gates := (← m.records 0x70000005 32).map GateRec.of
         launches := (← m.records 0x70000006 16).map fun r => { kind := bytesAt r 0 1, bits := r } }

/-- The one launch record of kind 0. -/
def Parsed.main (p : Parsed) : Option LaunchRec :=
  match p.launches.filter fun r => r.kind == 0 with
  | [r] => some r
  | _ => none

/-- The stage of stand index i: that of the last line that applies, else 0 (R283). -/
def Parsed.stage (p : Parsed) (i : Nat) : Nat :=
  ((p.launches.filter fun r => r.kind == 1 && r.covers i).getLast?.map fun r => bytesAt r.bits 1 1).getD 0

/-- SYNCM of core k at stand index i, with bit 0 always set (R283). -/
def Parsed.syncm (p : Parsed) (i k : Nat) : Nat :=
  ((p.launches.filter fun r => r.kind == 2 && r.covers i && bytesAt r.bits 8 4 / 2 ^ k % 2 = 1).getLast?.map fun r =>
    bytesAt r.bits 2 2).getD 1 ||| 1

/-- Stage and domain lines whose stand indices the stand does not have (status STAND). -/
def Parsed.badSets (p : Parsed) (n : Nat) : Bool :=
  p.launches.any fun r => (r.kind == 1 || r.kind == 2) && (bytesAt r.bits 6 2 < bytesAt r.bits 4 2 || n ≤ bytesAt r.bits 6 2)

/-- A polder that an image may name: valid, and the function's (R18). -/
def State.polderOf (s : State) (f : Nat) (p : BitVec 12) : Bool := descV (s.desc p) && descVf (s.desc p) == f

/-- A landing core that a launch may use: neither fenced nor retired, and on a die that is released (R245, R249). -/
def State.landingUsable (s : State) (l : Nat) : Bool := !s.failed 5 (landingAgent l) && (s.die (l / 64)).released

/-- Every core that sends or receives an instance of a flit set is a member of the plan's domain (R281); as members of one domain they
lie in one barrier group (spec/06 R211). -/
def Parsed.flitOk (p : Parsed) (cs : List Nat) (f : FlitSet) : Bool :=
  let member (i k : Nat) : Bool := p.syncm i k / 2 ^ f.dom % 2 = 1
  f.dom < 16 && f.src < 32 && f.dst < 32 && (cs.mapIdx fun i c => (i, c)).all fun e =>
    !(f.lo ≤ e.1 && e.1 ≤ f.hi) || (member e.1 f.src && match clusterFrom e.2 f.dx f.dy with
      | some d => match cs.findIdx? fun c => c == d with
        | some i => member i f.dst
        | none => false
      | none => false)

/-- A placement record that the loader accepts. -/
def State.placeOk (s : State) (f : Nat) (d : BitVec 12) (m : Image) (n : Nat) (p : Placement) : Bool :=
  s.polderOf f (p.polder d) && p.tag ≠ 15 && p.kind ≤ 4
    && (p.kind ≠ 0 || (!bfmtBad p.bfmt && (p.fixed == 0xFF || p.fixed < 16)))
    && (p.kind < 3 || (p.mask < 1024 && s.landingUsable p.mask))
    && m.extent n ≤ (if p.kind = 0 then 0x8000 else 0x2000)

/-! ## Bays (R287, R277) -/

/-- Bay b of a cluster may take a placement of a polder: neither fenced, retired nor taken, and owned by no other polder
(log entry 26). -/
def State.bayOpen (s : State) (c b : Nat) (used : List (Nat × Nat)) (pol : BitVec 12) : Bool :=
  let st := vget (s.cluster c).bstat b 0
  b < 16 && !bit st 29 && !bit st 31 && !(used.any fun e => e.2 == b)
    && (s.bayOwner c b = none || s.bayOwner c b = some pol)

/-- Bay b, neither fenced nor retired, holds what a resident placement names: its polder's, with the same BFMT (R277, R287). -/
def State.bayMatches (s : State) (c b : Nat) (used : List (Nat × Nat)) (p : Placement) (pol : BitVec 12) : Bool :=
  let st := vget (s.cluster c).bstat b 0
  !bit st 29 && !bit st 31 && !(used.any fun e => e.2 == b) && s.bayOwner c b = some pol && vget (s.cluster c).bfmt b 0 = (p.bfmt &&& bfmtMask)

/-- The bays of the placements that cover stand index i, on cluster c: fixed bays, then resident bays, then the rest in
record order, each in the lowest bay that will do. -/
def State.placeBays (s : State) (ps : List Placement) (i c : Nat) (d : BitVec 12) : Option (List (Nat × Nat)) := do
  let mine := (ps.mapIdx fun n p => (n, p)).filter fun e => e.2.kind == 0 && e.2.covers i
  let fixed := mine.filter fun e => e.2.fixed ≠ 0xFF && !e.2.resident
  let rest := mine.filter fun e => e.2.fixed == 0xFF && !e.2.resident
  let used ← fixed.foldlM (fun (used : List (Nat × Nat)) e => do
    need (s.bayOpen c e.2.fixed used (e.2.polder d))
    pure (used ++ [(e.1, e.2.fixed)])) []
  let used ← (mine.filter fun e => e.2.resident).foldlM (fun (used : List (Nat × Nat)) e => do
    let b ← (if e.2.fixed = 0xFF then List.range 16 else [e.2.fixed]).find? fun b => s.bayMatches c b used e.2 (e.2.polder d)
    pure (used ++ [(e.1, b)])) used
  rest.foldlM (fun (used : List (Nat × Nat)) e => do
    let b ← (List.range 16).find? fun b => s.bayOpen c b used (e.2.polder d)
    pure (used ++ [(e.1, b)])) used

/-- The local pointer of the first byte of placement n, tag included, on a cluster whose bays are given (R286). -/
def baseOf (ps : List Placement) (bays : List (Nat × Nat)) (i n : Nat) : Option Nat := do
  let p ← ps[n]?
  if p.kind = 0 then do
    let b ← bays.find? fun e => e.1 == n
    pure (p.tag * 2 ^ 28 + 0x80000 + b.2 * 0x8000)
  else do
    need (3 ≤ p.kind || p.covers i)
    pure (p.tag * 2 ^ 28 + if p.kind % 2 = 0 then 0x2000 else 0)

/-! ## Contents (R288) -/

/-- A key's granules tagged, n of them. -/
def State.tagUnit (s : State) (key n tag : Nat) : State := s.setTags (key / 32) n (BitVec.ofNat 4 tag)

/-- n bytes of an image written from a key up, and their words set full. -/
def State.loadBytes (s : State) (rd : Reader) (off key n : Nat) : Option State := do
  let s ← (List.range n).foldlM (fun (s : State) i => do
    pure (s.setByte (key + i) (BitVec.ofNat 8 (← rd (off + i) 1)))) s
  pure (s.fillRange key n)

/-- The sections of a placement written from a key up, then their relocations applied. -/
def State.loadPlacement (s : State) (m : Image) (pl : Plan) (base : Nat → Option Nat) (n c key : Nat) : Option State := do
  let b ← base n
  let ls := m.layout n
  let s ← ls.foldlM (fun (s : State) e => if e.2.1.type = 1 then s.loadBytes m.rd e.2.1.off (key + e.2.2) e.2.1.size else some s) s
  ls.foldlM (fun (s : State) e => do
    (← m.relocs e.1).foldlM (fun (s : State) r => do
      need (r.off < e.2.1.size)
      s.relocate m pl base c (key + e.2.2 + r.off) (b % 2 ^ 28 + e.2.2 + r.off + b / 2 ^ 28 * 2 ^ 28) (m.order e.2.1 == some 0) r) s) s

/-- Beats that write the contents of a placement into a bay: one for each 16-byte row group that a section touches (spec/02 R61, R75). -/
def Image.beats (m : Image) (n : Nat) : Nat :=
  (m.layout n).foldl (fun k e =>
    if e.2.1.type = 1 && e.2.1.size ≠ 0 then k + (ceilDiv (e.2.2 + e.2.1.size) 16 - e.2.2 / 16) else k) 0

/-- A bay given to a placement: BOWN anew, which scrubs it, then BFMT and GMAP (R288); a resident bay stays as it is. -/
def State.giveBay (s : State) (ps : List Placement) (bays : List (Nat × Nat)) (d : BitVec 12) (c n b : Nat) : Option State := do
  let p ← ps[n]?
  if p.resident then some s
  else do
    let g ← if p.grad = 0xFF then some 0 else do
      let e ← bays.find? fun e => e.1 == p.grad
      pure (2 ^ 63 + e.2)
    let s := (s.writeBown c b 0).writeBown c b (w64 (2 ^ 63 + (p.polder d).toNat))
    let s ← match s.writeBfmt c b p.bfmt with
      | .ok t => some t
      | .error _ => none
    pure (s.modCluster c fun k => { k with gmap := vset k.gmap b (w64 g), bstat := vset k.bstat b (setBit (vget k.bstat b 0) 30 false) })

/-- The contents of a placement written into its bay; a resident bay stays as it is. -/
def State.loadBay (s : State) (m : Image) (ps : List Placement) (pl : Plan) (bays : List (Nat × Nat)) (i c n b : Nat) : Option State := do
  let p ← ps[n]?
  if p.resident then some s
  else do
    let s ← s.loadPlacement m pl (baseOf ps bays i) n c (bayBase c b)
    pure (s.bumpWgen c b (m.beats n))

/-- A TOWN word with one half given to a polder. -/
def halfGiven (w : W64) (upper : Bool) (pol : BitVec 12) : W64 := setField w (32 * b2n upper) 32 (2 ^ 31 + pol.toNat)

/-- The first key of a half of an ordinary core's TCM. -/
def halfBase (c k : Nat) (up : Bool) : Nat := tcmBase (agentIn c k) + b2n up * 0x2000

/-- A half of an ordinary core's TCM given to a polder: TOWN anew, which scrubs it. -/
def State.giveHalf (s : State) (c k : Nat) (up : Bool) (pol : BitVec 12) : State :=
  let old := vget (s.cluster c).town k 0
  (s.writeTown c k (setField old (32 * b2n up) 32 0)).writeTown c k (halfGiven old up pol)

/-- A half of a landing core's TCM given to a placement. -/
def State.loadLanding (s : State) (m : Image) (ps : List Placement) (pl : Plan) (bays : List (Nat × Nat)) (d : BitVec 12)
    (c n : Nat) : Option State := do
  let p ← ps[n]?
  let up := p.kind == 4
  let old := vget (s.die (p.mask / 64)).ltown (p.mask % 64) 0
  let s := (s.writeLtown p.mask (setField old (32 * b2n up) 32 0)).writeLtown p.mask (halfGiven old up (p.polder d))
  let key := tcmBase (landingAgent p.mask) + b2n up * 0x2000
  (s.tagUnit key 0x100 p.tag).loadPlacement m pl (baseOf ps bays 0) n c key

/-- The TCM halves of ordinary cores that placements take at stand index i: each with its core, its placement, and whether it is the
upper one. -/
def tcmHalves (ps : List Placement) (i : Nat) : List (Nat × Nat × Bool × Placement) :=
  ((ps.mapIdx fun n p => (n, p)).filter fun e => (e.2.kind == 1 || e.2.kind == 2) && e.2.covers i).flatMap fun e =>
    ((List.range 32).filter fun k => e.2.mask / 2 ^ k % 2 = 1).map fun k => (k, e.1, e.2.kind == 2, e.2)

/-- Everything placed on one cluster given to its polders. -/
def State.giveCluster (s : State) (ps : List Placement) (bays : List (Nat × Nat)) (d : BitVec 12) (i c : Nat) : Option State := do
  let s ← bays.foldlM (fun (s : State) e => s.giveBay ps bays d c e.1 e.2) s
  pure ((tcmHalves ps i).foldl (fun (s : State) e => s.giveHalf c e.1 e.2.2.1 (e.2.2.2.polder d)) s)

/-- The tags that the set-up task of a cluster sets (R288). -/
def taggings (ps : List Placement) (bays : List (Nat × Nat)) (i c : Nat) : List Tagging :=
  (bays.filterMap fun e => match ps[e.1]? with
    | some p => if p.resident then none else some { cluster := c, key := bayBase c e.2, count := 0x400, tag := p.tag }
    | none => none)
  ++ (tcmHalves ps i).map fun e => { cluster := c, key := halfBase c e.1 e.2.2.1, count := 0x100, tag := e.2.2.2.tag }

/-- The contents of everything placed on one cluster written. -/
def State.loadCluster (s : State) (m : Image) (ps : List Placement) (pl : Plan) (bays : List (Nat × Nat)) (i c : Nat) : Option State := do
  let s ← bays.foldlM (fun (s : State) e => s.loadBay m ps pl bays i c e.1 e.2) s
  (tcmHalves ps i).foldlM (fun (s : State) e =>
    s.loadPlacement m pl (baseOf ps bays i) e.2.1 c (halfBase c e.1 e.2.2.1)) s

/-! ## Tasks, gates and the start (R201, R282, R228) -/

/-- The PC of a task record on a cluster. -/
def Image.taskPc (m : Image) (base : Nat → Option Nat) (e : BitVec 128) : Option Reloc → Option (BitVec 128)
  | none => some e
  | some r => do
    let v : Int := (← m.value base r.sym) + r.addend
    need (-(2 ^ 31 : Nat) ≤ v && v < (2 ^ 32 : Nat))
    pure (setField e 96 32 (ofInt 32 v))

/-- An entry put into the lowest FREE place of a core's task table; none when R201 refuses it or the table is full. -/
def State.addTask (s : State) (a : Nat) (e : Entry) : Option State := do
  need (!e.refused a && e.state = 0)
  let i ← firstBelow 64 fun i => ((s.core a).entry i).state == 0
  pure (s.modCore a fun c => c.addEntry i e)

/-- A task record's entries added on a stand of clusters with their bays. -/
def State.addTasks (s : State) (m : Image) (ps : List Placement) (cl : List (Nat × Nat × List (Nat × Nat))) (t : TaskRec)
    (r : Option Reloc) : Option State :=
  if t.landing then do
    let bays := (cl.head?.map fun e => e.2.2).getD []
    s.addTask (landingAgent t.who) (← m.taskPc (baseOf ps bays 0) t.entry r)
  else
    (cl.filter fun e => t.lo ≤ e.1 && e.1 ≤ t.hi).foldlM (fun (s : State) e => do
      let x ← m.taskPc (baseOf ps e.2.2 e.1) t.entry r
      ((List.range 32).filter fun k => t.who / 2 ^ k % 2 = 1).foldlM (fun (s : State) k => s.addTask (agentIn e.2.1 k) x) s) s

/-- A gate published in its polder's sluice table (R282, spec/15 R419): its entry label lies in a code bay of that polder.
INFLIGHT and HR, which the hub alone writes, stay. -/
def State.publishGate (s : State) (f : Nat) (d : BitVec 12) (m : Image) (ps : List Placement)
    (cl : List (Nat × Nat × List (Nat × Nat))) (g : GateRec) : Option State := do
  let pol := BitVec.ofNat 12 (g.handle / 2 ^ 20)
  let idx := g.handle % 2 ^ 20
  need (s.polderOf f pol && idx < descSlcnt (s.desc pol))
  let n ← m.home g.entry
  let p ← ps[n]?
  need (p.kind == 0 && field p.bfmt 0 4 == 1 && p.polder d == pol)
  let e ← cl.find? fun e => e.2.2.any fun x => x.1 == n
  let v ← m.value (baseOf ps e.2.2 e.1) g.entry
  let at' := s.gateAt pol idx
  let hr := s.hubRead at' 4 / 2 ^ 16 % 2
  let s := s.hubWrite at' 8 (g.flags + hr * 2 ^ 16 + v % 2 ^ 32 * 2 ^ 32)
  let s := s.hubWrite (at' + 8) 8 (g.awmax * 2 ^ 32)
  pure ((s.hubWrite (at' + 20) 4 g.budget).hubWrite (at' + 24) 8 g.allow)

/-- A core in the state in which a launch leaves it (R228). -/
def State.launchCore (s : State) (a : Nat) (d : BitVec 12) (stage syncm : Nat) (xpc : W64) : State :=
  s.modCore a fun c =>
    { c.discard with
      ssn := w64 (stage * 2 ^ 32), syncm := w64 syncm, member := BitVec.ofNat 16 syncm, xpc := xpc
      tvec := w64 (descTvec (s.desc d)) }

/-! ## The launch (R227) -/

/-- How a launch goes on. -/
inductive Launched where
  | refuse (st : Status)
  | wait
  | go (l : Loading)

/-- The job of a record on its clusters. -/
def newJob (f : Nat) (r : BitVec 512) (cl landings : List Nat) (half : Bool) : Job :=
  { fn := BitVec.ofNat 6 f, jobid := recJobid r, cookie := recCookie r, pol := recPol r, pin := bit r 128, excl := bit r 129
    pstep := r.extractLsb' 224 32, xdom := r.extractLsb' 208 16, clusters := cl, landings := landings, slotLo := 0, slotHi := 0
    stuck := []
    stand := { held := false, evicted := false, halfClock := half, halfNext := half, ramped := false, snapMode := false
               replaying := false, halted := none, diverged := false, stopReq := false, haltAll := false, away := false } }

/-- The landing cores to which an image gives task entries (spec/18 R463). -/
def Parsed.landings (p : Parsed) : List Nat := ((p.tasks.filter fun t => t.1.landing).map fun t => t.1.who).eraseDups

/-- The units that a placed stand uses (R289): its clusters, their cores, the bays and links that it takes, its landing cores. -/
def Placed.units (x : Placed) (p : Parsed) : List (Nat × Nat) :=
  (x.cl.flatMap fun e => (3, e.2.1) :: ((List.range 32).map fun k => (2, agentIn e.2.1 k))
    ++ e.2.2.map fun b => (1, e.2.1 * 16 + b.2))
  ++ (x.plan.guards.map fun g => (4, g.1)).eraseDups
  ++ ((p.landings ++ (p.places.filter fun y => 3 ≤ y.kind).map fun y => y.mask).eraseDups.map fun l => (5, landingAgent l))

/-- The image placed on the clusters; none when the loader refuses it. A .launch record names the record's own POL: 0xFFFF stands for
the default polder in .bayfmt alone (R284, R287). -/
def State.place (s : State) (f : Nat) (r : BitVec 512) (p : Parsed) (cs : List Nat) : Option Placed := do
  let d := recPol r
  let main ← p.main
  need (bytesAt main.bits 4 2 = recClus r && bytesAt main.bits 6 2 = d.toNat)
  need ((p.places.mapIdx fun n x => s.placeOk f d p.image n x).all id)
  need (p.landings.all fun l => l < 1024 && s.landingUsable l && !s.hub.jobs.any fun j => j.landings.contains l)
  need (p.flits.all fun x => p.flitOk cs x)
  let cl ← (cs.mapIdx fun i c => (i, c)).mapM fun e => do
    pure (e.1, e.2, ← s.placeBays p.places e.1 e.2 d)
  pure { cl := cl, plan := ← s.planAll cs p.flits }

/-- The bays and TCM halves of a placed launch given out, and a set-up task put into the table of the first core of each cluster that
has any, in polder 0x000 at device level (R288, spec/06 R218): what is still to be tagged, and what stood there before. -/
def State.giveOut (s : State) (r : BitVec 512) (p : Parsed) (l : Loading) : Option (State × Loading) := do
  let d := recPol r
  let tags := l.placed.cl.flatMap fun e => taggings p.places e.2.2 e.1 e.2.1
  let span := tags.map fun t => (t.key, 32 * t.count)
  let b : Before :=
    { clusters := l.clusters.map fun c => (c, s.cluster c), span := span, mem := s.mem.filter fun e => inStretch span e.1
      tags := s.tags.filter fun e => inStretch span (32 * e.1), full := s.full.filter fun w => inStretch span (4 * w) }
  let s ← l.placed.cl.foldlM (fun (s : State) e => s.giveCluster p.places e.2.2 d e.1 e.2.1) s
  let s := ((tags.map (·.cluster)).eraseDups).foldl (fun (s : State) c => s.modCore (agentIn c 0) fun k =>
    let i := (firstBelow 64 fun i => (k.entry i).state == 0).getD 0
    { k.addEntry i 0 with setup := nadd k.setup i }) s
  pure (s, { l with tagging := tags, before := some b })

/-- Core a runs a set-up task (spec/06 R218). -/
def State.inSetup (s : State) (a : Nat) : Bool :=
  let c := s.core a
  c.act == .task && isOrdinary a && c.setup.contains c.taskId

/-- A step of the set-up task of core a, whose code the manual does not give (log entry 35): it tags one part of its cluster, each
granule one write (spec/02 R75), and ends when no part is left. -/
def State.setupStep (s : State) (a : Nat) : State :=
  let c := clusterOf a
  let mine (t : Tagging) : Bool := t.cluster == c
  match (List.range 64).findSome? fun f => ((s.func f).loading.bind fun l => l.tagging.find? mine).map fun t => (f, t) with
  | none => s.endTask a
  | some (f, t) =>
    let s := s.tagUnit t.key t.count t.tag
    let s := if scratchBase c ≤ t.key && t.key < scratchBase c + 0x80000 then s.bumpWgen c ((t.key - scratchBase c) / 0x8000) t.count else s
    s.modFunc f fun x => { x with loading := x.loading.map fun l => { l with tagging := l.tagging.erase t } }

/-- The rest of step 4: the image loaded where it was placed; none when the loader refuses it. -/
def State.load (s : State) (f : Nat) (r : BitVec 512) (p : Parsed) (x : Placed) : Option State := do
  let d := recPol r
  let m := p.image
  let main ← p.main
  let s ← x.cl.foldlM (fun (s : State) e => s.loadCluster m p.places x.plan e.2.2 e.1 e.2.1) s
  let c0 := (x.cl.head?.map fun e => e.2.1).getD 0
  let bays := (x.cl.head?.map fun e => e.2.2).getD []
  let s ← ((p.places.mapIdx fun n y => (n, y)).filter fun e => 3 ≤ e.2.kind).foldlM (fun (s : State) e =>
    s.loadLanding m p.places x.plan bays d c0 e.1) s
  let s ← x.cl.foldlM (fun (s : State) e => do
    let y ← if bytesAt main.bits 8 4 = 0 then some 0 else m.value (baseOf p.places e.2.2 e.1) (bytesAt main.bits 8 4)
    let s := s.modCluster e.2.1 fun k => { k.release with stage := BitVec.ofNat 8 (p.stage e.1) }
    pure ((List.range 32).foldl (fun (s : State) k =>
      s.launchCore (agentIn e.2.1 k) d (p.stage e.1) (p.syncm e.1 k) (w64 (y % 2 ^ 32))) s)) s
  let s := p.landings.foldl (fun (s : State) l => s.launchCore (landingAgent l) d 0 1 0) s
  let s ← p.tasks.foldlM (fun (s : State) t => s.addTasks m p.places x.cl t.1 t.2) s
  let s ← p.gates.foldlM (fun (s : State) g => s.publishGate f d m p.places x.cl g) s
  let s := s.modHub fun h => { h with guards := h.guards ++ x.plan.guards }
  pure (x.plan.ejects.foldl (fun (s : State) e => s.modCluster e.1 fun k => { k with eject := k.eject ++ [e.2] }) s)

/-- A running stand of a new job runs at the lower clock (spec/00 R5, R8, spec/16 R458, R249). -/
def State.halfNow (s : State) : Bool := s.hub.plant.inletHot || s.hub.plant.ceiling || s.hub.plant.starting

/-- Step 5: superstep 0 starts, and STARTED is written. With its first job a function's slice begins (R234). -/
def State.startJob (s : State) (f : Nat) (r : BitVec 512) (cs ls : List Nat) : State :=
  let j := newJob f r cs ls s.halfNow
  let s := if s.jobsOf f = [] then s.modFunc f fun x => { x with sliceFrom := s.tick } else s
  let s := s.modHub fun h => { h with jobs := h.jobs ++ [j] }
  let s := if s.vfState f = 0 then s.setVfState f 1 else s
  let s := s.startWork j j.agents
  let k := s.jobNow j
  s.complete f (complBytes .started j.cookie j.jobid 0 k.slotLo.toNat k.slotHi.toNat 0 0)

/-- The image of a launch record. -/
def State.parsed (s : State) (r : BitVec 512) : Option Parsed :=
  parseImage (s.imageReader (recPol r) (recImage r) (recLen r)) 0

/-- Step 2 and the beginning of step 4 of a launch: the fenced and retired units are those of now (R289). -/
def State.launchNow (s : State) (f : Nat) (r : BitVec 512) : Launched :=
  let n := recClus r
  let all := (s.partitionClusters f).filter fun c => s.usable c
  let cs := (all.filter fun c => !(s.jobsOf f).any fun j => j.clusters.contains c).take n
  if all.length < n then .refuse .stand
  else if !s.launchTurn f (bit r 129) || cs.length < n then .wait
  else
    match s.parsed r with
    | none => .refuse .image
    | some p =>
      if p.badSets n then .refuse .stand
      else
        match s.place f r p cs with
        | none => .refuse .image
        | some x => .go { clusters := cs, placed := x, units := x.units p, tagging := [], before := none }

/-- What the hub keeps of the launch at the head of a function's ring; none when it is over. -/
def State.atHead (s : State) (f : Nat) (r : Option (BitVec 512)) (l : Option Loading) : State :=
  s.modFunc f fun x => { x with waiting := r, loading := l, again := x.again && r.isSome }

/-- The launch at the head of a function's ring over: nothing that was loaded for it remains, and its record is taken, with a status. -/
def State.refuseHead (s : State) (f : Nat) (st : Status) (r : BitVec 512) : State :=
  (((s.undoLoad f).atHead f none none).takeRecord f).refuseRecord f st r

/-- The launch at the head of a function's ring tried: refused with a status, left waiting there, or its loading begun. -/
def State.tryLaunch (s : State) (f : Nat) (r : BitVec 512) : State :=
  match s.launchNow f r with
  | .refuse st => s.refuseHead f st r
  | .wait => s.atHead f (some r) none
  | .go l => s.atHead f (some r) (some l)

/-- A unit that a launch uses has been fenced or retired since it was placed (R289). -/
def State.unitsLost (s : State) (l : Loading) : Bool := l.units.any fun u => s.failed u.1 u.2

/-- The loading of the launch at the head of a function's ring goes on (R227 steps 4 and 5, R288, R289): first its bays and TCM halves
are given out; once the set-up tasks have set the tags, the contents are written and the stand starts. Where a unit that the stand uses
has been fenced or retired meanwhile, the loader places it again, once; a second such change ends it. A launch whose turn is over waits,
with nothing of it left. A control block that holds an error fences its cluster (spec/07 R246). -/
def State.goOnLoading (s : State) (f : Nat) (r : BitVec 512) (l : Loading) : State :=
  if s.unitsLost l then
    if (s.func f).again then s.refuseHead f .image r
    else ((s.undoLoad f).modFunc f fun x => { x with again := true }).tryLaunch f r
  else if !s.launchTurn f (bit r 129) then (s.undoLoad f).atHead f (some r) none
  else
    match s.parsed r with
    | none => s.refuseHead f .image r
    | some p =>
      match l.before with
      | none =>
        match l.clusters.find? fun c => (s.cluster c).ctlBad with
        | some c => s.fenceCluster c
        | none =>
          match s.giveOut r p l with
          | none => s.refuseHead f .image r
          | some (t, l) => t.atHead f (some r) (some l)
      | some _ =>
        if l.tagging ≠ [] then s
        else
          match s.load f r p l.placed with
          | none => s.refuseHead f .image r
          | some t => ((t.startJob f r l.clusters p.landings).atHead f none none).takeRecord f

/-- LAUNCH (R223, R225, R227): the record at the head of the ring is checked, and its loading begins; a record that R225 refuses is
completed so. A well-formed KILL is left to its own row. While the module refuses launches, after a failed verification (spec/00
R11) or for another state of the plant, the record stays in the ring and no completion tells of it (log entry 104). -/
def execLaunch (f : BitVec 6) (s : State) : Host.Outcome State Fault Refusal :=
  event (match s.nextRecord f.toNat with
    | some r =>
      let bad := recBad (s.placedAt f.toNat (s.func f.toNat).launch.hub.toNat) r
      if !s.takesRecords f.toNat || !s.hub.plant.accepting || (s.func f.toNat).waiting.isSome || (recOp r == 2 && !bad) then s
      else if s.vfState f.toNat = 4 then s.refuseHead f.toNat .vfreset r
      else if bad then s.refuseHead f.toNat .malformed r
      else if !s.polderOf f.toNat (recPol r) then s.refuseHead f.toNat .polder r
      else s.tryLaunch f.toNat r
    | none => s)

/-- LAUNCH_RESUMED (R227): the launch that waits at the head of the ring is tried again; the loading of one that has been placed goes
on. -/
def execLaunchResumed (f : BitVec 6) (s : State) : Host.Outcome State Fault Refusal :=
  event (match (s.func f.toNat).waiting with
    | some r =>
      if s.hub.plant.accepting && s.takesRecords f.toNat then
        match (s.func f.toNat).loading with
        | some l => s.goOnLoading f.toNat r l
        | none => s.tryLaunch f.toNat r
      else s
    | none => s)

end Sys2Proof.Machine
end

