-- ==== Sys2Proof/Machine/Plant.lean ====
section
/-! DEFINITION. The module as a whole: supply, coolant and power ceiling (spec/00 R5 to R8, spec/16 R458), starts
(spec/07 R247 to R249, spec/18 R464), ballast and link widths (spec/16 R457, R460), and the scale links
(spec/04 R143, R157, R158, spec/01 R41). -/

namespace Sys2Proof.Machine

/-! ## Clocks (R5) -/

/-- The plant changed. -/
def State.modPlant (s : State) (f : Plant → Plant) : State := s.modHub fun h => { h with plant := f h.plant }

/-- Every stand takes at its next boundary the clock that R5 now gives. -/
def State.reclock (s : State) : State :=
  s.modHub fun h => { h with jobs := h.jobs.map fun j => { j with stand := { j.stand with halfNext := s.halfNow } } }

/-! ## Supply and coolant (R7, R8) -/

/-- Every array die out of service: no stand may be placed on it. -/
def State.fenceDies (s : State) : State :=
  (List.range 16).foldl (fun (s : State) d => s.modDie d fun x => { x with released := false, served := x.served || x.released }) s

/-- Every array die back in service; in a start, those that were in early service (spec/07 R249). -/
def State.restoreDies (s : State) : State :=
  let all := !s.hub.plant.starting
  (List.range 16).foldl (fun (s : State) d => s.modDie d fun x =>
    { x with released := all || x.released || x.served, served := false }) s

/-- Every job ended with status CONTAINED, its completion naming no core (R7, R8), and nothing left of the launches that were being
loaded. -/
def State.containAll (s : State) : State :=
  s.hub.jobs.foldl (fun (s : State) j => s.endJob j .contained 0 0) ((List.range 64).foldl State.undoLoad s)

/-- The dies return to service and launches are taken again, unless another condition of the plant forbids them. In a start this
means the dies of early service, and launches are taken once there is one (spec/07 R249). -/
def State.reaccept (s : State) : State :=
  let p := s.hub.plant
  if p.inletOver || p.supplyBad || !p.verified then s
  else
    let s := s.restoreDies
    s.modPlant fun p => { p with accepting := !p.starting || (List.range 16).any fun d => (s.die d).released }

/-- SUPPLY_OUT_OF_RANGE (R7): more than 10 µs outside 44 V to 54 V. -/
def execSupplyOutOfRange (s : State) : Host.Outcome State Fault Refusal :=
  event (if s.hub.plant.supplyBad then s
    else (s.containAll.fenceDies.modPlant fun p => { p with supplyBad := true, accepting := false }).moduleEvent 6)

/-- SUPPLY_RESTORED (R7): in range for 1 s; the dies are tested as a warm start tests them, and return to service. -/
def execSupplyRestored (s : State) : Host.Outcome State Fault Refusal :=
  event (if s.hub.plant.supplyBad then ((s.modPlant fun p => { p with supplyBad := false }).retest.moduleEvent 7).reaccept else s)

/-- The module without power: what flash holds is left (R7, R11, spec/07 R245). -/
def State.unpowered (s : State) : State :=
  { State.reset with
    cores := []
    hub := { Hub.reset with
      history := s.hub.history, firmware := s.hub.firmware
      plant := { Hub.reset.plant with powerOff := true, accepting := false, signed := s.hub.plant.signed } }
    free := s.free }

/-- SUPPLY_SHUTDOWN (R7): below 36 V or above 60 V the module switches itself off, and HBM and SRAM contents are lost. -/
def execSupplyShutdown (s : State) : Host.Outcome State Fault Refusal := event s.unpowered

/-- INLET_OVER_40 (R8). -/
def execInletOver40 (s : State) : Host.Outcome State Fault Refusal :=
  event (if s.hub.plant.inletHot then s else (s.modPlant fun p => { p with inletHot := true }).reclock.moduleEvent 1)

/-- INLET_OVER_45 (R8). -/
def execInletOver45 (s : State) : Host.Outcome State Fault Refusal :=
  event (if s.hub.plant.inletOver then s
    else (s.containAll.fenceDies.modPlant fun p => { p with inletHot := true, inletOver := true, accepting := false }).moduleEvent 2)

/-- INLET_RESTORED (R8): in range for 10 s; after more than 45 °C the dies are tested as a warm start tests them. -/
def execInletRestored (s : State) : Host.Outcome State Fault Refusal :=
  event (if s.hub.plant.inletHot || s.hub.plant.inletOver then
    let hot := s.hub.plant.inletOver
    let s := s.modPlant fun p => { p with inletHot := false, inletOver := false }
    let s := ((if hot then s.retest else s).moduleEvent 3).reclock
    if hot then s.reaccept else s
  else s)

/-! ## The power ceiling (spec/16 R458) -/

/-- POWER_CEILING_ENGAGE: the 1 ms average of the module estimate exceeds 8.4 kW. -/
def execPowerCeilingEngage (s : State) : Host.Outcome State Fault Refusal :=
  event (if s.hub.plant.ceiling then s else (s.modPlant fun p => { p with ceiling := true }).reclock.moduleEvent 4)

/-- POWER_CEILING_RELEASE: the average has stayed below 7.6 kW for 10 ms. -/
def execPowerCeilingRelease (s : State) : Host.Outcome State Fault Refusal :=
  event (if s.hub.plant.ceiling then ((s.modPlant fun p => { p with ceiling := false }).moduleEvent 5).reclock else s)

/-! ## Starts (spec/07 R247 to R249) -/

/-- The hub as a start leaves it until it completes: every register at its reset value, the error history and the firmware
image of flash kept; launches wait for the first released die. -/
def Hub.started (h : Hub) : Hub :=
  { Hub.reset with
    history := h.history, firmware := h.firmware
    plant := { h.plant with starting := true, accepting := false, powerOff := false } }

/-- No array die in early service. -/
def unreleased : List (Nat × Die) := (List.range 16).map fun d => (d, { Die.reset with released := false })

/-- A unit that fails a test of a start: retired, entered in the error history, and recorded in the cause table (R241, R245, R247). -/
def State.retireUnit (s : State) (u : Nat × Nat) : State :=
  let s := s.modHub fun h => { h with
    units := if h.units.any fun v => v.kind == u.1 && v.number == u.2 then h.units
      else h.units ++ [{ kind := u.1, number := u.2, retired := true }]
    history := if h.history.contains u then h.history else h.history ++ [u] }
  (if u.1 = 1 then s.retireBay (u.2 / 16) (u.2 % 16) else s).containEntry u.1 u.2 true (s.unitFn u.1 u.2)

/-- The training and the tests of a cold start: the units that fail are not the manual's to say (R247, log entry 81). -/
def State.testAll (s : State) : State :=
  (Config.failing s.free).foldl State.retireUnit { s with free := s.free + 1 }

/-- A cold start begun (R247): nothing but what flash holds survives; the configuration record is verified, and a failure reported
in the Beypol status area (spec/00 R11); every unit is tested. The contents of HBM are what unwritten memory reads as (log entry 2). -/
def State.coldStart (s : State) : State :=
  ({ State.reset with cores := [], dies := unreleased, hub := s.hub.started, free := s.free }.modPlant fun p =>
    { p with verified := p.signed, report := !p.signed }).testAll

/-- COLD_START (R247). -/
def execColdStart (s : State) : Host.Outcome State Fault Refusal := event s.coldStart

/-- A warm start begun (R248): with power held, memory keeps its contents with their tags and keys, the tick runs on
(spec/16 R435), the fabric id holds (spec/01 R41) and retired units stay retired (R245); registers return to their reset
values. What the berms' cache held is lost (log entry 28). Only the units that the stored error history flags are tested; where that
record fails its signature check, every unit is, as at a cold start (log entry 81). -/
def State.warmStart (s : State) : State :=
  let kept := s.hub.units.filter fun u => u.retired
  let t : State := { s with
    cores := [], clusters := [], dies := unreleased, flits := [], messages := [], cur := hubCore0, sched := [], agenda := []
    free := s.free + 1
    hub := { s.hub.started with units := kept, fabric := s.hub.fabric } }
  let t := (kept.filter fun u => u.kind == 1).foldl (fun (t : State) u => t.retireBay (u.number / 16) (u.number % 16)) t
  if Config.historySigned s.free then t.retest else t.testAll

/-- WARM_START (R248). -/
def execWarmStart (s : State) : Host.Outcome State Fault Refusal := event (if s.hub.plant.powerOff then s else s.warmStart)

/-- DIE_EARLY_RELEASE (R249): a die is released to early service, and launches are accepted. Without a signed configuration
record no die leaves reset and every launch is refused (spec/00 R11). -/
def execDieEarlyRelease (d : BitVec 4) (s : State) : Host.Outcome State Fault Refusal :=
  let p := s.hub.plant
  event (if p.starting && p.verified && !p.supplyBad && !p.inletOver then
    (s.modDie d.toNat fun x => { x with released := true }).modPlant fun p => { p with accepting := true }
  else s)

/-- A hub core started on its section of the firmware image, which lies in its TCM already (spec/18 R464). -/
def State.startHubCore (s : State) (n : Nat) : State :=
  s.setCore (hubCore0 + n)
    { Core.reset with act := .task, wctl := (s.core (hubCore0 + n)).wctl, wbase := (s.core (hubCore0 + n)).wbase }

/-- One placement of the firmware image loaded from offset 0 of its hub core's TCM, and the core started; none when the image is bad. -/
def State.loadHub (s : State) (m : Image) (ps : List Placement) (n : Nat) : Option State := do
  let p ← ps[n]?
  need (p.kind = 5 && p.mask < 4 && m.extent n ≤ 0x4000)
  let key := tcmBase (hubCore0 + p.mask)
  let base (i : Nat) : Option Nat := (ps[i]?).map fun q => q.tag * 2 ^ 28
  let s := (s.scrub key 0x4000).tagUnit key 0x200 p.tag
  let s ← s.loadPlacement m { guards := [], ejects := [], insts := [] } base n 0 key
  pure (s.startHubCore p.mask)

/-- The hub cores started on the signed firmware image of flash, whose e_flags bit 0 is set (R247, spec/09 R284, spec/18 R464): one
section at most for each, and a hub core without one is left idle. An image that cannot be read starts none. -/
def State.startHub (s : State) : State :=
  (do
    let p ← parseImage (bytesReader s.hub.firmware) 1
    need (decide (p.places.map Placement.mask).Nodup)
    (List.range p.places.length).foldlM (fun (t : State) n => t.loadHub p.image p.places n) s).getD s

/-- START_COMPLETE (R249, R464): every die is in service, stands move to the full clock at their next boundaries, and the hub
cores start. A start whose configuration record failed does not complete, and its hub cores stay idle (log entry 118). -/
def execStartComplete (s : State) : Host.Outcome State Fault Refusal :=
  let p := s.hub.plant
  event (if p.starting && p.verified then (s.modPlant fun p => { p with starting := false }).reaccept.reclock.startHub else s)

/-! ## Ballast (spec/16 R454, R457, spec/13 R388) -/

/-- A row may run ballast: none of its cores has a tile instruction, and one has arrived at the end-of-work barrier. A core that waits
at the join of its next tile instruction has none yet (spec/13 R368). -/
def State.rowEligible (s : State) (c r : Nat) : Bool :=
  let row := (List.range 8).map fun k => s.core (agentIn c (8 * r + k))
  row.all (fun x => x.tileq = [] && x.reissue = []) && row.any fun x => x.act == .atWork

/-- The eligible rows in ascending cluster coordinate and row number. -/
def State.eligibleRows (s : State) : List (Nat × Nat) :=
  let cs := (s.hub.jobs.filter fun j => !j.stand.away).flatMap fun j => j.clusters
  let key (c : Nat) : Nat := clusterY c * 160 + clusterX c
  let sorted := cs.mergeSort fun a b => key a ≤ key b
  sorted.flatMap fun c => ((List.range 4).filter fun r => s.rowEligible c r).map fun r => (c, r)

/-- The floor of a window: the estimate of the window before, less the slope bound over 64 cycles, in units of 10 µW. -/
def Hub.nextFloor (h : Hub) : Nat := h.estimate.toNat - field h.lvslope 0 10 * 2844

/-- GOVERNOR_WINDOW (R457): `est` is the estimate of non-ballast activity of a window, in units of 10 µW. The fewest rows
that lift the estimate to the floor run ballast for the window's 64 cycles. -/
def execGovernorWindow (est : BitVec 32) (s : State) : Host.Outcome State Fault Refusal :=
  let floor := s.hub.nextFloor
  let rows := s.eligibleRows
  let n := ((List.range (rows.length + 1)).find? fun n => floor ≤ est.toNat + if n = 0 then 0 else Config.ballastPower n).getD rows.length
  let p := est.toNat + if n = 0 then 0 else Config.ballastPower n
  let s := s.modHub fun h =>
    { h with floor := BitVec.ofNat 32 floor, estimate := BitVec.ofNat 32 p, ballast := rows.take n }
  event ((rows.take n).foldl (fun (s : State) e => s.countCluster e.1 9 64 (s.baseFn (agentIn e.1 (8 * e.2)))) s)

/-! ## Link widths (spec/16 R460) -/

/-- A link that may be narrowed: of a cluster of a stand in its work phase, carrying nothing. -/
def State.linkIdle (s : State) (l : Nat) : Bool :=
  match s.jobOf (agentIn (l / 16) 0) with
  | some j => (j.agents.all fun b => !(s.core b).atExchangeEnd && (s.core b).act ≠ .exchange)
      && !(s.flits.any fun f => j.agents.contains f.src)
  | none => false

/-- LINK_NARROW (R460): an idle link taken to half (1) or quarter (2) width. -/
def execLinkNarrow (l : BitVec 20) (wd : BitVec 2) (s : State) : Host.Outcome State Fault Refusal :=
  event (if (wd = 1 || wd = 2) && s.linkIdle l.toNat && !s.failed 4 l.toNat then
    s.modHub fun h => { h with narrow := sset h.narrow l.toNat wd }
  else s)

/-- LINK_WIDTH_RESTORE (R460): within the end-of-work barrier the width of the plan comes back; the release waits for it. -/
def execLinkWidthRestore (l : BitVec 20) (s : State) : Host.Outcome State Fault Refusal :=
  event (if s.widthDue l.toNat then s.modHub fun h => { h with narrow := serase h.narrow l.toNat } else s)

/-! ## The scale links -/

/-- The operation of a posted atomic (spec/15 R324). -/
def AtOp.ofCode (n : Nat) : AtOp :=
  ([AtOp.add, .and, .or, .xor, .min, .max, .minn, .maxn].find? fun op => op.code == n).getD .add

/-- Two posted atomics that a switch may combine (R157). -/
def Posted.joins (p q : Posted) : Bool :=
  !q.done && q.op == p.op && q.size == p.size && q.pa == p.pa && q.home == p.home && q.key == p.key

/-- The first pair that may be combined: one carries the operands of both. -/
def combine : List Posted → List Posted
  | [] => []
  | p :: t =>
    if p.done then p :: combine t
    else
      match t.find? fun q => p.joins q with
      | some q =>
        let v := (AtOp.ofCode p.op).apply (8 * p.size) p.value.toNat q.value.toNat 0
        { p with value := w64 (v % 2 ^ (8 * p.size)) } :: (t.erase q ++ [{ q with done := true }])
      | none => p :: combine t

/-- SCALE_ATOMIC_COMBINE (R157). -/
def execScaleAtomicCombine (s : State) : Host.Outcome State Fault Refusal :=
  event (s.modHub fun h => { h with posted := combine h.posted })

/-- WINDOW_ATOMIC_ACK (R158): the oldest posted atomic is performed at its home and acknowledged. -/
def execWindowAtomicAck (s : State) : Host.Outcome State Fault Refusal := event s.ackPosted

/-- The operation of an access that arrives from a peer module: 0 for a read, 1 for a write, 2 and its code for an atomic. -/
def arrivalAtomic (op : Nat) : Option AtOp :=
  [AtOp.add, .and, .or, .xor, .min, .max, .minn, .maxn, .swap, .cas].find? fun x => x.code + 2 == op

/-- REMOTE_ACCESS_ARRIVAL (R143, R157, R158, R41): an access of a peer module at the home memory port of this one, uncached and under
the key slot that it names: a read, a write, or an atomic, which may carry the operands of several that a switch combined; `data`
holds the operand, and above it the second one of a CAS. What a read or an atomic finds is answered (log entry 19). Its lookup in the
home berm, and what it evicts there, count for function 0 (log entry 128). -/
def execRemoteAccessArrival (pa : BitVec 41) (op : BitVec 4) (sz : BitVec 2) (key : BitVec 6) (data : BitVec 128) (s : State) :
    Host.Outcome State Fault Refusal :=
  let n := 2 ^ sz.toNat
  let v : Via := { vf := 0, key := key.toNat, cache := false }
  event (if hbmEnd < pa.toNat + n || pa.toNat % n ≠ 0 then s
    else if op = 1 then s.physWrite pa.toNat n data.toNat (2 ^ n - 1) v
    else
      let (t, x) := s.physRead pa.toNat n v
      if op = 0 then t.answerWith (w64 x)
      else
        match arrivalAtomic op.toNat with
        | some a => (t.physWrite pa.toNat n (a.apply (8 * n) x (field data 0 64) (field data 64 64)) (2 ^ n - 1) v).answerWith (w64 x)
        | none => s)

/-- FABRIC_ID_ASSIGN (R41): the module takes its fabric id, which holds until the next cold start. -/
def execFabricIdAssign (id : BitVec 12) (s : State) : Host.Outcome State Fault Refusal :=
  event (s.modHub fun h => { h with fabric := some (h.fabric.getD id) })

end Sys2Proof.Machine
end

