-- ==== Sys2Proof/Machine/Dispatch.lean ====
section
/-! DEFINITION. One arm per constructor of Instr: each calls the instruction's meaning. -/

namespace Sys2Proof.Machine

def exec (i : Instr) (s : State) : Host.Outcome State Fault Refusal :=
  match i with
  | .pfx f e n g fs r => Sys2Proof.Machine.execPfx f e n g fs r s
  | .add w rs2 rs1 rd p => Sys2Proof.Machine.execAdd w rs2 rs1 rd p s
  | .sub w rs2 rs1 rd p => Sys2Proof.Machine.execSub w rs2 rs1 rd p s
  | .and w rs2 rs1 rd p => Sys2Proof.Machine.execAnd w rs2 rs1 rd p s
  | .or w rs2 rs1 rd p => Sys2Proof.Machine.execOr w rs2 rs1 rd p s
  | .xor w rs2 rs1 rd p => Sys2Proof.Machine.execXor w rs2 rs1 rd p s
  | .shl w rs2 rs1 rd p => Sys2Proof.Machine.execShl w rs2 rs1 rd p s
  | .shr w rs2 rs1 rd p => Sys2Proof.Machine.execShr w rs2 rs1 rd p s
  | .sha w rs2 rs1 rd p => Sys2Proof.Machine.execSha w rs2 rs1 rd p s
  | .min w rs2 rs1 rd p => Sys2Proof.Machine.execMin w rs2 rs1 rd p s
  | .max w rs2 rs1 rd p => Sys2Proof.Machine.execMax w rs2 rs1 rd p s
  | .minn w rs2 rs1 rd p => Sys2Proof.Machine.execMinn w rs2 rs1 rd p s
  | .maxn w rs2 rs1 rd p => Sys2Proof.Machine.execMaxn w rs2 rs1 rd p s
  | .mul w rs2 rs1 rd p => Sys2Proof.Machine.execMul w rs2 rs1 rd p s
  | .mulh w rs2 rs1 rd p => Sys2Proof.Machine.execMulh w rs2 rs1 rd p s
  | .mulhn w rs2 rs1 rd p => Sys2Proof.Machine.execMulhn w rs2 rs1 rd p s
  | .div w rs2 rs1 rd p => Sys2Proof.Machine.execDiv w rs2 rs1 rd p s
  | .divn w rs2 rs1 rd p => Sys2Proof.Machine.execDivn w rs2 rs1 rd p s
  | .rem w rs2 rs1 rd p => Sys2Proof.Machine.execRem w rs2 rs1 rd p s
  | .remn w rs2 rs1 rd p => Sys2Proof.Machine.execRemn w rs2 rs1 rd p s
  | .clz w rs1 rd p => Sys2Proof.Machine.execClz w rs1 rd p s
  | .ctz w rs1 rd p => Sys2Proof.Machine.execCtz w rs1 rd p s
  | .popc w rs1 rd p => Sys2Proof.Machine.execPopc w rs1 rd p s
  | .andn w rs2 rs1 rd p => Sys2Proof.Machine.execAndn w rs2 rs1 rd p s
  | .orn w rs2 rs1 rd p => Sys2Proof.Machine.execOrn w rs2 rs1 rd p s
  | .addi imm rs1 rd p => Sys2Proof.Machine.execAddi imm rs1 rd p s
  | .andi imm rs1 rd p => Sys2Proof.Machine.execAndi imm rs1 rd p s
  | .ori imm rs1 rd p => Sys2Proof.Machine.execOri imm rs1 rd p s
  | .xori imm rs1 rd p => Sys2Proof.Machine.execXori imm rs1 rd p s
  | .shli w h rs1 rd p => Sys2Proof.Machine.execShli w h rs1 rd p s
  | .shri w h rs1 rd p => Sys2Proof.Machine.execShri w h rs1 rd p s
  | .shai w h rs1 rd p => Sys2Proof.Machine.execShai w h rs1 rd p s
  | .lea imm c rs1 rd p => Sys2Proof.Machine.execLea imm c rs1 rd p s
  | .ldi x imm rd p => Sys2Proof.Machine.execLdi x imm rd p s
  | .ldih imm rd p => Sys2Proof.Machine.execLdih imm rd p s
  | .bnd rs2 rs1 rd p => Sys2Proof.Machine.execBnd rs2 rs1 rd p s
  | .bndi imm rs1 rd p => Sys2Proof.Machine.execBndi imm rs1 rd p s
  | .muli imm rs1 rd p => Sys2Proof.Machine.execMuli imm rs1 rd p s
  | .addiW imm rs1 rd p => Sys2Proof.Machine.execAddiW imm rs1 rd p s
  | .bdset lr esz rs2 rs1 clr n leni p => Sys2Proof.Machine.execBdset lr esz rs2 rs1 clr n leni p s
  | .cmp w c rs2 rs1 rd p => Sys2Proof.Machine.execCmp w c rs2 rs1 rd p s
  | .cmpi imm c rs1 rd p => Sys2Proof.Machine.execCmpi imm c rs1 rd p s
  | .plog l rs2 rs1 rd p => Sys2Proof.Machine.execPlog l rs2 rs1 rd p s
  | .sel n c rs2 rs1 rd p => Sys2Proof.Machine.execSel n c rs2 rs1 rd p s
  | .pmovToScalar rd p => Sys2Proof.Machine.execPmovToScalar rd p s
  | .pmovFromScalar rs1 p => Sys2Proof.Machine.execPmovFromScalar rs1 p s
  | .br imm n c => Sys2Proof.Machine.execBr imm n c s
  | .j imm => Sys2Proof.Machine.execJ imm s
  | .jr rs1 p => Sys2Proof.Machine.execJr rs1 p s
  | .call imm => Sys2Proof.Machine.execCall imm s
  | .callr rs1 p => Sys2Proof.Machine.execCallr rs1 p s
  | .ret p => Sys2Proof.Machine.execRet p s
  | .loop imm c => Sys2Proof.Machine.execLoop imm c s
  | .repf n rs1 v l => Sys2Proof.Machine.execRepf n rs1 v l s
  | .ldb imm rs1 rd p => Sys2Proof.Machine.execLdb imm rs1 rd p s
  | .ldbn imm rs1 rd p => Sys2Proof.Machine.execLdbn imm rs1 rd p s
  | .ldh imm rs1 rd p => Sys2Proof.Machine.execLdh imm rs1 rd p s
  | .ldhn imm rs1 rd p => Sys2Proof.Machine.execLdhn imm rs1 rd p s
  | .ldw imm rs1 rd p => Sys2Proof.Machine.execLdw imm rs1 rd p s
  | .ldwn imm rs1 rd p => Sys2Proof.Machine.execLdwn imm rs1 rd p s
  | .ldd imm rs1 rd p => Sys2Proof.Machine.execLdd imm rs1 rd p s
  | .stb imm rs1 rd p => Sys2Proof.Machine.execStb imm rs1 rd p s
  | .sth imm rs1 rd p => Sys2Proof.Machine.execSth imm rs1 rd p s
  | .stw imm rs1 rd p => Sys2Proof.Machine.execStw imm rs1 rd p s
  | .std imm rs1 rd p => Sys2Proof.Machine.execStd imm rs1 rd p s
  | .ldx x n rs1 rd p => Sys2Proof.Machine.execLdx x n rs1 rd p s
  | .stx n rs1 rd p => Sys2Proof.Machine.execStx n rs1 rd p s
  | .tags f rs2 rs1 p => Sys2Proof.Machine.execTags f rs2 rs1 p s
  | .tagr f rs1 rd p => Sys2Proof.Machine.execTagr f rs1 rd p s
  | .tagp f rs2 rs1 rd p => Sys2Proof.Machine.execTagp f rs2 rs1 rd p s
  | .probe imm k f rs1 fs rd p => Sys2Proof.Machine.execProbe imm k f rs1 fs rd p s
  | .bcopy rs2 rs1 rd p => Sys2Proof.Machine.execBcopy rs2 rs1 rd p s
  | .ldf imm z rs1 rd p => Sys2Proof.Machine.execLdf imm z rs1 rd p s
  | .ldfc imm z rs1 rd p => Sys2Proof.Machine.execLdfc imm z rs1 rd p s
  | .stf imm z rs1 rd p => Sys2Proof.Machine.execStf imm z rs1 rd p s
  | .fec rs2 rs1 p => Sys2Proof.Machine.execFec rs2 rs1 p s
  | .feq rs1 rd p => Sys2Proof.Machine.execFeq rs1 rd p s
  | .amoAdd g fs rs1 o w r p => Sys2Proof.Machine.execAmoAdd g fs rs1 o w r p s
  | .amoAnd g fs rs1 o w r p => Sys2Proof.Machine.execAmoAnd g fs rs1 o w r p s
  | .amoOr g fs rs1 o w r p => Sys2Proof.Machine.execAmoOr g fs rs1 o w r p s
  | .amoXor g fs rs1 o w r p => Sys2Proof.Machine.execAmoXor g fs rs1 o w r p s
  | .amoMin g fs rs1 o w r p => Sys2Proof.Machine.execAmoMin g fs rs1 o w r p s
  | .amoMax g fs rs1 o w r p => Sys2Proof.Machine.execAmoMax g fs rs1 o w r p s
  | .amoMinn g fs rs1 o w r p => Sys2Proof.Machine.execAmoMinn g fs rs1 o w r p s
  | .amoMaxn g fs rs1 o w r p => Sys2Proof.Machine.execAmoMaxn g fs rs1 o w r p s
  | .amoSwap g fs rs1 o w r p => Sys2Proof.Machine.execAmoSwap g fs rs1 o w r p s
  | .cas g fs rs1 o w r p => Sys2Proof.Machine.execCas g fs rs1 o w r p s
  | .fence g fs o => Sys2Proof.Machine.execFence g fs o s
  | .qinit q rs2 rs1 rd p => Sys2Proof.Machine.execQinit q rs2 rs1 rd p s
  | .qenq q rs1 v rd p => Sys2Proof.Machine.execQenq q rs1 v rd p s
  | .qdeq q v c rd p => Sys2Proof.Machine.execQdeq q v c rd p s
  | .qcnt q rd p => Sys2Proof.Machine.execQcnt q rd p s
  | .oldest => Sys2Proof.Machine.execOldest s
  | .rds n rd p => Sys2Proof.Machine.execRds n rd p s
  | .wrs n rs1 p => Sys2Proof.Machine.execWrs n rs1 p s
  | .trap c => Sys2Proof.Machine.execTrap c s
  | .eret => Sys2Proof.Machine.execEret s
  | .tend => Sys2Proof.Machine.execTend s
  | .yield => Sys2Proof.Machine.execYield s
  | .tspawn rs2 rs1 rd => Sys2Proof.Machine.execTspawn rs2 rs1 rd s
  | .brk c => Sys2Proof.Machine.execBrk c s
  | .trc t rs2 rs1 p => Sys2Proof.Machine.execTrc t rs2 rs1 p s
  | .cnt c rd p => Sys2Proof.Machine.execCnt c rd p s
  | .cntSel c rs1 p => Sys2Proof.Machine.execCntSel c rs1 p s
  | .vld imm rs1 rd p => Sys2Proof.Machine.execVld imm rs1 rd p s
  | .vldDec imm rs1 rd p => Sys2Proof.Machine.execVldDec imm rs1 rd p s
  | .vst imm rs1 rd p => Sys2Proof.Machine.execVst imm rs1 rd p s
  | .vstCnv imm rs1 rd p => Sys2Proof.Machine.execVstCnv imm rs1 rd p s
  | .vlds imm rs1 rd p => Sys2Proof.Machine.execVlds imm rs1 rd p s
  | .vsts imm rs1 rd p => Sys2Proof.Machine.execVsts imm rs1 rd p s
  | .vgath rs2 rs1 rd p => Sys2Proof.Machine.execVgath rs2 rs1 rd p s
  | .vscat rs2 rs1 rd p => Sys2Proof.Machine.execVscat rs2 rs1 rd p s
  | .vadd t rs2 rs1 rd p => Sys2Proof.Machine.execVadd t rs2 rs1 rd p s
  | .vsub t rs2 rs1 rd p => Sys2Proof.Machine.execVsub t rs2 rs1 rd p s
  | .vmul t rs2 rs1 rd p => Sys2Proof.Machine.execVmul t rs2 rs1 rd p s
  | .vmin t rs2 rs1 rd p => Sys2Proof.Machine.execVmin t rs2 rs1 rd p s
  | .vmax t rs2 rs1 rd p => Sys2Proof.Machine.execVmax t rs2 rs1 rd p s
  | .vabs t rs1 rd p => Sys2Proof.Machine.execVabs t rs1 rd p s
  | .vneg t rs1 rd p => Sys2Proof.Machine.execVneg t rs1 rd p s
  | .vfma t rs2 rs1 rd p => Sys2Proof.Machine.execVfma t rs2 rs1 rd p s
  | .vfms t rs2 rs1 rd p => Sys2Proof.Machine.execVfms t rs2 rs1 rd p s
  | .vfnma t rs2 rs1 rd p => Sys2Proof.Machine.execVfnma t rs2 rs1 rd p s
  | .vand rs2 rs1 rd p => Sys2Proof.Machine.execVand rs2 rs1 rd p s
  | .vor rs2 rs1 rd p => Sys2Proof.Machine.execVor rs2 rs1 rd p s
  | .vxor rs2 rs1 rd p => Sys2Proof.Machine.execVxor rs2 rs1 rd p s
  | .vandn rs2 rs1 rd p => Sys2Proof.Machine.execVandn rs2 rs1 rd p s
  | .vcmp t c rs2 rs1 rd p => Sys2Proof.Machine.execVcmp t c rs2 rs1 rd p s
  | .vsel m rs2 rs1 rd p => Sys2Proof.Machine.execVsel m rs2 rs1 rd p s
  | .vredAdd t q rs1 rd p => Sys2Proof.Machine.execVredAdd t q rs1 rd p s
  | .vredMax t q rs1 rd p => Sys2Proof.Machine.execVredMax t q rs1 rd p s
  | .vredMin t q rs1 rd p => Sys2Proof.Machine.execVredMin t q rs1 rd p s
  | .vcvt fs p t rs1 rd p_part2 => Sys2Proof.Machine.execVcvt fs p t rs1 rd p_part2 s
  | .vbcst rs1 rd p => Sys2Proof.Machine.execVbcst rs1 rd p s
  | .vext x rs2 rs1 rd p => Sys2Proof.Machine.execVext x rs2 rs1 rd p s
  | .vperm rs2 rs1 rd p => Sys2Proof.Machine.execVperm rs2 rs1 rd p s
  | .vmskAnd rs2 rs1 rd p => Sys2Proof.Machine.execVmskAnd rs2 rs1 rd p s
  | .vmskOr rs2 rs1 rd p => Sys2Proof.Machine.execVmskOr rs2 rs1 rd p s
  | .vmskXor rs2 rs1 rd p => Sys2Proof.Machine.execVmskXor rs2 rs1 rd p s
  | .vmskAndn rs2 rs1 rd p => Sys2Proof.Machine.execVmskAndn rs2 rs1 rd p s
  | .vmskTos rs1 rd p => Sys2Proof.Machine.execVmskTos rs1 rd p s
  | .vmskFroms rs1 rd p => Sys2Proof.Machine.execVmskFroms rs1 rd p s
  | .vmskPopc rs1 rd p => Sys2Proof.Machine.execVmskPopc rs1 rd p s
  | .vmskFirst rs1 rd p => Sys2Proof.Machine.execVmskFirst rs1 rd p s
  | .vexp2 t rs1 rd p => Sys2Proof.Machine.execVexp2 t rs1 rd p s
  | .vlog2 t rs1 rd p => Sys2Proof.Machine.execVlog2 t rs1 rd p s
  | .vrcp t rs1 rd p => Sys2Proof.Machine.execVrcp t rs1 rd p s
  | .vrsq t rs1 rd p => Sys2Proof.Machine.execVrsq t rs1 rd p s
  | .vtanh t rs1 rd p => Sys2Proof.Machine.execVtanh t rs1 rd p s
  | .vscl t rs2 rs1 rd p => Sys2Proof.Machine.execVscl t rs2 rs1 rd p s
  | .vidx rs2 rs1 rd p => Sys2Proof.Machine.execVidx rs2 rs1 rd p s
  | .vdot m rs2 rs1 rd p => Sys2Proof.Machine.execVdot m rs2 rs1 rd p s
  | .vmov rs1 rd p => Sys2Proof.Machine.execVmov rs1 rd p s
  | .sbind mode dir port rs2 rs1 stride => Sys2Proof.Machine.execSbind mode dir port rs2 rs1 stride s
  | .sunb port => Sys2Proof.Machine.execSunb port s
  | .sstat p rd p_part2 => Sys2Proof.Machine.execSstat p rd p_part2 s
  | .lrd f rd p => Sys2Proof.Machine.execLrd f rd p s
  | .lwr rs1 p => Sys2Proof.Machine.execLwr rs1 p s
  | .lstat rd p => Sys2Proof.Machine.execLstat rd p s
  | .tmma rs2 rs1 kc tb ta acc z rb ra => Sys2Proof.Machine.execTmma rs2 rs1 kc tb ta acc z rb ra s
  | .tzero c => Sys2Proof.Machine.execTzero c s
  | .tld rs1 c => Sys2Proof.Machine.execTld rs1 c s
  | .tst rs1 c => Sys2Proof.Machine.execTst rs1 c s
  | .tactRelu f c => Sys2Proof.Machine.execTactRelu f c s
  | .tactGelu f c => Sys2Proof.Machine.execTactGelu f c s
  | .tactSilu f c => Sys2Proof.Machine.execTactSilu f c s
  | .tstat rd => Sys2Proof.Machine.execTstat rd s
  | .twait => Sys2Proof.Machine.execTwait s
  | .recordOn rs2 rs1 => Sys2Proof.Machine.execRecordOn rs2 rs1 s
  | .recordOnChain rs2 rs1 => Sys2Proof.Machine.execRecordOnChain rs2 rs1 s
  | .recordOff => Sys2Proof.Machine.execRecordOff s
  | .recordMark rs1 => Sys2Proof.Machine.execRecordMark rs1 s
  | .reverse m mv z => Sys2Proof.Machine.execReverse m mv z s
  | .send slot km1 vs route => Sys2Proof.Machine.execSend slot km1 vs route s
  | .rsel slot km1 rs1 mcid ce link => Sys2Proof.Machine.execRsel slot km1 rs1 mcid ce link s
  | .sync => Sys2Proof.Machine.execSync s
  | .syncv o rs1 rd => Sys2Proof.Machine.execSyncv o rs1 rd s
  | .gcall rs1 => Sys2Proof.Machine.execGcall rs1 s
  | .gret => Sys2Proof.Machine.execGret s
  | .awset lr n clr w r rs2 rs1 leni => Sys2Proof.Machine.execAwset lr n clr w r rs2 rs1 leni s
  | .fld x z rs2 rs1 rd p => Sys2Proof.Machine.execFld x z rs2 rs1 rd p s
  | .fst z rs2 rs1 rd p => Sys2Proof.Machine.execFst z rs2 rs1 rd p s
  | .fflush imm g rs2 rs1 p => Sys2Proof.Machine.execFflush imm g rs2 rs1 p s
  | .fpush fs r rs2 rs1 rd p => Sys2Proof.Machine.execFpush fs r rs2 rs1 rd p s
  | .fpf rs2 rs1 p => Sys2Proof.Machine.execFpf rs2 rs1 p s
  | .pginv g rs2 rs1 p => Sys2Proof.Machine.execPginv g rs2 rs1 p s
  | .fqdeq c rd p => Sys2Proof.Machine.execFqdeq c rd p s
  | .replay rs1 rd p => Sys2Proof.Machine.execReplay rs1 rd p s
  | .term rs1 rd p => Sys2Proof.Machine.execTerm rs1 rd p s
  | .nop => Sys2Proof.Machine.execNop s
  | .hint h p tail => Sys2Proof.Machine.execHint h p tail s
  | .deferredTrap a => Sys2Proof.Machine.execDeferredTrap a s
  | .registerWrite addr val => Sys2Proof.Machine.execRegisterWrite addr val s
  | .wspWrite val => Sys2Proof.Machine.execWspWrite val s
  | .dsdWrite val => Sys2Proof.Machine.execDsdWrite val s
  | .bfmtWrite c b val => Sys2Proof.Machine.execBfmtWrite c b val s
  | .bownWrite c b val => Sys2Proof.Machine.execBownWrite c b val s
  | .townWrite c k val => Sys2Proof.Machine.execTownWrite c k val s
  | .ltownWrite l val => Sys2Proof.Machine.execLtownWrite l val s
  | .segmentOwnerWrite d k val => Sys2Proof.Machine.execSegmentOwnerWrite d k val s
  | .scrubEnd kind n => Sys2Proof.Machine.execScrubEnd kind n s
  | .arrive n rd => Sys2Proof.Machine.execArrive n rd s
  | .arriveNb n rd => Sys2Proof.Machine.execArriveNb n rd s
  | .waitLatch n rs => Sys2Proof.Machine.execWaitLatch n rs s
  | .wait n rd => Sys2Proof.Machine.execWait n rd s
  | .barrierCfgWrite n rs => Sys2Proof.Machine.execBarrierCfgWrite n rs s
  | .barrierRelease c n => Sys2Proof.Machine.execBarrierRelease c n s
  | .mutexLock m rd => Sys2Proof.Machine.execMutexLock m rd s
  | .mutexUnlock m => Sys2Proof.Machine.execMutexUnlock m s
  | .mutexHandoff c m => Sys2Proof.Machine.execMutexHandoff c m s
  | .eventWait e rd => Sys2Proof.Machine.execEventWait e rd s
  | .eventSet e => Sys2Proof.Machine.execEventSet e s
  | .remoteEventSend rs => Sys2Proof.Machine.execRemoteEventSend rs s
  | .remoteEventArrival => Sys2Proof.Machine.execRemoteEventArrival s
  | .fullWake a => Sys2Proof.Machine.execFullWake a s
  | .eccWriteback key => Sys2Proof.Machine.execEccWriteback key s
  | .selfTestDone kind n pass => Sys2Proof.Machine.execSelfTestDone kind n pass s
  | .waymaskWrite d val => Sys2Proof.Machine.execWaymaskWrite d val s
  | .conversionDrained d => Sys2Proof.Machine.execConversionDrained d s
  | .conversionWayDone d => Sys2Proof.Machine.execConversionWayDone d s
  | .kslotClear k val => Sys2Proof.Machine.execKslotClear k val s
  | .purgeDone k => Sys2Proof.Machine.execPurgeDone k s
  | .hftinvWrite val => Sys2Proof.Machine.execHftinvWrite val s
  | .walkStart a => Sys2Proof.Machine.execWalkStart a s
  | .walkComplete a => Sys2Proof.Machine.execWalkComplete a s
  | .faultInsertRetry a => Sys2Proof.Machine.execFaultInsertRetry a s
  | .hostWindowAccess f off wr sz data => Sys2Proof.Machine.execHostWindowAccess f off wr sz data s
  | .hostApertureAccess f pa wr sz data => Sys2Proof.Machine.execHostApertureAccess f pa wr sz data s
  | .flushTailWrite f val => Sys2Proof.Machine.execFlushTailWrite f val s
  | .flush f => Sys2Proof.Machine.execFlush f s
  | .flushInval f => Sys2Proof.Machine.execFlushInval f s
  | .flushComplete f => Sys2Proof.Machine.execFlushComplete f s
  | .launchTailWrite f val => Sys2Proof.Machine.execLaunchTailWrite f val s
  | .completionHeadWrite f val => Sys2Proof.Machine.execCompletionHeadWrite f val s
  | .launch f => Sys2Proof.Machine.execLaunch f s
  | .launchResumed f => Sys2Proof.Machine.execLaunchResumed f s
  | .kill f => Sys2Proof.Machine.execKill f s
  | .fabricLaunch f src rec => Sys2Proof.Machine.execFabricLaunch f src rec s
  | .causeInterrupt => Sys2Proof.Machine.execCauseInterrupt s
  | .completionInterrupt f => Sys2Proof.Machine.execCompletionInterrupt f s
  | .sliceEnd f => Sys2Proof.Machine.execSliceEnd f s
  | .switch f g => Sys2Proof.Machine.execSwitch f g s
  | .switchDone f g => Sys2Proof.Machine.execSwitchDone f g s
  | .forcedEviction f jid => Sys2Proof.Machine.execForcedEviction f jid s
  | .evictionOverrun c => Sys2Proof.Machine.execEvictionOverrun c s
  | .vfReset f => Sys2Proof.Machine.execVfReset f s
  | .vfResetStandStop f => Sys2Proof.Machine.execVfResetStandStop f s
  | .vfResetDone f => Sys2Proof.Machine.execVfResetDone f s
  | .peerWithdrawReceived f d => Sys2Proof.Machine.execPeerWithdrawReceived f d s
  | .vfPause f => Sys2Proof.Machine.execVfPause f s
  | .vfUnpause f => Sys2Proof.Machine.execVfUnpause f s
  | .supplyOutOfRange => Sys2Proof.Machine.execSupplyOutOfRange s
  | .supplyRestored => Sys2Proof.Machine.execSupplyRestored s
  | .supplyShutdown => Sys2Proof.Machine.execSupplyShutdown s
  | .inletOver40 => Sys2Proof.Machine.execInletOver40 s
  | .inletOver45 => Sys2Proof.Machine.execInletOver45 s
  | .inletRestored => Sys2Proof.Machine.execInletRestored s
  | .powerCeilingEngage => Sys2Proof.Machine.execPowerCeilingEngage s
  | .powerCeilingRelease => Sys2Proof.Machine.execPowerCeilingRelease s
  | .coldStart => Sys2Proof.Machine.execColdStart s
  | .warmStart => Sys2Proof.Machine.execWarmStart s
  | .dieEarlyRelease d => Sys2Proof.Machine.execDieEarlyRelease d s
  | .startComplete => Sys2Proof.Machine.execStartComplete s
  | .taskStart a => Sys2Proof.Machine.execTaskStart a s
  | .gangStart a => Sys2Proof.Machine.execGangStart a s
  | .writeThrough a => Sys2Proof.Machine.execWriteThrough a s
  | .orderedCommit a => Sys2Proof.Machine.execOrderedCommit a s
  | .coreArrive a => Sys2Proof.Machine.execCoreArrive a s
  | .barrierGroupRelease a => Sys2Proof.Machine.execBarrierGroupRelease a s
  | .disseminationRound f d => Sys2Proof.Machine.execDisseminationRound f d s
  | .rampSlotBegin c => Sys2Proof.Machine.execRampSlotBegin c s
  | .exchangeWatchdog a => Sys2Proof.Machine.execExchangeWatchdog a s
  | .noProgress f d => Sys2Proof.Machine.execNoProgress f d s
  | .sendInject a => Sys2Proof.Machine.execSendInject a s
  | .flitDrop => Sys2Proof.Machine.execFlitDrop s
  | .rselDelivery => Sys2Proof.Machine.execRselDelivery s
  | .flitEjectUnselected => Sys2Proof.Machine.execFlitEjectUnselected s
  | .fpushSlot a => Sys2Proof.Machine.execFpushSlot a s
  | .pushComplete a => Sys2Proof.Machine.execPushComplete a s
  | .copyStart c => Sys2Proof.Machine.execCopyStart c s
  | .copyComplete c => Sys2Proof.Machine.execCopyComplete c s
  | .copyStop c => Sys2Proof.Machine.execCopyStop c s
  | .streamFetch a port => Sys2Proof.Machine.execStreamFetch a port s
  | .streamWrite a port => Sys2Proof.Machine.execStreamWrite a port s
  | .tileJoinTimeout a => Sys2Proof.Machine.execTileJoinTimeout a s
  | .tileComplete a => Sys2Proof.Machine.execTileComplete a s
  | .tileFaultStop a => Sys2Proof.Machine.execTileFaultStop a s
  | .governorWindow est => Sys2Proof.Machine.execGovernorWindow est s
  | .rampCheck f jid rise => Sys2Proof.Machine.execRampCheck f jid rise s
  | .linkNarrow l wd => Sys2Proof.Machine.execLinkNarrow l wd s
  | .linkWidthRestore l => Sys2Proof.Machine.execLinkWidthRestore l s
  | .budgetExhausted a => Sys2Proof.Machine.execBudgetExhausted a s
  | .revokeWrite val => Sys2Proof.Machine.execRevokeWrite val s
  | .polderDeath pol => Sys2Proof.Machine.execPolderDeath pol s
  | .unwind a => Sys2Proof.Machine.execUnwind a s
  | .scaleAtomicCombine => Sys2Proof.Machine.execScaleAtomicCombine s
  | .windowAtomicAck => Sys2Proof.Machine.execWindowAtomicAck s
  | .ownGuestClaim f u n => Sys2Proof.Machine.execOwnGuestClaim f u n s
  | .ownHostClaim u n => Sys2Proof.Machine.execOwnHostClaim u n s
  | .ownRelease f u n => Sys2Proof.Machine.execOwnRelease f u n s
  | .cstatClear f hi val => Sys2Proof.Machine.execCstatClear f hi val s
  | .counterSelectWrite f u n fs val => Sys2Proof.Machine.execCounterSelectWrite f u n fs val s
  | .traceRecordWrite => Sys2Proof.Machine.execTraceRecordWrite s
  | .debugStop => Sys2Proof.Machine.execDebugStop s
  | .debugResume => Sys2Proof.Machine.execDebugResume s
  | .snapOn => Sys2Proof.Machine.execSnapOn s
  | .snapOff => Sys2Proof.Machine.execSnapOff s
  | .debugReplay ssn => Sys2Proof.Machine.execDebugReplay ssn s
  | .haltAll => Sys2Proof.Machine.execHaltAll s
  | .snapshot f jid => Sys2Proof.Machine.execSnapshot f jid s
  | .dstatRead => Sys2Proof.Machine.execDstatRead s
  | .stateWindowWrite off val => Sys2Proof.Machine.execStateWindowWrite off val s
  | .flitCheckError l => Sys2Proof.Machine.execFlitCheckError l s
  | .remoteAccessArrival pa op sz key data => Sys2Proof.Machine.execRemoteAccessArrival pa op sz key data s
  | .fabricIdAssign id => Sys2Proof.Machine.execFabricIdAssign id s
  | .adjointStepDone a => Sys2Proof.Machine.execAdjointStepDone a s

end Sys2Proof.Machine
end

