-- ==== Sys2Proof/Machine/Sched.lean ====
section
/-! DEFINITION. What happens next in the module (log entries 1, 4 and 5): the core that moves, its clock, and what the engines,
the barriers and the hub do between the steps of the cores. -/

namespace Sys2Proof.Machine

/-- What a step does: an instruction or event runs, a step that is neither, or nothing, because the module is off. -/
inductive Pick where
  | run (i : Instr) (s : State)
  | still (s : State)
  | off
  deriving DecidableEq, Repr

/-! ## Cores -/

/-- The core runs a task or its exchange routine. -/
def Core.active (c : Core) : Bool := c.act == .task || c.act == .exchange

/-- What a gang follower finds in its leader's stream (spec/06 R208): nothing yet, the instruction that it stands at, or a
place where it leaves the gang. -/
inductive Follow where
  | wait | go | leave
  deriving DecidableEq, Repr

/-- A follower that has come to position n of its leader's stream resolved the transfer of control before it differently: taken
where the leader did not take it, or the other way (R208). -/
def State.parted (s : State) (c : Core) (l n : Nat) : Bool :=
  0 < n && match (s.core l).stream[n - 1]?.bind (·.taken) with
    | some b => b != c.took
    | none => false

/-- Where core a stands in its leader's stream; a core that follows none goes its own way, as does one that replays a
captured block. -/
def State.follow (s : State) (a : Nat) : Follow :=
  let c := s.core a
  match c.gang with
  | none => .go
  | some (l, n) =>
    if c.replaying && c.repPass ≠ 0 then .go
    else if s.parted c l n then .leave
    else
      match (s.core l).stream[n]? with
      | none => .wait
      | some f => if !f.close && f.pc = c.pc then .go else .leave

/-- A follower leaves its gang (R208): DET is set, and a prefix that it holds is fetched again. -/
def Core.detach (c : Core) : Core :=
  { c with gang := none, tsk := setBit c.tsk 19 true, pc := if c.latch.isSome then c.pc - 4 else c.pc, latch := none, held := none }

/-- Core a can take a step. -/
def State.movable (s : State) (a : Nat) : Bool :=
  let c := s.core a
  c.active && !c.gated && c.reissue = [] && s.runs a && s.woken a && s.follow a != .wait

/-- The clock of core a: cycles counted in its own and in the banks that may count them (spec/16 R446, R447), the budget of
every depth (spec/15 R421; State.cycle counts that of a core asleep), and XT once its exchange routine has issued, up to 0xFFFF, which the watchdog sets (spec/06 R200, R212). -/
def State.clock (s : State) (a : Nat) : State :=
  let f := s.baseFn a
  let c := s.core a
  let s := s.modCore a fun c =>
    let c := c.count 1 1
    let c := if 0 < c.depth && c.sleep == .none then { c with budget := c.budget.map (· + 1) } else c
    if c.act == .exchange then
      if !c.begun then { c with begun := true }
      else if field c.xt 0 16 = 0xFFFF then c
      else { c with xt := w64 (min 0xFFFE (field c.xt 0 16 + 1)) }
    else c
  let s := if isOrdinary a then s.countCluster (clusterOf a) 1 1 f else s
  let s := if isHub a then s else s.countDie (dieOf a) 1 1 f
  if 0 < c.depth && c.vf.toNat ≠ f then s.countDie (dieOf a) 5 1 c.vf.toNat else s

/-- XT of the core is about to reach 0xFFFF (R213). -/
def Core.xtEnds (c : Core) : Bool := c.act == .exchange && c.begun && field c.xt 0 16 = 0xFFFE

/-- The next instruction of the core that moves, issued with its words; in a replay its fields are advanced to the pass, and the first
pass captures its words (spec/08 R264, R270). -/
def State.corePick (s : State) : Pick :=
  match s.fetchInstr with
  | .ok (i, w, t) =>
    if s.me.replaying then .run (s.me.advanced i) ((s.issuing w t).modMe fun c => c.capture w t) else .run i (s.issuing w t)
  | .error (.trap c v) => .still (s.takeTrap c v)
  | .error (.trapAt t c v) => .still (t.takeTrap c v)
  | .error (.stall t) => .still t

/-- The step of core a. -/
def State.stepOf (s : State) (a : Nat) : Pick :=
  let n := BitVec.ofNat 22 a
  let ends := (s.core a).xtEnds
  let s := { s.clock a with cur := a }
  let c := s.core a
  if ends then .run (.exchangeWatchdog n) s
  else if c.freeing.isSome then .still (s.releaseMutex a)
  else if c.unwindTo.isSome then .run (.unwind n) s
  else if 0 < c.depth && (s.overBudget a).isSome then .run (.budgetExhausted n) s
  else if s.trapDue a then .run (.deferredTrap n) s
  else if s.inSetup a then .still (s.setupStep a)
  else if s.follow a == .leave then (s.modMe Core.detach).corePick
  else s.corePick

/-- The core that moves when nothing says which: the next after the one that moved last, in agent order; in an exchange phase
the one whose clock is earliest among those of its stand. -/
def State.turn (s : State) : Option Nat :=
  let l := s.cores.filterMap fun e => if s.movable e.1 then some e.1 else none
  match (l.find? fun a => s.cur < a).orElse fun _ => l.head? with
  | none => none
  | some a =>
    if (s.core a).act == .exchange then
      let peers := l.filter fun b => (s.core b).act == .exchange && (s.jobOf b).map (·.clusters) == (s.jobOf a).map (·.clusters)
      some (peers.foldl (fun m b => if field (s.core b).xt 0 16 < field (s.core m).xt 0 16 then b else m) a)
    else some a

/-! ## What engines and barriers do -/

/-- A stream port of core a that can fetch or write. -/
def State.portNext (s : State) (a : Nat) : Option Instr :=
  (List.range 4).findSome? fun i =>
    let p := (s.core a).port i
    if p.fetches then some (.streamFetch (BitVec.ofNat 22 a) (BitVec.ofNat 2 i))
    else if p.writes then some (.streamWrite (BitVec.ofNat 22 a) (BitVec.ofNat 2 i))
    else none

/-- The walk of core a that can start or end. -/
def State.walkNext (s : State) (a : Nat) : Option Instr :=
  match (s.core a).sleep, (s.core a).farReq with
  | .walk, some r =>
    if (s.core a).walked.isSome then none
    else
      match s.walkOf a with
      | some w => if s.walkable a w then some (.walkComplete (BitVec.ofNat 22 a)) else none
      | none => if s.mayWalk r then some (.walkStart (BitVec.ofNat 22 a)) else none
  | _, _ => none

/-- The ramp slot of core a's cluster has begun (spec/16 R456). -/
def State.rampDue (s : State) (a : Nat) : Bool :=
  (s.core a).gated && s.runs a && (s.core a).since.toNat + (s.cluster (clusterOf a)).slot * slotCycles ≤ s.tick.toNat

/-- A sleeping LDF or LDFC whose words are full. -/
def State.fullNow (s : State) (a : Nat) : Bool :=
  match (s.core a).sleep with
  | .full ws => ws.all fun w => s.isFull w
  | _ => false

/-- The barrier group of core a may be released. -/
def State.releaseNow (s : State) (a : Nat) : Bool :=
  (s.core a).arrivedAt && match s.jobOf a with
    | some j => s.releasable j (s.groupOf j a)
    | none => false

/-- A narrowed link of the cluster of core a that is due to have its width again (spec/16 R460). -/
def State.narrowNext (s : State) (a : Nat) : Option Instr :=
  if !isOrdinary a || !(s.core a).atWorkEnd then none
  else (s.hub.narrow.find? fun e => e.1 / 16 == clusterOf a && s.widthDue e.1).map fun e => .linkWidthRestore (BitVec.ofNat 20 e.1)

/-- What happens next at core a beside its own steps. -/
def State.coreNext (s : State) (a : Nat) : Option Instr :=
  let c := s.core a
  let n := BitVec.ofNat 22 a
  if !s.runs a then none
  else if c.active && c.unwindTo.isSome then some (.unwind n)
  else if c.active && c.sleep != .none && 0 < c.depth && (s.overBudget a).isSome then some (.budgetExhausted n)
  else if (c.act == .idle || (c.active && c.sleep != .none)) && s.trapDue a then some (.deferredTrap n)
  else if s.fullNow a then some (.fullWake n)
  else if (s.tileNext a).isSome then s.tileNext a
  else if s.joinExpired a then some (.tileJoinTimeout n)
  else if (s.walkNext a).isSome then s.walkNext a
  else if (s.pushReady a).isSome then some (.pushComplete n)
  else if (s.portNext a).isSome then s.portNext a
  else if isOrdinary a && s.rampDue a then some (.rampSlotBegin (BitVec.ofNat 15 (clusterOf a)))
  else if (s.gangReady a).isSome then some (.gangStart n)
  else if (s.taskReady a).isSome then some (.taskStart n)
  else if s.mayArrive a then some (.coreArrive n)
  else if (s.narrowNext a).isSome then s.narrowNext a
  else if s.releaseNow a then some (.barrierGroupRelease n)
  else none

/-- BSTAT of a bay that is being scrubbed and not tested: a self-test, which sets SCRUB beside FENCED, ends by its own event, and a
retired bay runs none (spec/02 R101). -/
def scrubOnly (st : W64) : Bool := bit st 30 && (!bit st 31 || bit st 29)

/-- What happens next in a cluster. -/
def State.clusterNext (s : State) (c : Nat) : Option Instr :=
  let k := s.cluster c
  let n := BitVec.ofNat 15 c
  match s.copyNext c with
  | some i => some i
  | none =>
    match firstBelow 16 fun b => scrubOnly (vget k.bstat b 0) with
    | some b => some (.scrubEnd 0 (BitVec.ofNat 32 (c * 16 + b)))
    | none =>
      match firstBelow 8 fun i => (k.barrier i).count.toNat ≤ (k.barrier i).arrived with
      | some i => some (.barrierRelease n (BitVec.ofNat 3 i))
      | none => (firstBelow 16 fun m => (k.mutex m).holder.isNone && (k.mutex m).waiters ≠ []).map fun m =>
          .mutexHandoff n (BitVec.ofNat 4 m)

/-- A way conversion goes on. -/
def State.convertNext (s : State) : Option Instr :=
  s.dies.findSome? fun e => e.2.convert.bind fun c =>
    if c.drained then some (.conversionWayDone (BitVec.ofNat 4 e.1))
    else if s.halfMoved e.1 then none else some (.conversionDrained (BitVec.ofNat 4 e.1))

/-! ## What the hub does -/

/-- The next event of a function's rings and interrupts. -/
def State.ringNext (s : State) (f : Nat) : Option Instr :=
  let x := s.func f
  let n := BitVec.ofNat 6 f
  if x.irqPend then some (.completionInterrupt n)
  else if x.flushing.isSome && !x.flush.stopped then some (.flushComplete n)
  else
    match s.nextFlush f with
    | some c => some (if field c 0 8 = 2 then .flushInval n else .flush n)
    | none =>
      if !s.takesRecords f then none
      else if (s.nextKill f).isSome then some (.kill n)
      else if (s.nextRecord f).isSome && x.waiting.isNone && s.hub.plant.accepting then some (.launch n)
      else none

/-- A launch that waits can go on, or its loading. -/
def State.resumeNext (s : State) (f : Nat) : Option Instr :=
  match (s.func f).waiting with
  | some r =>
    if s.hub.plant.accepting && s.takesRecords f then
      match (s.func f).loading with
      | some l =>
        if l.tagging = [] || s.unitsLost l || !s.launchTurn f (bit r 129) then some (.launchResumed (BitVec.ofNat 6 f)) else none
      | none =>
        match s.launchNow f r with
        | .wait => none
        | _ => some (.launchResumed (BitVec.ofNat 6 f))
    else none
  | none => none

/-- The stands of function f are descheduled, whether or not it is paused. -/
def State.switchedOut (s : State) (f : Nat) : Bool :=
  s.vfState f = 2 || (s.vfState f = 3 && s.jobsOf f ≠ [] && (s.jobsOf f).all fun j => j.stand.away)

/-- The turn of function f was the last in its partition, which no stand holds now. -/
def State.turnOver (s : State) (f : Nat) : Bool :=
  s.switchedOut f && !((List.range 64).any fun g => s.partOf g == s.partOf f && (s.func g).loading.isSome)
    && !(s.hub.jobs.any fun j => s.partOf j.fn.toNat == s.partOf f && !j.stand.away)
    && (List.range 64).all fun g => s.partOf g ≠ s.partOf f || !s.switchedOut g || (s.func g).sliceEnd ≤ (s.func f).sliceEnd

/-- The end of a slice of function f, a switch from it that can begin or end, or the end of its reset. -/
def State.switchNext (s : State) (f : Nat) : Option Instr :=
  let n := BitVec.ofNat 6 f
  if s.vfState f = 4 then if s.jobsOf f = [] then some (.vfResetDone n) else none
  else if s.turnOver f then
    let g := (s.nextTurn f).getD f
    if s.vfState g = 2 || s.jobsOf g = [] then some (.switchDone n (BitVec.ofNat 6 g)) else none
  else if (s.func f).ending && s.allHeld f && (s.vfState f = 1 || s.vfState f = 3) then
    (s.nextTurn f).map fun g => .switch n (BitVec.ofNat 6 g)
  else if s.inTurn f && s.sliceTicks f ≠ 0 && s.sliceOver f then some (.sliceEnd n)
  else none

/-- A round of the dissemination barrier that a domain of a job has to make (spec/06 R215). -/
def State.roundNext (s : State) : Option Instr :=
  s.hub.jobs.findSome? fun j => (firstBelow 16 fun d =>
    s.roundsDone j.fn d < s.roundsDue j d && match j.agents.find? fun b => bit (s.maskOf b) d with
      | some b => s.gathered j (s.groupOf j b)
      | none => false).map fun d => .disseminationRound j.fn (BitVec.ofNat 4 d)

/-- A domain of a job that has made no progress for as long as R217 allows (spec/06). -/
def State.stuckNext (s : State) : Option (BitVec 6 × Nat) :=
  s.hub.jobs.findSome? fun j => (firstBelow 16 fun d => s.stuckLong j d && (s.stuckMembers j d).isSome).map fun d => (j.fn, d)

/-- The functions that the hub keeps anything for: those whose entry is not as reset left it. -/
def State.busyFuncs (s : State) : List Nat := (List.range 64).filter fun f => s.func f != Func.reset || (s.region f).isSome

/-- What the hub does next. -/
def State.hubNext (s : State) : Option Instr :=
  if s.messages ≠ [] then some .remoteEventArrival
  else if s.traceNext.isSome then some .traceRecordWrite
  else if s.hub.causeIrqPend then some .causeInterrupt
  else if s.hub.posted ≠ [] then some .windowAtomicAck
  else
    match if s.ringRoom then s.hub.waitRecs else [] with
    | r :: _ => some (.faultInsertRetry (BitVec.ofNat 22 r.req.agent))
    | [] =>
      match firstBelow 64 fun k => bit (s.keySlot k).kslot 62 with
      | some k => some (.purgeDone (BitVec.ofNat 6 k))
      | none =>
        match s.convertNext with
        | some i => some i
        | none =>
          match s.busyFuncs.findSome? fun f => ((s.ringNext f).orElse fun _ => s.resumeNext f).orElse fun _ => s.switchNext f with
          | some i => some i
          | none => s.roundNext.orElse fun _ => s.stuckNext.map fun e => .noProgress e.1 (BitVec.ofNat 4 e.2)

/-- What happens next beside the steps of the cores; none when there is nothing. -/
def State.hardwareNext (s : State) : Option Instr :=
  match s.flumeNext with
  | some i => some i
  | none =>
    match s.clusters.findSome? fun e => s.clusterNext e.1 with
    | some i => some i
    | none =>
      match s.cores.findSome? fun e => s.coreNext e.1 with
      | some i => some i
      | none => s.hubNext

/-! ## Quiescence (spec/06 R213, R217) -/

/-- A core in an exchange routine that has not arrived, when nothing moves any more. -/
def State.lateNext (s : State) : Option Nat :=
  (s.cores.find? fun e => e.2.act == .exchange && e.2.sleep != .barrier && s.runs e.1).map (·.1)

/-- A core asleep in a call uses up its budget (spec/15 R421). -/
def Core.spends (c : Core) : Bool := c.active && c.sleep != .none && 0 < c.depth

/-- Nothing can happen now: time passes until a ramp slot, a join's limit, the limit of R217 or a budget, or a watchdog finds what is
stuck. -/
def State.rest (s : State) : Pick :=
  if (s.cores.any fun e => e.2.gated || e.2.join.isSome || e.2.spends) || (s.hub.jobs.any fun j => j.stuck ≠ []) then .still s
  else
    match s.lateNext with
    | some a => .run (.exchangeWatchdog (BitVec.ofNat 22 a)) s
    | none => .still s

/-- One cycle passes: the tick, the budgets of the cores asleep in a call, and what the sync tree watches for (log entry 4). -/
def State.cycle (s : State) : State :=
  State.noteStuck
    { s with
      tick := s.tick + 1
      cores := s.cores.map fun e => if e.2.spends then (e.1, { e.2 with budget := e.2.budget.map (· + 1) }) else e }

/-! ## The next step -/

/-- What happens when nothing says what: cores and hardware take turns. -/
def State.freePick (s : State) : Pick :=
  match if bit s.tick 0 then s.turn else none with
  | some a => s.stepOf a
  | none =>
    match s.hardwareNext with
    | some i => .run i s
    | none =>
      match s.turn with
      | some a => s.stepOf a
      | none => s.rest

/-- What happens next: the first event of the agenda, the first core of the schedule, or what State.freePick says. A module
that is off takes nothing but a cold start (spec/00 R7). -/
def State.pick (s : State) : Pick :=
  if s.hub.plant.powerOff then
    match s.agenda with
    | .coldStart :: rest => .run .coldStart { s with agenda := rest }
    | _ => .off
  else
    let s := s.cycle
    match s.agenda with
    | i :: rest => .run i { s with agenda := rest }
    | [] =>
      match s.sched with
      | a :: rest =>
        let s := { s with sched := rest }
        if s.movable a then s.stepOf a else .still s
      | [] => s.freePick

end Sys2Proof.Machine
end

