-- ==== Sys2Proof/Machine/Step.lean ====
section
/-! DEFINITION. One step of the module, and where the host's interface places an instruction. -/

namespace Sys2Proof.Machine

/-- One step: what State.pick says happens next. A module that has switched itself off stays off (spec/00 R7). -/
def step (s : State) : Host.Outcome State Fault Refusal :=
  match s.pick with
  | .run i t => exec i t
  | .still t => .next t
  | .off => .fault .poweredOff

/-- The instruction whose bits are w, stored where the next step fetches: placed by State.placeWord. -/
def State.withFetchWord (s : State) (nbits w : Nat) : State := s.placeWord nbits w

end Sys2Proof.Machine
end

