-- ==== Sys2Proof/Laws/State.lean ====
section
/-! SUPPORT. What every update of the state and of a core leaves: one lemma for each field. -/

namespace Sys2Proof.Machine

/-! ## The state -/

section
variable (s : State) (a : Nat) (c : Core)

@[simp] theorem State.setCore_clusters : (s.setCore a c).clusters = s.clusters := rfl
@[simp] theorem State.setCore_dies : (s.setCore a c).dies = s.dies := rfl
@[simp] theorem State.setCore_hub : (s.setCore a c).hub = s.hub := rfl
@[simp] theorem State.setCore_mem : (s.setCore a c).mem = s.mem := rfl
@[simp] theorem State.setCore_tags : (s.setCore a c).tags = s.tags := rfl
@[simp] theorem State.setCore_full : (s.setCore a c).full = s.full := rfl
@[simp] theorem State.setCore_badWords : (s.setCore a c).badWords = s.badWords := rfl
@[simp] theorem State.setCore_badTags : (s.setCore a c).badTags = s.badTags := rfl
@[simp] theorem State.setCore_softWords : (s.setCore a c).softWords = s.softWords := rfl
@[simp] theorem State.setCore_softTags : (s.setCore a c).softTags = s.softTags := rfl
@[simp] theorem State.setCore_keyed : (s.setCore a c).keyed = s.keyed := rfl
@[simp] theorem State.setCore_flits : (s.setCore a c).flits = s.flits := rfl
@[simp] theorem State.setCore_messages : (s.setCore a c).messages = s.messages := rfl
@[simp] theorem State.setCore_tick : (s.setCore a c).tick = s.tick := rfl
@[simp] theorem State.setCore_cur : (s.setCore a c).cur = s.cur := rfl
@[simp] theorem State.setCore_sched : (s.setCore a c).sched = s.sched := rfl
@[simp] theorem State.setCore_agenda : (s.setCore a c).agenda = s.agenda := rfl
@[simp] theorem State.setCore_free : (s.setCore a c).free = s.free := rfl

end

section
variable (s : State) (a : Nat) (f : Core → Core)

@[simp] theorem State.modCore_clusters : (s.modCore a f).clusters = s.clusters := rfl
@[simp] theorem State.modCore_dies : (s.modCore a f).dies = s.dies := rfl
@[simp] theorem State.modCore_hub : (s.modCore a f).hub = s.hub := rfl
@[simp] theorem State.modCore_mem : (s.modCore a f).mem = s.mem := rfl
@[simp] theorem State.modCore_tags : (s.modCore a f).tags = s.tags := rfl
@[simp] theorem State.modCore_full : (s.modCore a f).full = s.full := rfl
@[simp] theorem State.modCore_badWords : (s.modCore a f).badWords = s.badWords := rfl
@[simp] theorem State.modCore_badTags : (s.modCore a f).badTags = s.badTags := rfl
@[simp] theorem State.modCore_softWords : (s.modCore a f).softWords = s.softWords := rfl
@[simp] theorem State.modCore_softTags : (s.modCore a f).softTags = s.softTags := rfl
@[simp] theorem State.modCore_keyed : (s.modCore a f).keyed = s.keyed := rfl
@[simp] theorem State.modCore_flits : (s.modCore a f).flits = s.flits := rfl
@[simp] theorem State.modCore_messages : (s.modCore a f).messages = s.messages := rfl
@[simp] theorem State.modCore_tick : (s.modCore a f).tick = s.tick := rfl
@[simp] theorem State.modCore_cur : (s.modCore a f).cur = s.cur := rfl
@[simp] theorem State.modCore_sched : (s.modCore a f).sched = s.sched := rfl
@[simp] theorem State.modCore_agenda : (s.modCore a f).agenda = s.agenda := rfl
@[simp] theorem State.modCore_free : (s.modCore a f).free = s.free := rfl

end

section
variable (s : State) (c : Core)

@[simp] theorem State.setMe_clusters : (s.setMe c).clusters = s.clusters := rfl
@[simp] theorem State.setMe_dies : (s.setMe c).dies = s.dies := rfl
@[simp] theorem State.setMe_hub : (s.setMe c).hub = s.hub := rfl
@[simp] theorem State.setMe_mem : (s.setMe c).mem = s.mem := rfl
@[simp] theorem State.setMe_tags : (s.setMe c).tags = s.tags := rfl
@[simp] theorem State.setMe_full : (s.setMe c).full = s.full := rfl
@[simp] theorem State.setMe_badWords : (s.setMe c).badWords = s.badWords := rfl
@[simp] theorem State.setMe_badTags : (s.setMe c).badTags = s.badTags := rfl
@[simp] theorem State.setMe_softWords : (s.setMe c).softWords = s.softWords := rfl
@[simp] theorem State.setMe_softTags : (s.setMe c).softTags = s.softTags := rfl
@[simp] theorem State.setMe_keyed : (s.setMe c).keyed = s.keyed := rfl
@[simp] theorem State.setMe_flits : (s.setMe c).flits = s.flits := rfl
@[simp] theorem State.setMe_messages : (s.setMe c).messages = s.messages := rfl
@[simp] theorem State.setMe_tick : (s.setMe c).tick = s.tick := rfl
@[simp] theorem State.setMe_cur : (s.setMe c).cur = s.cur := rfl
@[simp] theorem State.setMe_sched : (s.setMe c).sched = s.sched := rfl
@[simp] theorem State.setMe_agenda : (s.setMe c).agenda = s.agenda := rfl
@[simp] theorem State.setMe_free : (s.setMe c).free = s.free := rfl

end

section
variable (s : State) (f : Core → Core)

@[simp] theorem State.modMe_clusters : (s.modMe f).clusters = s.clusters := rfl
@[simp] theorem State.modMe_dies : (s.modMe f).dies = s.dies := rfl
@[simp] theorem State.modMe_hub : (s.modMe f).hub = s.hub := rfl
@[simp] theorem State.modMe_mem : (s.modMe f).mem = s.mem := rfl
@[simp] theorem State.modMe_tags : (s.modMe f).tags = s.tags := rfl
@[simp] theorem State.modMe_full : (s.modMe f).full = s.full := rfl
@[simp] theorem State.modMe_badWords : (s.modMe f).badWords = s.badWords := rfl
@[simp] theorem State.modMe_badTags : (s.modMe f).badTags = s.badTags := rfl
@[simp] theorem State.modMe_softWords : (s.modMe f).softWords = s.softWords := rfl
@[simp] theorem State.modMe_softTags : (s.modMe f).softTags = s.softTags := rfl
@[simp] theorem State.modMe_keyed : (s.modMe f).keyed = s.keyed := rfl
@[simp] theorem State.modMe_flits : (s.modMe f).flits = s.flits := rfl
@[simp] theorem State.modMe_messages : (s.modMe f).messages = s.messages := rfl
@[simp] theorem State.modMe_tick : (s.modMe f).tick = s.tick := rfl
@[simp] theorem State.modMe_cur : (s.modMe f).cur = s.cur := rfl
@[simp] theorem State.modMe_sched : (s.modMe f).sched = s.sched := rfl
@[simp] theorem State.modMe_agenda : (s.modMe f).agenda = s.agenda := rfl
@[simp] theorem State.modMe_free : (s.modMe f).free = s.free := rfl

end

section
variable (s : State) (c : Nat) (x : Cluster)

@[simp] theorem State.setCluster_cores : (s.setCluster c x).cores = s.cores := rfl
@[simp] theorem State.setCluster_dies : (s.setCluster c x).dies = s.dies := rfl
@[simp] theorem State.setCluster_hub : (s.setCluster c x).hub = s.hub := rfl
@[simp] theorem State.setCluster_mem : (s.setCluster c x).mem = s.mem := rfl
@[simp] theorem State.setCluster_tags : (s.setCluster c x).tags = s.tags := rfl
@[simp] theorem State.setCluster_full : (s.setCluster c x).full = s.full := rfl
@[simp] theorem State.setCluster_badWords : (s.setCluster c x).badWords = s.badWords := rfl
@[simp] theorem State.setCluster_badTags : (s.setCluster c x).badTags = s.badTags := rfl
@[simp] theorem State.setCluster_softWords : (s.setCluster c x).softWords = s.softWords := rfl
@[simp] theorem State.setCluster_softTags : (s.setCluster c x).softTags = s.softTags := rfl
@[simp] theorem State.setCluster_keyed : (s.setCluster c x).keyed = s.keyed := rfl
@[simp] theorem State.setCluster_flits : (s.setCluster c x).flits = s.flits := rfl
@[simp] theorem State.setCluster_messages : (s.setCluster c x).messages = s.messages := rfl
@[simp] theorem State.setCluster_tick : (s.setCluster c x).tick = s.tick := rfl
@[simp] theorem State.setCluster_cur : (s.setCluster c x).cur = s.cur := rfl
@[simp] theorem State.setCluster_sched : (s.setCluster c x).sched = s.sched := rfl
@[simp] theorem State.setCluster_agenda : (s.setCluster c x).agenda = s.agenda := rfl
@[simp] theorem State.setCluster_free : (s.setCluster c x).free = s.free := rfl

end

section
variable (s : State) (c : Nat) (f : Cluster → Cluster)

@[simp] theorem State.modCluster_cores : (s.modCluster c f).cores = s.cores := rfl
@[simp] theorem State.modCluster_dies : (s.modCluster c f).dies = s.dies := rfl
@[simp] theorem State.modCluster_hub : (s.modCluster c f).hub = s.hub := rfl
@[simp] theorem State.modCluster_mem : (s.modCluster c f).mem = s.mem := rfl
@[simp] theorem State.modCluster_tags : (s.modCluster c f).tags = s.tags := rfl
@[simp] theorem State.modCluster_full : (s.modCluster c f).full = s.full := rfl
@[simp] theorem State.modCluster_badWords : (s.modCluster c f).badWords = s.badWords := rfl
@[simp] theorem State.modCluster_badTags : (s.modCluster c f).badTags = s.badTags := rfl
@[simp] theorem State.modCluster_softWords : (s.modCluster c f).softWords = s.softWords := rfl
@[simp] theorem State.modCluster_softTags : (s.modCluster c f).softTags = s.softTags := rfl
@[simp] theorem State.modCluster_keyed : (s.modCluster c f).keyed = s.keyed := rfl
@[simp] theorem State.modCluster_flits : (s.modCluster c f).flits = s.flits := rfl
@[simp] theorem State.modCluster_messages : (s.modCluster c f).messages = s.messages := rfl
@[simp] theorem State.modCluster_tick : (s.modCluster c f).tick = s.tick := rfl
@[simp] theorem State.modCluster_cur : (s.modCluster c f).cur = s.cur := rfl
@[simp] theorem State.modCluster_sched : (s.modCluster c f).sched = s.sched := rfl
@[simp] theorem State.modCluster_agenda : (s.modCluster c f).agenda = s.agenda := rfl
@[simp] theorem State.modCluster_free : (s.modCluster c f).free = s.free := rfl

end

section
variable (s : State) (d : Nat) (x : Die)

@[simp] theorem State.setDie_cores : (s.setDie d x).cores = s.cores := rfl
@[simp] theorem State.setDie_clusters : (s.setDie d x).clusters = s.clusters := rfl
@[simp] theorem State.setDie_hub : (s.setDie d x).hub = s.hub := rfl
@[simp] theorem State.setDie_mem : (s.setDie d x).mem = s.mem := rfl
@[simp] theorem State.setDie_tags : (s.setDie d x).tags = s.tags := rfl
@[simp] theorem State.setDie_full : (s.setDie d x).full = s.full := rfl
@[simp] theorem State.setDie_badWords : (s.setDie d x).badWords = s.badWords := rfl
@[simp] theorem State.setDie_badTags : (s.setDie d x).badTags = s.badTags := rfl
@[simp] theorem State.setDie_softWords : (s.setDie d x).softWords = s.softWords := rfl
@[simp] theorem State.setDie_softTags : (s.setDie d x).softTags = s.softTags := rfl
@[simp] theorem State.setDie_keyed : (s.setDie d x).keyed = s.keyed := rfl
@[simp] theorem State.setDie_flits : (s.setDie d x).flits = s.flits := rfl
@[simp] theorem State.setDie_messages : (s.setDie d x).messages = s.messages := rfl
@[simp] theorem State.setDie_tick : (s.setDie d x).tick = s.tick := rfl
@[simp] theorem State.setDie_cur : (s.setDie d x).cur = s.cur := rfl
@[simp] theorem State.setDie_sched : (s.setDie d x).sched = s.sched := rfl
@[simp] theorem State.setDie_agenda : (s.setDie d x).agenda = s.agenda := rfl
@[simp] theorem State.setDie_free : (s.setDie d x).free = s.free := rfl

end

section
variable (s : State) (d : Nat) (f : Die → Die)

@[simp] theorem State.modDie_cores : (s.modDie d f).cores = s.cores := rfl
@[simp] theorem State.modDie_clusters : (s.modDie d f).clusters = s.clusters := rfl
@[simp] theorem State.modDie_hub : (s.modDie d f).hub = s.hub := rfl
@[simp] theorem State.modDie_mem : (s.modDie d f).mem = s.mem := rfl
@[simp] theorem State.modDie_tags : (s.modDie d f).tags = s.tags := rfl
@[simp] theorem State.modDie_full : (s.modDie d f).full = s.full := rfl
@[simp] theorem State.modDie_badWords : (s.modDie d f).badWords = s.badWords := rfl
@[simp] theorem State.modDie_badTags : (s.modDie d f).badTags = s.badTags := rfl
@[simp] theorem State.modDie_softWords : (s.modDie d f).softWords = s.softWords := rfl
@[simp] theorem State.modDie_softTags : (s.modDie d f).softTags = s.softTags := rfl
@[simp] theorem State.modDie_keyed : (s.modDie d f).keyed = s.keyed := rfl
@[simp] theorem State.modDie_flits : (s.modDie d f).flits = s.flits := rfl
@[simp] theorem State.modDie_messages : (s.modDie d f).messages = s.messages := rfl
@[simp] theorem State.modDie_tick : (s.modDie d f).tick = s.tick := rfl
@[simp] theorem State.modDie_cur : (s.modDie d f).cur = s.cur := rfl
@[simp] theorem State.modDie_sched : (s.modDie d f).sched = s.sched := rfl
@[simp] theorem State.modDie_agenda : (s.modDie d f).agenda = s.agenda := rfl
@[simp] theorem State.modDie_free : (s.modDie d f).free = s.free := rfl

end

section
variable (s : State) (f : Hub → Hub)

@[simp] theorem State.modHub_cores : (s.modHub f).cores = s.cores := rfl
@[simp] theorem State.modHub_clusters : (s.modHub f).clusters = s.clusters := rfl
@[simp] theorem State.modHub_dies : (s.modHub f).dies = s.dies := rfl
@[simp] theorem State.modHub_mem : (s.modHub f).mem = s.mem := rfl
@[simp] theorem State.modHub_tags : (s.modHub f).tags = s.tags := rfl
@[simp] theorem State.modHub_full : (s.modHub f).full = s.full := rfl
@[simp] theorem State.modHub_badWords : (s.modHub f).badWords = s.badWords := rfl
@[simp] theorem State.modHub_badTags : (s.modHub f).badTags = s.badTags := rfl
@[simp] theorem State.modHub_softWords : (s.modHub f).softWords = s.softWords := rfl
@[simp] theorem State.modHub_softTags : (s.modHub f).softTags = s.softTags := rfl
@[simp] theorem State.modHub_keyed : (s.modHub f).keyed = s.keyed := rfl
@[simp] theorem State.modHub_flits : (s.modHub f).flits = s.flits := rfl
@[simp] theorem State.modHub_messages : (s.modHub f).messages = s.messages := rfl
@[simp] theorem State.modHub_tick : (s.modHub f).tick = s.tick := rfl
@[simp] theorem State.modHub_cur : (s.modHub f).cur = s.cur := rfl
@[simp] theorem State.modHub_sched : (s.modHub f).sched = s.sched := rfl
@[simp] theorem State.modHub_agenda : (s.modHub f).agenda = s.agenda := rfl
@[simp] theorem State.modHub_free : (s.modHub f).free = s.free := rfl

end

section
variable (s : State) (f : Nat) (g : Func → Func)

@[simp] theorem State.modFunc_cores : (s.modFunc f g).cores = s.cores := rfl
@[simp] theorem State.modFunc_clusters : (s.modFunc f g).clusters = s.clusters := rfl
@[simp] theorem State.modFunc_dies : (s.modFunc f g).dies = s.dies := rfl
@[simp] theorem State.modFunc_mem : (s.modFunc f g).mem = s.mem := rfl
@[simp] theorem State.modFunc_tags : (s.modFunc f g).tags = s.tags := rfl
@[simp] theorem State.modFunc_full : (s.modFunc f g).full = s.full := rfl
@[simp] theorem State.modFunc_badWords : (s.modFunc f g).badWords = s.badWords := rfl
@[simp] theorem State.modFunc_badTags : (s.modFunc f g).badTags = s.badTags := rfl
@[simp] theorem State.modFunc_softWords : (s.modFunc f g).softWords = s.softWords := rfl
@[simp] theorem State.modFunc_softTags : (s.modFunc f g).softTags = s.softTags := rfl
@[simp] theorem State.modFunc_keyed : (s.modFunc f g).keyed = s.keyed := rfl
@[simp] theorem State.modFunc_flits : (s.modFunc f g).flits = s.flits := rfl
@[simp] theorem State.modFunc_messages : (s.modFunc f g).messages = s.messages := rfl
@[simp] theorem State.modFunc_tick : (s.modFunc f g).tick = s.tick := rfl
@[simp] theorem State.modFunc_cur : (s.modFunc f g).cur = s.cur := rfl
@[simp] theorem State.modFunc_sched : (s.modFunc f g).sched = s.sched := rfl
@[simp] theorem State.modFunc_agenda : (s.modFunc f g).agenda = s.agenda := rfl
@[simp] theorem State.modFunc_free : (s.modFunc f g).free = s.free := rfl

end

section
variable (s : State) (k : Nat) (b : Byte)

@[simp] theorem State.setByte_cores : (s.setByte k b).cores = s.cores := rfl
@[simp] theorem State.setByte_clusters : (s.setByte k b).clusters = s.clusters := rfl
@[simp] theorem State.setByte_dies : (s.setByte k b).dies = s.dies := rfl
@[simp] theorem State.setByte_hub : (s.setByte k b).hub = s.hub := rfl
@[simp] theorem State.setByte_tags : (s.setByte k b).tags = s.tags := rfl
@[simp] theorem State.setByte_full : (s.setByte k b).full = s.full := rfl
@[simp] theorem State.setByte_badWords : (s.setByte k b).badWords = s.badWords := rfl
@[simp] theorem State.setByte_badTags : (s.setByte k b).badTags = s.badTags := rfl
@[simp] theorem State.setByte_softWords : (s.setByte k b).softWords = s.softWords := rfl
@[simp] theorem State.setByte_softTags : (s.setByte k b).softTags = s.softTags := rfl
@[simp] theorem State.setByte_keyed : (s.setByte k b).keyed = s.keyed := rfl
@[simp] theorem State.setByte_flits : (s.setByte k b).flits = s.flits := rfl
@[simp] theorem State.setByte_messages : (s.setByte k b).messages = s.messages := rfl
@[simp] theorem State.setByte_tick : (s.setByte k b).tick = s.tick := rfl
@[simp] theorem State.setByte_cur : (s.setByte k b).cur = s.cur := rfl
@[simp] theorem State.setByte_sched : (s.setByte k b).sched = s.sched := rfl
@[simp] theorem State.setByte_agenda : (s.setByte k b).agenda = s.agenda := rfl
@[simp] theorem State.setByte_free : (s.setByte k b).free = s.free := rfl

end

section
variable (s : State) (k n : Nat)

@[simp] theorem State.zero_cores : (s.zero k n).cores = s.cores := rfl
@[simp] theorem State.zero_clusters : (s.zero k n).clusters = s.clusters := rfl
@[simp] theorem State.zero_dies : (s.zero k n).dies = s.dies := rfl
@[simp] theorem State.zero_hub : (s.zero k n).hub = s.hub := rfl
@[simp] theorem State.zero_tags : (s.zero k n).tags = s.tags := rfl
@[simp] theorem State.zero_full : (s.zero k n).full = s.full := rfl
@[simp] theorem State.zero_badWords : (s.zero k n).badWords = s.badWords := rfl
@[simp] theorem State.zero_badTags : (s.zero k n).badTags = s.badTags := rfl
@[simp] theorem State.zero_softWords : (s.zero k n).softWords = s.softWords := rfl
@[simp] theorem State.zero_softTags : (s.zero k n).softTags = s.softTags := rfl
@[simp] theorem State.zero_keyed : (s.zero k n).keyed = s.keyed := rfl
@[simp] theorem State.zero_flits : (s.zero k n).flits = s.flits := rfl
@[simp] theorem State.zero_messages : (s.zero k n).messages = s.messages := rfl
@[simp] theorem State.zero_tick : (s.zero k n).tick = s.tick := rfl
@[simp] theorem State.zero_cur : (s.zero k n).cur = s.cur := rfl
@[simp] theorem State.zero_sched : (s.zero k n).sched = s.sched := rfl
@[simp] theorem State.zero_agenda : (s.zero k n).agenda = s.agenda := rfl
@[simp] theorem State.zero_free : (s.zero k n).free = s.free := rfl

end

section
variable (s : State) (g : Nat) (t : BitVec 4)

@[simp] theorem State.setTag_cores : (s.setTag g t).cores = s.cores := rfl
@[simp] theorem State.setTag_clusters : (s.setTag g t).clusters = s.clusters := rfl
@[simp] theorem State.setTag_dies : (s.setTag g t).dies = s.dies := rfl
@[simp] theorem State.setTag_hub : (s.setTag g t).hub = s.hub := rfl
@[simp] theorem State.setTag_mem : (s.setTag g t).mem = s.mem := rfl
@[simp] theorem State.setTag_full : (s.setTag g t).full = s.full := rfl
@[simp] theorem State.setTag_badWords : (s.setTag g t).badWords = s.badWords := rfl
@[simp] theorem State.setTag_badTags : (s.setTag g t).badTags = s.badTags := rfl
@[simp] theorem State.setTag_softWords : (s.setTag g t).softWords = s.softWords := rfl
@[simp] theorem State.setTag_softTags : (s.setTag g t).softTags = s.softTags := rfl
@[simp] theorem State.setTag_keyed : (s.setTag g t).keyed = s.keyed := rfl
@[simp] theorem State.setTag_flits : (s.setTag g t).flits = s.flits := rfl
@[simp] theorem State.setTag_messages : (s.setTag g t).messages = s.messages := rfl
@[simp] theorem State.setTag_tick : (s.setTag g t).tick = s.tick := rfl
@[simp] theorem State.setTag_cur : (s.setTag g t).cur = s.cur := rfl
@[simp] theorem State.setTag_sched : (s.setTag g t).sched = s.sched := rfl
@[simp] theorem State.setTag_agenda : (s.setTag g t).agenda = s.agenda := rfl
@[simp] theorem State.setTag_free : (s.setTag g t).free = s.free := rfl

end

section
variable (s : State) (g n : Nat)

@[simp] theorem State.clearTags_cores : (s.clearTags g n).cores = s.cores := rfl
@[simp] theorem State.clearTags_clusters : (s.clearTags g n).clusters = s.clusters := rfl
@[simp] theorem State.clearTags_dies : (s.clearTags g n).dies = s.dies := rfl
@[simp] theorem State.clearTags_hub : (s.clearTags g n).hub = s.hub := rfl
@[simp] theorem State.clearTags_mem : (s.clearTags g n).mem = s.mem := rfl
@[simp] theorem State.clearTags_full : (s.clearTags g n).full = s.full := rfl
@[simp] theorem State.clearTags_badWords : (s.clearTags g n).badWords = s.badWords := rfl
@[simp] theorem State.clearTags_badTags : (s.clearTags g n).badTags = s.badTags := rfl
@[simp] theorem State.clearTags_softWords : (s.clearTags g n).softWords = s.softWords := rfl
@[simp] theorem State.clearTags_softTags : (s.clearTags g n).softTags = s.softTags := rfl
@[simp] theorem State.clearTags_keyed : (s.clearTags g n).keyed = s.keyed := rfl
@[simp] theorem State.clearTags_flits : (s.clearTags g n).flits = s.flits := rfl
@[simp] theorem State.clearTags_messages : (s.clearTags g n).messages = s.messages := rfl
@[simp] theorem State.clearTags_tick : (s.clearTags g n).tick = s.tick := rfl
@[simp] theorem State.clearTags_cur : (s.clearTags g n).cur = s.cur := rfl
@[simp] theorem State.clearTags_sched : (s.clearTags g n).sched = s.sched := rfl
@[simp] theorem State.clearTags_agenda : (s.clearTags g n).agenda = s.agenda := rfl
@[simp] theorem State.clearTags_free : (s.clearTags g n).free = s.free := rfl

end

section
variable (s : State) (w : Nat)

@[simp] theorem State.setFull_cores : (s.setFull w).cores = s.cores := rfl
@[simp] theorem State.setFull_clusters : (s.setFull w).clusters = s.clusters := rfl
@[simp] theorem State.setFull_dies : (s.setFull w).dies = s.dies := rfl
@[simp] theorem State.setFull_hub : (s.setFull w).hub = s.hub := rfl
@[simp] theorem State.setFull_mem : (s.setFull w).mem = s.mem := rfl
@[simp] theorem State.setFull_tags : (s.setFull w).tags = s.tags := rfl
@[simp] theorem State.setFull_badWords : (s.setFull w).badWords = s.badWords := rfl
@[simp] theorem State.setFull_badTags : (s.setFull w).badTags = s.badTags := rfl
@[simp] theorem State.setFull_softWords : (s.setFull w).softWords = s.softWords := rfl
@[simp] theorem State.setFull_softTags : (s.setFull w).softTags = s.softTags := rfl
@[simp] theorem State.setFull_keyed : (s.setFull w).keyed = s.keyed := rfl
@[simp] theorem State.setFull_flits : (s.setFull w).flits = s.flits := rfl
@[simp] theorem State.setFull_messages : (s.setFull w).messages = s.messages := rfl
@[simp] theorem State.setFull_tick : (s.setFull w).tick = s.tick := rfl
@[simp] theorem State.setFull_cur : (s.setFull w).cur = s.cur := rfl
@[simp] theorem State.setFull_sched : (s.setFull w).sched = s.sched := rfl
@[simp] theorem State.setFull_agenda : (s.setFull w).agenda = s.agenda := rfl
@[simp] theorem State.setFull_free : (s.setFull w).free = s.free := rfl

end

section
variable (s : State) (w : Nat)

@[simp] theorem State.setEmpty_cores : (s.setEmpty w).cores = s.cores := rfl
@[simp] theorem State.setEmpty_clusters : (s.setEmpty w).clusters = s.clusters := rfl
@[simp] theorem State.setEmpty_dies : (s.setEmpty w).dies = s.dies := rfl
@[simp] theorem State.setEmpty_hub : (s.setEmpty w).hub = s.hub := rfl
@[simp] theorem State.setEmpty_mem : (s.setEmpty w).mem = s.mem := rfl
@[simp] theorem State.setEmpty_tags : (s.setEmpty w).tags = s.tags := rfl
@[simp] theorem State.setEmpty_badWords : (s.setEmpty w).badWords = s.badWords := rfl
@[simp] theorem State.setEmpty_badTags : (s.setEmpty w).badTags = s.badTags := rfl
@[simp] theorem State.setEmpty_softWords : (s.setEmpty w).softWords = s.softWords := rfl
@[simp] theorem State.setEmpty_softTags : (s.setEmpty w).softTags = s.softTags := rfl
@[simp] theorem State.setEmpty_keyed : (s.setEmpty w).keyed = s.keyed := rfl
@[simp] theorem State.setEmpty_flits : (s.setEmpty w).flits = s.flits := rfl
@[simp] theorem State.setEmpty_messages : (s.setEmpty w).messages = s.messages := rfl
@[simp] theorem State.setEmpty_tick : (s.setEmpty w).tick = s.tick := rfl
@[simp] theorem State.setEmpty_cur : (s.setEmpty w).cur = s.cur := rfl
@[simp] theorem State.setEmpty_sched : (s.setEmpty w).sched = s.sched := rfl
@[simp] theorem State.setEmpty_agenda : (s.setEmpty w).agenda = s.agenda := rfl
@[simp] theorem State.setEmpty_free : (s.setEmpty w).free = s.free := rfl

end

section
variable (s : State) (w n : Nat)

@[simp] theorem State.emptyWords_cores : (s.emptyWords w n).cores = s.cores := rfl
@[simp] theorem State.emptyWords_clusters : (s.emptyWords w n).clusters = s.clusters := rfl
@[simp] theorem State.emptyWords_dies : (s.emptyWords w n).dies = s.dies := rfl
@[simp] theorem State.emptyWords_hub : (s.emptyWords w n).hub = s.hub := rfl
@[simp] theorem State.emptyWords_mem : (s.emptyWords w n).mem = s.mem := rfl
@[simp] theorem State.emptyWords_tags : (s.emptyWords w n).tags = s.tags := rfl
@[simp] theorem State.emptyWords_badWords : (s.emptyWords w n).badWords = s.badWords := rfl
@[simp] theorem State.emptyWords_badTags : (s.emptyWords w n).badTags = s.badTags := rfl
@[simp] theorem State.emptyWords_softWords : (s.emptyWords w n).softWords = s.softWords := rfl
@[simp] theorem State.emptyWords_softTags : (s.emptyWords w n).softTags = s.softTags := rfl
@[simp] theorem State.emptyWords_keyed : (s.emptyWords w n).keyed = s.keyed := rfl
@[simp] theorem State.emptyWords_flits : (s.emptyWords w n).flits = s.flits := rfl
@[simp] theorem State.emptyWords_messages : (s.emptyWords w n).messages = s.messages := rfl
@[simp] theorem State.emptyWords_tick : (s.emptyWords w n).tick = s.tick := rfl
@[simp] theorem State.emptyWords_cur : (s.emptyWords w n).cur = s.cur := rfl
@[simp] theorem State.emptyWords_sched : (s.emptyWords w n).sched = s.sched := rfl
@[simp] theorem State.emptyWords_agenda : (s.emptyWords w n).agenda = s.agenda := rfl
@[simp] theorem State.emptyWords_free : (s.emptyWords w n).free = s.free := rfl

end

section
variable (s : State) (k n mask : Nat)

@[simp] theorem State.cleanWords_cores : (s.cleanWords k n mask).cores = s.cores := rfl
@[simp] theorem State.cleanWords_clusters : (s.cleanWords k n mask).clusters = s.clusters := rfl
@[simp] theorem State.cleanWords_dies : (s.cleanWords k n mask).dies = s.dies := rfl
@[simp] theorem State.cleanWords_hub : (s.cleanWords k n mask).hub = s.hub := rfl
@[simp] theorem State.cleanWords_mem : (s.cleanWords k n mask).mem = s.mem := rfl
@[simp] theorem State.cleanWords_tags : (s.cleanWords k n mask).tags = s.tags := rfl
@[simp] theorem State.cleanWords_full : (s.cleanWords k n mask).full = s.full := rfl
@[simp] theorem State.cleanWords_badTags : (s.cleanWords k n mask).badTags = s.badTags := rfl
@[simp] theorem State.cleanWords_softTags : (s.cleanWords k n mask).softTags = s.softTags := rfl
@[simp] theorem State.cleanWords_keyed : (s.cleanWords k n mask).keyed = s.keyed := rfl
@[simp] theorem State.cleanWords_flits : (s.cleanWords k n mask).flits = s.flits := rfl
@[simp] theorem State.cleanWords_messages : (s.cleanWords k n mask).messages = s.messages := rfl
@[simp] theorem State.cleanWords_tick : (s.cleanWords k n mask).tick = s.tick := rfl
@[simp] theorem State.cleanWords_cur : (s.cleanWords k n mask).cur = s.cur := rfl
@[simp] theorem State.cleanWords_sched : (s.cleanWords k n mask).sched = s.sched := rfl
@[simp] theorem State.cleanWords_agenda : (s.cleanWords k n mask).agenda = s.agenda := rfl
@[simp] theorem State.cleanWords_free : (s.cleanWords k n mask).free = s.free := rfl

end

section
variable (s : State) (k n : Nat)

@[simp] theorem State.heal_cores : (s.heal k n).cores = s.cores := rfl
@[simp] theorem State.heal_clusters : (s.heal k n).clusters = s.clusters := rfl
@[simp] theorem State.heal_dies : (s.heal k n).dies = s.dies := rfl
@[simp] theorem State.heal_hub : (s.heal k n).hub = s.hub := rfl
@[simp] theorem State.heal_mem : (s.heal k n).mem = s.mem := rfl
@[simp] theorem State.heal_tags : (s.heal k n).tags = s.tags := rfl
@[simp] theorem State.heal_full : (s.heal k n).full = s.full := rfl
@[simp] theorem State.heal_keyed : (s.heal k n).keyed = s.keyed := rfl
@[simp] theorem State.heal_flits : (s.heal k n).flits = s.flits := rfl
@[simp] theorem State.heal_messages : (s.heal k n).messages = s.messages := rfl
@[simp] theorem State.heal_tick : (s.heal k n).tick = s.tick := rfl
@[simp] theorem State.heal_cur : (s.heal k n).cur = s.cur := rfl
@[simp] theorem State.heal_sched : (s.heal k n).sched = s.sched := rfl
@[simp] theorem State.heal_agenda : (s.heal k n).agenda = s.agenda := rfl
@[simp] theorem State.heal_free : (s.heal k n).free = s.free := rfl

end

@[simp] theorem State.write_cores : ∀ (n k x : Nat) (s : State), (s.write k n x).cores = s.cores
  | 0, _, _, _ => rfl
  | n + 1, k, x, _ => State.write_cores n (k + 1) (x / 256) _

@[simp] theorem State.write_clusters : ∀ (n k x : Nat) (s : State), (s.write k n x).clusters = s.clusters
  | 0, _, _, _ => rfl
  | n + 1, k, x, _ => State.write_clusters n (k + 1) (x / 256) _

@[simp] theorem State.write_dies : ∀ (n k x : Nat) (s : State), (s.write k n x).dies = s.dies
  | 0, _, _, _ => rfl
  | n + 1, k, x, _ => State.write_dies n (k + 1) (x / 256) _

@[simp] theorem State.write_hub : ∀ (n k x : Nat) (s : State), (s.write k n x).hub = s.hub
  | 0, _, _, _ => rfl
  | n + 1, k, x, _ => State.write_hub n (k + 1) (x / 256) _

@[simp] theorem State.write_tags : ∀ (n k x : Nat) (s : State), (s.write k n x).tags = s.tags
  | 0, _, _, _ => rfl
  | n + 1, k, x, _ => State.write_tags n (k + 1) (x / 256) _

@[simp] theorem State.write_full : ∀ (n k x : Nat) (s : State), (s.write k n x).full = s.full
  | 0, _, _, _ => rfl
  | n + 1, k, x, _ => State.write_full n (k + 1) (x / 256) _

@[simp] theorem State.write_badWords : ∀ (n k x : Nat) (s : State), (s.write k n x).badWords = s.badWords
  | 0, _, _, _ => rfl
  | n + 1, k, x, _ => State.write_badWords n (k + 1) (x / 256) _

@[simp] theorem State.write_badTags : ∀ (n k x : Nat) (s : State), (s.write k n x).badTags = s.badTags
  | 0, _, _, _ => rfl
  | n + 1, k, x, _ => State.write_badTags n (k + 1) (x / 256) _

@[simp] theorem State.write_softWords : ∀ (n k x : Nat) (s : State), (s.write k n x).softWords = s.softWords
  | 0, _, _, _ => rfl
  | n + 1, k, x, _ => State.write_softWords n (k + 1) (x / 256) _

@[simp] theorem State.write_softTags : ∀ (n k x : Nat) (s : State), (s.write k n x).softTags = s.softTags
  | 0, _, _, _ => rfl
  | n + 1, k, x, _ => State.write_softTags n (k + 1) (x / 256) _

@[simp] theorem State.write_keyed : ∀ (n k x : Nat) (s : State), (s.write k n x).keyed = s.keyed
  | 0, _, _, _ => rfl
  | n + 1, k, x, _ => State.write_keyed n (k + 1) (x / 256) _

@[simp] theorem State.write_flits : ∀ (n k x : Nat) (s : State), (s.write k n x).flits = s.flits
  | 0, _, _, _ => rfl
  | n + 1, k, x, _ => State.write_flits n (k + 1) (x / 256) _

@[simp] theorem State.write_messages : ∀ (n k x : Nat) (s : State), (s.write k n x).messages = s.messages
  | 0, _, _, _ => rfl
  | n + 1, k, x, _ => State.write_messages n (k + 1) (x / 256) _

@[simp] theorem State.write_tick : ∀ (n k x : Nat) (s : State), (s.write k n x).tick = s.tick
  | 0, _, _, _ => rfl
  | n + 1, k, x, _ => State.write_tick n (k + 1) (x / 256) _

@[simp] theorem State.write_cur : ∀ (n k x : Nat) (s : State), (s.write k n x).cur = s.cur
  | 0, _, _, _ => rfl
  | n + 1, k, x, _ => State.write_cur n (k + 1) (x / 256) _

@[simp] theorem State.write_sched : ∀ (n k x : Nat) (s : State), (s.write k n x).sched = s.sched
  | 0, _, _, _ => rfl
  | n + 1, k, x, _ => State.write_sched n (k + 1) (x / 256) _

@[simp] theorem State.write_agenda : ∀ (n k x : Nat) (s : State), (s.write k n x).agenda = s.agenda
  | 0, _, _, _ => rfl
  | n + 1, k, x, _ => State.write_agenda n (k + 1) (x / 256) _

@[simp] theorem State.write_free : ∀ (n k x : Nat) (s : State), (s.write k n x).free = s.free
  | 0, _, _, _ => rfl
  | n + 1, k, x, _ => State.write_free n (k + 1) (x / 256) _

@[simp] theorem State.writeMasked_cores : ∀ (n k x m : Nat) (s : State), (s.writeMasked k n x m).cores = s.cores
  | 0, _, _, _, _ => rfl
  | n + 1, k, x, m, s => by
    unfold State.writeMasked
    rw [State.writeMasked_cores n]
    split <;> rfl

@[simp] theorem State.writeMasked_clusters : ∀ (n k x m : Nat) (s : State), (s.writeMasked k n x m).clusters = s.clusters
  | 0, _, _, _, _ => rfl
  | n + 1, k, x, m, s => by
    unfold State.writeMasked
    rw [State.writeMasked_clusters n]
    split <;> rfl

@[simp] theorem State.writeMasked_dies : ∀ (n k x m : Nat) (s : State), (s.writeMasked k n x m).dies = s.dies
  | 0, _, _, _, _ => rfl
  | n + 1, k, x, m, s => by
    unfold State.writeMasked
    rw [State.writeMasked_dies n]
    split <;> rfl

@[simp] theorem State.writeMasked_hub : ∀ (n k x m : Nat) (s : State), (s.writeMasked k n x m).hub = s.hub
  | 0, _, _, _, _ => rfl
  | n + 1, k, x, m, s => by
    unfold State.writeMasked
    rw [State.writeMasked_hub n]
    split <;> rfl

@[simp] theorem State.writeMasked_tags : ∀ (n k x m : Nat) (s : State), (s.writeMasked k n x m).tags = s.tags
  | 0, _, _, _, _ => rfl
  | n + 1, k, x, m, s => by
    unfold State.writeMasked
    rw [State.writeMasked_tags n]
    split <;> rfl

@[simp] theorem State.writeMasked_full : ∀ (n k x m : Nat) (s : State), (s.writeMasked k n x m).full = s.full
  | 0, _, _, _, _ => rfl
  | n + 1, k, x, m, s => by
    unfold State.writeMasked
    rw [State.writeMasked_full n]
    split <;> rfl

@[simp] theorem State.writeMasked_badWords : ∀ (n k x m : Nat) (s : State), (s.writeMasked k n x m).badWords = s.badWords
  | 0, _, _, _, _ => rfl
  | n + 1, k, x, m, s => by
    unfold State.writeMasked
    rw [State.writeMasked_badWords n]
    split <;> rfl

@[simp] theorem State.writeMasked_badTags : ∀ (n k x m : Nat) (s : State), (s.writeMasked k n x m).badTags = s.badTags
  | 0, _, _, _, _ => rfl
  | n + 1, k, x, m, s => by
    unfold State.writeMasked
    rw [State.writeMasked_badTags n]
    split <;> rfl

@[simp] theorem State.writeMasked_softWords : ∀ (n k x m : Nat) (s : State), (s.writeMasked k n x m).softWords = s.softWords
  | 0, _, _, _, _ => rfl
  | n + 1, k, x, m, s => by
    unfold State.writeMasked
    rw [State.writeMasked_softWords n]
    split <;> rfl

@[simp] theorem State.writeMasked_softTags : ∀ (n k x m : Nat) (s : State), (s.writeMasked k n x m).softTags = s.softTags
  | 0, _, _, _, _ => rfl
  | n + 1, k, x, m, s => by
    unfold State.writeMasked
    rw [State.writeMasked_softTags n]
    split <;> rfl

@[simp] theorem State.writeMasked_keyed : ∀ (n k x m : Nat) (s : State), (s.writeMasked k n x m).keyed = s.keyed
  | 0, _, _, _, _ => rfl
  | n + 1, k, x, m, s => by
    unfold State.writeMasked
    rw [State.writeMasked_keyed n]
    split <;> rfl

@[simp] theorem State.writeMasked_flits : ∀ (n k x m : Nat) (s : State), (s.writeMasked k n x m).flits = s.flits
  | 0, _, _, _, _ => rfl
  | n + 1, k, x, m, s => by
    unfold State.writeMasked
    rw [State.writeMasked_flits n]
    split <;> rfl

@[simp] theorem State.writeMasked_messages : ∀ (n k x m : Nat) (s : State), (s.writeMasked k n x m).messages = s.messages
  | 0, _, _, _, _ => rfl
  | n + 1, k, x, m, s => by
    unfold State.writeMasked
    rw [State.writeMasked_messages n]
    split <;> rfl

@[simp] theorem State.writeMasked_tick : ∀ (n k x m : Nat) (s : State), (s.writeMasked k n x m).tick = s.tick
  | 0, _, _, _, _ => rfl
  | n + 1, k, x, m, s => by
    unfold State.writeMasked
    rw [State.writeMasked_tick n]
    split <;> rfl

@[simp] theorem State.writeMasked_cur : ∀ (n k x m : Nat) (s : State), (s.writeMasked k n x m).cur = s.cur
  | 0, _, _, _, _ => rfl
  | n + 1, k, x, m, s => by
    unfold State.writeMasked
    rw [State.writeMasked_cur n]
    split <;> rfl

@[simp] theorem State.writeMasked_sched : ∀ (n k x m : Nat) (s : State), (s.writeMasked k n x m).sched = s.sched
  | 0, _, _, _, _ => rfl
  | n + 1, k, x, m, s => by
    unfold State.writeMasked
    rw [State.writeMasked_sched n]
    split <;> rfl

@[simp] theorem State.writeMasked_agenda : ∀ (n k x m : Nat) (s : State), (s.writeMasked k n x m).agenda = s.agenda
  | 0, _, _, _, _ => rfl
  | n + 1, k, x, m, s => by
    unfold State.writeMasked
    rw [State.writeMasked_agenda n]
    split <;> rfl

@[simp] theorem State.writeMasked_free : ∀ (n k x m : Nat) (s : State), (s.writeMasked k n x m).free = s.free
  | 0, _, _, _, _ => rfl
  | n + 1, k, x, m, s => by
    unfold State.writeMasked
    rw [State.writeMasked_free n]
    split <;> rfl

@[simp] theorem State.setTags_cores : ∀ (n g : Nat) (t : BitVec 4) (s : State), (s.setTags g n t).cores = s.cores
  | 0, _, _, _ => rfl
  | n + 1, g, t, _ => State.setTags_cores n (g + 1) t _

@[simp] theorem State.setTags_clusters : ∀ (n g : Nat) (t : BitVec 4) (s : State), (s.setTags g n t).clusters = s.clusters
  | 0, _, _, _ => rfl
  | n + 1, g, t, _ => State.setTags_clusters n (g + 1) t _

@[simp] theorem State.setTags_dies : ∀ (n g : Nat) (t : BitVec 4) (s : State), (s.setTags g n t).dies = s.dies
  | 0, _, _, _ => rfl
  | n + 1, g, t, _ => State.setTags_dies n (g + 1) t _

@[simp] theorem State.setTags_hub : ∀ (n g : Nat) (t : BitVec 4) (s : State), (s.setTags g n t).hub = s.hub
  | 0, _, _, _ => rfl
  | n + 1, g, t, _ => State.setTags_hub n (g + 1) t _

@[simp] theorem State.setTags_mem : ∀ (n g : Nat) (t : BitVec 4) (s : State), (s.setTags g n t).mem = s.mem
  | 0, _, _, _ => rfl
  | n + 1, g, t, _ => State.setTags_mem n (g + 1) t _

@[simp] theorem State.setTags_full : ∀ (n g : Nat) (t : BitVec 4) (s : State), (s.setTags g n t).full = s.full
  | 0, _, _, _ => rfl
  | n + 1, g, t, _ => State.setTags_full n (g + 1) t _

@[simp] theorem State.setTags_badWords : ∀ (n g : Nat) (t : BitVec 4) (s : State), (s.setTags g n t).badWords = s.badWords
  | 0, _, _, _ => rfl
  | n + 1, g, t, _ => State.setTags_badWords n (g + 1) t _

@[simp] theorem State.setTags_badTags : ∀ (n g : Nat) (t : BitVec 4) (s : State), (s.setTags g n t).badTags = s.badTags
  | 0, _, _, _ => rfl
  | n + 1, g, t, _ => State.setTags_badTags n (g + 1) t _

@[simp] theorem State.setTags_softWords : ∀ (n g : Nat) (t : BitVec 4) (s : State), (s.setTags g n t).softWords = s.softWords
  | 0, _, _, _ => rfl
  | n + 1, g, t, _ => State.setTags_softWords n (g + 1) t _

@[simp] theorem State.setTags_softTags : ∀ (n g : Nat) (t : BitVec 4) (s : State), (s.setTags g n t).softTags = s.softTags
  | 0, _, _, _ => rfl
  | n + 1, g, t, _ => State.setTags_softTags n (g + 1) t _

@[simp] theorem State.setTags_keyed : ∀ (n g : Nat) (t : BitVec 4) (s : State), (s.setTags g n t).keyed = s.keyed
  | 0, _, _, _ => rfl
  | n + 1, g, t, _ => State.setTags_keyed n (g + 1) t _

@[simp] theorem State.setTags_flits : ∀ (n g : Nat) (t : BitVec 4) (s : State), (s.setTags g n t).flits = s.flits
  | 0, _, _, _ => rfl
  | n + 1, g, t, _ => State.setTags_flits n (g + 1) t _

@[simp] theorem State.setTags_messages : ∀ (n g : Nat) (t : BitVec 4) (s : State), (s.setTags g n t).messages = s.messages
  | 0, _, _, _ => rfl
  | n + 1, g, t, _ => State.setTags_messages n (g + 1) t _

@[simp] theorem State.setTags_tick : ∀ (n g : Nat) (t : BitVec 4) (s : State), (s.setTags g n t).tick = s.tick
  | 0, _, _, _ => rfl
  | n + 1, g, t, _ => State.setTags_tick n (g + 1) t _

@[simp] theorem State.setTags_cur : ∀ (n g : Nat) (t : BitVec 4) (s : State), (s.setTags g n t).cur = s.cur
  | 0, _, _, _ => rfl
  | n + 1, g, t, _ => State.setTags_cur n (g + 1) t _

@[simp] theorem State.setTags_sched : ∀ (n g : Nat) (t : BitVec 4) (s : State), (s.setTags g n t).sched = s.sched
  | 0, _, _, _ => rfl
  | n + 1, g, t, _ => State.setTags_sched n (g + 1) t _

@[simp] theorem State.setTags_agenda : ∀ (n g : Nat) (t : BitVec 4) (s : State), (s.setTags g n t).agenda = s.agenda
  | 0, _, _, _ => rfl
  | n + 1, g, t, _ => State.setTags_agenda n (g + 1) t _

@[simp] theorem State.setTags_free : ∀ (n g : Nat) (t : BitVec 4) (s : State), (s.setTags g n t).free = s.free
  | 0, _, _, _ => rfl
  | n + 1, g, t, _ => State.setTags_free n (g + 1) t _

@[simp] theorem State.fillWords_cores : ∀ (n w : Nat) (s : State), (s.fillWords w n).cores = s.cores
  | 0, _, _ => rfl
  | n + 1, w, _ => State.fillWords_cores n (w + 1) _

@[simp] theorem State.fillWords_clusters : ∀ (n w : Nat) (s : State), (s.fillWords w n).clusters = s.clusters
  | 0, _, _ => rfl
  | n + 1, w, _ => State.fillWords_clusters n (w + 1) _

@[simp] theorem State.fillWords_dies : ∀ (n w : Nat) (s : State), (s.fillWords w n).dies = s.dies
  | 0, _, _ => rfl
  | n + 1, w, _ => State.fillWords_dies n (w + 1) _

@[simp] theorem State.fillWords_hub : ∀ (n w : Nat) (s : State), (s.fillWords w n).hub = s.hub
  | 0, _, _ => rfl
  | n + 1, w, _ => State.fillWords_hub n (w + 1) _

@[simp] theorem State.fillWords_mem : ∀ (n w : Nat) (s : State), (s.fillWords w n).mem = s.mem
  | 0, _, _ => rfl
  | n + 1, w, _ => State.fillWords_mem n (w + 1) _

@[simp] theorem State.fillWords_tags : ∀ (n w : Nat) (s : State), (s.fillWords w n).tags = s.tags
  | 0, _, _ => rfl
  | n + 1, w, _ => State.fillWords_tags n (w + 1) _

@[simp] theorem State.fillWords_badWords : ∀ (n w : Nat) (s : State), (s.fillWords w n).badWords = s.badWords
  | 0, _, _ => rfl
  | n + 1, w, _ => State.fillWords_badWords n (w + 1) _

@[simp] theorem State.fillWords_badTags : ∀ (n w : Nat) (s : State), (s.fillWords w n).badTags = s.badTags
  | 0, _, _ => rfl
  | n + 1, w, _ => State.fillWords_badTags n (w + 1) _

@[simp] theorem State.fillWords_softWords : ∀ (n w : Nat) (s : State), (s.fillWords w n).softWords = s.softWords
  | 0, _, _ => rfl
  | n + 1, w, _ => State.fillWords_softWords n (w + 1) _

@[simp] theorem State.fillWords_softTags : ∀ (n w : Nat) (s : State), (s.fillWords w n).softTags = s.softTags
  | 0, _, _ => rfl
  | n + 1, w, _ => State.fillWords_softTags n (w + 1) _

@[simp] theorem State.fillWords_keyed : ∀ (n w : Nat) (s : State), (s.fillWords w n).keyed = s.keyed
  | 0, _, _ => rfl
  | n + 1, w, _ => State.fillWords_keyed n (w + 1) _

@[simp] theorem State.fillWords_flits : ∀ (n w : Nat) (s : State), (s.fillWords w n).flits = s.flits
  | 0, _, _ => rfl
  | n + 1, w, _ => State.fillWords_flits n (w + 1) _

@[simp] theorem State.fillWords_messages : ∀ (n w : Nat) (s : State), (s.fillWords w n).messages = s.messages
  | 0, _, _ => rfl
  | n + 1, w, _ => State.fillWords_messages n (w + 1) _

@[simp] theorem State.fillWords_tick : ∀ (n w : Nat) (s : State), (s.fillWords w n).tick = s.tick
  | 0, _, _ => rfl
  | n + 1, w, _ => State.fillWords_tick n (w + 1) _

@[simp] theorem State.fillWords_cur : ∀ (n w : Nat) (s : State), (s.fillWords w n).cur = s.cur
  | 0, _, _ => rfl
  | n + 1, w, _ => State.fillWords_cur n (w + 1) _

@[simp] theorem State.fillWords_sched : ∀ (n w : Nat) (s : State), (s.fillWords w n).sched = s.sched
  | 0, _, _ => rfl
  | n + 1, w, _ => State.fillWords_sched n (w + 1) _

@[simp] theorem State.fillWords_agenda : ∀ (n w : Nat) (s : State), (s.fillWords w n).agenda = s.agenda
  | 0, _, _ => rfl
  | n + 1, w, _ => State.fillWords_agenda n (w + 1) _

@[simp] theorem State.fillWords_free : ∀ (n w : Nat) (s : State), (s.fillWords w n).free = s.free
  | 0, _, _ => rfl
  | n + 1, w, _ => State.fillWords_free n (w + 1) _

/-! ## A core -/

section
variable (c : Core) (i : Nat) (x : W64)

@[simp] theorem Core.setQ_g : (c.setQ i x).g = c.g := by simp only [Core.setQ]
@[simp] theorem Core.setQ_frames : (c.setQ i x).frames = c.frames := by simp only [Core.setQ]
@[simp] theorem Core.setQ_p : (c.setQ i x).p = c.p := by simp only [Core.setQ]
@[simp] theorem Core.setQ_v : (c.setQ i x).v = c.v := by simp only [Core.setQ]
@[simp] theorem Core.setQ_acc : (c.setQ i x).acc = c.acc := by simp only [Core.setQ]
@[simp] theorem Core.setQ_bd : (c.setQ i x).bd = c.bd := by simp only [Core.setQ]
@[simp] theorem Core.setQ_lw : (c.setQ i x).lw = c.lw := by simp only [Core.setQ]
@[simp] theorem Core.setQ_mc : (c.setQ i x).mc = c.mc := by simp only [Core.setQ]
@[simp] theorem Core.setQ_pc : (c.setQ i x).pc = c.pc := by simp only [Core.setQ]
@[simp] theorem Core.setQ_latch : (c.setQ i x).latch = c.latch := by simp only [Core.setQ]
@[simp] theorem Core.setQ_held : (c.setQ i x).held = c.held := by simp only [Core.setQ]
@[simp] theorem Core.setQ_fcsr : (c.setQ i x).fcsr = c.fcsr := by simp only [Core.setQ]
@[simp] theorem Core.setQ_srseed : (c.setQ i x).srseed = c.srseed := by simp only [Core.setQ]
@[simp] theorem Core.setQ_tsk : (c.setQ i x).tsk = c.tsk := by simp only [Core.setQ]
@[simp] theorem Core.setQ_tstamp : (c.setQ i x).tstamp = c.tstamp := by simp only [Core.setQ]
@[simp] theorem Core.setQ_ssn : (c.setQ i x).ssn = c.ssn := by simp only [Core.setQ]
@[simp] theorem Core.setQ_xt : (c.setQ i x).xt = c.xt := by simp only [Core.setQ]
@[simp] theorem Core.setQ_xpc : (c.setQ i x).xpc = c.xpc := by simp only [Core.setQ]
@[simp] theorem Core.setQ_syncm : (c.setQ i x).syncm = c.syncm := by simp only [Core.setQ]
@[simp] theorem Core.setQ_vote : (c.setQ i x).vote = c.vote := by simp only [Core.setQ]
@[simp] theorem Core.setQ_wptr : (c.setQ i x).wptr = c.wptr := by simp only [Core.setQ]
@[simp] theorem Core.setQ_wsp : (c.setQ i x).wsp = c.wsp := by simp only [Core.setQ]
@[simp] theorem Core.setQ_dsd : (c.setQ i x).dsd = c.dsd := by simp only [Core.setQ]
@[simp] theorem Core.setQ_repc : (c.setQ i x).repc = c.repc := by simp only [Core.setQ]
@[simp] theorem Core.setQ_curpol : (c.setQ i x).curpol = c.curpol := by simp only [Core.setQ]
@[simp] theorem Core.setQ_gst : (c.setQ i x).gst = c.gst := by simp only [Core.setQ]
@[simp] theorem Core.setQ_aw0 : (c.setQ i x).aw0 = c.aw0 := by simp only [Core.setQ]
@[simp] theorem Core.setQ_aw1 : (c.setQ i x).aw1 = c.aw1 := by simp only [Core.setQ]
@[simp] theorem Core.setQ_atp : (c.setQ i x).atp = c.atp := by simp only [Core.setQ]
@[simp] theorem Core.setQ_gcfg : (c.setQ i x).gcfg = c.gcfg := by simp only [Core.setQ]
@[simp] theorem Core.setQ_recm : (c.setQ i x).recm = c.recm := by simp only [Core.setQ]
@[simp] theorem Core.setQ_logb : (c.setQ i x).logb = c.logb := by simp only [Core.setQ]
@[simp] theorem Core.setQ_logl : (c.setQ i x).logl = c.logl := by simp only [Core.setQ]
@[simp] theorem Core.setQ_logp : (c.setQ i x).logp = c.logp := by simp only [Core.setQ]
@[simp] theorem Core.setQ_trapc : (c.setQ i x).trapc = c.trapc := by simp only [Core.setQ]
@[simp] theorem Core.setQ_trappc : (c.setQ i x).trappc = c.trappc := by simp only [Core.setQ]
@[simp] theorem Core.setQ_trapv : (c.setQ i x).trapv = c.trapv := by simp only [Core.setQ]
@[simp] theorem Core.setQ_tvec : (c.setQ i x).tvec = c.tvec := by simp only [Core.setQ]
@[simp] theorem Core.setQ_tnan : (c.setQ i x).tnan = c.tnan := by simp only [Core.setQ]
@[simp] theorem Core.setQ_tof : (c.setQ i x).tof = c.tof := by simp only [Core.setQ]
@[simp] theorem Core.setQ_repBuf : (c.setQ i x).repBuf = c.repBuf := by simp only [Core.setQ]
@[simp] theorem Core.setQ_repSusp : (c.setQ i x).repSusp = c.repSusp := by simp only [Core.setQ]
@[simp] theorem Core.setQ_dom : (c.setQ i x).dom = c.dom := by simp only [Core.setQ]
@[simp] theorem Core.setQ_budget : (c.setQ i x).budget = c.budget := by simp only [Core.setQ]
@[simp] theorem Core.setQ_vsaved : (c.setQ i x).vsaved = c.vsaved := by simp only [Core.setQ]
@[simp] theorem Core.setQ_tasks : (c.setQ i x).tasks = c.tasks := by simp only [Core.setQ]
@[simp] theorem Core.setQ_passes : (c.setQ i x).passes = c.passes := by simp only [Core.setQ]
@[simp] theorem Core.setQ_yields : (c.setQ i x).yields = c.yields := by simp only [Core.setQ]
@[simp] theorem Core.setQ_setup : (c.setQ i x).setup = c.setup := by simp only [Core.setQ]
@[simp] theorem Core.setQ_again : (c.setQ i x).again = c.again := by simp only [Core.setQ]
@[simp] theorem Core.setQ_older : (c.setQ i x).older = c.older := by simp only [Core.setQ]
@[simp] theorem Core.setQ_qfail : (c.setQ i x).qfail = c.qfail := by simp only [Core.setQ]
@[simp] theorem Core.setQ_act : (c.setQ i x).act = c.act := by simp only [Core.setQ]
@[simp] theorem Core.setQ_visit : (c.setQ i x).visit = c.visit := by simp only [Core.setQ]
@[simp] theorem Core.setQ_sleep : (c.setQ i x).sleep = c.sleep := by simp only [Core.setQ]
@[simp] theorem Core.setQ_awaits : (c.setQ i x).awaits = c.awaits := by simp only [Core.setQ]
@[simp] theorem Core.setQ_deferred : (c.setQ i x).deferred = c.deferred := by simp only [Core.setQ]
@[simp] theorem Core.setQ_ordered : (c.setQ i x).ordered = c.ordered := by simp only [Core.setQ]
@[simp] theorem Core.setQ_ports : (c.setQ i x).ports = c.ports := by simp only [Core.setQ]
@[simp] theorem Core.setQ_tileq : (c.setQ i x).tileq = c.tileq := by simp only [Core.setQ]
@[simp] theorem Core.setQ_reissue : (c.setQ i x).reissue = c.reissue := by simp only [Core.setQ]
@[simp] theorem Core.setQ_join : (c.setQ i x).join = c.join := by simp only [Core.setQ]
@[simp] theorem Core.setQ_rev : (c.setQ i x).rev = c.rev := by simp only [Core.setQ]
@[simp] theorem Core.setQ_sels : (c.setQ i x).sels = c.sels := by simp only [Core.setQ]
@[simp] theorem Core.setQ_syncv : (c.setQ i x).syncv = c.syncv := by simp only [Core.setQ]
@[simp] theorem Core.setQ_pushes : (c.setQ i x).pushes = c.pushes := by simp only [Core.setQ]
@[simp] theorem Core.setQ_cecnt : (c.setQ i x).cecnt = c.cecnt := by simp only [Core.setQ]
@[simp] theorem Core.setQ_ctr : (c.setQ i x).ctr = c.ctr := by simp only [Core.setQ]
@[simp] theorem Core.setQ_ctrSel : (c.setQ i x).ctrSel = c.ctrSel := by simp only [Core.setQ]
@[simp] theorem Core.setQ_passHit : (c.setQ i x).passHit = c.passHit := by simp only [Core.setQ]
@[simp] theorem Core.setQ_wctl : (c.setQ i x).wctl = c.wctl := by simp only [Core.setQ]
@[simp] theorem Core.setQ_wbase : (c.setQ i x).wbase = c.wbase := by simp only [Core.setQ]
@[simp] theorem Core.setQ_l1 : (c.setQ i x).l1 = c.l1 := by simp only [Core.setQ]
@[simp] theorem Core.setQ_farReq : (c.setQ i x).farReq = c.farReq := by simp only [Core.setQ]
@[simp] theorem Core.setQ_walked : (c.setQ i x).walked = c.walked := by simp only [Core.setQ]
@[simp] theorem Core.setQ_member : (c.setQ i x).member = c.member := by simp only [Core.setQ]
@[simp] theorem Core.setQ_gang : (c.setQ i x).gang = c.gang := by simp only [Core.setQ]
@[simp] theorem Core.setQ_took : (c.setQ i x).took = c.took := by simp only [Core.setQ]
@[simp] theorem Core.setQ_stream : (c.setQ i x).stream = c.stream := by simp only [Core.setQ]
@[simp] theorem Core.setQ_ahead : (c.setQ i x).ahead = c.ahead := by simp only [Core.setQ]
@[simp] theorem Core.setQ_begun : (c.setQ i x).begun = c.begun := by simp only [Core.setQ]
@[simp] theorem Core.setQ_arrived : (c.setQ i x).arrived = c.arrived := by simp only [Core.setQ]
@[simp] theorem Core.setQ_since : (c.setQ i x).since = c.since := by simp only [Core.setQ]
@[simp] theorem Core.setQ_gated : (c.setQ i x).gated = c.gated := by simp only [Core.setQ]
@[simp] theorem Core.setQ_freeing : (c.setQ i x).freeing = c.freeing := by simp only [Core.setQ]
@[simp] theorem Core.setQ_unwindTo : (c.setQ i x).unwindTo = c.unwindTo := by simp only [Core.setQ]

end

section
variable (c : Core) (l : Nat)

@[simp] theorem Core.setLevel_g : (c.setLevel l).g = c.g := by simp only [Core.setLevel]
@[simp] theorem Core.setLevel_frames : (c.setLevel l).frames = c.frames := by simp only [Core.setLevel]
@[simp] theorem Core.setLevel_p : (c.setLevel l).p = c.p := by simp only [Core.setLevel]
@[simp] theorem Core.setLevel_v : (c.setLevel l).v = c.v := by simp only [Core.setLevel]
@[simp] theorem Core.setLevel_q : (c.setLevel l).q = c.q := by simp only [Core.setLevel]
@[simp] theorem Core.setLevel_acc : (c.setLevel l).acc = c.acc := by simp only [Core.setLevel]
@[simp] theorem Core.setLevel_bd : (c.setLevel l).bd = c.bd := by simp only [Core.setLevel]
@[simp] theorem Core.setLevel_lw : (c.setLevel l).lw = c.lw := by simp only [Core.setLevel]
@[simp] theorem Core.setLevel_mc : (c.setLevel l).mc = c.mc := by simp only [Core.setLevel]
@[simp] theorem Core.setLevel_pc : (c.setLevel l).pc = c.pc := by simp only [Core.setLevel]
@[simp] theorem Core.setLevel_latch : (c.setLevel l).latch = c.latch := by simp only [Core.setLevel]
@[simp] theorem Core.setLevel_held : (c.setLevel l).held = c.held := by simp only [Core.setLevel]
@[simp] theorem Core.setLevel_fcsr : (c.setLevel l).fcsr = c.fcsr := by simp only [Core.setLevel]
@[simp] theorem Core.setLevel_srseed : (c.setLevel l).srseed = c.srseed := by simp only [Core.setLevel]
@[simp] theorem Core.setLevel_tstamp : (c.setLevel l).tstamp = c.tstamp := by simp only [Core.setLevel]
@[simp] theorem Core.setLevel_ssn : (c.setLevel l).ssn = c.ssn := by simp only [Core.setLevel]
@[simp] theorem Core.setLevel_xt : (c.setLevel l).xt = c.xt := by simp only [Core.setLevel]
@[simp] theorem Core.setLevel_xpc : (c.setLevel l).xpc = c.xpc := by simp only [Core.setLevel]
@[simp] theorem Core.setLevel_syncm : (c.setLevel l).syncm = c.syncm := by simp only [Core.setLevel]
@[simp] theorem Core.setLevel_vote : (c.setLevel l).vote = c.vote := by simp only [Core.setLevel]
@[simp] theorem Core.setLevel_wptr : (c.setLevel l).wptr = c.wptr := by simp only [Core.setLevel]
@[simp] theorem Core.setLevel_wsp : (c.setLevel l).wsp = c.wsp := by simp only [Core.setLevel]
@[simp] theorem Core.setLevel_dsd : (c.setLevel l).dsd = c.dsd := by simp only [Core.setLevel]
@[simp] theorem Core.setLevel_repc : (c.setLevel l).repc = c.repc := by simp only [Core.setLevel]
@[simp] theorem Core.setLevel_curpol : (c.setLevel l).curpol = c.curpol := by simp only [Core.setLevel]
@[simp] theorem Core.setLevel_gst : (c.setLevel l).gst = c.gst := by simp only [Core.setLevel]
@[simp] theorem Core.setLevel_aw0 : (c.setLevel l).aw0 = c.aw0 := by simp only [Core.setLevel]
@[simp] theorem Core.setLevel_aw1 : (c.setLevel l).aw1 = c.aw1 := by simp only [Core.setLevel]
@[simp] theorem Core.setLevel_atp : (c.setLevel l).atp = c.atp := by simp only [Core.setLevel]
@[simp] theorem Core.setLevel_gcfg : (c.setLevel l).gcfg = c.gcfg := by simp only [Core.setLevel]
@[simp] theorem Core.setLevel_recm : (c.setLevel l).recm = c.recm := by simp only [Core.setLevel]
@[simp] theorem Core.setLevel_logb : (c.setLevel l).logb = c.logb := by simp only [Core.setLevel]
@[simp] theorem Core.setLevel_logl : (c.setLevel l).logl = c.logl := by simp only [Core.setLevel]
@[simp] theorem Core.setLevel_logp : (c.setLevel l).logp = c.logp := by simp only [Core.setLevel]
@[simp] theorem Core.setLevel_trapc : (c.setLevel l).trapc = c.trapc := by simp only [Core.setLevel]
@[simp] theorem Core.setLevel_trappc : (c.setLevel l).trappc = c.trappc := by simp only [Core.setLevel]
@[simp] theorem Core.setLevel_trapv : (c.setLevel l).trapv = c.trapv := by simp only [Core.setLevel]
@[simp] theorem Core.setLevel_tvec : (c.setLevel l).tvec = c.tvec := by simp only [Core.setLevel]
@[simp] theorem Core.setLevel_tnan : (c.setLevel l).tnan = c.tnan := by simp only [Core.setLevel]
@[simp] theorem Core.setLevel_tof : (c.setLevel l).tof = c.tof := by simp only [Core.setLevel]
@[simp] theorem Core.setLevel_repBuf : (c.setLevel l).repBuf = c.repBuf := by simp only [Core.setLevel]
@[simp] theorem Core.setLevel_repSusp : (c.setLevel l).repSusp = c.repSusp := by simp only [Core.setLevel]
@[simp] theorem Core.setLevel_dom : (c.setLevel l).dom = c.dom := by simp only [Core.setLevel]
@[simp] theorem Core.setLevel_budget : (c.setLevel l).budget = c.budget := by simp only [Core.setLevel]
@[simp] theorem Core.setLevel_vsaved : (c.setLevel l).vsaved = c.vsaved := by simp only [Core.setLevel]
@[simp] theorem Core.setLevel_tasks : (c.setLevel l).tasks = c.tasks := by simp only [Core.setLevel]
@[simp] theorem Core.setLevel_passes : (c.setLevel l).passes = c.passes := by simp only [Core.setLevel]
@[simp] theorem Core.setLevel_yields : (c.setLevel l).yields = c.yields := by simp only [Core.setLevel]
@[simp] theorem Core.setLevel_setup : (c.setLevel l).setup = c.setup := by simp only [Core.setLevel]
@[simp] theorem Core.setLevel_again : (c.setLevel l).again = c.again := by simp only [Core.setLevel]
@[simp] theorem Core.setLevel_older : (c.setLevel l).older = c.older := by simp only [Core.setLevel]
@[simp] theorem Core.setLevel_qfail : (c.setLevel l).qfail = c.qfail := by simp only [Core.setLevel]
@[simp] theorem Core.setLevel_act : (c.setLevel l).act = c.act := by simp only [Core.setLevel]
@[simp] theorem Core.setLevel_visit : (c.setLevel l).visit = c.visit := by simp only [Core.setLevel]
@[simp] theorem Core.setLevel_sleep : (c.setLevel l).sleep = c.sleep := by simp only [Core.setLevel]
@[simp] theorem Core.setLevel_awaits : (c.setLevel l).awaits = c.awaits := by simp only [Core.setLevel]
@[simp] theorem Core.setLevel_deferred : (c.setLevel l).deferred = c.deferred := by simp only [Core.setLevel]
@[simp] theorem Core.setLevel_ordered : (c.setLevel l).ordered = c.ordered := by simp only [Core.setLevel]
@[simp] theorem Core.setLevel_ports : (c.setLevel l).ports = c.ports := by simp only [Core.setLevel]
@[simp] theorem Core.setLevel_tileq : (c.setLevel l).tileq = c.tileq := by simp only [Core.setLevel]
@[simp] theorem Core.setLevel_reissue : (c.setLevel l).reissue = c.reissue := by simp only [Core.setLevel]
@[simp] theorem Core.setLevel_join : (c.setLevel l).join = c.join := by simp only [Core.setLevel]
@[simp] theorem Core.setLevel_rev : (c.setLevel l).rev = c.rev := by simp only [Core.setLevel]
@[simp] theorem Core.setLevel_sels : (c.setLevel l).sels = c.sels := by simp only [Core.setLevel]
@[simp] theorem Core.setLevel_syncv : (c.setLevel l).syncv = c.syncv := by simp only [Core.setLevel]
@[simp] theorem Core.setLevel_pushes : (c.setLevel l).pushes = c.pushes := by simp only [Core.setLevel]
@[simp] theorem Core.setLevel_cecnt : (c.setLevel l).cecnt = c.cecnt := by simp only [Core.setLevel]
@[simp] theorem Core.setLevel_ctr : (c.setLevel l).ctr = c.ctr := by simp only [Core.setLevel]
@[simp] theorem Core.setLevel_ctrSel : (c.setLevel l).ctrSel = c.ctrSel := by simp only [Core.setLevel]
@[simp] theorem Core.setLevel_passHit : (c.setLevel l).passHit = c.passHit := by simp only [Core.setLevel]
@[simp] theorem Core.setLevel_wctl : (c.setLevel l).wctl = c.wctl := by simp only [Core.setLevel]
@[simp] theorem Core.setLevel_wbase : (c.setLevel l).wbase = c.wbase := by simp only [Core.setLevel]
@[simp] theorem Core.setLevel_l1 : (c.setLevel l).l1 = c.l1 := by simp only [Core.setLevel]
@[simp] theorem Core.setLevel_farReq : (c.setLevel l).farReq = c.farReq := by simp only [Core.setLevel]
@[simp] theorem Core.setLevel_walked : (c.setLevel l).walked = c.walked := by simp only [Core.setLevel]
@[simp] theorem Core.setLevel_member : (c.setLevel l).member = c.member := by simp only [Core.setLevel]
@[simp] theorem Core.setLevel_gang : (c.setLevel l).gang = c.gang := by simp only [Core.setLevel]
@[simp] theorem Core.setLevel_took : (c.setLevel l).took = c.took := by simp only [Core.setLevel]
@[simp] theorem Core.setLevel_stream : (c.setLevel l).stream = c.stream := by simp only [Core.setLevel]
@[simp] theorem Core.setLevel_ahead : (c.setLevel l).ahead = c.ahead := by simp only [Core.setLevel]
@[simp] theorem Core.setLevel_begun : (c.setLevel l).begun = c.begun := by simp only [Core.setLevel]
@[simp] theorem Core.setLevel_arrived : (c.setLevel l).arrived = c.arrived := by simp only [Core.setLevel]
@[simp] theorem Core.setLevel_since : (c.setLevel l).since = c.since := by simp only [Core.setLevel]
@[simp] theorem Core.setLevel_gated : (c.setLevel l).gated = c.gated := by simp only [Core.setLevel]
@[simp] theorem Core.setLevel_freeing : (c.setLevel l).freeing = c.freeing := by simp only [Core.setLevel]
@[simp] theorem Core.setLevel_unwindTo : (c.setLevel l).unwindTo = c.unwindTo := by simp only [Core.setLevel]

end

section
variable (c : Core) (ev n : Nat)

@[simp] theorem Core.count_g : (c.count ev n).g = c.g := by simp only [Core.count]
@[simp] theorem Core.count_frames : (c.count ev n).frames = c.frames := by simp only [Core.count]
@[simp] theorem Core.count_p : (c.count ev n).p = c.p := by simp only [Core.count]
@[simp] theorem Core.count_v : (c.count ev n).v = c.v := by simp only [Core.count]
@[simp] theorem Core.count_q : (c.count ev n).q = c.q := by simp only [Core.count]
@[simp] theorem Core.count_acc : (c.count ev n).acc = c.acc := by simp only [Core.count]
@[simp] theorem Core.count_bd : (c.count ev n).bd = c.bd := by simp only [Core.count]
@[simp] theorem Core.count_lw : (c.count ev n).lw = c.lw := by simp only [Core.count]
@[simp] theorem Core.count_mc : (c.count ev n).mc = c.mc := by simp only [Core.count]
@[simp] theorem Core.count_pc : (c.count ev n).pc = c.pc := by simp only [Core.count]
@[simp] theorem Core.count_latch : (c.count ev n).latch = c.latch := by simp only [Core.count]
@[simp] theorem Core.count_held : (c.count ev n).held = c.held := by simp only [Core.count]
@[simp] theorem Core.count_fcsr : (c.count ev n).fcsr = c.fcsr := by simp only [Core.count]
@[simp] theorem Core.count_srseed : (c.count ev n).srseed = c.srseed := by simp only [Core.count]
@[simp] theorem Core.count_tsk : (c.count ev n).tsk = c.tsk := by simp only [Core.count]
@[simp] theorem Core.count_tstamp : (c.count ev n).tstamp = c.tstamp := by simp only [Core.count]
@[simp] theorem Core.count_ssn : (c.count ev n).ssn = c.ssn := by simp only [Core.count]
@[simp] theorem Core.count_xt : (c.count ev n).xt = c.xt := by simp only [Core.count]
@[simp] theorem Core.count_xpc : (c.count ev n).xpc = c.xpc := by simp only [Core.count]
@[simp] theorem Core.count_syncm : (c.count ev n).syncm = c.syncm := by simp only [Core.count]
@[simp] theorem Core.count_vote : (c.count ev n).vote = c.vote := by simp only [Core.count]
@[simp] theorem Core.count_wptr : (c.count ev n).wptr = c.wptr := by simp only [Core.count]
@[simp] theorem Core.count_wsp : (c.count ev n).wsp = c.wsp := by simp only [Core.count]
@[simp] theorem Core.count_dsd : (c.count ev n).dsd = c.dsd := by simp only [Core.count]
@[simp] theorem Core.count_repc : (c.count ev n).repc = c.repc := by simp only [Core.count]
@[simp] theorem Core.count_curpol : (c.count ev n).curpol = c.curpol := by simp only [Core.count]
@[simp] theorem Core.count_gst : (c.count ev n).gst = c.gst := by simp only [Core.count]
@[simp] theorem Core.count_aw0 : (c.count ev n).aw0 = c.aw0 := by simp only [Core.count]
@[simp] theorem Core.count_aw1 : (c.count ev n).aw1 = c.aw1 := by simp only [Core.count]
@[simp] theorem Core.count_atp : (c.count ev n).atp = c.atp := by simp only [Core.count]
@[simp] theorem Core.count_gcfg : (c.count ev n).gcfg = c.gcfg := by simp only [Core.count]
@[simp] theorem Core.count_recm : (c.count ev n).recm = c.recm := by simp only [Core.count]
@[simp] theorem Core.count_logb : (c.count ev n).logb = c.logb := by simp only [Core.count]
@[simp] theorem Core.count_logl : (c.count ev n).logl = c.logl := by simp only [Core.count]
@[simp] theorem Core.count_logp : (c.count ev n).logp = c.logp := by simp only [Core.count]
@[simp] theorem Core.count_trapc : (c.count ev n).trapc = c.trapc := by simp only [Core.count]
@[simp] theorem Core.count_trappc : (c.count ev n).trappc = c.trappc := by simp only [Core.count]
@[simp] theorem Core.count_trapv : (c.count ev n).trapv = c.trapv := by simp only [Core.count]
@[simp] theorem Core.count_tvec : (c.count ev n).tvec = c.tvec := by simp only [Core.count]
@[simp] theorem Core.count_tnan : (c.count ev n).tnan = c.tnan := by simp only [Core.count]
@[simp] theorem Core.count_tof : (c.count ev n).tof = c.tof := by simp only [Core.count]
@[simp] theorem Core.count_repBuf : (c.count ev n).repBuf = c.repBuf := by simp only [Core.count]
@[simp] theorem Core.count_repSusp : (c.count ev n).repSusp = c.repSusp := by simp only [Core.count]
@[simp] theorem Core.count_dom : (c.count ev n).dom = c.dom := by simp only [Core.count]
@[simp] theorem Core.count_budget : (c.count ev n).budget = c.budget := by simp only [Core.count]
@[simp] theorem Core.count_vsaved : (c.count ev n).vsaved = c.vsaved := by simp only [Core.count]
@[simp] theorem Core.count_tasks : (c.count ev n).tasks = c.tasks := by simp only [Core.count]
@[simp] theorem Core.count_passes : (c.count ev n).passes = c.passes := by simp only [Core.count]
@[simp] theorem Core.count_yields : (c.count ev n).yields = c.yields := by simp only [Core.count]
@[simp] theorem Core.count_setup : (c.count ev n).setup = c.setup := by simp only [Core.count]
@[simp] theorem Core.count_again : (c.count ev n).again = c.again := by simp only [Core.count]
@[simp] theorem Core.count_older : (c.count ev n).older = c.older := by simp only [Core.count]
@[simp] theorem Core.count_qfail : (c.count ev n).qfail = c.qfail := by simp only [Core.count]
@[simp] theorem Core.count_act : (c.count ev n).act = c.act := by simp only [Core.count]
@[simp] theorem Core.count_visit : (c.count ev n).visit = c.visit := by simp only [Core.count]
@[simp] theorem Core.count_sleep : (c.count ev n).sleep = c.sleep := by simp only [Core.count]
@[simp] theorem Core.count_awaits : (c.count ev n).awaits = c.awaits := by simp only [Core.count]
@[simp] theorem Core.count_deferred : (c.count ev n).deferred = c.deferred := by simp only [Core.count]
@[simp] theorem Core.count_ordered : (c.count ev n).ordered = c.ordered := by simp only [Core.count]
@[simp] theorem Core.count_ports : (c.count ev n).ports = c.ports := by simp only [Core.count]
@[simp] theorem Core.count_tileq : (c.count ev n).tileq = c.tileq := by simp only [Core.count]
@[simp] theorem Core.count_reissue : (c.count ev n).reissue = c.reissue := by simp only [Core.count]
@[simp] theorem Core.count_join : (c.count ev n).join = c.join := by simp only [Core.count]
@[simp] theorem Core.count_rev : (c.count ev n).rev = c.rev := by simp only [Core.count]
@[simp] theorem Core.count_sels : (c.count ev n).sels = c.sels := by simp only [Core.count]
@[simp] theorem Core.count_syncv : (c.count ev n).syncv = c.syncv := by simp only [Core.count]
@[simp] theorem Core.count_pushes : (c.count ev n).pushes = c.pushes := by simp only [Core.count]
@[simp] theorem Core.count_cecnt : (c.count ev n).cecnt = c.cecnt := by simp only [Core.count]
@[simp] theorem Core.count_ctrSel : (c.count ev n).ctrSel = c.ctrSel := by simp only [Core.count]
@[simp] theorem Core.count_passHit : (c.count ev n).passHit = c.passHit := by simp only [Core.count]
@[simp] theorem Core.count_wctl : (c.count ev n).wctl = c.wctl := by simp only [Core.count]
@[simp] theorem Core.count_wbase : (c.count ev n).wbase = c.wbase := by simp only [Core.count]
@[simp] theorem Core.count_l1 : (c.count ev n).l1 = c.l1 := by simp only [Core.count]
@[simp] theorem Core.count_farReq : (c.count ev n).farReq = c.farReq := by simp only [Core.count]
@[simp] theorem Core.count_walked : (c.count ev n).walked = c.walked := by simp only [Core.count]
@[simp] theorem Core.count_member : (c.count ev n).member = c.member := by simp only [Core.count]
@[simp] theorem Core.count_gang : (c.count ev n).gang = c.gang := by simp only [Core.count]
@[simp] theorem Core.count_took : (c.count ev n).took = c.took := by simp only [Core.count]
@[simp] theorem Core.count_stream : (c.count ev n).stream = c.stream := by simp only [Core.count]
@[simp] theorem Core.count_ahead : (c.count ev n).ahead = c.ahead := by simp only [Core.count]
@[simp] theorem Core.count_begun : (c.count ev n).begun = c.begun := by simp only [Core.count]
@[simp] theorem Core.count_arrived : (c.count ev n).arrived = c.arrived := by simp only [Core.count]
@[simp] theorem Core.count_since : (c.count ev n).since = c.since := by simp only [Core.count]
@[simp] theorem Core.count_gated : (c.count ev n).gated = c.gated := by simp only [Core.count]
@[simp] theorem Core.count_freeing : (c.count ev n).freeing = c.freeing := by simp only [Core.count]
@[simp] theorem Core.count_unwindTo : (c.count ev n).unwindTo = c.unwindTo := by simp only [Core.count]

end

section
variable (c : Core) (f : FFlags)

@[simp] theorem Core.raise_g : (c.raise f).g = c.g := by simp only [Core.raise]
@[simp] theorem Core.raise_frames : (c.raise f).frames = c.frames := by simp only [Core.raise]
@[simp] theorem Core.raise_p : (c.raise f).p = c.p := by simp only [Core.raise]
@[simp] theorem Core.raise_v : (c.raise f).v = c.v := by simp only [Core.raise]
@[simp] theorem Core.raise_q : (c.raise f).q = c.q := by simp only [Core.raise]
@[simp] theorem Core.raise_acc : (c.raise f).acc = c.acc := by simp only [Core.raise]
@[simp] theorem Core.raise_bd : (c.raise f).bd = c.bd := by simp only [Core.raise]
@[simp] theorem Core.raise_lw : (c.raise f).lw = c.lw := by simp only [Core.raise]
@[simp] theorem Core.raise_mc : (c.raise f).mc = c.mc := by simp only [Core.raise]
@[simp] theorem Core.raise_pc : (c.raise f).pc = c.pc := by simp only [Core.raise]
@[simp] theorem Core.raise_latch : (c.raise f).latch = c.latch := by simp only [Core.raise]
@[simp] theorem Core.raise_held : (c.raise f).held = c.held := by simp only [Core.raise]
@[simp] theorem Core.raise_srseed : (c.raise f).srseed = c.srseed := by simp only [Core.raise]
@[simp] theorem Core.raise_tsk : (c.raise f).tsk = c.tsk := by simp only [Core.raise]
@[simp] theorem Core.raise_tstamp : (c.raise f).tstamp = c.tstamp := by simp only [Core.raise]
@[simp] theorem Core.raise_ssn : (c.raise f).ssn = c.ssn := by simp only [Core.raise]
@[simp] theorem Core.raise_xt : (c.raise f).xt = c.xt := by simp only [Core.raise]
@[simp] theorem Core.raise_xpc : (c.raise f).xpc = c.xpc := by simp only [Core.raise]
@[simp] theorem Core.raise_syncm : (c.raise f).syncm = c.syncm := by simp only [Core.raise]
@[simp] theorem Core.raise_vote : (c.raise f).vote = c.vote := by simp only [Core.raise]
@[simp] theorem Core.raise_wptr : (c.raise f).wptr = c.wptr := by simp only [Core.raise]
@[simp] theorem Core.raise_wsp : (c.raise f).wsp = c.wsp := by simp only [Core.raise]
@[simp] theorem Core.raise_dsd : (c.raise f).dsd = c.dsd := by simp only [Core.raise]
@[simp] theorem Core.raise_repc : (c.raise f).repc = c.repc := by simp only [Core.raise]
@[simp] theorem Core.raise_curpol : (c.raise f).curpol = c.curpol := by simp only [Core.raise]
@[simp] theorem Core.raise_gst : (c.raise f).gst = c.gst := by simp only [Core.raise]
@[simp] theorem Core.raise_aw0 : (c.raise f).aw0 = c.aw0 := by simp only [Core.raise]
@[simp] theorem Core.raise_aw1 : (c.raise f).aw1 = c.aw1 := by simp only [Core.raise]
@[simp] theorem Core.raise_atp : (c.raise f).atp = c.atp := by simp only [Core.raise]
@[simp] theorem Core.raise_gcfg : (c.raise f).gcfg = c.gcfg := by simp only [Core.raise]
@[simp] theorem Core.raise_recm : (c.raise f).recm = c.recm := by simp only [Core.raise]
@[simp] theorem Core.raise_logb : (c.raise f).logb = c.logb := by simp only [Core.raise]
@[simp] theorem Core.raise_logl : (c.raise f).logl = c.logl := by simp only [Core.raise]
@[simp] theorem Core.raise_logp : (c.raise f).logp = c.logp := by simp only [Core.raise]
@[simp] theorem Core.raise_trapc : (c.raise f).trapc = c.trapc := by simp only [Core.raise]
@[simp] theorem Core.raise_trappc : (c.raise f).trappc = c.trappc := by simp only [Core.raise]
@[simp] theorem Core.raise_trapv : (c.raise f).trapv = c.trapv := by simp only [Core.raise]
@[simp] theorem Core.raise_tvec : (c.raise f).tvec = c.tvec := by simp only [Core.raise]
@[simp] theorem Core.raise_tnan : (c.raise f).tnan = c.tnan := by simp only [Core.raise]
@[simp] theorem Core.raise_tof : (c.raise f).tof = c.tof := by simp only [Core.raise]
@[simp] theorem Core.raise_repBuf : (c.raise f).repBuf = c.repBuf := by simp only [Core.raise]
@[simp] theorem Core.raise_repSusp : (c.raise f).repSusp = c.repSusp := by simp only [Core.raise]
@[simp] theorem Core.raise_dom : (c.raise f).dom = c.dom := by simp only [Core.raise]
@[simp] theorem Core.raise_budget : (c.raise f).budget = c.budget := by simp only [Core.raise]
@[simp] theorem Core.raise_vsaved : (c.raise f).vsaved = c.vsaved := by simp only [Core.raise]
@[simp] theorem Core.raise_tasks : (c.raise f).tasks = c.tasks := by simp only [Core.raise]
@[simp] theorem Core.raise_passes : (c.raise f).passes = c.passes := by simp only [Core.raise]
@[simp] theorem Core.raise_yields : (c.raise f).yields = c.yields := by simp only [Core.raise]
@[simp] theorem Core.raise_setup : (c.raise f).setup = c.setup := by simp only [Core.raise]
@[simp] theorem Core.raise_again : (c.raise f).again = c.again := by simp only [Core.raise]
@[simp] theorem Core.raise_older : (c.raise f).older = c.older := by simp only [Core.raise]
@[simp] theorem Core.raise_qfail : (c.raise f).qfail = c.qfail := by simp only [Core.raise]
@[simp] theorem Core.raise_act : (c.raise f).act = c.act := by simp only [Core.raise]
@[simp] theorem Core.raise_visit : (c.raise f).visit = c.visit := by simp only [Core.raise]
@[simp] theorem Core.raise_sleep : (c.raise f).sleep = c.sleep := by simp only [Core.raise]
@[simp] theorem Core.raise_awaits : (c.raise f).awaits = c.awaits := by simp only [Core.raise]
@[simp] theorem Core.raise_deferred : (c.raise f).deferred = c.deferred := by simp only [Core.raise]
@[simp] theorem Core.raise_ordered : (c.raise f).ordered = c.ordered := by simp only [Core.raise]
@[simp] theorem Core.raise_ports : (c.raise f).ports = c.ports := by simp only [Core.raise]
@[simp] theorem Core.raise_tileq : (c.raise f).tileq = c.tileq := by simp only [Core.raise]
@[simp] theorem Core.raise_reissue : (c.raise f).reissue = c.reissue := by simp only [Core.raise]
@[simp] theorem Core.raise_join : (c.raise f).join = c.join := by simp only [Core.raise]
@[simp] theorem Core.raise_rev : (c.raise f).rev = c.rev := by simp only [Core.raise]
@[simp] theorem Core.raise_sels : (c.raise f).sels = c.sels := by simp only [Core.raise]
@[simp] theorem Core.raise_syncv : (c.raise f).syncv = c.syncv := by simp only [Core.raise]
@[simp] theorem Core.raise_pushes : (c.raise f).pushes = c.pushes := by simp only [Core.raise]
@[simp] theorem Core.raise_cecnt : (c.raise f).cecnt = c.cecnt := by simp only [Core.raise]
@[simp] theorem Core.raise_ctr : (c.raise f).ctr = c.ctr := by simp only [Core.raise]
@[simp] theorem Core.raise_ctrSel : (c.raise f).ctrSel = c.ctrSel := by simp only [Core.raise]
@[simp] theorem Core.raise_passHit : (c.raise f).passHit = c.passHit := by simp only [Core.raise]
@[simp] theorem Core.raise_wctl : (c.raise f).wctl = c.wctl := by simp only [Core.raise]
@[simp] theorem Core.raise_wbase : (c.raise f).wbase = c.wbase := by simp only [Core.raise]
@[simp] theorem Core.raise_l1 : (c.raise f).l1 = c.l1 := by simp only [Core.raise]
@[simp] theorem Core.raise_farReq : (c.raise f).farReq = c.farReq := by simp only [Core.raise]
@[simp] theorem Core.raise_walked : (c.raise f).walked = c.walked := by simp only [Core.raise]
@[simp] theorem Core.raise_member : (c.raise f).member = c.member := by simp only [Core.raise]
@[simp] theorem Core.raise_gang : (c.raise f).gang = c.gang := by simp only [Core.raise]
@[simp] theorem Core.raise_took : (c.raise f).took = c.took := by simp only [Core.raise]
@[simp] theorem Core.raise_stream : (c.raise f).stream = c.stream := by simp only [Core.raise]
@[simp] theorem Core.raise_ahead : (c.raise f).ahead = c.ahead := by simp only [Core.raise]
@[simp] theorem Core.raise_begun : (c.raise f).begun = c.begun := by simp only [Core.raise]
@[simp] theorem Core.raise_arrived : (c.raise f).arrived = c.arrived := by simp only [Core.raise]
@[simp] theorem Core.raise_since : (c.raise f).since = c.since := by simp only [Core.raise]
@[simp] theorem Core.raise_gated : (c.raise f).gated = c.gated := by simp only [Core.raise]
@[simp] theorem Core.raise_freeing : (c.raise f).freeing = c.freeing := by simp only [Core.raise]
@[simp] theorem Core.raise_unwindTo : (c.raise f).unwindTo = c.unwindTo := by simp only [Core.raise]

end

section
variable (c : Core) (i : Nat) (e : Entry)

@[simp] theorem Core.setEntry_g : (c.setEntry i e).g = c.g := by simp only [Core.setEntry]
@[simp] theorem Core.setEntry_frames : (c.setEntry i e).frames = c.frames := by simp only [Core.setEntry]
@[simp] theorem Core.setEntry_p : (c.setEntry i e).p = c.p := by simp only [Core.setEntry]
@[simp] theorem Core.setEntry_v : (c.setEntry i e).v = c.v := by simp only [Core.setEntry]
@[simp] theorem Core.setEntry_q : (c.setEntry i e).q = c.q := by simp only [Core.setEntry]
@[simp] theorem Core.setEntry_acc : (c.setEntry i e).acc = c.acc := by simp only [Core.setEntry]
@[simp] theorem Core.setEntry_bd : (c.setEntry i e).bd = c.bd := by simp only [Core.setEntry]
@[simp] theorem Core.setEntry_lw : (c.setEntry i e).lw = c.lw := by simp only [Core.setEntry]
@[simp] theorem Core.setEntry_mc : (c.setEntry i e).mc = c.mc := by simp only [Core.setEntry]
@[simp] theorem Core.setEntry_pc : (c.setEntry i e).pc = c.pc := by simp only [Core.setEntry]
@[simp] theorem Core.setEntry_latch : (c.setEntry i e).latch = c.latch := by simp only [Core.setEntry]
@[simp] theorem Core.setEntry_held : (c.setEntry i e).held = c.held := by simp only [Core.setEntry]
@[simp] theorem Core.setEntry_fcsr : (c.setEntry i e).fcsr = c.fcsr := by simp only [Core.setEntry]
@[simp] theorem Core.setEntry_srseed : (c.setEntry i e).srseed = c.srseed := by simp only [Core.setEntry]
@[simp] theorem Core.setEntry_tsk : (c.setEntry i e).tsk = c.tsk := by simp only [Core.setEntry]
@[simp] theorem Core.setEntry_tstamp : (c.setEntry i e).tstamp = c.tstamp := by simp only [Core.setEntry]
@[simp] theorem Core.setEntry_ssn : (c.setEntry i e).ssn = c.ssn := by simp only [Core.setEntry]
@[simp] theorem Core.setEntry_xt : (c.setEntry i e).xt = c.xt := by simp only [Core.setEntry]
@[simp] theorem Core.setEntry_xpc : (c.setEntry i e).xpc = c.xpc := by simp only [Core.setEntry]
@[simp] theorem Core.setEntry_syncm : (c.setEntry i e).syncm = c.syncm := by simp only [Core.setEntry]
@[simp] theorem Core.setEntry_vote : (c.setEntry i e).vote = c.vote := by simp only [Core.setEntry]
@[simp] theorem Core.setEntry_wptr : (c.setEntry i e).wptr = c.wptr := by simp only [Core.setEntry]
@[simp] theorem Core.setEntry_wsp : (c.setEntry i e).wsp = c.wsp := by simp only [Core.setEntry]
@[simp] theorem Core.setEntry_dsd : (c.setEntry i e).dsd = c.dsd := by simp only [Core.setEntry]
@[simp] theorem Core.setEntry_repc : (c.setEntry i e).repc = c.repc := by simp only [Core.setEntry]
@[simp] theorem Core.setEntry_curpol : (c.setEntry i e).curpol = c.curpol := by simp only [Core.setEntry]
@[simp] theorem Core.setEntry_gst : (c.setEntry i e).gst = c.gst := by simp only [Core.setEntry]
@[simp] theorem Core.setEntry_aw0 : (c.setEntry i e).aw0 = c.aw0 := by simp only [Core.setEntry]
@[simp] theorem Core.setEntry_aw1 : (c.setEntry i e).aw1 = c.aw1 := by simp only [Core.setEntry]
@[simp] theorem Core.setEntry_atp : (c.setEntry i e).atp = c.atp := by simp only [Core.setEntry]
@[simp] theorem Core.setEntry_gcfg : (c.setEntry i e).gcfg = c.gcfg := by simp only [Core.setEntry]
@[simp] theorem Core.setEntry_recm : (c.setEntry i e).recm = c.recm := by simp only [Core.setEntry]
@[simp] theorem Core.setEntry_logb : (c.setEntry i e).logb = c.logb := by simp only [Core.setEntry]
@[simp] theorem Core.setEntry_logl : (c.setEntry i e).logl = c.logl := by simp only [Core.setEntry]
@[simp] theorem Core.setEntry_logp : (c.setEntry i e).logp = c.logp := by simp only [Core.setEntry]
@[simp] theorem Core.setEntry_trapc : (c.setEntry i e).trapc = c.trapc := by simp only [Core.setEntry]
@[simp] theorem Core.setEntry_trappc : (c.setEntry i e).trappc = c.trappc := by simp only [Core.setEntry]
@[simp] theorem Core.setEntry_trapv : (c.setEntry i e).trapv = c.trapv := by simp only [Core.setEntry]
@[simp] theorem Core.setEntry_tvec : (c.setEntry i e).tvec = c.tvec := by simp only [Core.setEntry]
@[simp] theorem Core.setEntry_tnan : (c.setEntry i e).tnan = c.tnan := by simp only [Core.setEntry]
@[simp] theorem Core.setEntry_tof : (c.setEntry i e).tof = c.tof := by simp only [Core.setEntry]
@[simp] theorem Core.setEntry_repBuf : (c.setEntry i e).repBuf = c.repBuf := by simp only [Core.setEntry]
@[simp] theorem Core.setEntry_repSusp : (c.setEntry i e).repSusp = c.repSusp := by simp only [Core.setEntry]
@[simp] theorem Core.setEntry_dom : (c.setEntry i e).dom = c.dom := by simp only [Core.setEntry]
@[simp] theorem Core.setEntry_budget : (c.setEntry i e).budget = c.budget := by simp only [Core.setEntry]
@[simp] theorem Core.setEntry_vsaved : (c.setEntry i e).vsaved = c.vsaved := by simp only [Core.setEntry]
@[simp] theorem Core.setEntry_passes : (c.setEntry i e).passes = c.passes := by simp only [Core.setEntry]
@[simp] theorem Core.setEntry_yields : (c.setEntry i e).yields = c.yields := by simp only [Core.setEntry]
@[simp] theorem Core.setEntry_setup : (c.setEntry i e).setup = c.setup := by simp only [Core.setEntry]
@[simp] theorem Core.setEntry_again : (c.setEntry i e).again = c.again := by simp only [Core.setEntry]
@[simp] theorem Core.setEntry_older : (c.setEntry i e).older = c.older := by simp only [Core.setEntry]
@[simp] theorem Core.setEntry_qfail : (c.setEntry i e).qfail = c.qfail := by simp only [Core.setEntry]
@[simp] theorem Core.setEntry_act : (c.setEntry i e).act = c.act := by simp only [Core.setEntry]
@[simp] theorem Core.setEntry_visit : (c.setEntry i e).visit = c.visit := by simp only [Core.setEntry]
@[simp] theorem Core.setEntry_sleep : (c.setEntry i e).sleep = c.sleep := by simp only [Core.setEntry]
@[simp] theorem Core.setEntry_awaits : (c.setEntry i e).awaits = c.awaits := by simp only [Core.setEntry]
@[simp] theorem Core.setEntry_deferred : (c.setEntry i e).deferred = c.deferred := by simp only [Core.setEntry]
@[simp] theorem Core.setEntry_ordered : (c.setEntry i e).ordered = c.ordered := by simp only [Core.setEntry]
@[simp] theorem Core.setEntry_ports : (c.setEntry i e).ports = c.ports := by simp only [Core.setEntry]
@[simp] theorem Core.setEntry_tileq : (c.setEntry i e).tileq = c.tileq := by simp only [Core.setEntry]
@[simp] theorem Core.setEntry_reissue : (c.setEntry i e).reissue = c.reissue := by simp only [Core.setEntry]
@[simp] theorem Core.setEntry_join : (c.setEntry i e).join = c.join := by simp only [Core.setEntry]
@[simp] theorem Core.setEntry_rev : (c.setEntry i e).rev = c.rev := by simp only [Core.setEntry]
@[simp] theorem Core.setEntry_sels : (c.setEntry i e).sels = c.sels := by simp only [Core.setEntry]
@[simp] theorem Core.setEntry_syncv : (c.setEntry i e).syncv = c.syncv := by simp only [Core.setEntry]
@[simp] theorem Core.setEntry_pushes : (c.setEntry i e).pushes = c.pushes := by simp only [Core.setEntry]
@[simp] theorem Core.setEntry_cecnt : (c.setEntry i e).cecnt = c.cecnt := by simp only [Core.setEntry]
@[simp] theorem Core.setEntry_ctr : (c.setEntry i e).ctr = c.ctr := by simp only [Core.setEntry]
@[simp] theorem Core.setEntry_ctrSel : (c.setEntry i e).ctrSel = c.ctrSel := by simp only [Core.setEntry]
@[simp] theorem Core.setEntry_passHit : (c.setEntry i e).passHit = c.passHit := by simp only [Core.setEntry]
@[simp] theorem Core.setEntry_wctl : (c.setEntry i e).wctl = c.wctl := by simp only [Core.setEntry]
@[simp] theorem Core.setEntry_wbase : (c.setEntry i e).wbase = c.wbase := by simp only [Core.setEntry]
@[simp] theorem Core.setEntry_l1 : (c.setEntry i e).l1 = c.l1 := by simp only [Core.setEntry]
@[simp] theorem Core.setEntry_farReq : (c.setEntry i e).farReq = c.farReq := by simp only [Core.setEntry]
@[simp] theorem Core.setEntry_walked : (c.setEntry i e).walked = c.walked := by simp only [Core.setEntry]
@[simp] theorem Core.setEntry_member : (c.setEntry i e).member = c.member := by simp only [Core.setEntry]
@[simp] theorem Core.setEntry_gang : (c.setEntry i e).gang = c.gang := by simp only [Core.setEntry]
@[simp] theorem Core.setEntry_took : (c.setEntry i e).took = c.took := by simp only [Core.setEntry]
@[simp] theorem Core.setEntry_stream : (c.setEntry i e).stream = c.stream := by simp only [Core.setEntry]
@[simp] theorem Core.setEntry_ahead : (c.setEntry i e).ahead = c.ahead := by simp only [Core.setEntry]
@[simp] theorem Core.setEntry_begun : (c.setEntry i e).begun = c.begun := by simp only [Core.setEntry]
@[simp] theorem Core.setEntry_arrived : (c.setEntry i e).arrived = c.arrived := by simp only [Core.setEntry]
@[simp] theorem Core.setEntry_since : (c.setEntry i e).since = c.since := by simp only [Core.setEntry]
@[simp] theorem Core.setEntry_gated : (c.setEntry i e).gated = c.gated := by simp only [Core.setEntry]
@[simp] theorem Core.setEntry_freeing : (c.setEntry i e).freeing = c.freeing := by simp only [Core.setEntry]
@[simp] theorem Core.setEntry_unwindTo : (c.setEntry i e).unwindTo = c.unwindTo := by simp only [Core.setEntry]

end

section
variable (c : Core) (r : Nat) (x : W64)

@[simp] theorem Core.setS_p : (c.setS r x).p = c.p := by unfold Core.setS; rw [apply_ite Core.p, apply_ite Core.p]; simp only [ite_self]
@[simp] theorem Core.setS_v : (c.setS r x).v = c.v := by unfold Core.setS; rw [apply_ite Core.v, apply_ite Core.v]; simp only [ite_self]
@[simp] theorem Core.setS_q : (c.setS r x).q = c.q := by unfold Core.setS; rw [apply_ite Core.q, apply_ite Core.q]; simp only [ite_self]
@[simp] theorem Core.setS_acc : (c.setS r x).acc = c.acc := by unfold Core.setS; rw [apply_ite Core.acc, apply_ite Core.acc]; simp only [ite_self]
@[simp] theorem Core.setS_bd : (c.setS r x).bd = c.bd := by unfold Core.setS; rw [apply_ite Core.bd, apply_ite Core.bd]; simp only [ite_self]
@[simp] theorem Core.setS_lw : (c.setS r x).lw = c.lw := by unfold Core.setS; rw [apply_ite Core.lw, apply_ite Core.lw]; simp only [ite_self]
@[simp] theorem Core.setS_mc : (c.setS r x).mc = c.mc := by unfold Core.setS; rw [apply_ite Core.mc, apply_ite Core.mc]; simp only [ite_self]
@[simp] theorem Core.setS_pc : (c.setS r x).pc = c.pc := by unfold Core.setS; rw [apply_ite Core.pc, apply_ite Core.pc]; simp only [ite_self]
@[simp] theorem Core.setS_latch : (c.setS r x).latch = c.latch := by unfold Core.setS; rw [apply_ite Core.latch, apply_ite Core.latch]; simp only [ite_self]
@[simp] theorem Core.setS_held : (c.setS r x).held = c.held := by unfold Core.setS; rw [apply_ite Core.held, apply_ite Core.held]; simp only [ite_self]
@[simp] theorem Core.setS_fcsr : (c.setS r x).fcsr = c.fcsr := by unfold Core.setS; rw [apply_ite Core.fcsr, apply_ite Core.fcsr]; simp only [ite_self]
@[simp] theorem Core.setS_srseed : (c.setS r x).srseed = c.srseed := by unfold Core.setS; rw [apply_ite Core.srseed, apply_ite Core.srseed]; simp only [ite_self]
@[simp] theorem Core.setS_tsk : (c.setS r x).tsk = c.tsk := by unfold Core.setS; rw [apply_ite Core.tsk, apply_ite Core.tsk]; simp only [ite_self]
@[simp] theorem Core.setS_tstamp : (c.setS r x).tstamp = c.tstamp := by unfold Core.setS; rw [apply_ite Core.tstamp, apply_ite Core.tstamp]; simp only [ite_self]
@[simp] theorem Core.setS_ssn : (c.setS r x).ssn = c.ssn := by unfold Core.setS; rw [apply_ite Core.ssn, apply_ite Core.ssn]; simp only [ite_self]
@[simp] theorem Core.setS_xt : (c.setS r x).xt = c.xt := by unfold Core.setS; rw [apply_ite Core.xt, apply_ite Core.xt]; simp only [ite_self]
@[simp] theorem Core.setS_xpc : (c.setS r x).xpc = c.xpc := by unfold Core.setS; rw [apply_ite Core.xpc, apply_ite Core.xpc]; simp only [ite_self]
@[simp] theorem Core.setS_syncm : (c.setS r x).syncm = c.syncm := by unfold Core.setS; rw [apply_ite Core.syncm, apply_ite Core.syncm]; simp only [ite_self]
@[simp] theorem Core.setS_vote : (c.setS r x).vote = c.vote := by unfold Core.setS; rw [apply_ite Core.vote, apply_ite Core.vote]; simp only [ite_self]
@[simp] theorem Core.setS_wptr : (c.setS r x).wptr = c.wptr := by unfold Core.setS; rw [apply_ite Core.wptr, apply_ite Core.wptr]; simp only [ite_self]
@[simp] theorem Core.setS_wsp : (c.setS r x).wsp = c.wsp := by unfold Core.setS; rw [apply_ite Core.wsp, apply_ite Core.wsp]; simp only [ite_self]
@[simp] theorem Core.setS_dsd : (c.setS r x).dsd = c.dsd := by unfold Core.setS; rw [apply_ite Core.dsd, apply_ite Core.dsd]; simp only [ite_self]
@[simp] theorem Core.setS_repc : (c.setS r x).repc = c.repc := by unfold Core.setS; rw [apply_ite Core.repc, apply_ite Core.repc]; simp only [ite_self]
@[simp] theorem Core.setS_curpol : (c.setS r x).curpol = c.curpol := by unfold Core.setS; rw [apply_ite Core.curpol, apply_ite Core.curpol]; simp only [ite_self]
@[simp] theorem Core.setS_gst : (c.setS r x).gst = c.gst := by unfold Core.setS; rw [apply_ite Core.gst, apply_ite Core.gst]; simp only [ite_self]
@[simp] theorem Core.setS_aw0 : (c.setS r x).aw0 = c.aw0 := by unfold Core.setS; rw [apply_ite Core.aw0, apply_ite Core.aw0]; simp only [ite_self]
@[simp] theorem Core.setS_aw1 : (c.setS r x).aw1 = c.aw1 := by unfold Core.setS; rw [apply_ite Core.aw1, apply_ite Core.aw1]; simp only [ite_self]
@[simp] theorem Core.setS_atp : (c.setS r x).atp = c.atp := by unfold Core.setS; rw [apply_ite Core.atp, apply_ite Core.atp]; simp only [ite_self]
@[simp] theorem Core.setS_gcfg : (c.setS r x).gcfg = c.gcfg := by unfold Core.setS; rw [apply_ite Core.gcfg, apply_ite Core.gcfg]; simp only [ite_self]
@[simp] theorem Core.setS_recm : (c.setS r x).recm = c.recm := by unfold Core.setS; rw [apply_ite Core.recm, apply_ite Core.recm]; simp only [ite_self]
@[simp] theorem Core.setS_logb : (c.setS r x).logb = c.logb := by unfold Core.setS; rw [apply_ite Core.logb, apply_ite Core.logb]; simp only [ite_self]
@[simp] theorem Core.setS_logl : (c.setS r x).logl = c.logl := by unfold Core.setS; rw [apply_ite Core.logl, apply_ite Core.logl]; simp only [ite_self]
@[simp] theorem Core.setS_logp : (c.setS r x).logp = c.logp := by unfold Core.setS; rw [apply_ite Core.logp, apply_ite Core.logp]; simp only [ite_self]
@[simp] theorem Core.setS_trapc : (c.setS r x).trapc = c.trapc := by unfold Core.setS; rw [apply_ite Core.trapc, apply_ite Core.trapc]; simp only [ite_self]
@[simp] theorem Core.setS_trappc : (c.setS r x).trappc = c.trappc := by unfold Core.setS; rw [apply_ite Core.trappc, apply_ite Core.trappc]; simp only [ite_self]
@[simp] theorem Core.setS_trapv : (c.setS r x).trapv = c.trapv := by unfold Core.setS; rw [apply_ite Core.trapv, apply_ite Core.trapv]; simp only [ite_self]
@[simp] theorem Core.setS_tvec : (c.setS r x).tvec = c.tvec := by unfold Core.setS; rw [apply_ite Core.tvec, apply_ite Core.tvec]; simp only [ite_self]
@[simp] theorem Core.setS_tnan : (c.setS r x).tnan = c.tnan := by unfold Core.setS; rw [apply_ite Core.tnan, apply_ite Core.tnan]; simp only [ite_self]
@[simp] theorem Core.setS_tof : (c.setS r x).tof = c.tof := by unfold Core.setS; rw [apply_ite Core.tof, apply_ite Core.tof]; simp only [ite_self]
@[simp] theorem Core.setS_repBuf : (c.setS r x).repBuf = c.repBuf := by unfold Core.setS; rw [apply_ite Core.repBuf, apply_ite Core.repBuf]; simp only [ite_self]
@[simp] theorem Core.setS_repSusp : (c.setS r x).repSusp = c.repSusp := by unfold Core.setS; rw [apply_ite Core.repSusp, apply_ite Core.repSusp]; simp only [ite_self]
@[simp] theorem Core.setS_dom : (c.setS r x).dom = c.dom := by unfold Core.setS; rw [apply_ite Core.dom, apply_ite Core.dom]; simp only [ite_self]
@[simp] theorem Core.setS_budget : (c.setS r x).budget = c.budget := by unfold Core.setS; rw [apply_ite Core.budget, apply_ite Core.budget]; simp only [ite_self]
@[simp] theorem Core.setS_vsaved : (c.setS r x).vsaved = c.vsaved := by unfold Core.setS; rw [apply_ite Core.vsaved, apply_ite Core.vsaved]; simp only [ite_self]
@[simp] theorem Core.setS_tasks : (c.setS r x).tasks = c.tasks := by unfold Core.setS; rw [apply_ite Core.tasks, apply_ite Core.tasks]; simp only [ite_self]
@[simp] theorem Core.setS_passes : (c.setS r x).passes = c.passes := by unfold Core.setS; rw [apply_ite Core.passes, apply_ite Core.passes]; simp only [ite_self]
@[simp] theorem Core.setS_yields : (c.setS r x).yields = c.yields := by unfold Core.setS; rw [apply_ite Core.yields, apply_ite Core.yields]; simp only [ite_self]
@[simp] theorem Core.setS_setup : (c.setS r x).setup = c.setup := by unfold Core.setS; rw [apply_ite Core.setup, apply_ite Core.setup]; simp only [ite_self]
@[simp] theorem Core.setS_again : (c.setS r x).again = c.again := by unfold Core.setS; rw [apply_ite Core.again, apply_ite Core.again]; simp only [ite_self]
@[simp] theorem Core.setS_older : (c.setS r x).older = c.older := by unfold Core.setS; rw [apply_ite Core.older, apply_ite Core.older]; simp only [ite_self]
@[simp] theorem Core.setS_qfail : (c.setS r x).qfail = c.qfail := by unfold Core.setS; rw [apply_ite Core.qfail, apply_ite Core.qfail]; simp only [ite_self]
@[simp] theorem Core.setS_act : (c.setS r x).act = c.act := by unfold Core.setS; rw [apply_ite Core.act, apply_ite Core.act]; simp only [ite_self]
@[simp] theorem Core.setS_visit : (c.setS r x).visit = c.visit := by unfold Core.setS; rw [apply_ite Core.visit, apply_ite Core.visit]; simp only [ite_self]
@[simp] theorem Core.setS_sleep : (c.setS r x).sleep = c.sleep := by unfold Core.setS; rw [apply_ite Core.sleep, apply_ite Core.sleep]; simp only [ite_self]
@[simp] theorem Core.setS_awaits : (c.setS r x).awaits = c.awaits := by unfold Core.setS; rw [apply_ite Core.awaits, apply_ite Core.awaits]; simp only [ite_self]
@[simp] theorem Core.setS_deferred : (c.setS r x).deferred = c.deferred := by unfold Core.setS; rw [apply_ite Core.deferred, apply_ite Core.deferred]; simp only [ite_self]
@[simp] theorem Core.setS_ordered : (c.setS r x).ordered = c.ordered := by unfold Core.setS; rw [apply_ite Core.ordered, apply_ite Core.ordered]; simp only [ite_self]
@[simp] theorem Core.setS_ports : (c.setS r x).ports = c.ports := by unfold Core.setS; rw [apply_ite Core.ports, apply_ite Core.ports]; simp only [ite_self]
@[simp] theorem Core.setS_tileq : (c.setS r x).tileq = c.tileq := by unfold Core.setS; rw [apply_ite Core.tileq, apply_ite Core.tileq]; simp only [ite_self]
@[simp] theorem Core.setS_reissue : (c.setS r x).reissue = c.reissue := by unfold Core.setS; rw [apply_ite Core.reissue, apply_ite Core.reissue]; simp only [ite_self]
@[simp] theorem Core.setS_join : (c.setS r x).join = c.join := by unfold Core.setS; rw [apply_ite Core.join, apply_ite Core.join]; simp only [ite_self]
@[simp] theorem Core.setS_rev : (c.setS r x).rev = c.rev := by unfold Core.setS; rw [apply_ite Core.rev, apply_ite Core.rev]; simp only [ite_self]
@[simp] theorem Core.setS_sels : (c.setS r x).sels = c.sels := by unfold Core.setS; rw [apply_ite Core.sels, apply_ite Core.sels]; simp only [ite_self]
@[simp] theorem Core.setS_syncv : (c.setS r x).syncv = c.syncv := by unfold Core.setS; rw [apply_ite Core.syncv, apply_ite Core.syncv]; simp only [ite_self]
@[simp] theorem Core.setS_pushes : (c.setS r x).pushes = c.pushes := by unfold Core.setS; rw [apply_ite Core.pushes, apply_ite Core.pushes]; simp only [ite_self]
@[simp] theorem Core.setS_cecnt : (c.setS r x).cecnt = c.cecnt := by unfold Core.setS; rw [apply_ite Core.cecnt, apply_ite Core.cecnt]; simp only [ite_self]
@[simp] theorem Core.setS_ctr : (c.setS r x).ctr = c.ctr := by unfold Core.setS; rw [apply_ite Core.ctr, apply_ite Core.ctr]; simp only [ite_self]
@[simp] theorem Core.setS_ctrSel : (c.setS r x).ctrSel = c.ctrSel := by unfold Core.setS; rw [apply_ite Core.ctrSel, apply_ite Core.ctrSel]; simp only [ite_self]
@[simp] theorem Core.setS_passHit : (c.setS r x).passHit = c.passHit := by unfold Core.setS; rw [apply_ite Core.passHit, apply_ite Core.passHit]; simp only [ite_self]
@[simp] theorem Core.setS_wctl : (c.setS r x).wctl = c.wctl := by unfold Core.setS; rw [apply_ite Core.wctl, apply_ite Core.wctl]; simp only [ite_self]
@[simp] theorem Core.setS_wbase : (c.setS r x).wbase = c.wbase := by unfold Core.setS; rw [apply_ite Core.wbase, apply_ite Core.wbase]; simp only [ite_self]
@[simp] theorem Core.setS_l1 : (c.setS r x).l1 = c.l1 := by unfold Core.setS; rw [apply_ite Core.l1, apply_ite Core.l1]; simp only [ite_self]
@[simp] theorem Core.setS_farReq : (c.setS r x).farReq = c.farReq := by unfold Core.setS; rw [apply_ite Core.farReq, apply_ite Core.farReq]; simp only [ite_self]
@[simp] theorem Core.setS_walked : (c.setS r x).walked = c.walked := by unfold Core.setS; rw [apply_ite Core.walked, apply_ite Core.walked]; simp only [ite_self]
@[simp] theorem Core.setS_member : (c.setS r x).member = c.member := by unfold Core.setS; rw [apply_ite Core.member, apply_ite Core.member]; simp only [ite_self]
@[simp] theorem Core.setS_gang : (c.setS r x).gang = c.gang := by unfold Core.setS; rw [apply_ite Core.gang, apply_ite Core.gang]; simp only [ite_self]
@[simp] theorem Core.setS_took : (c.setS r x).took = c.took := by unfold Core.setS; rw [apply_ite Core.took, apply_ite Core.took]; simp only [ite_self]
@[simp] theorem Core.setS_stream : (c.setS r x).stream = c.stream := by unfold Core.setS; rw [apply_ite Core.stream, apply_ite Core.stream]; simp only [ite_self]
@[simp] theorem Core.setS_ahead : (c.setS r x).ahead = c.ahead := by unfold Core.setS; rw [apply_ite Core.ahead, apply_ite Core.ahead]; simp only [ite_self]
@[simp] theorem Core.setS_begun : (c.setS r x).begun = c.begun := by unfold Core.setS; rw [apply_ite Core.begun, apply_ite Core.begun]; simp only [ite_self]
@[simp] theorem Core.setS_arrived : (c.setS r x).arrived = c.arrived := by unfold Core.setS; rw [apply_ite Core.arrived, apply_ite Core.arrived]; simp only [ite_self]
@[simp] theorem Core.setS_since : (c.setS r x).since = c.since := by unfold Core.setS; rw [apply_ite Core.since, apply_ite Core.since]; simp only [ite_self]
@[simp] theorem Core.setS_gated : (c.setS r x).gated = c.gated := by unfold Core.setS; rw [apply_ite Core.gated, apply_ite Core.gated]; simp only [ite_self]
@[simp] theorem Core.setS_freeing : (c.setS r x).freeing = c.freeing := by unfold Core.setS; rw [apply_ite Core.freeing, apply_ite Core.freeing]; simp only [ite_self]
@[simp] theorem Core.setS_unwindTo : (c.setS r x).unwindTo = c.unwindTo := by unfold Core.setS; rw [apply_ite Core.unwindTo, apply_ite Core.unwindTo]; simp only [ite_self]

end

section
variable (c : Core) (i : Nat) (b : Bool)

@[simp] theorem Core.setP_g : (c.setP i b).g = c.g := by unfold Core.setP; rw [apply_ite Core.g]; simp only [ite_self]
@[simp] theorem Core.setP_frames : (c.setP i b).frames = c.frames := by unfold Core.setP; rw [apply_ite Core.frames]; simp only [ite_self]
@[simp] theorem Core.setP_v : (c.setP i b).v = c.v := by unfold Core.setP; rw [apply_ite Core.v]; simp only [ite_self]
@[simp] theorem Core.setP_q : (c.setP i b).q = c.q := by unfold Core.setP; rw [apply_ite Core.q]; simp only [ite_self]
@[simp] theorem Core.setP_acc : (c.setP i b).acc = c.acc := by unfold Core.setP; rw [apply_ite Core.acc]; simp only [ite_self]
@[simp] theorem Core.setP_bd : (c.setP i b).bd = c.bd := by unfold Core.setP; rw [apply_ite Core.bd]; simp only [ite_self]
@[simp] theorem Core.setP_lw : (c.setP i b).lw = c.lw := by unfold Core.setP; rw [apply_ite Core.lw]; simp only [ite_self]
@[simp] theorem Core.setP_mc : (c.setP i b).mc = c.mc := by unfold Core.setP; rw [apply_ite Core.mc]; simp only [ite_self]
@[simp] theorem Core.setP_pc : (c.setP i b).pc = c.pc := by unfold Core.setP; rw [apply_ite Core.pc]; simp only [ite_self]
@[simp] theorem Core.setP_latch : (c.setP i b).latch = c.latch := by unfold Core.setP; rw [apply_ite Core.latch]; simp only [ite_self]
@[simp] theorem Core.setP_held : (c.setP i b).held = c.held := by unfold Core.setP; rw [apply_ite Core.held]; simp only [ite_self]
@[simp] theorem Core.setP_fcsr : (c.setP i b).fcsr = c.fcsr := by unfold Core.setP; rw [apply_ite Core.fcsr]; simp only [ite_self]
@[simp] theorem Core.setP_srseed : (c.setP i b).srseed = c.srseed := by unfold Core.setP; rw [apply_ite Core.srseed]; simp only [ite_self]
@[simp] theorem Core.setP_tsk : (c.setP i b).tsk = c.tsk := by unfold Core.setP; rw [apply_ite Core.tsk]; simp only [ite_self]
@[simp] theorem Core.setP_tstamp : (c.setP i b).tstamp = c.tstamp := by unfold Core.setP; rw [apply_ite Core.tstamp]; simp only [ite_self]
@[simp] theorem Core.setP_ssn : (c.setP i b).ssn = c.ssn := by unfold Core.setP; rw [apply_ite Core.ssn]; simp only [ite_self]
@[simp] theorem Core.setP_xt : (c.setP i b).xt = c.xt := by unfold Core.setP; rw [apply_ite Core.xt]; simp only [ite_self]
@[simp] theorem Core.setP_xpc : (c.setP i b).xpc = c.xpc := by unfold Core.setP; rw [apply_ite Core.xpc]; simp only [ite_self]
@[simp] theorem Core.setP_syncm : (c.setP i b).syncm = c.syncm := by unfold Core.setP; rw [apply_ite Core.syncm]; simp only [ite_self]
@[simp] theorem Core.setP_vote : (c.setP i b).vote = c.vote := by unfold Core.setP; rw [apply_ite Core.vote]; simp only [ite_self]
@[simp] theorem Core.setP_wptr : (c.setP i b).wptr = c.wptr := by unfold Core.setP; rw [apply_ite Core.wptr]; simp only [ite_self]
@[simp] theorem Core.setP_wsp : (c.setP i b).wsp = c.wsp := by unfold Core.setP; rw [apply_ite Core.wsp]; simp only [ite_self]
@[simp] theorem Core.setP_dsd : (c.setP i b).dsd = c.dsd := by unfold Core.setP; rw [apply_ite Core.dsd]; simp only [ite_self]
@[simp] theorem Core.setP_repc : (c.setP i b).repc = c.repc := by unfold Core.setP; rw [apply_ite Core.repc]; simp only [ite_self]
@[simp] theorem Core.setP_curpol : (c.setP i b).curpol = c.curpol := by unfold Core.setP; rw [apply_ite Core.curpol]; simp only [ite_self]
@[simp] theorem Core.setP_gst : (c.setP i b).gst = c.gst := by unfold Core.setP; rw [apply_ite Core.gst]; simp only [ite_self]
@[simp] theorem Core.setP_aw0 : (c.setP i b).aw0 = c.aw0 := by unfold Core.setP; rw [apply_ite Core.aw0]; simp only [ite_self]
@[simp] theorem Core.setP_aw1 : (c.setP i b).aw1 = c.aw1 := by unfold Core.setP; rw [apply_ite Core.aw1]; simp only [ite_self]
@[simp] theorem Core.setP_atp : (c.setP i b).atp = c.atp := by unfold Core.setP; rw [apply_ite Core.atp]; simp only [ite_self]
@[simp] theorem Core.setP_gcfg : (c.setP i b).gcfg = c.gcfg := by unfold Core.setP; rw [apply_ite Core.gcfg]; simp only [ite_self]
@[simp] theorem Core.setP_recm : (c.setP i b).recm = c.recm := by unfold Core.setP; rw [apply_ite Core.recm]; simp only [ite_self]
@[simp] theorem Core.setP_logb : (c.setP i b).logb = c.logb := by unfold Core.setP; rw [apply_ite Core.logb]; simp only [ite_self]
@[simp] theorem Core.setP_logl : (c.setP i b).logl = c.logl := by unfold Core.setP; rw [apply_ite Core.logl]; simp only [ite_self]
@[simp] theorem Core.setP_logp : (c.setP i b).logp = c.logp := by unfold Core.setP; rw [apply_ite Core.logp]; simp only [ite_self]
@[simp] theorem Core.setP_trapc : (c.setP i b).trapc = c.trapc := by unfold Core.setP; rw [apply_ite Core.trapc]; simp only [ite_self]
@[simp] theorem Core.setP_trappc : (c.setP i b).trappc = c.trappc := by unfold Core.setP; rw [apply_ite Core.trappc]; simp only [ite_self]
@[simp] theorem Core.setP_trapv : (c.setP i b).trapv = c.trapv := by unfold Core.setP; rw [apply_ite Core.trapv]; simp only [ite_self]
@[simp] theorem Core.setP_tvec : (c.setP i b).tvec = c.tvec := by unfold Core.setP; rw [apply_ite Core.tvec]; simp only [ite_self]
@[simp] theorem Core.setP_tnan : (c.setP i b).tnan = c.tnan := by unfold Core.setP; rw [apply_ite Core.tnan]; simp only [ite_self]
@[simp] theorem Core.setP_tof : (c.setP i b).tof = c.tof := by unfold Core.setP; rw [apply_ite Core.tof]; simp only [ite_self]
@[simp] theorem Core.setP_repBuf : (c.setP i b).repBuf = c.repBuf := by unfold Core.setP; rw [apply_ite Core.repBuf]; simp only [ite_self]
@[simp] theorem Core.setP_repSusp : (c.setP i b).repSusp = c.repSusp := by unfold Core.setP; rw [apply_ite Core.repSusp]; simp only [ite_self]
@[simp] theorem Core.setP_dom : (c.setP i b).dom = c.dom := by unfold Core.setP; rw [apply_ite Core.dom]; simp only [ite_self]
@[simp] theorem Core.setP_budget : (c.setP i b).budget = c.budget := by unfold Core.setP; rw [apply_ite Core.budget]; simp only [ite_self]
@[simp] theorem Core.setP_vsaved : (c.setP i b).vsaved = c.vsaved := by unfold Core.setP; rw [apply_ite Core.vsaved]; simp only [ite_self]
@[simp] theorem Core.setP_tasks : (c.setP i b).tasks = c.tasks := by unfold Core.setP; rw [apply_ite Core.tasks]; simp only [ite_self]
@[simp] theorem Core.setP_passes : (c.setP i b).passes = c.passes := by unfold Core.setP; rw [apply_ite Core.passes]; simp only [ite_self]
@[simp] theorem Core.setP_yields : (c.setP i b).yields = c.yields := by unfold Core.setP; rw [apply_ite Core.yields]; simp only [ite_self]
@[simp] theorem Core.setP_setup : (c.setP i b).setup = c.setup := by unfold Core.setP; rw [apply_ite Core.setup]; simp only [ite_self]
@[simp] theorem Core.setP_again : (c.setP i b).again = c.again := by unfold Core.setP; rw [apply_ite Core.again]; simp only [ite_self]
@[simp] theorem Core.setP_older : (c.setP i b).older = c.older := by unfold Core.setP; rw [apply_ite Core.older]; simp only [ite_self]
@[simp] theorem Core.setP_qfail : (c.setP i b).qfail = c.qfail := by unfold Core.setP; rw [apply_ite Core.qfail]; simp only [ite_self]
@[simp] theorem Core.setP_act : (c.setP i b).act = c.act := by unfold Core.setP; rw [apply_ite Core.act]; simp only [ite_self]
@[simp] theorem Core.setP_visit : (c.setP i b).visit = c.visit := by unfold Core.setP; rw [apply_ite Core.visit]; simp only [ite_self]
@[simp] theorem Core.setP_sleep : (c.setP i b).sleep = c.sleep := by unfold Core.setP; rw [apply_ite Core.sleep]; simp only [ite_self]
@[simp] theorem Core.setP_awaits : (c.setP i b).awaits = c.awaits := by unfold Core.setP; rw [apply_ite Core.awaits]; simp only [ite_self]
@[simp] theorem Core.setP_deferred : (c.setP i b).deferred = c.deferred := by unfold Core.setP; rw [apply_ite Core.deferred]; simp only [ite_self]
@[simp] theorem Core.setP_ordered : (c.setP i b).ordered = c.ordered := by unfold Core.setP; rw [apply_ite Core.ordered]; simp only [ite_self]
@[simp] theorem Core.setP_ports : (c.setP i b).ports = c.ports := by unfold Core.setP; rw [apply_ite Core.ports]; simp only [ite_self]
@[simp] theorem Core.setP_tileq : (c.setP i b).tileq = c.tileq := by unfold Core.setP; rw [apply_ite Core.tileq]; simp only [ite_self]
@[simp] theorem Core.setP_reissue : (c.setP i b).reissue = c.reissue := by unfold Core.setP; rw [apply_ite Core.reissue]; simp only [ite_self]
@[simp] theorem Core.setP_join : (c.setP i b).join = c.join := by unfold Core.setP; rw [apply_ite Core.join]; simp only [ite_self]
@[simp] theorem Core.setP_rev : (c.setP i b).rev = c.rev := by unfold Core.setP; rw [apply_ite Core.rev]; simp only [ite_self]
@[simp] theorem Core.setP_sels : (c.setP i b).sels = c.sels := by unfold Core.setP; rw [apply_ite Core.sels]; simp only [ite_self]
@[simp] theorem Core.setP_syncv : (c.setP i b).syncv = c.syncv := by unfold Core.setP; rw [apply_ite Core.syncv]; simp only [ite_self]
@[simp] theorem Core.setP_pushes : (c.setP i b).pushes = c.pushes := by unfold Core.setP; rw [apply_ite Core.pushes]; simp only [ite_self]
@[simp] theorem Core.setP_cecnt : (c.setP i b).cecnt = c.cecnt := by unfold Core.setP; rw [apply_ite Core.cecnt]; simp only [ite_self]
@[simp] theorem Core.setP_ctr : (c.setP i b).ctr = c.ctr := by unfold Core.setP; rw [apply_ite Core.ctr]; simp only [ite_self]
@[simp] theorem Core.setP_ctrSel : (c.setP i b).ctrSel = c.ctrSel := by unfold Core.setP; rw [apply_ite Core.ctrSel]; simp only [ite_self]
@[simp] theorem Core.setP_passHit : (c.setP i b).passHit = c.passHit := by unfold Core.setP; rw [apply_ite Core.passHit]; simp only [ite_self]
@[simp] theorem Core.setP_wctl : (c.setP i b).wctl = c.wctl := by unfold Core.setP; rw [apply_ite Core.wctl]; simp only [ite_self]
@[simp] theorem Core.setP_wbase : (c.setP i b).wbase = c.wbase := by unfold Core.setP; rw [apply_ite Core.wbase]; simp only [ite_self]
@[simp] theorem Core.setP_l1 : (c.setP i b).l1 = c.l1 := by unfold Core.setP; rw [apply_ite Core.l1]; simp only [ite_self]
@[simp] theorem Core.setP_farReq : (c.setP i b).farReq = c.farReq := by unfold Core.setP; rw [apply_ite Core.farReq]; simp only [ite_self]
@[simp] theorem Core.setP_walked : (c.setP i b).walked = c.walked := by unfold Core.setP; rw [apply_ite Core.walked]; simp only [ite_self]
@[simp] theorem Core.setP_member : (c.setP i b).member = c.member := by unfold Core.setP; rw [apply_ite Core.member]; simp only [ite_self]
@[simp] theorem Core.setP_gang : (c.setP i b).gang = c.gang := by unfold Core.setP; rw [apply_ite Core.gang]; simp only [ite_self]
@[simp] theorem Core.setP_took : (c.setP i b).took = c.took := by unfold Core.setP; rw [apply_ite Core.took]; simp only [ite_self]
@[simp] theorem Core.setP_stream : (c.setP i b).stream = c.stream := by unfold Core.setP; rw [apply_ite Core.stream]; simp only [ite_self]
@[simp] theorem Core.setP_ahead : (c.setP i b).ahead = c.ahead := by unfold Core.setP; rw [apply_ite Core.ahead]; simp only [ite_self]
@[simp] theorem Core.setP_begun : (c.setP i b).begun = c.begun := by unfold Core.setP; rw [apply_ite Core.begun]; simp only [ite_self]
@[simp] theorem Core.setP_arrived : (c.setP i b).arrived = c.arrived := by unfold Core.setP; rw [apply_ite Core.arrived]; simp only [ite_self]
@[simp] theorem Core.setP_since : (c.setP i b).since = c.since := by unfold Core.setP; rw [apply_ite Core.since]; simp only [ite_self]
@[simp] theorem Core.setP_gated : (c.setP i b).gated = c.gated := by unfold Core.setP; rw [apply_ite Core.gated]; simp only [ite_self]
@[simp] theorem Core.setP_freeing : (c.setP i b).freeing = c.freeing := by unfold Core.setP; rw [apply_ite Core.freeing]; simp only [ite_self]
@[simp] theorem Core.setP_unwindTo : (c.setP i b).unwindTo = c.unwindTo := by unfold Core.setP; rw [apply_ite Core.unwindTo]; simp only [ite_self]

end

end Sys2Proof.Machine
end

