-- ==== Sys2Proof/Laws/Memory.lean ====
section
/-! SUPPORT. Reading after writing: sparse maps, memory and its canonical form, cores, registers. -/

namespace Sys2Proof.Machine

/-! ## Sparse maps -/

theorem sget_sset {α : Type} (l : List (Nat × α)) (k j : Nat) (x : α) :
    sget (sset l k x) j = if k = j then some x else sget l j := by
  induction l with
  | nil => simp [sset, sget]
  | cons e t ih =>
    obtain ⟨i, y⟩ := e
    by_cases h1 : k < i
    · simp [sset, sget, h1]
    · by_cases h2 : k = i
      · subst h2
        by_cases h3 : k = j
        · simp [sset, sget, h3]
        · simp [sset, sget, h3]
      · simp only [sset, h1, h2, if_false]
        by_cases h3 : i = j
        · subst h3; simp [h2, sget]
        · simp [h3, sget, ih]

@[simp] theorem sget_sset_same {α : Type} (l : List (Nat × α)) (k : Nat) (x : α) : sget (sset l k x) k = some x := by
  simp [sget_sset]

theorem sget_sset_other {α : Type} (l : List (Nat × α)) {k j : Nat} (x : α) (h : k ≠ j) :
    sget (sset l k x) j = sget l j := by simp [sget_sset, h]

theorem sget_serase {α : Type} (l : List (Nat × α)) (k j : Nat) :
    sget (serase l k) j = if k = j then none else sget l j := by
  induction l with
  | nil => simp [serase, sget]
  | cons e t ih =>
    obtain ⟨i, y⟩ := e
    unfold serase at ih ⊢
    by_cases h2 : i = k
    · subst h2
      by_cases h3 : i = j <;> simp_all [sget]
    · by_cases h3 : i = j
      · subst h3; simp [List.filter, h2, sget, Ne.symm h2]
      · by_cases h4 : k = j <;> simp_all [List.filter, sget]

/-- Every key of a list that starts above k lies above k. -/
theorem rising_tail {α : Type} {a : Nat × α} {t : List (Nat × α)} (h : rising (a :: t) = true) : rising t = true := by
  cases t with
  | nil => rfl
  | cons b t => simp [rising] at h; exact h.2

theorem rising_head {α : Type} {a : Nat × α} {t : List (Nat × α)} (h : rising (a :: t) = true) :
    ∀ e ∈ t, a.1 < e.1 := by
  induction t generalizing a with
  | nil => simp
  | cons b t ih =>
    simp [rising] at h
    intro e he
    cases he with
    | head => exact h.1
    | tail _ he => exact Nat.lt_trans h.1 (ih h.2 e he)

theorem rising_cons {α : Type} {a : Nat × α} {t : List (Nat × α)} (h : rising t = true) (hl : ∀ e ∈ t, a.1 < e.1) :
    rising (a :: t) = true := by
  cases t with
  | nil => rfl
  | cons b t => simp [rising, h, hl b]

theorem rising_filter {α : Type} (p : Nat × α → Bool) (l : List (Nat × α)) (h : rising l = true) :
    rising (l.filter p) = true := by
  induction l with
  | nil => rfl
  | cons a t ih =>
    have ht := ih (rising_tail h)
    cases hp : p a
    · simpa [List.filter, hp] using ht
    · simp only [List.filter, hp]
      exact rising_cons ht fun e he => rising_head h e (List.mem_filter.1 he).1

theorem mem_sset {α : Type} {l : List (Nat × α)} {k : Nat} {x : α} {e : Nat × α} (h : e ∈ sset l k x) :
    e = (k, x) ∨ e ∈ l := by
  induction l with
  | nil => simpa [sset] using h
  | cons a t ih =>
    obtain ⟨i, y⟩ := a
    unfold sset at h
    split at h
    · simpa using h
    · split at h
      · rcases List.mem_cons.1 h with h | h
        · exact .inl h
        · exact .inr (List.mem_cons_of_mem _ h)
      · rcases List.mem_cons.1 h with h | h
        · exact .inr (by simp [h])
        · rcases ih h with h | h
          · exact .inl h
          · exact .inr (List.mem_cons_of_mem _ h)

theorem rising_sset {α : Type} (l : List (Nat × α)) (k : Nat) (x : α) (h : rising l = true) :
    rising (sset l k x) = true := by
  induction l with
  | nil => rfl
  | cons a t ih =>
    obtain ⟨i, y⟩ := a
    unfold sset
    split
    · next hk => simp [rising, h, hk]
    · split
      · next _ hk =>
        subst hk
        exact rising_cons (rising_tail h) fun e he => rising_head h e he
      · next h1 h2 =>
        refine rising_cons (ih (rising_tail h)) fun e he => ?_
        rcases mem_sset he with he | he
        · subst he; show i < k; omega
        · exact rising_head h e he

/-! ## The canonical form of memory -/

theorem Memory.wf_iff (m : List Host.Cell) :
    Memory.wf m = true ↔ rising m = true ∧ ∀ c ∈ m, c.2 ≠ unwritten := by
  simp [Memory.wf]

theorem Memory.wf_filter (p : Host.Cell → Bool) (m : List Host.Cell) (h : Memory.wf m = true) :
    Memory.wf (m.filter p) = true := by
  rw [Memory.wf_iff] at h ⊢
  exact ⟨rising_filter p m h.1, fun c hc => h.2 c (List.mem_filter.1 hc).1⟩

theorem Memory.wf_memSet (m : List Host.Cell) (k : Nat) (b : Byte) (h : Memory.wf m = true) :
    Memory.wf (memSet m k b) = true := by
  unfold memSet
  split
  · exact Memory.wf_filter _ m h
  · next hb =>
    rw [Memory.wf_iff] at h ⊢
    refine ⟨rising_sset m k b h.1, fun c hc => ?_⟩
    rcases mem_sset hc with hc | hc
    · subst hc; exact hb
    · exact h.2 c hc

theorem State.wf_setByte (s : State) (k : Nat) (b : Byte) (h : Memory.wf s.mem = true) :
    Memory.wf (s.setByte k b).mem = true := Memory.wf_memSet _ _ _ h

theorem State.wf_write : ∀ (n k x : Nat) (s : State), Memory.wf s.mem = true → Memory.wf (s.write k n x).mem = true
  | 0, _, _, _, h => h
  | n + 1, k, x, s, h => State.wf_write n (k + 1) (x / 256) _ (s.wf_setByte k _ h)

theorem State.wf_writeMasked : ∀ (n k x m : Nat) (s : State), Memory.wf s.mem = true →
    Memory.wf (s.writeMasked k n x m).mem = true
  | 0, _, _, _, _, h => h
  | n + 1, k, x, m, s, h => by
    unfold State.writeMasked
    refine State.wf_writeMasked n (k + 1) (x / 256) (m / 2) _ ?_
    split
    · exact s.wf_setByte k _ h
    · exact h

theorem State.wf_zero (s : State) (k n : Nat) (h : Memory.wf s.mem = true) : Memory.wf (s.zero k n).mem = true :=
  Memory.wf_filter _ _ h

theorem State.wf_scrub (s : State) (k n : Nat) (h : Memory.wf s.mem = true) : Memory.wf (s.scrub k n).mem = true :=
  State.wf_zero s k n h

theorem State.wf_put (s : State) (a : Nat) (l : Loc) (size x mask : Nat) (h : Memory.wf s.mem = true) :
    Memory.wf (s.put a l size x mask).mem = true := by
  have h' : Memory.wf (s.putBytes l size x mask).mem = true := State.wf_writeMasked size l.key x mask _ h
  unfold State.put
  split <;> simpa [State.bumpWgen] using h'

theorem State.wf_reset : Memory.wf State.reset.mem = true := rfl

/-! ## Bytes -/

theorem memSet_get (m : List Host.Cell) (k j : Nat) (b : Byte) :
    (sget (memSet m k b) j).getD unwritten = if k = j then b else (sget m j).getD unwritten := by
  unfold memSet
  split
  · next hb => rw [sget_serase]; split <;> simp [hb]
  · rw [sget_sset]; split <;> rfl

theorem State.byte_setByte (s : State) (k j : Nat) (b : Byte) :
    (s.setByte k b).byte j = if k = j then b else s.byte j := memSet_get s.mem k j b

/-- A write leaves every byte outside its range. -/
theorem State.byte_write_outside : ∀ (n k x j : Nat) (s : State), (j < k ∨ k + n ≤ j) → (s.write k n x).byte j = s.byte j
  | 0, _, _, _, _, _ => rfl
  | n + 1, k, x, j, s, h => by
    unfold State.write
    rw [State.byte_write_outside n (k + 1) (x / 256) j _ (by omega), s.byte_setByte, if_neg (by omega)]

/-- A write stores byte i of its value at its i-th address. -/
theorem State.byte_write_inside (n k x i : Nat) (s : State) (h : i < n) :
    (s.write k n x).byte (k + i) = BitVec.ofNat 8 (x / 256 ^ i) := by
  induction n generalizing k x i s with
  | zero => omega
  | succ n ih =>
    unfold State.write
    cases i with
    | zero =>
      rw [State.byte_write_outside n (k + 1) (x / 256) (k + 0) _ (Or.inl (by omega)), s.byte_setByte, if_pos (by omega),
        Nat.pow_zero, Nat.div_one]
    | succ i =>
      rw [show k + (i + 1) = k + 1 + i by omega, ih (k + 1) (x / 256) i _ (by omega), Nat.div_div_eq_div_mul, Nat.pow_succ,
        Nat.mul_comm (256 ^ i)]

/-- A masked write leaves every byte outside its range. -/
theorem State.byte_writeMasked_outside : ∀ (n k x m j : Nat) (s : State), (j < k ∨ k + n ≤ j) →
    (s.writeMasked k n x m).byte j = s.byte j
  | 0, _, _, _, _, _, _ => rfl
  | n + 1, k, x, m, j, s, h => by
    unfold State.writeMasked
    rw [State.byte_writeMasked_outside n (k + 1) (x / 256) (m / 2) j _ (by omega)]
    split
    · rw [s.byte_setByte, if_neg (by omega)]
    · rfl

/-- A masked write of all bytes is a write. -/
theorem State.writeMasked_all : ∀ (n k x : Nat) (s : State), s.writeMasked k n x (allBytes n) = s.write k n x
  | 0, _, _, _ => rfl
  | n + 1, k, x, s => by
    unfold State.writeMasked State.write
    have h1 : allBytes (n + 1) % 2 = 1 := by
      have : 0 < 2 ^ n := Nat.two_pow_pos n
      unfold allBytes; rw [Nat.pow_succ]; omega
    have h2 : allBytes (n + 1) / 2 = allBytes n := by
      have : 0 < 2 ^ n := Nat.two_pow_pos n
      unfold allBytes; rw [Nat.pow_succ]; omega
    rw [if_pos h1, h2, State.writeMasked_all n (k + 1) (x / 256)]

/-- Reading depends on the bytes alone. -/
theorem State.read_congr (s t : State) : ∀ (n k : Nat), (∀ j, k ≤ j → j < k + n → s.byte j = t.byte j) →
    s.read k n = t.read k n
  | 0, _, _ => rfl
  | n + 1, k, h => by
    unfold State.read
    rw [h k (by omega) (by omega), State.read_congr s t n (k + 1) fun j h1 h2 => h j (by omega) (by omega)]

/-- A read after a write of the same bytes gives the value written. -/
theorem State.read_write : ∀ (n k x : Nat) (s : State), (s.write k n x).read k n = x % 256 ^ n
  | 0, _, _, _ => by simp [State.read, Nat.mod_one]
  | n + 1, k, x, s => by
    have hb : (s.write k (n + 1) x).byte k = BitVec.ofNat 8 x := by
      have := State.byte_write_inside (n + 1) k x 0 s (by omega)
      simpa using this
    unfold State.read
    rw [hb]
    have hr : (s.write k (n + 1) x).read (k + 1) n = x / 256 % 256 ^ n := by
      show ((s.setByte k (BitVec.ofNat 8 x)).write (k + 1) n (x / 256)).read (k + 1) n = _
      exact State.read_write n (k + 1) (x / 256) _
    rw [hr, BitVec.toNat_ofNat, Nat.pow_succ 256 n, Nat.mul_comm (256 ^ n) 256, Nat.mod_mul]

/-- A read of bytes that a write leaves. -/
theorem State.read_write_outside (n k x m j : Nat) (s : State) (h : j + m ≤ k ∨ k + n ≤ j) :
    (s.write k n x).read j m = s.read j m :=
  State.read_congr _ _ m j fun i h1 h2 => State.byte_write_outside n k x i s (by omega)

/-! ## Cores, clusters, dies -/

theorem State.core_setCore (s : State) (a b : Nat) (c : Core) :
    (s.setCore a c).core b = if a = b then c else s.core b := by
  show (sget (sset s.cores a c) b).getD Core.reset = _
  rw [sget_sset]; split <;> rfl

@[simp] theorem State.core_setCore_same (s : State) (a : Nat) (c : Core) : (s.setCore a c).core a = c := by
  simp [State.core_setCore]

theorem State.core_setCore_other (s : State) {a b : Nat} (c : Core) (h : a ≠ b) : (s.setCore a c).core b = s.core b := by
  simp [State.core_setCore, h]

@[simp] theorem State.me_modMe (s : State) (f : Core → Core) : (s.modMe f).me = f s.me := by
  show (s.setCore s.cur (f s.me)).core s.cur = _
  exact State.core_setCore_same _ _ _

theorem State.core_modMe_other (s : State) (f : Core → Core) {b : Nat} (h : s.cur ≠ b) : (s.modMe f).core b = s.core b :=
  State.core_setCore_other s _ h

@[simp] theorem State.core_setCluster (s : State) (c b : Nat) (x : Cluster) : (s.setCluster c x).core b = s.core b := rfl
@[simp] theorem State.core_modCluster (s : State) (c b : Nat) (f : Cluster → Cluster) :
    (s.modCluster c f).core b = s.core b := rfl
@[simp] theorem State.core_modHub (s : State) (b : Nat) (f : Hub → Hub) : (s.modHub f).core b = s.core b := rfl
@[simp] theorem State.me_modHub (s : State) (f : Hub → Hub) : (s.modHub f).me = s.me := rfl
@[simp] theorem State.me_modCluster (s : State) (c : Nat) (f : Cluster → Cluster) : (s.modCluster c f).me = s.me := rfl

theorem sset_sset {α : Type} (l : List (Nat × α)) (k : Nat) (x y : α) : sset (sset l k x) k y = sset l k y := by
  induction l with
  | nil => simp [sset]
  | cons e t ih =>
    obtain ⟨i, z⟩ := e
    by_cases h1 : k < i
    · simp [sset, h1]
    · by_cases h2 : k = i
      · subst h2; simp [sset]
      · simp [sset, h1, h2, ih]

theorem State.setCore_setCore (s : State) (a : Nat) (c d : Core) : (s.setCore a c).setCore a d = s.setCore a d := by
  simp only [State.setCore, sset_sset]

theorem State.modMe_modMe (s : State) (f g : Core → Core) : (s.modMe f).modMe g = s.modMe fun c => g (f c) := by
  show (s.setCore s.cur (f s.me)).setCore s.cur (g (s.modMe f).me) = s.setCore s.cur (g (f s.me))
  rw [State.setCore_setCore, State.me_modMe]

theorem State.cluster_setCluster (s : State) (a b : Nat) (x : Cluster) :
    (s.setCluster a x).cluster b = if a = b then x else s.cluster b := by
  show (sget (sset s.clusters a x) b).getD Cluster.reset = _
  rw [sget_sset]; split <;> rfl

@[simp] theorem State.cluster_modCluster_same (s : State) (a : Nat) (f : Cluster → Cluster) :
    (s.modCluster a f).cluster a = f (s.cluster a) := by
  show (s.setCluster a _).cluster a = _
  simp [State.cluster_setCluster]

theorem State.die_setDie (s : State) (a b : Nat) (x : Die) : (s.setDie a x).die b = if a = b then x else s.die b := by
  show (sget (sset s.dies a x) b).getD Die.reset = _
  rw [sget_sset]; split <;> rfl

@[simp] theorem State.die_modDie_same (s : State) (a : Nat) (f : Die → Die) : (s.modDie a f).die a = f (s.die a) := by
  show (s.setDie a _).die a = _
  simp [State.die_setDie]

/-! ## Registers by number -/

theorem vget_vset {α : Type} {n : Nat} (v : Vector α n) (i j : Nat) (x d : α) (h : i < n) :
    vget (vset v i x) j d = if i = j then x else vget v j d := by
  unfold vget vset
  by_cases hij : i = j
  · subst hij; simp [h]
  · simp [hij, Vector.getElem?_setIfInBounds_ne]

theorem Core.cwp_lt (c : Core) : c.cwp < 6 := Nat.mod_lt _ (by decide)

theorem Core.s_zero (c : Core) : c.s 0 = 0 := rfl

theorem Core.setS_zero (c : Core) (x : W64) : c.setS 0 x = c := rfl

theorem Core.pr_zero (c : Core) : c.pr 0 = true := rfl

theorem Core.setP_zero (c : Core) (b : Bool) : c.setP 0 b = c := rfl

/-- A scalar register read after a write of one. -/
theorem Core.s_setS (c : Core) (r k : Nat) (x : W64) (hr : r < 32) (hk : k < 32) :
    (c.setS r x).s k = if k = 0 then 0 else if r = k then x else c.s k := by
  by_cases h0 : r = 0
  · subst h0
    by_cases hk0 : k = 0
    · subst hk0; rfl
    · rw [Core.setS_zero, if_neg hk0, if_neg (Ne.symm hk0)]
  · by_cases hk0 : k = 0
    · subst hk0; rfl
    · rw [if_neg hk0]
      unfold Core.setS
      rw [if_neg h0]
      by_cases h8 : r < 8
      · rw [if_pos h8]
        unfold Core.s
        rw [if_neg hk0, if_neg hk0]
        by_cases k8 : k < 8
        · rw [if_pos k8, if_pos k8, vget_vset _ _ _ _ _ h8]
        · rw [if_neg k8, if_neg k8, if_neg (by omega)]
          rfl
      · rw [if_neg h8]
        unfold Core.s
        rw [if_neg hk0, if_neg hk0]
        by_cases k8 : k < 8
        · rw [if_pos k8, if_pos k8, if_neg (by omega)]
        · rw [if_neg k8, if_neg k8]
          show vget (vget (vset c.frames c.cwp _) c.cwp zeroFrame) (k - 8) 0 = _
          rw [vget_vset _ _ _ _ _ c.cwp_lt, if_pos rfl, vget_vset _ _ _ _ _ (by omega)]
          by_cases hrk : r = k
          · subst hrk; simp
          · rw [if_neg (by omega), if_neg hrk]

end Sys2Proof.Machine
end

