-- ==== Sys2Proof/Laws/Ops.lean ====
section
/-! SUPPORT. What the shared shape of instructions does: how an instruction ends, what completing leaves of a core, what
taking a trap and returning from one write. -/

namespace Sys2Proof.Machine

/-! ## Conditions -/

@[simp] theorem require_true (c : Cause) (v : Nat) : require true c v = .ok () := rfl

@[simp] theorem require_false (c : Cause) (v : Nat) : require false c v = trap c v := rfl

theorem require_of (b : Bool) (c : Cause) (v : Nat) (h : b = true) : require b c v = .ok () := by simp [h]

theorem require_ok (b : Bool) (c : Cause) (v : Nat) (u : Unit) (h : require b c v = .ok u) : b = true := by
  cases b
  · exact absurd h (by simp [trap])
  · rfl

@[simp] theorem ok_bind {α β : Type} (a : α) (f : α → M β) : ((Except.ok a : M α) >>= f) = f a := rfl

@[simp] theorem trap_bind {α β : Type} (c : Cause) (v : Nat) (f : α → M β) : ((trap c v : M α) >>= f) = trap c v := rfl

@[simp] theorem error_bind {α β : Type} (e : Stop) (f : α → M β) : ((Except.error e : M α) >>= f) = .error e := rfl

theorem bind_ok {α β : Type} {x : M α} {f : α → M β} {b : β} (h : x >>= f = .ok b) : ∃ a, x = .ok a ∧ f a = .ok b := by
  cases x with
  | error e => exact absurd h (by simp)
  | ok a => exact ⟨a, rfl, h⟩

/-! ## How an instruction ends -/

section
variable {i : Instr} {s t : State} {body : Mods → State → M Fin} {x : Mods}

theorem issue_adv (h : allowed i s.cur s.me = .ok (some x)) (hb : body x s = .ok (.adv t)) :
    issue i s body = .next (t.modMe fun c => c.retire i) := by simp only [issue, h, hb]

theorem issue_jump {pc : W32} (h : allowed i s.cur s.me = .ok (some x)) (hb : body x s = .ok (.jump t pc)) :
    issue i s body = .next (t.modMe fun c => c.transfer i pc) := by simp only [issue, h, hb]

theorem issue_done (h : allowed i s.cur s.me = .ok (some x)) (hb : body x s = .ok (.done t)) :
    issue i s body = .next t := by simp only [issue, h, hb]

/-- An instruction whose effect lies in the core that moves. -/
theorem issue_own {f : Core → Core} (h : allowed i s.cur s.me = .ok (some x)) (hb : body x s = .ok (.adv (s.modMe f))) :
    issue i s body = .next (s.modMe fun c => (f c).retire i) := by rw [issue_adv h hb, State.modMe_modMe]

/-- A transfer of control whose effect lies in the core that moves. -/
theorem issue_goes {f : Core → Core} {pc : W32} (h : allowed i s.cur s.me = .ok (some x))
    (hb : body x s = .ok (.jump (s.modMe f) pc)) :
    issue i s body = .next (s.modMe fun c => (f c).transfer i pc) := by rw [issue_jump h hb, State.modMe_modMe]

theorem issue_trap {c : Cause} {v : W64} (h : allowed i s.cur s.me = .ok (some x)) (hb : body x s = .error (.trap c v)) :
    issue i s body = .next (s.takeTrap c v) := by simp only [issue, h, hb]

theorem issue_trapAt {c : Cause} {v : W64} (h : allowed i s.cur s.me = .ok (some x))
    (hb : body x s = .error (.trapAt t c v)) : issue i s body = .next (t.takeTrap c v) := by simp only [issue, h, hb]

theorem issue_stall (h : allowed i s.cur s.me = .ok (some x)) (hb : body x s = .error (.stall t)) :
    issue i s body = .next (t.modMe fun c => (c.forwardAhead i).count 3 1) := by simp only [issue, h, hb]

theorem issue_skip (h : allowed i s.cur s.me = .ok none) : issue i s body = .next (s.modMe fun c => c.retire i) := by
  simp only [issue, h]

theorem issue_refused {c : Cause} {v : W64} (h : allowed i s.cur s.me = .error (.trap c v)) :
    issue i s body = .next (s.takeTrap c v) := by simp only [issue, h]

end

/-- The checks that precede the guard, in their order (spec/08 R262). -/
theorem allowed_eq (i : Instr) (a : Nat) (c : Core) :
    allowed i a c =
      if (c.latch.isSome && !i.pBit) = true then trap .pfxOrphan 1
      else if (c.latch.isNone && i.pBit) = true then trap .pfxOrphan 2
      else if (decide (i.major ≠ 0x7F) && !classPresent a i.major) = true then trap .illegal 3
      else if (decide (i.major ≠ 0x7F) && !c.mods.acceptedBy i.major) = true then trap .illegal 14
      else
        match if c.replaying && c.repPass = 0 then notCapturable i else none with
        | some v => trap .repfIllegal v
        | none => .ok (if c.guard c.mods then some c.mods else none) := by
  unfold allowed
  have hm : ∀ f : Option Mods, (pure f : M (Option Mods)) = .ok f := fun _ => rfl
  cases hl : c.latch <;> cases hp : i.pBit <;> cases h3 : classPresent a i.major <;>
    cases h4 : c.mods.acceptedBy i.major <;> by_cases h5 : i.major = 0x7F <;>
    simp only [Option.isNone, Option.isSome, h5, decide_true, decide_false, Bool.or_true, Bool.or_false,
      Bool.not_true, Bool.not_false, Bool.and_true, Bool.and_false, require_true, require_false, ok_bind,
      trap_bind, if_true, if_false, ne_eq, not_true, not_false_iff, Bool.false_eq_true, hm] <;> split <;> (try rfl) <;> split <;> simp_all
section
variable {i : Instr} {a : Nat} {c : Core} (h1 : c.latch.isSome = i.pBit)
  (h2 : i.major = 0x7F ∨ classPresent a i.major = true) (h3 : i.major = 0x7F ∨ c.mods.acceptedBy i.major = true)
  (h4 : c.replaying = true → c.repPass = 0 → notCapturable i = none)
include h1 h2 h3 h4

/-- When every check before the guard passes, the guard decides. -/
theorem allowed_guard : allowed i a c = .ok (if c.guard c.mods then some c.mods else none) := by
  rw [allowed_eq, if_neg (by cases h : c.latch <;> simp_all), if_neg (by cases h : c.latch <;> simp_all),
    if_neg (by rcases h2 with h2 | h2 <;> simp [h2]), if_neg (by rcases h3 with h3 | h3 <;> simp [h3])]
  have e : (if (c.replaying && decide (c.repPass = 0)) = true then notCapturable i else none) = none := by
    split
    · next h => simp at h; exact h4 h.1 h.2
    · rfl
  rw [e]

theorem allowed_go (h5 : c.guard c.mods = true) : allowed i a c = .ok (some c.mods) := by
  rw [allowed_guard h1 h2 h3 h4, if_pos h5]

theorem allowed_skip (h5 : c.guard c.mods = false) : allowed i a c = .ok none := by
  rw [allowed_guard h1 h2 h3 h4, if_neg (by simp [h5])]

end

/-! ## What completing leaves -/

section
variable (c : Core) (i : Instr) (taken : Option Bool)

@[simp] theorem Core.sendOn_g : (c.sendOn i taken).g = c.g := by
  unfold Core.sendOn; split <;> rfl
@[simp] theorem Core.sendOn_frames : (c.sendOn i taken).frames = c.frames := by
  unfold Core.sendOn; split <;> rfl
@[simp] theorem Core.sendOn_p : (c.sendOn i taken).p = c.p := by
  unfold Core.sendOn; split <;> rfl
@[simp] theorem Core.sendOn_v : (c.sendOn i taken).v = c.v := by
  unfold Core.sendOn; split <;> rfl
@[simp] theorem Core.sendOn_q : (c.sendOn i taken).q = c.q := by
  unfold Core.sendOn; split <;> rfl
@[simp] theorem Core.sendOn_acc : (c.sendOn i taken).acc = c.acc := by
  unfold Core.sendOn; split <;> rfl
@[simp] theorem Core.sendOn_bd : (c.sendOn i taken).bd = c.bd := by
  unfold Core.sendOn; split <;> rfl
@[simp] theorem Core.sendOn_lw : (c.sendOn i taken).lw = c.lw := by
  unfold Core.sendOn; split <;> rfl
@[simp] theorem Core.sendOn_mc : (c.sendOn i taken).mc = c.mc := by
  unfold Core.sendOn; split <;> rfl
@[simp] theorem Core.sendOn_pc : (c.sendOn i taken).pc = c.pc := by
  unfold Core.sendOn; split <;> rfl
@[simp] theorem Core.sendOn_latch : (c.sendOn i taken).latch = c.latch := by
  unfold Core.sendOn; split <;> rfl
@[simp] theorem Core.sendOn_held : (c.sendOn i taken).held = c.held := by
  unfold Core.sendOn; split <;> rfl
@[simp] theorem Core.sendOn_fcsr : (c.sendOn i taken).fcsr = c.fcsr := by
  unfold Core.sendOn; split <;> rfl
@[simp] theorem Core.sendOn_srseed : (c.sendOn i taken).srseed = c.srseed := by
  unfold Core.sendOn; split <;> rfl
@[simp] theorem Core.sendOn_tsk : (c.sendOn i taken).tsk = c.tsk := by
  unfold Core.sendOn; split <;> rfl
@[simp] theorem Core.sendOn_tstamp : (c.sendOn i taken).tstamp = c.tstamp := by
  unfold Core.sendOn; split <;> rfl
@[simp] theorem Core.sendOn_ssn : (c.sendOn i taken).ssn = c.ssn := by
  unfold Core.sendOn; split <;> rfl
@[simp] theorem Core.sendOn_xt : (c.sendOn i taken).xt = c.xt := by
  unfold Core.sendOn; split <;> rfl
@[simp] theorem Core.sendOn_xpc : (c.sendOn i taken).xpc = c.xpc := by
  unfold Core.sendOn; split <;> rfl
@[simp] theorem Core.sendOn_syncm : (c.sendOn i taken).syncm = c.syncm := by
  unfold Core.sendOn; split <;> rfl
@[simp] theorem Core.sendOn_vote : (c.sendOn i taken).vote = c.vote := by
  unfold Core.sendOn; split <;> rfl
@[simp] theorem Core.sendOn_wptr : (c.sendOn i taken).wptr = c.wptr := by
  unfold Core.sendOn; split <;> rfl
@[simp] theorem Core.sendOn_wsp : (c.sendOn i taken).wsp = c.wsp := by
  unfold Core.sendOn; split <;> rfl
@[simp] theorem Core.sendOn_dsd : (c.sendOn i taken).dsd = c.dsd := by
  unfold Core.sendOn; split <;> rfl
@[simp] theorem Core.sendOn_repc : (c.sendOn i taken).repc = c.repc := by
  unfold Core.sendOn; split <;> rfl
@[simp] theorem Core.sendOn_curpol : (c.sendOn i taken).curpol = c.curpol := by
  unfold Core.sendOn; split <;> rfl
@[simp] theorem Core.sendOn_gst : (c.sendOn i taken).gst = c.gst := by
  unfold Core.sendOn; split <;> rfl
@[simp] theorem Core.sendOn_aw0 : (c.sendOn i taken).aw0 = c.aw0 := by
  unfold Core.sendOn; split <;> rfl
@[simp] theorem Core.sendOn_aw1 : (c.sendOn i taken).aw1 = c.aw1 := by
  unfold Core.sendOn; split <;> rfl
@[simp] theorem Core.sendOn_atp : (c.sendOn i taken).atp = c.atp := by
  unfold Core.sendOn; split <;> rfl
@[simp] theorem Core.sendOn_gcfg : (c.sendOn i taken).gcfg = c.gcfg := by
  unfold Core.sendOn; split <;> rfl
@[simp] theorem Core.sendOn_recm : (c.sendOn i taken).recm = c.recm := by
  unfold Core.sendOn; split <;> rfl
@[simp] theorem Core.sendOn_logb : (c.sendOn i taken).logb = c.logb := by
  unfold Core.sendOn; split <;> rfl
@[simp] theorem Core.sendOn_logl : (c.sendOn i taken).logl = c.logl := by
  unfold Core.sendOn; split <;> rfl
@[simp] theorem Core.sendOn_logp : (c.sendOn i taken).logp = c.logp := by
  unfold Core.sendOn; split <;> rfl
@[simp] theorem Core.sendOn_trapc : (c.sendOn i taken).trapc = c.trapc := by
  unfold Core.sendOn; split <;> rfl
@[simp] theorem Core.sendOn_trappc : (c.sendOn i taken).trappc = c.trappc := by
  unfold Core.sendOn; split <;> rfl
@[simp] theorem Core.sendOn_trapv : (c.sendOn i taken).trapv = c.trapv := by
  unfold Core.sendOn; split <;> rfl
@[simp] theorem Core.sendOn_tvec : (c.sendOn i taken).tvec = c.tvec := by
  unfold Core.sendOn; split <;> rfl
@[simp] theorem Core.sendOn_tnan : (c.sendOn i taken).tnan = c.tnan := by
  unfold Core.sendOn; split <;> rfl
@[simp] theorem Core.sendOn_tof : (c.sendOn i taken).tof = c.tof := by
  unfold Core.sendOn; split <;> rfl
@[simp] theorem Core.sendOn_repBuf : (c.sendOn i taken).repBuf = c.repBuf := by
  unfold Core.sendOn; split <;> rfl
@[simp] theorem Core.sendOn_repSusp : (c.sendOn i taken).repSusp = c.repSusp := by
  unfold Core.sendOn; split <;> rfl
@[simp] theorem Core.sendOn_dom : (c.sendOn i taken).dom = c.dom := by
  unfold Core.sendOn; split <;> rfl
@[simp] theorem Core.sendOn_budget : (c.sendOn i taken).budget = c.budget := by
  unfold Core.sendOn; split <;> rfl
@[simp] theorem Core.sendOn_vsaved : (c.sendOn i taken).vsaved = c.vsaved := by
  unfold Core.sendOn; split <;> rfl
@[simp] theorem Core.sendOn_tasks : (c.sendOn i taken).tasks = c.tasks := by
  unfold Core.sendOn; split <;> rfl
@[simp] theorem Core.sendOn_passes : (c.sendOn i taken).passes = c.passes := by
  unfold Core.sendOn; split <;> rfl
@[simp] theorem Core.sendOn_yields : (c.sendOn i taken).yields = c.yields := by
  unfold Core.sendOn; split <;> rfl
@[simp] theorem Core.sendOn_setup : (c.sendOn i taken).setup = c.setup := by
  unfold Core.sendOn; split <;> rfl
@[simp] theorem Core.sendOn_again : (c.sendOn i taken).again = c.again := by
  unfold Core.sendOn; split <;> rfl
@[simp] theorem Core.sendOn_older : (c.sendOn i taken).older = c.older := by
  unfold Core.sendOn; split <;> rfl
@[simp] theorem Core.sendOn_qfail : (c.sendOn i taken).qfail = c.qfail := by
  unfold Core.sendOn; split <;> rfl
@[simp] theorem Core.sendOn_act : (c.sendOn i taken).act = c.act := by
  unfold Core.sendOn; split <;> rfl
@[simp] theorem Core.sendOn_visit : (c.sendOn i taken).visit = c.visit := by
  unfold Core.sendOn; split <;> rfl
@[simp] theorem Core.sendOn_sleep : (c.sendOn i taken).sleep = c.sleep := by
  unfold Core.sendOn; split <;> rfl
@[simp] theorem Core.sendOn_awaits : (c.sendOn i taken).awaits = c.awaits := by
  unfold Core.sendOn; split <;> rfl
@[simp] theorem Core.sendOn_deferred : (c.sendOn i taken).deferred = c.deferred := by
  unfold Core.sendOn; split <;> rfl
@[simp] theorem Core.sendOn_ordered : (c.sendOn i taken).ordered = c.ordered := by
  unfold Core.sendOn; split <;> rfl
@[simp] theorem Core.sendOn_ports : (c.sendOn i taken).ports = c.ports := by
  unfold Core.sendOn; split <;> rfl
@[simp] theorem Core.sendOn_tileq : (c.sendOn i taken).tileq = c.tileq := by
  unfold Core.sendOn; split <;> rfl
@[simp] theorem Core.sendOn_reissue : (c.sendOn i taken).reissue = c.reissue := by
  unfold Core.sendOn; split <;> rfl
@[simp] theorem Core.sendOn_join : (c.sendOn i taken).join = c.join := by
  unfold Core.sendOn; split <;> rfl
@[simp] theorem Core.sendOn_rev : (c.sendOn i taken).rev = c.rev := by
  unfold Core.sendOn; split <;> rfl
@[simp] theorem Core.sendOn_sels : (c.sendOn i taken).sels = c.sels := by
  unfold Core.sendOn; split <;> rfl
@[simp] theorem Core.sendOn_syncv : (c.sendOn i taken).syncv = c.syncv := by
  unfold Core.sendOn; split <;> rfl
@[simp] theorem Core.sendOn_pushes : (c.sendOn i taken).pushes = c.pushes := by
  unfold Core.sendOn; split <;> rfl
@[simp] theorem Core.sendOn_cecnt : (c.sendOn i taken).cecnt = c.cecnt := by
  unfold Core.sendOn; split <;> rfl
@[simp] theorem Core.sendOn_ctr : (c.sendOn i taken).ctr = c.ctr := by
  unfold Core.sendOn; split <;> rfl
@[simp] theorem Core.sendOn_ctrSel : (c.sendOn i taken).ctrSel = c.ctrSel := by
  unfold Core.sendOn; split <;> rfl
@[simp] theorem Core.sendOn_passHit : (c.sendOn i taken).passHit = c.passHit := by
  unfold Core.sendOn; split <;> rfl
@[simp] theorem Core.sendOn_wctl : (c.sendOn i taken).wctl = c.wctl := by
  unfold Core.sendOn; split <;> rfl
@[simp] theorem Core.sendOn_wbase : (c.sendOn i taken).wbase = c.wbase := by
  unfold Core.sendOn; split <;> rfl
@[simp] theorem Core.sendOn_l1 : (c.sendOn i taken).l1 = c.l1 := by
  unfold Core.sendOn; split <;> rfl
@[simp] theorem Core.sendOn_farReq : (c.sendOn i taken).farReq = c.farReq := by
  unfold Core.sendOn; split <;> rfl
@[simp] theorem Core.sendOn_walked : (c.sendOn i taken).walked = c.walked := by
  unfold Core.sendOn; split <;> rfl
@[simp] theorem Core.sendOn_member : (c.sendOn i taken).member = c.member := by
  unfold Core.sendOn; split <;> rfl
@[simp] theorem Core.sendOn_gang : (c.sendOn i taken).gang = c.gang := by
  unfold Core.sendOn; split <;> rfl
@[simp] theorem Core.sendOn_took : (c.sendOn i taken).took = c.took := by
  unfold Core.sendOn; split <;> rfl
@[simp] theorem Core.sendOn_ahead : (c.sendOn i taken).ahead = c.ahead := by
  unfold Core.sendOn; split <;> rfl
@[simp] theorem Core.sendOn_begun : (c.sendOn i taken).begun = c.begun := by
  unfold Core.sendOn; split <;> rfl
@[simp] theorem Core.sendOn_arrived : (c.sendOn i taken).arrived = c.arrived := by
  unfold Core.sendOn; split <;> rfl
@[simp] theorem Core.sendOn_since : (c.sendOn i taken).since = c.since := by
  unfold Core.sendOn; split <;> rfl
@[simp] theorem Core.sendOn_gated : (c.sendOn i taken).gated = c.gated := by
  unfold Core.sendOn; split <;> rfl
@[simp] theorem Core.sendOn_freeing : (c.sendOn i taken).freeing = c.freeing := by
  unfold Core.sendOn; split <;> rfl
@[simp] theorem Core.sendOn_unwindTo : (c.sendOn i taken).unwindTo = c.unwindTo := by
  unfold Core.sendOn; split <;> rfl

end

section
variable (c : Core) (i : Instr) (taken : Bool)

@[simp] theorem Core.forward_g : (c.forward i taken).g = c.g := by
  unfold Core.forward; repeat (first | rfl | (split) | exact Core.sendOn_g _ _ _)
@[simp] theorem Core.forward_frames : (c.forward i taken).frames = c.frames := by
  unfold Core.forward; repeat (first | rfl | (split) | exact Core.sendOn_frames _ _ _)
@[simp] theorem Core.forward_p : (c.forward i taken).p = c.p := by
  unfold Core.forward; repeat (first | rfl | (split) | exact Core.sendOn_p _ _ _)
@[simp] theorem Core.forward_v : (c.forward i taken).v = c.v := by
  unfold Core.forward; repeat (first | rfl | (split) | exact Core.sendOn_v _ _ _)
@[simp] theorem Core.forward_q : (c.forward i taken).q = c.q := by
  unfold Core.forward; repeat (first | rfl | (split) | exact Core.sendOn_q _ _ _)
@[simp] theorem Core.forward_acc : (c.forward i taken).acc = c.acc := by
  unfold Core.forward; repeat (first | rfl | (split) | exact Core.sendOn_acc _ _ _)
@[simp] theorem Core.forward_bd : (c.forward i taken).bd = c.bd := by
  unfold Core.forward; repeat (first | rfl | (split) | exact Core.sendOn_bd _ _ _)
@[simp] theorem Core.forward_lw : (c.forward i taken).lw = c.lw := by
  unfold Core.forward; repeat (first | rfl | (split) | exact Core.sendOn_lw _ _ _)
@[simp] theorem Core.forward_mc : (c.forward i taken).mc = c.mc := by
  unfold Core.forward; repeat (first | rfl | (split) | exact Core.sendOn_mc _ _ _)
@[simp] theorem Core.forward_pc : (c.forward i taken).pc = c.pc := by
  unfold Core.forward; repeat (first | rfl | (split) | exact Core.sendOn_pc _ _ _)
@[simp] theorem Core.forward_latch : (c.forward i taken).latch = c.latch := by
  unfold Core.forward; repeat (first | rfl | (split) | exact Core.sendOn_latch _ _ _)
@[simp] theorem Core.forward_held : (c.forward i taken).held = c.held := by
  unfold Core.forward; repeat (first | rfl | (split) | exact Core.sendOn_held _ _ _)
@[simp] theorem Core.forward_fcsr : (c.forward i taken).fcsr = c.fcsr := by
  unfold Core.forward; repeat (first | rfl | (split) | exact Core.sendOn_fcsr _ _ _)
@[simp] theorem Core.forward_srseed : (c.forward i taken).srseed = c.srseed := by
  unfold Core.forward; repeat (first | rfl | (split) | exact Core.sendOn_srseed _ _ _)
@[simp] theorem Core.forward_tsk : (c.forward i taken).tsk = c.tsk := by
  unfold Core.forward; repeat (first | rfl | (split) | exact Core.sendOn_tsk _ _ _)
@[simp] theorem Core.forward_tstamp : (c.forward i taken).tstamp = c.tstamp := by
  unfold Core.forward; repeat (first | rfl | (split) | exact Core.sendOn_tstamp _ _ _)
@[simp] theorem Core.forward_ssn : (c.forward i taken).ssn = c.ssn := by
  unfold Core.forward; repeat (first | rfl | (split) | exact Core.sendOn_ssn _ _ _)
@[simp] theorem Core.forward_xt : (c.forward i taken).xt = c.xt := by
  unfold Core.forward; repeat (first | rfl | (split) | exact Core.sendOn_xt _ _ _)
@[simp] theorem Core.forward_xpc : (c.forward i taken).xpc = c.xpc := by
  unfold Core.forward; repeat (first | rfl | (split) | exact Core.sendOn_xpc _ _ _)
@[simp] theorem Core.forward_syncm : (c.forward i taken).syncm = c.syncm := by
  unfold Core.forward; repeat (first | rfl | (split) | exact Core.sendOn_syncm _ _ _)
@[simp] theorem Core.forward_vote : (c.forward i taken).vote = c.vote := by
  unfold Core.forward; repeat (first | rfl | (split) | exact Core.sendOn_vote _ _ _)
@[simp] theorem Core.forward_wptr : (c.forward i taken).wptr = c.wptr := by
  unfold Core.forward; repeat (first | rfl | (split) | exact Core.sendOn_wptr _ _ _)
@[simp] theorem Core.forward_wsp : (c.forward i taken).wsp = c.wsp := by
  unfold Core.forward; repeat (first | rfl | (split) | exact Core.sendOn_wsp _ _ _)
@[simp] theorem Core.forward_dsd : (c.forward i taken).dsd = c.dsd := by
  unfold Core.forward; repeat (first | rfl | (split) | exact Core.sendOn_dsd _ _ _)
@[simp] theorem Core.forward_repc : (c.forward i taken).repc = c.repc := by
  unfold Core.forward; repeat (first | rfl | (split) | exact Core.sendOn_repc _ _ _)
@[simp] theorem Core.forward_curpol : (c.forward i taken).curpol = c.curpol := by
  unfold Core.forward; repeat (first | rfl | (split) | exact Core.sendOn_curpol _ _ _)
@[simp] theorem Core.forward_gst : (c.forward i taken).gst = c.gst := by
  unfold Core.forward; repeat (first | rfl | (split) | exact Core.sendOn_gst _ _ _)
@[simp] theorem Core.forward_aw0 : (c.forward i taken).aw0 = c.aw0 := by
  unfold Core.forward; repeat (first | rfl | (split) | exact Core.sendOn_aw0 _ _ _)
@[simp] theorem Core.forward_aw1 : (c.forward i taken).aw1 = c.aw1 := by
  unfold Core.forward; repeat (first | rfl | (split) | exact Core.sendOn_aw1 _ _ _)
@[simp] theorem Core.forward_atp : (c.forward i taken).atp = c.atp := by
  unfold Core.forward; repeat (first | rfl | (split) | exact Core.sendOn_atp _ _ _)
@[simp] theorem Core.forward_gcfg : (c.forward i taken).gcfg = c.gcfg := by
  unfold Core.forward; repeat (first | rfl | (split) | exact Core.sendOn_gcfg _ _ _)
@[simp] theorem Core.forward_recm : (c.forward i taken).recm = c.recm := by
  unfold Core.forward; repeat (first | rfl | (split) | exact Core.sendOn_recm _ _ _)
@[simp] theorem Core.forward_logb : (c.forward i taken).logb = c.logb := by
  unfold Core.forward; repeat (first | rfl | (split) | exact Core.sendOn_logb _ _ _)
@[simp] theorem Core.forward_logl : (c.forward i taken).logl = c.logl := by
  unfold Core.forward; repeat (first | rfl | (split) | exact Core.sendOn_logl _ _ _)
@[simp] theorem Core.forward_logp : (c.forward i taken).logp = c.logp := by
  unfold Core.forward; repeat (first | rfl | (split) | exact Core.sendOn_logp _ _ _)
@[simp] theorem Core.forward_trapc : (c.forward i taken).trapc = c.trapc := by
  unfold Core.forward; repeat (first | rfl | (split) | exact Core.sendOn_trapc _ _ _)
@[simp] theorem Core.forward_trappc : (c.forward i taken).trappc = c.trappc := by
  unfold Core.forward; repeat (first | rfl | (split) | exact Core.sendOn_trappc _ _ _)
@[simp] theorem Core.forward_trapv : (c.forward i taken).trapv = c.trapv := by
  unfold Core.forward; repeat (first | rfl | (split) | exact Core.sendOn_trapv _ _ _)
@[simp] theorem Core.forward_tvec : (c.forward i taken).tvec = c.tvec := by
  unfold Core.forward; repeat (first | rfl | (split) | exact Core.sendOn_tvec _ _ _)
@[simp] theorem Core.forward_tnan : (c.forward i taken).tnan = c.tnan := by
  unfold Core.forward; repeat (first | rfl | (split) | exact Core.sendOn_tnan _ _ _)
@[simp] theorem Core.forward_tof : (c.forward i taken).tof = c.tof := by
  unfold Core.forward; repeat (first | rfl | (split) | exact Core.sendOn_tof _ _ _)
@[simp] theorem Core.forward_repBuf : (c.forward i taken).repBuf = c.repBuf := by
  unfold Core.forward; repeat (first | rfl | (split) | exact Core.sendOn_repBuf _ _ _)
@[simp] theorem Core.forward_repSusp : (c.forward i taken).repSusp = c.repSusp := by
  unfold Core.forward; repeat (first | rfl | (split) | exact Core.sendOn_repSusp _ _ _)
@[simp] theorem Core.forward_dom : (c.forward i taken).dom = c.dom := by
  unfold Core.forward; repeat (first | rfl | (split) | exact Core.sendOn_dom _ _ _)
@[simp] theorem Core.forward_budget : (c.forward i taken).budget = c.budget := by
  unfold Core.forward; repeat (first | rfl | (split) | exact Core.sendOn_budget _ _ _)
@[simp] theorem Core.forward_vsaved : (c.forward i taken).vsaved = c.vsaved := by
  unfold Core.forward; repeat (first | rfl | (split) | exact Core.sendOn_vsaved _ _ _)
@[simp] theorem Core.forward_tasks : (c.forward i taken).tasks = c.tasks := by
  unfold Core.forward; repeat (first | rfl | (split) | exact Core.sendOn_tasks _ _ _)
@[simp] theorem Core.forward_passes : (c.forward i taken).passes = c.passes := by
  unfold Core.forward; repeat (first | rfl | (split) | exact Core.sendOn_passes _ _ _)
@[simp] theorem Core.forward_yields : (c.forward i taken).yields = c.yields := by
  unfold Core.forward; repeat (first | rfl | (split) | exact Core.sendOn_yields _ _ _)
@[simp] theorem Core.forward_setup : (c.forward i taken).setup = c.setup := by
  unfold Core.forward; repeat (first | rfl | (split) | exact Core.sendOn_setup _ _ _)
@[simp] theorem Core.forward_again : (c.forward i taken).again = c.again := by
  unfold Core.forward; repeat (first | rfl | (split) | exact Core.sendOn_again _ _ _)
@[simp] theorem Core.forward_older : (c.forward i taken).older = c.older := by
  unfold Core.forward; repeat (first | rfl | (split) | exact Core.sendOn_older _ _ _)
@[simp] theorem Core.forward_qfail : (c.forward i taken).qfail = c.qfail := by
  unfold Core.forward; repeat (first | rfl | (split) | exact Core.sendOn_qfail _ _ _)
@[simp] theorem Core.forward_act : (c.forward i taken).act = c.act := by
  unfold Core.forward; repeat (first | rfl | (split) | exact Core.sendOn_act _ _ _)
@[simp] theorem Core.forward_visit : (c.forward i taken).visit = c.visit := by
  unfold Core.forward; repeat (first | rfl | (split) | exact Core.sendOn_visit _ _ _)
@[simp] theorem Core.forward_sleep : (c.forward i taken).sleep = c.sleep := by
  unfold Core.forward; repeat (first | rfl | (split) | exact Core.sendOn_sleep _ _ _)
@[simp] theorem Core.forward_awaits : (c.forward i taken).awaits = c.awaits := by
  unfold Core.forward; repeat (first | rfl | (split) | exact Core.sendOn_awaits _ _ _)
@[simp] theorem Core.forward_deferred : (c.forward i taken).deferred = c.deferred := by
  unfold Core.forward; repeat (first | rfl | (split) | exact Core.sendOn_deferred _ _ _)
@[simp] theorem Core.forward_ordered : (c.forward i taken).ordered = c.ordered := by
  unfold Core.forward; repeat (first | rfl | (split) | exact Core.sendOn_ordered _ _ _)
@[simp] theorem Core.forward_ports : (c.forward i taken).ports = c.ports := by
  unfold Core.forward; repeat (first | rfl | (split) | exact Core.sendOn_ports _ _ _)
@[simp] theorem Core.forward_tileq : (c.forward i taken).tileq = c.tileq := by
  unfold Core.forward; repeat (first | rfl | (split) | exact Core.sendOn_tileq _ _ _)
@[simp] theorem Core.forward_reissue : (c.forward i taken).reissue = c.reissue := by
  unfold Core.forward; repeat (first | rfl | (split) | exact Core.sendOn_reissue _ _ _)
@[simp] theorem Core.forward_join : (c.forward i taken).join = c.join := by
  unfold Core.forward; repeat (first | rfl | (split) | exact Core.sendOn_join _ _ _)
@[simp] theorem Core.forward_rev : (c.forward i taken).rev = c.rev := by
  unfold Core.forward; repeat (first | rfl | (split) | exact Core.sendOn_rev _ _ _)
@[simp] theorem Core.forward_sels : (c.forward i taken).sels = c.sels := by
  unfold Core.forward; repeat (first | rfl | (split) | exact Core.sendOn_sels _ _ _)
@[simp] theorem Core.forward_syncv : (c.forward i taken).syncv = c.syncv := by
  unfold Core.forward; repeat (first | rfl | (split) | exact Core.sendOn_syncv _ _ _)
@[simp] theorem Core.forward_pushes : (c.forward i taken).pushes = c.pushes := by
  unfold Core.forward; repeat (first | rfl | (split) | exact Core.sendOn_pushes _ _ _)
@[simp] theorem Core.forward_cecnt : (c.forward i taken).cecnt = c.cecnt := by
  unfold Core.forward; repeat (first | rfl | (split) | exact Core.sendOn_cecnt _ _ _)
@[simp] theorem Core.forward_ctr : (c.forward i taken).ctr = c.ctr := by
  unfold Core.forward; repeat (first | rfl | (split) | exact Core.sendOn_ctr _ _ _)
@[simp] theorem Core.forward_ctrSel : (c.forward i taken).ctrSel = c.ctrSel := by
  unfold Core.forward; repeat (first | rfl | (split) | exact Core.sendOn_ctrSel _ _ _)
@[simp] theorem Core.forward_passHit : (c.forward i taken).passHit = c.passHit := by
  unfold Core.forward; repeat (first | rfl | (split) | exact Core.sendOn_passHit _ _ _)
@[simp] theorem Core.forward_wctl : (c.forward i taken).wctl = c.wctl := by
  unfold Core.forward; repeat (first | rfl | (split) | exact Core.sendOn_wctl _ _ _)
@[simp] theorem Core.forward_wbase : (c.forward i taken).wbase = c.wbase := by
  unfold Core.forward; repeat (first | rfl | (split) | exact Core.sendOn_wbase _ _ _)
@[simp] theorem Core.forward_l1 : (c.forward i taken).l1 = c.l1 := by
  unfold Core.forward; repeat (first | rfl | (split) | exact Core.sendOn_l1 _ _ _)
@[simp] theorem Core.forward_farReq : (c.forward i taken).farReq = c.farReq := by
  unfold Core.forward; repeat (first | rfl | (split) | exact Core.sendOn_farReq _ _ _)
@[simp] theorem Core.forward_walked : (c.forward i taken).walked = c.walked := by
  unfold Core.forward; repeat (first | rfl | (split) | exact Core.sendOn_walked _ _ _)
@[simp] theorem Core.forward_member : (c.forward i taken).member = c.member := by
  unfold Core.forward; repeat (first | rfl | (split) | exact Core.sendOn_member _ _ _)
@[simp] theorem Core.forward_begun : (c.forward i taken).begun = c.begun := by
  unfold Core.forward; repeat (first | rfl | (split) | exact Core.sendOn_begun _ _ _)
@[simp] theorem Core.forward_arrived : (c.forward i taken).arrived = c.arrived := by
  unfold Core.forward; repeat (first | rfl | (split) | exact Core.sendOn_arrived _ _ _)
@[simp] theorem Core.forward_since : (c.forward i taken).since = c.since := by
  unfold Core.forward; repeat (first | rfl | (split) | exact Core.sendOn_since _ _ _)
@[simp] theorem Core.forward_gated : (c.forward i taken).gated = c.gated := by
  unfold Core.forward; repeat (first | rfl | (split) | exact Core.sendOn_gated _ _ _)
@[simp] theorem Core.forward_freeing : (c.forward i taken).freeing = c.freeing := by
  unfold Core.forward; repeat (first | rfl | (split) | exact Core.sendOn_freeing _ _ _)
@[simp] theorem Core.forward_unwindTo : (c.forward i taken).unwindTo = c.unwindTo := by
  unfold Core.forward; repeat (first | rfl | (split) | exact Core.sendOn_unwindTo _ _ _)

end

section
variable (c : Core) (n : W32)

@[simp] theorem Core.repNext_g : (c.repNext n).g = c.g := by
  unfold Core.repNext; repeat (first | rfl | split)
@[simp] theorem Core.repNext_frames : (c.repNext n).frames = c.frames := by
  unfold Core.repNext; repeat (first | rfl | split)
@[simp] theorem Core.repNext_p : (c.repNext n).p = c.p := by
  unfold Core.repNext; repeat (first | rfl | split)
@[simp] theorem Core.repNext_v : (c.repNext n).v = c.v := by
  unfold Core.repNext; repeat (first | rfl | split)
@[simp] theorem Core.repNext_q : (c.repNext n).q = c.q := by
  unfold Core.repNext; repeat (first | rfl | split)
@[simp] theorem Core.repNext_acc : (c.repNext n).acc = c.acc := by
  unfold Core.repNext; repeat (first | rfl | split)
@[simp] theorem Core.repNext_bd : (c.repNext n).bd = c.bd := by
  unfold Core.repNext; repeat (first | rfl | split)
@[simp] theorem Core.repNext_lw : (c.repNext n).lw = c.lw := by
  unfold Core.repNext; repeat (first | rfl | split)
@[simp] theorem Core.repNext_mc : (c.repNext n).mc = c.mc := by
  unfold Core.repNext; repeat (first | rfl | split)
@[simp] theorem Core.repNext_latch : (c.repNext n).latch = c.latch := by
  unfold Core.repNext; repeat (first | rfl | split)
@[simp] theorem Core.repNext_held : (c.repNext n).held = c.held := by
  unfold Core.repNext; repeat (first | rfl | split)
@[simp] theorem Core.repNext_fcsr : (c.repNext n).fcsr = c.fcsr := by
  unfold Core.repNext; repeat (first | rfl | split)
@[simp] theorem Core.repNext_srseed : (c.repNext n).srseed = c.srseed := by
  unfold Core.repNext; repeat (first | rfl | split)
@[simp] theorem Core.repNext_tsk : (c.repNext n).tsk = c.tsk := by
  unfold Core.repNext; repeat (first | rfl | split)
@[simp] theorem Core.repNext_tstamp : (c.repNext n).tstamp = c.tstamp := by
  unfold Core.repNext; repeat (first | rfl | split)
@[simp] theorem Core.repNext_ssn : (c.repNext n).ssn = c.ssn := by
  unfold Core.repNext; repeat (first | rfl | split)
@[simp] theorem Core.repNext_xt : (c.repNext n).xt = c.xt := by
  unfold Core.repNext; repeat (first | rfl | split)
@[simp] theorem Core.repNext_xpc : (c.repNext n).xpc = c.xpc := by
  unfold Core.repNext; repeat (first | rfl | split)
@[simp] theorem Core.repNext_syncm : (c.repNext n).syncm = c.syncm := by
  unfold Core.repNext; repeat (first | rfl | split)
@[simp] theorem Core.repNext_vote : (c.repNext n).vote = c.vote := by
  unfold Core.repNext; repeat (first | rfl | split)
@[simp] theorem Core.repNext_wptr : (c.repNext n).wptr = c.wptr := by
  unfold Core.repNext; repeat (first | rfl | split)
@[simp] theorem Core.repNext_wsp : (c.repNext n).wsp = c.wsp := by
  unfold Core.repNext; repeat (first | rfl | split)
@[simp] theorem Core.repNext_dsd : (c.repNext n).dsd = c.dsd := by
  unfold Core.repNext; repeat (first | rfl | split)
@[simp] theorem Core.repNext_curpol : (c.repNext n).curpol = c.curpol := by
  unfold Core.repNext; repeat (first | rfl | split)
@[simp] theorem Core.repNext_gst : (c.repNext n).gst = c.gst := by
  unfold Core.repNext; repeat (first | rfl | split)
@[simp] theorem Core.repNext_aw0 : (c.repNext n).aw0 = c.aw0 := by
  unfold Core.repNext; repeat (first | rfl | split)
@[simp] theorem Core.repNext_aw1 : (c.repNext n).aw1 = c.aw1 := by
  unfold Core.repNext; repeat (first | rfl | split)
@[simp] theorem Core.repNext_atp : (c.repNext n).atp = c.atp := by
  unfold Core.repNext; repeat (first | rfl | split)
@[simp] theorem Core.repNext_gcfg : (c.repNext n).gcfg = c.gcfg := by
  unfold Core.repNext; repeat (first | rfl | split)
@[simp] theorem Core.repNext_recm : (c.repNext n).recm = c.recm := by
  unfold Core.repNext; repeat (first | rfl | split)
@[simp] theorem Core.repNext_logb : (c.repNext n).logb = c.logb := by
  unfold Core.repNext; repeat (first | rfl | split)
@[simp] theorem Core.repNext_logl : (c.repNext n).logl = c.logl := by
  unfold Core.repNext; repeat (first | rfl | split)
@[simp] theorem Core.repNext_logp : (c.repNext n).logp = c.logp := by
  unfold Core.repNext; repeat (first | rfl | split)
@[simp] theorem Core.repNext_trapc : (c.repNext n).trapc = c.trapc := by
  unfold Core.repNext; repeat (first | rfl | split)
@[simp] theorem Core.repNext_trappc : (c.repNext n).trappc = c.trappc := by
  unfold Core.repNext; repeat (first | rfl | split)
@[simp] theorem Core.repNext_trapv : (c.repNext n).trapv = c.trapv := by
  unfold Core.repNext; repeat (first | rfl | split)
@[simp] theorem Core.repNext_tvec : (c.repNext n).tvec = c.tvec := by
  unfold Core.repNext; repeat (first | rfl | split)
@[simp] theorem Core.repNext_tnan : (c.repNext n).tnan = c.tnan := by
  unfold Core.repNext; repeat (first | rfl | split)
@[simp] theorem Core.repNext_tof : (c.repNext n).tof = c.tof := by
  unfold Core.repNext; repeat (first | rfl | split)
@[simp] theorem Core.repNext_repSusp : (c.repNext n).repSusp = c.repSusp := by
  unfold Core.repNext; repeat (first | rfl | split)
@[simp] theorem Core.repNext_dom : (c.repNext n).dom = c.dom := by
  unfold Core.repNext; repeat (first | rfl | split)
@[simp] theorem Core.repNext_budget : (c.repNext n).budget = c.budget := by
  unfold Core.repNext; repeat (first | rfl | split)
@[simp] theorem Core.repNext_vsaved : (c.repNext n).vsaved = c.vsaved := by
  unfold Core.repNext; repeat (first | rfl | split)
@[simp] theorem Core.repNext_tasks : (c.repNext n).tasks = c.tasks := by
  unfold Core.repNext; repeat (first | rfl | split)
@[simp] theorem Core.repNext_passes : (c.repNext n).passes = c.passes := by
  unfold Core.repNext; repeat (first | rfl | split)
@[simp] theorem Core.repNext_yields : (c.repNext n).yields = c.yields := by
  unfold Core.repNext; repeat (first | rfl | split)
@[simp] theorem Core.repNext_setup : (c.repNext n).setup = c.setup := by
  unfold Core.repNext; repeat (first | rfl | split)
@[simp] theorem Core.repNext_again : (c.repNext n).again = c.again := by
  unfold Core.repNext; repeat (first | rfl | split)
@[simp] theorem Core.repNext_older : (c.repNext n).older = c.older := by
  unfold Core.repNext; repeat (first | rfl | split)
@[simp] theorem Core.repNext_qfail : (c.repNext n).qfail = c.qfail := by
  unfold Core.repNext; repeat (first | rfl | split)
@[simp] theorem Core.repNext_act : (c.repNext n).act = c.act := by
  unfold Core.repNext; repeat (first | rfl | split)
@[simp] theorem Core.repNext_visit : (c.repNext n).visit = c.visit := by
  unfold Core.repNext; repeat (first | rfl | split)
@[simp] theorem Core.repNext_sleep : (c.repNext n).sleep = c.sleep := by
  unfold Core.repNext; repeat (first | rfl | split)
@[simp] theorem Core.repNext_awaits : (c.repNext n).awaits = c.awaits := by
  unfold Core.repNext; repeat (first | rfl | split)
@[simp] theorem Core.repNext_deferred : (c.repNext n).deferred = c.deferred := by
  unfold Core.repNext; repeat (first | rfl | split)
@[simp] theorem Core.repNext_ordered : (c.repNext n).ordered = c.ordered := by
  unfold Core.repNext; repeat (first | rfl | split)
@[simp] theorem Core.repNext_ports : (c.repNext n).ports = c.ports := by
  unfold Core.repNext; repeat (first | rfl | split)
@[simp] theorem Core.repNext_tileq : (c.repNext n).tileq = c.tileq := by
  unfold Core.repNext; repeat (first | rfl | split)
@[simp] theorem Core.repNext_reissue : (c.repNext n).reissue = c.reissue := by
  unfold Core.repNext; repeat (first | rfl | split)
@[simp] theorem Core.repNext_join : (c.repNext n).join = c.join := by
  unfold Core.repNext; repeat (first | rfl | split)
@[simp] theorem Core.repNext_rev : (c.repNext n).rev = c.rev := by
  unfold Core.repNext; repeat (first | rfl | split)
@[simp] theorem Core.repNext_sels : (c.repNext n).sels = c.sels := by
  unfold Core.repNext; repeat (first | rfl | split)
@[simp] theorem Core.repNext_syncv : (c.repNext n).syncv = c.syncv := by
  unfold Core.repNext; repeat (first | rfl | split)
@[simp] theorem Core.repNext_pushes : (c.repNext n).pushes = c.pushes := by
  unfold Core.repNext; repeat (first | rfl | split)
@[simp] theorem Core.repNext_cecnt : (c.repNext n).cecnt = c.cecnt := by
  unfold Core.repNext; repeat (first | rfl | split)
@[simp] theorem Core.repNext_ctr : (c.repNext n).ctr = c.ctr := by
  unfold Core.repNext; repeat (first | rfl | split)
@[simp] theorem Core.repNext_ctrSel : (c.repNext n).ctrSel = c.ctrSel := by
  unfold Core.repNext; repeat (first | rfl | split)
@[simp] theorem Core.repNext_passHit : (c.repNext n).passHit = c.passHit := by
  unfold Core.repNext; repeat (first | rfl | split)
@[simp] theorem Core.repNext_wctl : (c.repNext n).wctl = c.wctl := by
  unfold Core.repNext; repeat (first | rfl | split)
@[simp] theorem Core.repNext_wbase : (c.repNext n).wbase = c.wbase := by
  unfold Core.repNext; repeat (first | rfl | split)
@[simp] theorem Core.repNext_l1 : (c.repNext n).l1 = c.l1 := by
  unfold Core.repNext; repeat (first | rfl | split)
@[simp] theorem Core.repNext_farReq : (c.repNext n).farReq = c.farReq := by
  unfold Core.repNext; repeat (first | rfl | split)
@[simp] theorem Core.repNext_walked : (c.repNext n).walked = c.walked := by
  unfold Core.repNext; repeat (first | rfl | split)
@[simp] theorem Core.repNext_member : (c.repNext n).member = c.member := by
  unfold Core.repNext; repeat (first | rfl | split)
@[simp] theorem Core.repNext_gang : (c.repNext n).gang = c.gang := by
  unfold Core.repNext; repeat (first | rfl | split)
@[simp] theorem Core.repNext_took : (c.repNext n).took = c.took := by
  unfold Core.repNext; repeat (first | rfl | split)
@[simp] theorem Core.repNext_stream : (c.repNext n).stream = c.stream := by
  unfold Core.repNext; repeat (first | rfl | split)
@[simp] theorem Core.repNext_ahead : (c.repNext n).ahead = c.ahead := by
  unfold Core.repNext; repeat (first | rfl | split)
@[simp] theorem Core.repNext_begun : (c.repNext n).begun = c.begun := by
  unfold Core.repNext; repeat (first | rfl | split)
@[simp] theorem Core.repNext_arrived : (c.repNext n).arrived = c.arrived := by
  unfold Core.repNext; repeat (first | rfl | split)
@[simp] theorem Core.repNext_since : (c.repNext n).since = c.since := by
  unfold Core.repNext; repeat (first | rfl | split)
@[simp] theorem Core.repNext_gated : (c.repNext n).gated = c.gated := by
  unfold Core.repNext; repeat (first | rfl | split)
@[simp] theorem Core.repNext_freeing : (c.repNext n).freeing = c.freeing := by
  unfold Core.repNext; repeat (first | rfl | split)
@[simp] theorem Core.repNext_unwindTo : (c.repNext n).unwindTo = c.unwindTo := by
  unfold Core.repNext; repeat (first | rfl | split)

end

section
variable (c : Core) (i : Instr)

@[simp] theorem Core.retire_g : (c.retire i).g = c.g := by
  unfold Core.retire; simp only []; split <;> simp only [Core.repNext_g, Core.count_g, Core.forward_g]
@[simp] theorem Core.retire_frames : (c.retire i).frames = c.frames := by
  unfold Core.retire; simp only []; split <;> simp only [Core.repNext_frames, Core.count_frames, Core.forward_frames]
@[simp] theorem Core.retire_p : (c.retire i).p = c.p := by
  unfold Core.retire; simp only []; split <;> simp only [Core.repNext_p, Core.count_p, Core.forward_p]
@[simp] theorem Core.retire_v : (c.retire i).v = c.v := by
  unfold Core.retire; simp only []; split <;> simp only [Core.repNext_v, Core.count_v, Core.forward_v]
@[simp] theorem Core.retire_q : (c.retire i).q = c.q := by
  unfold Core.retire; simp only []; split <;> simp only [Core.repNext_q, Core.count_q, Core.forward_q]
@[simp] theorem Core.retire_acc : (c.retire i).acc = c.acc := by
  unfold Core.retire; simp only []; split <;> simp only [Core.repNext_acc, Core.count_acc, Core.forward_acc]
@[simp] theorem Core.retire_bd : (c.retire i).bd = c.bd := by
  unfold Core.retire; simp only []; split <;> simp only [Core.repNext_bd, Core.count_bd, Core.forward_bd]
@[simp] theorem Core.retire_lw : (c.retire i).lw = c.lw := by
  unfold Core.retire; simp only []; split <;> simp only [Core.repNext_lw, Core.count_lw, Core.forward_lw]
@[simp] theorem Core.retire_mc : (c.retire i).mc = c.mc := by
  unfold Core.retire; simp only []; split <;> simp only [Core.repNext_mc, Core.count_mc, Core.forward_mc]
@[simp] theorem Core.retire_held : (c.retire i).held = c.held := by
  unfold Core.retire; simp only []; split <;> simp only [Core.repNext_held, Core.count_held, Core.forward_held]
@[simp] theorem Core.retire_fcsr : (c.retire i).fcsr = c.fcsr := by
  unfold Core.retire; simp only []; split <;> simp only [Core.repNext_fcsr, Core.count_fcsr, Core.forward_fcsr]
@[simp] theorem Core.retire_srseed : (c.retire i).srseed = c.srseed := by
  unfold Core.retire; simp only []; split <;> simp only [Core.repNext_srseed, Core.count_srseed, Core.forward_srseed]
@[simp] theorem Core.retire_tsk : (c.retire i).tsk = c.tsk := by
  unfold Core.retire; simp only []; split <;> simp only [Core.repNext_tsk, Core.count_tsk, Core.forward_tsk]
@[simp] theorem Core.retire_tstamp : (c.retire i).tstamp = c.tstamp := by
  unfold Core.retire; simp only []; split <;> simp only [Core.repNext_tstamp, Core.count_tstamp, Core.forward_tstamp]
@[simp] theorem Core.retire_ssn : (c.retire i).ssn = c.ssn := by
  unfold Core.retire; simp only []; split <;> simp only [Core.repNext_ssn, Core.count_ssn, Core.forward_ssn]
@[simp] theorem Core.retire_xt : (c.retire i).xt = c.xt := by
  unfold Core.retire; simp only []; split <;> simp only [Core.repNext_xt, Core.count_xt, Core.forward_xt]
@[simp] theorem Core.retire_xpc : (c.retire i).xpc = c.xpc := by
  unfold Core.retire; simp only []; split <;> simp only [Core.repNext_xpc, Core.count_xpc, Core.forward_xpc]
@[simp] theorem Core.retire_syncm : (c.retire i).syncm = c.syncm := by
  unfold Core.retire; simp only []; split <;> simp only [Core.repNext_syncm, Core.count_syncm, Core.forward_syncm]
@[simp] theorem Core.retire_vote : (c.retire i).vote = c.vote := by
  unfold Core.retire; simp only []; split <;> simp only [Core.repNext_vote, Core.count_vote, Core.forward_vote]
@[simp] theorem Core.retire_wptr : (c.retire i).wptr = c.wptr := by
  unfold Core.retire; simp only []; split <;> simp only [Core.repNext_wptr, Core.count_wptr, Core.forward_wptr]
@[simp] theorem Core.retire_wsp : (c.retire i).wsp = c.wsp := by
  unfold Core.retire; simp only []; split <;> simp only [Core.repNext_wsp, Core.count_wsp, Core.forward_wsp]
@[simp] theorem Core.retire_dsd : (c.retire i).dsd = c.dsd := by
  unfold Core.retire; simp only []; split <;> simp only [Core.repNext_dsd, Core.count_dsd, Core.forward_dsd]
@[simp] theorem Core.retire_curpol : (c.retire i).curpol = c.curpol := by
  unfold Core.retire; simp only []; split <;> simp only [Core.repNext_curpol, Core.count_curpol, Core.forward_curpol]
@[simp] theorem Core.retire_gst : (c.retire i).gst = c.gst := by
  unfold Core.retire; simp only []; split <;> simp only [Core.repNext_gst, Core.count_gst, Core.forward_gst]
@[simp] theorem Core.retire_aw0 : (c.retire i).aw0 = c.aw0 := by
  unfold Core.retire; simp only []; split <;> simp only [Core.repNext_aw0, Core.count_aw0, Core.forward_aw0]
@[simp] theorem Core.retire_aw1 : (c.retire i).aw1 = c.aw1 := by
  unfold Core.retire; simp only []; split <;> simp only [Core.repNext_aw1, Core.count_aw1, Core.forward_aw1]
@[simp] theorem Core.retire_atp : (c.retire i).atp = c.atp := by
  unfold Core.retire; simp only []; split <;> simp only [Core.repNext_atp, Core.count_atp, Core.forward_atp]
@[simp] theorem Core.retire_gcfg : (c.retire i).gcfg = c.gcfg := by
  unfold Core.retire; simp only []; split <;> simp only [Core.repNext_gcfg, Core.count_gcfg, Core.forward_gcfg]
@[simp] theorem Core.retire_recm : (c.retire i).recm = c.recm := by
  unfold Core.retire; simp only []; split <;> simp only [Core.repNext_recm, Core.count_recm, Core.forward_recm]
@[simp] theorem Core.retire_logb : (c.retire i).logb = c.logb := by
  unfold Core.retire; simp only []; split <;> simp only [Core.repNext_logb, Core.count_logb, Core.forward_logb]
@[simp] theorem Core.retire_logl : (c.retire i).logl = c.logl := by
  unfold Core.retire; simp only []; split <;> simp only [Core.repNext_logl, Core.count_logl, Core.forward_logl]
@[simp] theorem Core.retire_logp : (c.retire i).logp = c.logp := by
  unfold Core.retire; simp only []; split <;> simp only [Core.repNext_logp, Core.count_logp, Core.forward_logp]
@[simp] theorem Core.retire_trapc : (c.retire i).trapc = c.trapc := by
  unfold Core.retire; simp only []; split <;> simp only [Core.repNext_trapc, Core.count_trapc, Core.forward_trapc]
@[simp] theorem Core.retire_trappc : (c.retire i).trappc = c.trappc := by
  unfold Core.retire; simp only []; split <;> simp only [Core.repNext_trappc, Core.count_trappc, Core.forward_trappc]
@[simp] theorem Core.retire_trapv : (c.retire i).trapv = c.trapv := by
  unfold Core.retire; simp only []; split <;> simp only [Core.repNext_trapv, Core.count_trapv, Core.forward_trapv]
@[simp] theorem Core.retire_tvec : (c.retire i).tvec = c.tvec := by
  unfold Core.retire; simp only []; split <;> simp only [Core.repNext_tvec, Core.count_tvec, Core.forward_tvec]
@[simp] theorem Core.retire_tnan : (c.retire i).tnan = c.tnan := by
  unfold Core.retire; simp only []; split <;> simp only [Core.repNext_tnan, Core.count_tnan, Core.forward_tnan]
@[simp] theorem Core.retire_tof : (c.retire i).tof = c.tof := by
  unfold Core.retire; simp only []; split <;> simp only [Core.repNext_tof, Core.count_tof, Core.forward_tof]
@[simp] theorem Core.retire_repSusp : (c.retire i).repSusp = c.repSusp := by
  unfold Core.retire; simp only []; split <;> simp only [Core.repNext_repSusp, Core.count_repSusp, Core.forward_repSusp]
@[simp] theorem Core.retire_dom : (c.retire i).dom = c.dom := by
  unfold Core.retire; simp only []; split <;> simp only [Core.repNext_dom, Core.count_dom, Core.forward_dom]
@[simp] theorem Core.retire_budget : (c.retire i).budget = c.budget := by
  unfold Core.retire; simp only []; split <;> simp only [Core.repNext_budget, Core.count_budget, Core.forward_budget]
@[simp] theorem Core.retire_vsaved : (c.retire i).vsaved = c.vsaved := by
  unfold Core.retire; simp only []; split <;> simp only [Core.repNext_vsaved, Core.count_vsaved, Core.forward_vsaved]
@[simp] theorem Core.retire_tasks : (c.retire i).tasks = c.tasks := by
  unfold Core.retire; simp only []; split <;> simp only [Core.repNext_tasks, Core.count_tasks, Core.forward_tasks]
@[simp] theorem Core.retire_passes : (c.retire i).passes = c.passes := by
  unfold Core.retire; simp only []; split <;> simp only [Core.repNext_passes, Core.count_passes, Core.forward_passes]
@[simp] theorem Core.retire_yields : (c.retire i).yields = c.yields := by
  unfold Core.retire; simp only []; split <;> simp only [Core.repNext_yields, Core.count_yields, Core.forward_yields]
@[simp] theorem Core.retire_setup : (c.retire i).setup = c.setup := by
  unfold Core.retire; simp only []; split <;> simp only [Core.repNext_setup, Core.count_setup, Core.forward_setup]
@[simp] theorem Core.retire_again : (c.retire i).again = c.again := by
  unfold Core.retire; simp only []; split <;> simp only [Core.repNext_again, Core.count_again, Core.forward_again]
@[simp] theorem Core.retire_older : (c.retire i).older = c.older := by
  unfold Core.retire; simp only []; split <;> simp only [Core.repNext_older, Core.count_older, Core.forward_older]
@[simp] theorem Core.retire_qfail : (c.retire i).qfail = c.qfail := by
  unfold Core.retire; simp only []; split <;> simp only [Core.repNext_qfail, Core.count_qfail, Core.forward_qfail]
@[simp] theorem Core.retire_act : (c.retire i).act = c.act := by
  unfold Core.retire; simp only []; split <;> simp only [Core.repNext_act, Core.count_act, Core.forward_act]
@[simp] theorem Core.retire_visit : (c.retire i).visit = c.visit := by
  unfold Core.retire; simp only []; split <;> simp only [Core.repNext_visit, Core.count_visit, Core.forward_visit]
@[simp] theorem Core.retire_awaits : (c.retire i).awaits = c.awaits := by
  unfold Core.retire; simp only []; split <;> simp only [Core.repNext_awaits, Core.count_awaits, Core.forward_awaits]
@[simp] theorem Core.retire_deferred : (c.retire i).deferred = c.deferred := by
  unfold Core.retire; simp only []; split <;> simp only [Core.repNext_deferred, Core.count_deferred, Core.forward_deferred]
@[simp] theorem Core.retire_ordered : (c.retire i).ordered = c.ordered := by
  unfold Core.retire; simp only []; split <;> simp only [Core.repNext_ordered, Core.count_ordered, Core.forward_ordered]
@[simp] theorem Core.retire_ports : (c.retire i).ports = c.ports := by
  unfold Core.retire; simp only []; split <;> simp only [Core.repNext_ports, Core.count_ports, Core.forward_ports]
@[simp] theorem Core.retire_tileq : (c.retire i).tileq = c.tileq := by
  unfold Core.retire; simp only []; split <;> simp only [Core.repNext_tileq, Core.count_tileq, Core.forward_tileq]
@[simp] theorem Core.retire_reissue : (c.retire i).reissue = c.reissue := by
  unfold Core.retire; simp only []; split <;> simp only [Core.repNext_reissue, Core.count_reissue, Core.forward_reissue]
@[simp] theorem Core.retire_join : (c.retire i).join = c.join := by
  unfold Core.retire; simp only []; split <;> simp only [Core.repNext_join, Core.count_join, Core.forward_join]
@[simp] theorem Core.retire_rev : (c.retire i).rev = c.rev := by
  unfold Core.retire; simp only []; split <;> simp only [Core.repNext_rev, Core.count_rev, Core.forward_rev]
@[simp] theorem Core.retire_sels : (c.retire i).sels = c.sels := by
  unfold Core.retire; simp only []; split <;> simp only [Core.repNext_sels, Core.count_sels, Core.forward_sels]
@[simp] theorem Core.retire_syncv : (c.retire i).syncv = c.syncv := by
  unfold Core.retire; simp only []; split <;> simp only [Core.repNext_syncv, Core.count_syncv, Core.forward_syncv]
@[simp] theorem Core.retire_pushes : (c.retire i).pushes = c.pushes := by
  unfold Core.retire; simp only []; split <;> simp only [Core.repNext_pushes, Core.count_pushes, Core.forward_pushes]
@[simp] theorem Core.retire_cecnt : (c.retire i).cecnt = c.cecnt := by
  unfold Core.retire; simp only []; split <;> simp only [Core.repNext_cecnt, Core.count_cecnt, Core.forward_cecnt]
@[simp] theorem Core.retire_ctrSel : (c.retire i).ctrSel = c.ctrSel := by
  unfold Core.retire; simp only []; split <;> simp only [Core.repNext_ctrSel, Core.count_ctrSel, Core.forward_ctrSel]
@[simp] theorem Core.retire_wctl : (c.retire i).wctl = c.wctl := by
  unfold Core.retire; simp only []; split <;> simp only [Core.repNext_wctl, Core.count_wctl, Core.forward_wctl]
@[simp] theorem Core.retire_wbase : (c.retire i).wbase = c.wbase := by
  unfold Core.retire; simp only []; split <;> simp only [Core.repNext_wbase, Core.count_wbase, Core.forward_wbase]
@[simp] theorem Core.retire_l1 : (c.retire i).l1 = c.l1 := by
  unfold Core.retire; simp only []; split <;> simp only [Core.repNext_l1, Core.count_l1, Core.forward_l1]
@[simp] theorem Core.retire_walked : (c.retire i).walked = c.walked := by
  unfold Core.retire; simp only []; split <;> simp only [Core.repNext_walked, Core.count_walked, Core.forward_walked]
@[simp] theorem Core.retire_member : (c.retire i).member = c.member := by
  unfold Core.retire; simp only []; split <;> simp only [Core.repNext_member, Core.count_member, Core.forward_member]
@[simp] theorem Core.retire_begun : (c.retire i).begun = c.begun := by
  unfold Core.retire; simp only []; split <;> simp only [Core.repNext_begun, Core.count_begun, Core.forward_begun]
@[simp] theorem Core.retire_arrived : (c.retire i).arrived = c.arrived := by
  unfold Core.retire; simp only []; split <;> simp only [Core.repNext_arrived, Core.count_arrived, Core.forward_arrived]
@[simp] theorem Core.retire_since : (c.retire i).since = c.since := by
  unfold Core.retire; simp only []; split <;> simp only [Core.repNext_since, Core.count_since, Core.forward_since]
@[simp] theorem Core.retire_gated : (c.retire i).gated = c.gated := by
  unfold Core.retire; simp only []; split <;> simp only [Core.repNext_gated, Core.count_gated, Core.forward_gated]
@[simp] theorem Core.retire_freeing : (c.retire i).freeing = c.freeing := by
  unfold Core.retire; simp only []; split <;> simp only [Core.repNext_freeing, Core.count_freeing, Core.forward_freeing]
@[simp] theorem Core.retire_unwindTo : (c.retire i).unwindTo = c.unwindTo := by
  unfold Core.retire; simp only []; split <;> simp only [Core.repNext_unwindTo, Core.count_unwindTo, Core.forward_unwindTo]

end

section
variable (c : Core) (i : Instr) (pc : W32)

@[simp] theorem Core.transfer_g : (c.transfer i pc).g = c.g := by
  simp only [Core.transfer, Core.count_g, Core.forward_g]
@[simp] theorem Core.transfer_frames : (c.transfer i pc).frames = c.frames := by
  simp only [Core.transfer, Core.count_frames, Core.forward_frames]
@[simp] theorem Core.transfer_p : (c.transfer i pc).p = c.p := by
  simp only [Core.transfer, Core.count_p, Core.forward_p]
@[simp] theorem Core.transfer_v : (c.transfer i pc).v = c.v := by
  simp only [Core.transfer, Core.count_v, Core.forward_v]
@[simp] theorem Core.transfer_q : (c.transfer i pc).q = c.q := by
  simp only [Core.transfer, Core.count_q, Core.forward_q]
@[simp] theorem Core.transfer_acc : (c.transfer i pc).acc = c.acc := by
  simp only [Core.transfer, Core.count_acc, Core.forward_acc]
@[simp] theorem Core.transfer_bd : (c.transfer i pc).bd = c.bd := by
  simp only [Core.transfer, Core.count_bd, Core.forward_bd]
@[simp] theorem Core.transfer_lw : (c.transfer i pc).lw = c.lw := by
  simp only [Core.transfer, Core.count_lw, Core.forward_lw]
@[simp] theorem Core.transfer_mc : (c.transfer i pc).mc = c.mc := by
  simp only [Core.transfer, Core.count_mc, Core.forward_mc]
@[simp] theorem Core.transfer_held : (c.transfer i pc).held = c.held := by
  simp only [Core.transfer, Core.count_held, Core.forward_held]
@[simp] theorem Core.transfer_fcsr : (c.transfer i pc).fcsr = c.fcsr := by
  simp only [Core.transfer, Core.count_fcsr, Core.forward_fcsr]
@[simp] theorem Core.transfer_srseed : (c.transfer i pc).srseed = c.srseed := by
  simp only [Core.transfer, Core.count_srseed, Core.forward_srseed]
@[simp] theorem Core.transfer_tsk : (c.transfer i pc).tsk = c.tsk := by
  simp only [Core.transfer, Core.count_tsk, Core.forward_tsk]
@[simp] theorem Core.transfer_tstamp : (c.transfer i pc).tstamp = c.tstamp := by
  simp only [Core.transfer, Core.count_tstamp, Core.forward_tstamp]
@[simp] theorem Core.transfer_ssn : (c.transfer i pc).ssn = c.ssn := by
  simp only [Core.transfer, Core.count_ssn, Core.forward_ssn]
@[simp] theorem Core.transfer_xt : (c.transfer i pc).xt = c.xt := by
  simp only [Core.transfer, Core.count_xt, Core.forward_xt]
@[simp] theorem Core.transfer_xpc : (c.transfer i pc).xpc = c.xpc := by
  simp only [Core.transfer, Core.count_xpc, Core.forward_xpc]
@[simp] theorem Core.transfer_syncm : (c.transfer i pc).syncm = c.syncm := by
  simp only [Core.transfer, Core.count_syncm, Core.forward_syncm]
@[simp] theorem Core.transfer_vote : (c.transfer i pc).vote = c.vote := by
  simp only [Core.transfer, Core.count_vote, Core.forward_vote]
@[simp] theorem Core.transfer_wptr : (c.transfer i pc).wptr = c.wptr := by
  simp only [Core.transfer, Core.count_wptr, Core.forward_wptr]
@[simp] theorem Core.transfer_wsp : (c.transfer i pc).wsp = c.wsp := by
  simp only [Core.transfer, Core.count_wsp, Core.forward_wsp]
@[simp] theorem Core.transfer_dsd : (c.transfer i pc).dsd = c.dsd := by
  simp only [Core.transfer, Core.count_dsd, Core.forward_dsd]
@[simp] theorem Core.transfer_repc : (c.transfer i pc).repc = c.repc := by
  simp only [Core.transfer, Core.count_repc, Core.forward_repc]
@[simp] theorem Core.transfer_curpol : (c.transfer i pc).curpol = c.curpol := by
  simp only [Core.transfer, Core.count_curpol, Core.forward_curpol]
@[simp] theorem Core.transfer_gst : (c.transfer i pc).gst = c.gst := by
  simp only [Core.transfer, Core.count_gst, Core.forward_gst]
@[simp] theorem Core.transfer_aw0 : (c.transfer i pc).aw0 = c.aw0 := by
  simp only [Core.transfer, Core.count_aw0, Core.forward_aw0]
@[simp] theorem Core.transfer_aw1 : (c.transfer i pc).aw1 = c.aw1 := by
  simp only [Core.transfer, Core.count_aw1, Core.forward_aw1]
@[simp] theorem Core.transfer_atp : (c.transfer i pc).atp = c.atp := by
  simp only [Core.transfer, Core.count_atp, Core.forward_atp]
@[simp] theorem Core.transfer_gcfg : (c.transfer i pc).gcfg = c.gcfg := by
  simp only [Core.transfer, Core.count_gcfg, Core.forward_gcfg]
@[simp] theorem Core.transfer_recm : (c.transfer i pc).recm = c.recm := by
  simp only [Core.transfer, Core.count_recm, Core.forward_recm]
@[simp] theorem Core.transfer_logb : (c.transfer i pc).logb = c.logb := by
  simp only [Core.transfer, Core.count_logb, Core.forward_logb]
@[simp] theorem Core.transfer_logl : (c.transfer i pc).logl = c.logl := by
  simp only [Core.transfer, Core.count_logl, Core.forward_logl]
@[simp] theorem Core.transfer_logp : (c.transfer i pc).logp = c.logp := by
  simp only [Core.transfer, Core.count_logp, Core.forward_logp]
@[simp] theorem Core.transfer_trapc : (c.transfer i pc).trapc = c.trapc := by
  simp only [Core.transfer, Core.count_trapc, Core.forward_trapc]
@[simp] theorem Core.transfer_trappc : (c.transfer i pc).trappc = c.trappc := by
  simp only [Core.transfer, Core.count_trappc, Core.forward_trappc]
@[simp] theorem Core.transfer_trapv : (c.transfer i pc).trapv = c.trapv := by
  simp only [Core.transfer, Core.count_trapv, Core.forward_trapv]
@[simp] theorem Core.transfer_tvec : (c.transfer i pc).tvec = c.tvec := by
  simp only [Core.transfer, Core.count_tvec, Core.forward_tvec]
@[simp] theorem Core.transfer_tnan : (c.transfer i pc).tnan = c.tnan := by
  simp only [Core.transfer, Core.count_tnan, Core.forward_tnan]
@[simp] theorem Core.transfer_tof : (c.transfer i pc).tof = c.tof := by
  simp only [Core.transfer, Core.count_tof, Core.forward_tof]
@[simp] theorem Core.transfer_repBuf : (c.transfer i pc).repBuf = c.repBuf := by
  simp only [Core.transfer, Core.count_repBuf, Core.forward_repBuf]
@[simp] theorem Core.transfer_repSusp : (c.transfer i pc).repSusp = c.repSusp := by
  simp only [Core.transfer, Core.count_repSusp, Core.forward_repSusp]
@[simp] theorem Core.transfer_dom : (c.transfer i pc).dom = c.dom := by
  simp only [Core.transfer, Core.count_dom, Core.forward_dom]
@[simp] theorem Core.transfer_budget : (c.transfer i pc).budget = c.budget := by
  simp only [Core.transfer, Core.count_budget, Core.forward_budget]
@[simp] theorem Core.transfer_vsaved : (c.transfer i pc).vsaved = c.vsaved := by
  simp only [Core.transfer, Core.count_vsaved, Core.forward_vsaved]
@[simp] theorem Core.transfer_tasks : (c.transfer i pc).tasks = c.tasks := by
  simp only [Core.transfer, Core.count_tasks, Core.forward_tasks]
@[simp] theorem Core.transfer_passes : (c.transfer i pc).passes = c.passes := by
  simp only [Core.transfer, Core.count_passes, Core.forward_passes]
@[simp] theorem Core.transfer_yields : (c.transfer i pc).yields = c.yields := by
  simp only [Core.transfer, Core.count_yields, Core.forward_yields]
@[simp] theorem Core.transfer_setup : (c.transfer i pc).setup = c.setup := by
  simp only [Core.transfer, Core.count_setup, Core.forward_setup]
@[simp] theorem Core.transfer_again : (c.transfer i pc).again = c.again := by
  simp only [Core.transfer, Core.count_again, Core.forward_again]
@[simp] theorem Core.transfer_older : (c.transfer i pc).older = c.older := by
  simp only [Core.transfer, Core.count_older, Core.forward_older]
@[simp] theorem Core.transfer_qfail : (c.transfer i pc).qfail = c.qfail := by
  simp only [Core.transfer, Core.count_qfail, Core.forward_qfail]
@[simp] theorem Core.transfer_act : (c.transfer i pc).act = c.act := by
  simp only [Core.transfer, Core.count_act, Core.forward_act]
@[simp] theorem Core.transfer_visit : (c.transfer i pc).visit = c.visit := by
  simp only [Core.transfer, Core.count_visit, Core.forward_visit]
@[simp] theorem Core.transfer_awaits : (c.transfer i pc).awaits = c.awaits := by
  simp only [Core.transfer, Core.count_awaits, Core.forward_awaits]
@[simp] theorem Core.transfer_deferred : (c.transfer i pc).deferred = c.deferred := by
  simp only [Core.transfer, Core.count_deferred, Core.forward_deferred]
@[simp] theorem Core.transfer_ordered : (c.transfer i pc).ordered = c.ordered := by
  simp only [Core.transfer, Core.count_ordered, Core.forward_ordered]
@[simp] theorem Core.transfer_ports : (c.transfer i pc).ports = c.ports := by
  simp only [Core.transfer, Core.count_ports, Core.forward_ports]
@[simp] theorem Core.transfer_tileq : (c.transfer i pc).tileq = c.tileq := by
  simp only [Core.transfer, Core.count_tileq, Core.forward_tileq]
@[simp] theorem Core.transfer_reissue : (c.transfer i pc).reissue = c.reissue := by
  simp only [Core.transfer, Core.count_reissue, Core.forward_reissue]
@[simp] theorem Core.transfer_join : (c.transfer i pc).join = c.join := by
  simp only [Core.transfer, Core.count_join, Core.forward_join]
@[simp] theorem Core.transfer_rev : (c.transfer i pc).rev = c.rev := by
  simp only [Core.transfer, Core.count_rev, Core.forward_rev]
@[simp] theorem Core.transfer_sels : (c.transfer i pc).sels = c.sels := by
  simp only [Core.transfer, Core.count_sels, Core.forward_sels]
@[simp] theorem Core.transfer_syncv : (c.transfer i pc).syncv = c.syncv := by
  simp only [Core.transfer, Core.count_syncv, Core.forward_syncv]
@[simp] theorem Core.transfer_pushes : (c.transfer i pc).pushes = c.pushes := by
  simp only [Core.transfer, Core.count_pushes, Core.forward_pushes]
@[simp] theorem Core.transfer_cecnt : (c.transfer i pc).cecnt = c.cecnt := by
  simp only [Core.transfer, Core.count_cecnt, Core.forward_cecnt]
@[simp] theorem Core.transfer_ctrSel : (c.transfer i pc).ctrSel = c.ctrSel := by
  simp only [Core.transfer, Core.count_ctrSel, Core.forward_ctrSel]
@[simp] theorem Core.transfer_wctl : (c.transfer i pc).wctl = c.wctl := by
  simp only [Core.transfer, Core.count_wctl, Core.forward_wctl]
@[simp] theorem Core.transfer_wbase : (c.transfer i pc).wbase = c.wbase := by
  simp only [Core.transfer, Core.count_wbase, Core.forward_wbase]
@[simp] theorem Core.transfer_l1 : (c.transfer i pc).l1 = c.l1 := by
  simp only [Core.transfer, Core.count_l1, Core.forward_l1]
@[simp] theorem Core.transfer_walked : (c.transfer i pc).walked = c.walked := by
  simp only [Core.transfer, Core.count_walked, Core.forward_walked]
@[simp] theorem Core.transfer_member : (c.transfer i pc).member = c.member := by
  simp only [Core.transfer, Core.count_member, Core.forward_member]
@[simp] theorem Core.transfer_begun : (c.transfer i pc).begun = c.begun := by
  simp only [Core.transfer, Core.count_begun, Core.forward_begun]
@[simp] theorem Core.transfer_arrived : (c.transfer i pc).arrived = c.arrived := by
  simp only [Core.transfer, Core.count_arrived, Core.forward_arrived]
@[simp] theorem Core.transfer_since : (c.transfer i pc).since = c.since := by
  simp only [Core.transfer, Core.count_since, Core.forward_since]
@[simp] theorem Core.transfer_gated : (c.transfer i pc).gated = c.gated := by
  simp only [Core.transfer, Core.count_gated, Core.forward_gated]
@[simp] theorem Core.transfer_freeing : (c.transfer i pc).freeing = c.freeing := by
  simp only [Core.transfer, Core.count_freeing, Core.forward_freeing]
@[simp] theorem Core.transfer_unwindTo : (c.transfer i pc).unwindTo = c.unwindTo := by
  simp only [Core.transfer, Core.count_unwindTo, Core.forward_unwindTo]

end

@[simp] theorem Core.transfer_pc (c : Core) (i : Instr) (pc : W32) : (c.transfer i pc).pc = pc := rfl
@[simp] theorem Core.transfer_latch (c : Core) (i : Instr) (pc : W32) : (c.transfer i pc).latch = none := rfl

theorem Core.retire_latch (c : Core) (i : Instr) : (c.retire i).latch = none := by
  unfold Core.retire Core.repNext; simp only []; repeat (first | rfl | split)

/-- Outside a replay, the next instruction is the one that follows. -/
theorem Core.retire_pc (c : Core) (i : Instr) (h : c.replaying = false) : (c.retire i).pc = c.pc + BitVec.ofNat 32 (4 * i.size) := by
  have hr : ({ (c.forward i false).count 2 1 with
      latch := none, sleep := .none, farReq := none, passHit := false } : Core).replaying = false := by
    unfold Core.replaying Core.repCount at h ⊢
    simpa using h
  unfold Core.retire
  simp only [hr]
  simp [Core.nextPc]

theorem Core.retire_s (c : Core) (i : Instr) (r : Nat) : (c.retire i).s r = c.s r := by
  unfold Core.s Core.cwp; simp

theorem Core.retire_pr (c : Core) (i : Instr) (r : Nat) : (c.retire i).pr r = c.pr r := by
  unfold Core.pr; simp

theorem Core.transfer_s (c : Core) (i : Instr) (pc : W32) (r : Nat) : (c.transfer i pc).s r = c.s r := by
  unfold Core.s Core.cwp; simp

/-! ## Traps (spec/06 R219, R220) -/

section
variable (c : Core) 

@[simp] theorem Core.leaveGang_g : (c.leaveGang).g = c.g := by
  unfold Core.leaveGang; simp only []; repeat (first | rfl | split)
@[simp] theorem Core.leaveGang_frames : (c.leaveGang).frames = c.frames := by
  unfold Core.leaveGang; simp only []; repeat (first | rfl | split)
@[simp] theorem Core.leaveGang_p : (c.leaveGang).p = c.p := by
  unfold Core.leaveGang; simp only []; repeat (first | rfl | split)
@[simp] theorem Core.leaveGang_v : (c.leaveGang).v = c.v := by
  unfold Core.leaveGang; simp only []; repeat (first | rfl | split)
@[simp] theorem Core.leaveGang_q : (c.leaveGang).q = c.q := by
  unfold Core.leaveGang; simp only []; repeat (first | rfl | split)
@[simp] theorem Core.leaveGang_acc : (c.leaveGang).acc = c.acc := by
  unfold Core.leaveGang; simp only []; repeat (first | rfl | split)
@[simp] theorem Core.leaveGang_bd : (c.leaveGang).bd = c.bd := by
  unfold Core.leaveGang; simp only []; repeat (first | rfl | split)
@[simp] theorem Core.leaveGang_lw : (c.leaveGang).lw = c.lw := by
  unfold Core.leaveGang; simp only []; repeat (first | rfl | split)
@[simp] theorem Core.leaveGang_mc : (c.leaveGang).mc = c.mc := by
  unfold Core.leaveGang; simp only []; repeat (first | rfl | split)
@[simp] theorem Core.leaveGang_pc : (c.leaveGang).pc = c.pc := by
  unfold Core.leaveGang; simp only []; repeat (first | rfl | split)
@[simp] theorem Core.leaveGang_latch : (c.leaveGang).latch = c.latch := by
  unfold Core.leaveGang; simp only []; repeat (first | rfl | split)
@[simp] theorem Core.leaveGang_held : (c.leaveGang).held = c.held := by
  unfold Core.leaveGang; simp only []; repeat (first | rfl | split)
@[simp] theorem Core.leaveGang_fcsr : (c.leaveGang).fcsr = c.fcsr := by
  unfold Core.leaveGang; simp only []; repeat (first | rfl | split)
@[simp] theorem Core.leaveGang_srseed : (c.leaveGang).srseed = c.srseed := by
  unfold Core.leaveGang; simp only []; repeat (first | rfl | split)
@[simp] theorem Core.leaveGang_tstamp : (c.leaveGang).tstamp = c.tstamp := by
  unfold Core.leaveGang; simp only []; repeat (first | rfl | split)
@[simp] theorem Core.leaveGang_ssn : (c.leaveGang).ssn = c.ssn := by
  unfold Core.leaveGang; simp only []; repeat (first | rfl | split)
@[simp] theorem Core.leaveGang_xt : (c.leaveGang).xt = c.xt := by
  unfold Core.leaveGang; simp only []; repeat (first | rfl | split)
@[simp] theorem Core.leaveGang_xpc : (c.leaveGang).xpc = c.xpc := by
  unfold Core.leaveGang; simp only []; repeat (first | rfl | split)
@[simp] theorem Core.leaveGang_syncm : (c.leaveGang).syncm = c.syncm := by
  unfold Core.leaveGang; simp only []; repeat (first | rfl | split)
@[simp] theorem Core.leaveGang_vote : (c.leaveGang).vote = c.vote := by
  unfold Core.leaveGang; simp only []; repeat (first | rfl | split)
@[simp] theorem Core.leaveGang_wptr : (c.leaveGang).wptr = c.wptr := by
  unfold Core.leaveGang; simp only []; repeat (first | rfl | split)
@[simp] theorem Core.leaveGang_wsp : (c.leaveGang).wsp = c.wsp := by
  unfold Core.leaveGang; simp only []; repeat (first | rfl | split)
@[simp] theorem Core.leaveGang_dsd : (c.leaveGang).dsd = c.dsd := by
  unfold Core.leaveGang; simp only []; repeat (first | rfl | split)
@[simp] theorem Core.leaveGang_repc : (c.leaveGang).repc = c.repc := by
  unfold Core.leaveGang; simp only []; repeat (first | rfl | split)
@[simp] theorem Core.leaveGang_curpol : (c.leaveGang).curpol = c.curpol := by
  unfold Core.leaveGang; simp only []; repeat (first | rfl | split)
@[simp] theorem Core.leaveGang_gst : (c.leaveGang).gst = c.gst := by
  unfold Core.leaveGang; simp only []; repeat (first | rfl | split)
@[simp] theorem Core.leaveGang_aw0 : (c.leaveGang).aw0 = c.aw0 := by
  unfold Core.leaveGang; simp only []; repeat (first | rfl | split)
@[simp] theorem Core.leaveGang_aw1 : (c.leaveGang).aw1 = c.aw1 := by
  unfold Core.leaveGang; simp only []; repeat (first | rfl | split)
@[simp] theorem Core.leaveGang_atp : (c.leaveGang).atp = c.atp := by
  unfold Core.leaveGang; simp only []; repeat (first | rfl | split)
@[simp] theorem Core.leaveGang_gcfg : (c.leaveGang).gcfg = c.gcfg := by
  unfold Core.leaveGang; simp only []; repeat (first | rfl | split)
@[simp] theorem Core.leaveGang_recm : (c.leaveGang).recm = c.recm := by
  unfold Core.leaveGang; simp only []; repeat (first | rfl | split)
@[simp] theorem Core.leaveGang_logb : (c.leaveGang).logb = c.logb := by
  unfold Core.leaveGang; simp only []; repeat (first | rfl | split)
@[simp] theorem Core.leaveGang_logl : (c.leaveGang).logl = c.logl := by
  unfold Core.leaveGang; simp only []; repeat (first | rfl | split)
@[simp] theorem Core.leaveGang_logp : (c.leaveGang).logp = c.logp := by
  unfold Core.leaveGang; simp only []; repeat (first | rfl | split)
@[simp] theorem Core.leaveGang_trapc : (c.leaveGang).trapc = c.trapc := by
  unfold Core.leaveGang; simp only []; repeat (first | rfl | split)
@[simp] theorem Core.leaveGang_trappc : (c.leaveGang).trappc = c.trappc := by
  unfold Core.leaveGang; simp only []; repeat (first | rfl | split)
@[simp] theorem Core.leaveGang_trapv : (c.leaveGang).trapv = c.trapv := by
  unfold Core.leaveGang; simp only []; repeat (first | rfl | split)
@[simp] theorem Core.leaveGang_tvec : (c.leaveGang).tvec = c.tvec := by
  unfold Core.leaveGang; simp only []; repeat (first | rfl | split)
@[simp] theorem Core.leaveGang_tnan : (c.leaveGang).tnan = c.tnan := by
  unfold Core.leaveGang; simp only []; repeat (first | rfl | split)
@[simp] theorem Core.leaveGang_tof : (c.leaveGang).tof = c.tof := by
  unfold Core.leaveGang; simp only []; repeat (first | rfl | split)
@[simp] theorem Core.leaveGang_repBuf : (c.leaveGang).repBuf = c.repBuf := by
  unfold Core.leaveGang; simp only []; repeat (first | rfl | split)
@[simp] theorem Core.leaveGang_repSusp : (c.leaveGang).repSusp = c.repSusp := by
  unfold Core.leaveGang; simp only []; repeat (first | rfl | split)
@[simp] theorem Core.leaveGang_dom : (c.leaveGang).dom = c.dom := by
  unfold Core.leaveGang; simp only []; repeat (first | rfl | split)
@[simp] theorem Core.leaveGang_budget : (c.leaveGang).budget = c.budget := by
  unfold Core.leaveGang; simp only []; repeat (first | rfl | split)
@[simp] theorem Core.leaveGang_vsaved : (c.leaveGang).vsaved = c.vsaved := by
  unfold Core.leaveGang; simp only []; repeat (first | rfl | split)
@[simp] theorem Core.leaveGang_tasks : (c.leaveGang).tasks = c.tasks := by
  unfold Core.leaveGang; simp only []; repeat (first | rfl | split)
@[simp] theorem Core.leaveGang_passes : (c.leaveGang).passes = c.passes := by
  unfold Core.leaveGang; simp only []; repeat (first | rfl | split)
@[simp] theorem Core.leaveGang_yields : (c.leaveGang).yields = c.yields := by
  unfold Core.leaveGang; simp only []; repeat (first | rfl | split)
@[simp] theorem Core.leaveGang_setup : (c.leaveGang).setup = c.setup := by
  unfold Core.leaveGang; simp only []; repeat (first | rfl | split)
@[simp] theorem Core.leaveGang_again : (c.leaveGang).again = c.again := by
  unfold Core.leaveGang; simp only []; repeat (first | rfl | split)
@[simp] theorem Core.leaveGang_older : (c.leaveGang).older = c.older := by
  unfold Core.leaveGang; simp only []; repeat (first | rfl | split)
@[simp] theorem Core.leaveGang_qfail : (c.leaveGang).qfail = c.qfail := by
  unfold Core.leaveGang; simp only []; repeat (first | rfl | split)
@[simp] theorem Core.leaveGang_act : (c.leaveGang).act = c.act := by
  unfold Core.leaveGang; simp only []; repeat (first | rfl | split)
@[simp] theorem Core.leaveGang_visit : (c.leaveGang).visit = c.visit := by
  unfold Core.leaveGang; simp only []; repeat (first | rfl | split)
@[simp] theorem Core.leaveGang_sleep : (c.leaveGang).sleep = c.sleep := by
  unfold Core.leaveGang; simp only []; repeat (first | rfl | split)
@[simp] theorem Core.leaveGang_awaits : (c.leaveGang).awaits = c.awaits := by
  unfold Core.leaveGang; simp only []; repeat (first | rfl | split)
@[simp] theorem Core.leaveGang_deferred : (c.leaveGang).deferred = c.deferred := by
  unfold Core.leaveGang; simp only []; repeat (first | rfl | split)
@[simp] theorem Core.leaveGang_ordered : (c.leaveGang).ordered = c.ordered := by
  unfold Core.leaveGang; simp only []; repeat (first | rfl | split)
@[simp] theorem Core.leaveGang_ports : (c.leaveGang).ports = c.ports := by
  unfold Core.leaveGang; simp only []; repeat (first | rfl | split)
@[simp] theorem Core.leaveGang_tileq : (c.leaveGang).tileq = c.tileq := by
  unfold Core.leaveGang; simp only []; repeat (first | rfl | split)
@[simp] theorem Core.leaveGang_reissue : (c.leaveGang).reissue = c.reissue := by
  unfold Core.leaveGang; simp only []; repeat (first | rfl | split)
@[simp] theorem Core.leaveGang_join : (c.leaveGang).join = c.join := by
  unfold Core.leaveGang; simp only []; repeat (first | rfl | split)
@[simp] theorem Core.leaveGang_rev : (c.leaveGang).rev = c.rev := by
  unfold Core.leaveGang; simp only []; repeat (first | rfl | split)
@[simp] theorem Core.leaveGang_sels : (c.leaveGang).sels = c.sels := by
  unfold Core.leaveGang; simp only []; repeat (first | rfl | split)
@[simp] theorem Core.leaveGang_syncv : (c.leaveGang).syncv = c.syncv := by
  unfold Core.leaveGang; simp only []; repeat (first | rfl | split)
@[simp] theorem Core.leaveGang_pushes : (c.leaveGang).pushes = c.pushes := by
  unfold Core.leaveGang; simp only []; repeat (first | rfl | split)
@[simp] theorem Core.leaveGang_cecnt : (c.leaveGang).cecnt = c.cecnt := by
  unfold Core.leaveGang; simp only []; repeat (first | rfl | split)
@[simp] theorem Core.leaveGang_ctr : (c.leaveGang).ctr = c.ctr := by
  unfold Core.leaveGang; simp only []; repeat (first | rfl | split)
@[simp] theorem Core.leaveGang_ctrSel : (c.leaveGang).ctrSel = c.ctrSel := by
  unfold Core.leaveGang; simp only []; repeat (first | rfl | split)
@[simp] theorem Core.leaveGang_passHit : (c.leaveGang).passHit = c.passHit := by
  unfold Core.leaveGang; simp only []; repeat (first | rfl | split)
@[simp] theorem Core.leaveGang_wctl : (c.leaveGang).wctl = c.wctl := by
  unfold Core.leaveGang; simp only []; repeat (first | rfl | split)
@[simp] theorem Core.leaveGang_wbase : (c.leaveGang).wbase = c.wbase := by
  unfold Core.leaveGang; simp only []; repeat (first | rfl | split)
@[simp] theorem Core.leaveGang_l1 : (c.leaveGang).l1 = c.l1 := by
  unfold Core.leaveGang; simp only []; repeat (first | rfl | split)
@[simp] theorem Core.leaveGang_farReq : (c.leaveGang).farReq = c.farReq := by
  unfold Core.leaveGang; simp only []; repeat (first | rfl | split)
@[simp] theorem Core.leaveGang_walked : (c.leaveGang).walked = c.walked := by
  unfold Core.leaveGang; simp only []; repeat (first | rfl | split)
@[simp] theorem Core.leaveGang_member : (c.leaveGang).member = c.member := by
  unfold Core.leaveGang; simp only []; repeat (first | rfl | split)
@[simp] theorem Core.leaveGang_took : (c.leaveGang).took = c.took := by
  unfold Core.leaveGang; simp only []; repeat (first | rfl | split)
@[simp] theorem Core.leaveGang_begun : (c.leaveGang).begun = c.begun := by
  unfold Core.leaveGang; simp only []; repeat (first | rfl | split)
@[simp] theorem Core.leaveGang_arrived : (c.leaveGang).arrived = c.arrived := by
  unfold Core.leaveGang; simp only []; repeat (first | rfl | split)
@[simp] theorem Core.leaveGang_since : (c.leaveGang).since = c.since := by
  unfold Core.leaveGang; simp only []; repeat (first | rfl | split)
@[simp] theorem Core.leaveGang_gated : (c.leaveGang).gated = c.gated := by
  unfold Core.leaveGang; simp only []; repeat (first | rfl | split)
@[simp] theorem Core.leaveGang_freeing : (c.leaveGang).freeing = c.freeing := by
  unfold Core.leaveGang; simp only []; repeat (first | rfl | split)
@[simp] theorem Core.leaveGang_unwindTo : (c.leaveGang).unwindTo = c.unwindTo := by
  unfold Core.leaveGang; simp only []; repeat (first | rfl | split)

end

section
variable (c : Core) 

@[simp] theorem Core.leaveJoin_g : (c.leaveJoin).g = c.g := by
  unfold Core.leaveJoin Core.dropJoin; simp only []; repeat (first | rfl | split)
@[simp] theorem Core.leaveJoin_frames : (c.leaveJoin).frames = c.frames := by
  unfold Core.leaveJoin Core.dropJoin; simp only []; repeat (first | rfl | split)
@[simp] theorem Core.leaveJoin_p : (c.leaveJoin).p = c.p := by
  unfold Core.leaveJoin Core.dropJoin; simp only []; repeat (first | rfl | split)
@[simp] theorem Core.leaveJoin_v : (c.leaveJoin).v = c.v := by
  unfold Core.leaveJoin Core.dropJoin; simp only []; repeat (first | rfl | split)
@[simp] theorem Core.leaveJoin_q : (c.leaveJoin).q = c.q := by
  unfold Core.leaveJoin Core.dropJoin; simp only []; repeat (first | rfl | split)
@[simp] theorem Core.leaveJoin_acc : (c.leaveJoin).acc = c.acc := by
  unfold Core.leaveJoin Core.dropJoin; simp only []; repeat (first | rfl | split)
@[simp] theorem Core.leaveJoin_bd : (c.leaveJoin).bd = c.bd := by
  unfold Core.leaveJoin Core.dropJoin; simp only []; repeat (first | rfl | split)
@[simp] theorem Core.leaveJoin_lw : (c.leaveJoin).lw = c.lw := by
  unfold Core.leaveJoin Core.dropJoin; simp only []; repeat (first | rfl | split)
@[simp] theorem Core.leaveJoin_mc : (c.leaveJoin).mc = c.mc := by
  unfold Core.leaveJoin Core.dropJoin; simp only []; repeat (first | rfl | split)
@[simp] theorem Core.leaveJoin_pc : (c.leaveJoin).pc = c.pc := by
  unfold Core.leaveJoin Core.dropJoin; simp only []; repeat (first | rfl | split)
@[simp] theorem Core.leaveJoin_latch : (c.leaveJoin).latch = c.latch := by
  unfold Core.leaveJoin Core.dropJoin; simp only []; repeat (first | rfl | split)
@[simp] theorem Core.leaveJoin_held : (c.leaveJoin).held = c.held := by
  unfold Core.leaveJoin Core.dropJoin; simp only []; repeat (first | rfl | split)
@[simp] theorem Core.leaveJoin_srseed : (c.leaveJoin).srseed = c.srseed := by
  unfold Core.leaveJoin Core.dropJoin; simp only []; repeat (first | rfl | split)
@[simp] theorem Core.leaveJoin_tsk : (c.leaveJoin).tsk = c.tsk := by
  unfold Core.leaveJoin Core.dropJoin; simp only []; repeat (first | rfl | split)
@[simp] theorem Core.leaveJoin_tstamp : (c.leaveJoin).tstamp = c.tstamp := by
  unfold Core.leaveJoin Core.dropJoin; simp only []; repeat (first | rfl | split)
@[simp] theorem Core.leaveJoin_ssn : (c.leaveJoin).ssn = c.ssn := by
  unfold Core.leaveJoin Core.dropJoin; simp only []; repeat (first | rfl | split)
@[simp] theorem Core.leaveJoin_xt : (c.leaveJoin).xt = c.xt := by
  unfold Core.leaveJoin Core.dropJoin; simp only []; repeat (first | rfl | split)
@[simp] theorem Core.leaveJoin_xpc : (c.leaveJoin).xpc = c.xpc := by
  unfold Core.leaveJoin Core.dropJoin; simp only []; repeat (first | rfl | split)
@[simp] theorem Core.leaveJoin_syncm : (c.leaveJoin).syncm = c.syncm := by
  unfold Core.leaveJoin Core.dropJoin; simp only []; repeat (first | rfl | split)
@[simp] theorem Core.leaveJoin_vote : (c.leaveJoin).vote = c.vote := by
  unfold Core.leaveJoin Core.dropJoin; simp only []; repeat (first | rfl | split)
@[simp] theorem Core.leaveJoin_wptr : (c.leaveJoin).wptr = c.wptr := by
  unfold Core.leaveJoin Core.dropJoin; simp only []; repeat (first | rfl | split)
@[simp] theorem Core.leaveJoin_wsp : (c.leaveJoin).wsp = c.wsp := by
  unfold Core.leaveJoin Core.dropJoin; simp only []; repeat (first | rfl | split)
@[simp] theorem Core.leaveJoin_dsd : (c.leaveJoin).dsd = c.dsd := by
  unfold Core.leaveJoin Core.dropJoin; simp only []; repeat (first | rfl | split)
@[simp] theorem Core.leaveJoin_repc : (c.leaveJoin).repc = c.repc := by
  unfold Core.leaveJoin Core.dropJoin; simp only []; repeat (first | rfl | split)
@[simp] theorem Core.leaveJoin_curpol : (c.leaveJoin).curpol = c.curpol := by
  unfold Core.leaveJoin Core.dropJoin; simp only []; repeat (first | rfl | split)
@[simp] theorem Core.leaveJoin_gst : (c.leaveJoin).gst = c.gst := by
  unfold Core.leaveJoin Core.dropJoin; simp only []; repeat (first | rfl | split)
@[simp] theorem Core.leaveJoin_aw0 : (c.leaveJoin).aw0 = c.aw0 := by
  unfold Core.leaveJoin Core.dropJoin; simp only []; repeat (first | rfl | split)
@[simp] theorem Core.leaveJoin_aw1 : (c.leaveJoin).aw1 = c.aw1 := by
  unfold Core.leaveJoin Core.dropJoin; simp only []; repeat (first | rfl | split)
@[simp] theorem Core.leaveJoin_atp : (c.leaveJoin).atp = c.atp := by
  unfold Core.leaveJoin Core.dropJoin; simp only []; repeat (first | rfl | split)
@[simp] theorem Core.leaveJoin_gcfg : (c.leaveJoin).gcfg = c.gcfg := by
  unfold Core.leaveJoin Core.dropJoin; simp only []; repeat (first | rfl | split)
@[simp] theorem Core.leaveJoin_recm : (c.leaveJoin).recm = c.recm := by
  unfold Core.leaveJoin Core.dropJoin; simp only []; repeat (first | rfl | split)
@[simp] theorem Core.leaveJoin_logb : (c.leaveJoin).logb = c.logb := by
  unfold Core.leaveJoin Core.dropJoin; simp only []; repeat (first | rfl | split)
@[simp] theorem Core.leaveJoin_logl : (c.leaveJoin).logl = c.logl := by
  unfold Core.leaveJoin Core.dropJoin; simp only []; repeat (first | rfl | split)
@[simp] theorem Core.leaveJoin_trapc : (c.leaveJoin).trapc = c.trapc := by
  unfold Core.leaveJoin Core.dropJoin; simp only []; repeat (first | rfl | split)
@[simp] theorem Core.leaveJoin_trappc : (c.leaveJoin).trappc = c.trappc := by
  unfold Core.leaveJoin Core.dropJoin; simp only []; repeat (first | rfl | split)
@[simp] theorem Core.leaveJoin_trapv : (c.leaveJoin).trapv = c.trapv := by
  unfold Core.leaveJoin Core.dropJoin; simp only []; repeat (first | rfl | split)
@[simp] theorem Core.leaveJoin_tvec : (c.leaveJoin).tvec = c.tvec := by
  unfold Core.leaveJoin Core.dropJoin; simp only []; repeat (first | rfl | split)
@[simp] theorem Core.leaveJoin_tnan : (c.leaveJoin).tnan = c.tnan := by
  unfold Core.leaveJoin Core.dropJoin; simp only []; repeat (first | rfl | split)
@[simp] theorem Core.leaveJoin_tof : (c.leaveJoin).tof = c.tof := by
  unfold Core.leaveJoin Core.dropJoin; simp only []; repeat (first | rfl | split)
@[simp] theorem Core.leaveJoin_repBuf : (c.leaveJoin).repBuf = c.repBuf := by
  unfold Core.leaveJoin Core.dropJoin; simp only []; repeat (first | rfl | split)
@[simp] theorem Core.leaveJoin_repSusp : (c.leaveJoin).repSusp = c.repSusp := by
  unfold Core.leaveJoin Core.dropJoin; simp only []; repeat (first | rfl | split)
@[simp] theorem Core.leaveJoin_dom : (c.leaveJoin).dom = c.dom := by
  unfold Core.leaveJoin Core.dropJoin; simp only []; repeat (first | rfl | split)
@[simp] theorem Core.leaveJoin_budget : (c.leaveJoin).budget = c.budget := by
  unfold Core.leaveJoin Core.dropJoin; simp only []; repeat (first | rfl | split)
@[simp] theorem Core.leaveJoin_vsaved : (c.leaveJoin).vsaved = c.vsaved := by
  unfold Core.leaveJoin Core.dropJoin; simp only []; repeat (first | rfl | split)
@[simp] theorem Core.leaveJoin_tasks : (c.leaveJoin).tasks = c.tasks := by
  unfold Core.leaveJoin Core.dropJoin; simp only []; repeat (first | rfl | split)
@[simp] theorem Core.leaveJoin_passes : (c.leaveJoin).passes = c.passes := by
  unfold Core.leaveJoin Core.dropJoin; simp only []; repeat (first | rfl | split)
@[simp] theorem Core.leaveJoin_yields : (c.leaveJoin).yields = c.yields := by
  unfold Core.leaveJoin Core.dropJoin; simp only []; repeat (first | rfl | split)
@[simp] theorem Core.leaveJoin_setup : (c.leaveJoin).setup = c.setup := by
  unfold Core.leaveJoin Core.dropJoin; simp only []; repeat (first | rfl | split)
@[simp] theorem Core.leaveJoin_again : (c.leaveJoin).again = c.again := by
  unfold Core.leaveJoin Core.dropJoin; simp only []; repeat (first | rfl | split)
@[simp] theorem Core.leaveJoin_older : (c.leaveJoin).older = c.older := by
  unfold Core.leaveJoin Core.dropJoin; simp only []; repeat (first | rfl | split)
@[simp] theorem Core.leaveJoin_qfail : (c.leaveJoin).qfail = c.qfail := by
  unfold Core.leaveJoin Core.dropJoin; simp only []; repeat (first | rfl | split)
@[simp] theorem Core.leaveJoin_act : (c.leaveJoin).act = c.act := by
  unfold Core.leaveJoin Core.dropJoin; simp only []; repeat (first | rfl | split)
@[simp] theorem Core.leaveJoin_visit : (c.leaveJoin).visit = c.visit := by
  unfold Core.leaveJoin Core.dropJoin; simp only []; repeat (first | rfl | split)
@[simp] theorem Core.leaveJoin_sleep : (c.leaveJoin).sleep = c.sleep := by
  unfold Core.leaveJoin Core.dropJoin; simp only []; repeat (first | rfl | split)
@[simp] theorem Core.leaveJoin_awaits : (c.leaveJoin).awaits = c.awaits := by
  unfold Core.leaveJoin Core.dropJoin; simp only []; repeat (first | rfl | split)
@[simp] theorem Core.leaveJoin_deferred : (c.leaveJoin).deferred = c.deferred := by
  unfold Core.leaveJoin Core.dropJoin; simp only []; repeat (first | rfl | split)
@[simp] theorem Core.leaveJoin_ordered : (c.leaveJoin).ordered = c.ordered := by
  unfold Core.leaveJoin Core.dropJoin; simp only []; repeat (first | rfl | split)
@[simp] theorem Core.leaveJoin_ports : (c.leaveJoin).ports = c.ports := by
  unfold Core.leaveJoin Core.dropJoin; simp only []; repeat (first | rfl | split)
@[simp] theorem Core.leaveJoin_tileq : (c.leaveJoin).tileq = c.tileq := by
  unfold Core.leaveJoin Core.dropJoin; simp only []; repeat (first | rfl | split)
@[simp] theorem Core.leaveJoin_reissue : (c.leaveJoin).reissue = c.reissue := by
  unfold Core.leaveJoin Core.dropJoin; simp only []; repeat (first | rfl | split)
@[simp] theorem Core.leaveJoin_sels : (c.leaveJoin).sels = c.sels := by
  unfold Core.leaveJoin Core.dropJoin; simp only []; repeat (first | rfl | split)
@[simp] theorem Core.leaveJoin_syncv : (c.leaveJoin).syncv = c.syncv := by
  unfold Core.leaveJoin Core.dropJoin; simp only []; repeat (first | rfl | split)
@[simp] theorem Core.leaveJoin_pushes : (c.leaveJoin).pushes = c.pushes := by
  unfold Core.leaveJoin Core.dropJoin; simp only []; repeat (first | rfl | split)
@[simp] theorem Core.leaveJoin_cecnt : (c.leaveJoin).cecnt = c.cecnt := by
  unfold Core.leaveJoin Core.dropJoin; simp only []; repeat (first | rfl | split)
@[simp] theorem Core.leaveJoin_ctr : (c.leaveJoin).ctr = c.ctr := by
  unfold Core.leaveJoin Core.dropJoin; simp only []; repeat (first | rfl | split)
@[simp] theorem Core.leaveJoin_ctrSel : (c.leaveJoin).ctrSel = c.ctrSel := by
  unfold Core.leaveJoin Core.dropJoin; simp only []; repeat (first | rfl | split)
@[simp] theorem Core.leaveJoin_passHit : (c.leaveJoin).passHit = c.passHit := by
  unfold Core.leaveJoin Core.dropJoin; simp only []; repeat (first | rfl | split)
@[simp] theorem Core.leaveJoin_wctl : (c.leaveJoin).wctl = c.wctl := by
  unfold Core.leaveJoin Core.dropJoin; simp only []; repeat (first | rfl | split)
@[simp] theorem Core.leaveJoin_wbase : (c.leaveJoin).wbase = c.wbase := by
  unfold Core.leaveJoin Core.dropJoin; simp only []; repeat (first | rfl | split)
@[simp] theorem Core.leaveJoin_l1 : (c.leaveJoin).l1 = c.l1 := by
  unfold Core.leaveJoin Core.dropJoin; simp only []; repeat (first | rfl | split)
@[simp] theorem Core.leaveJoin_farReq : (c.leaveJoin).farReq = c.farReq := by
  unfold Core.leaveJoin Core.dropJoin; simp only []; repeat (first | rfl | split)
@[simp] theorem Core.leaveJoin_walked : (c.leaveJoin).walked = c.walked := by
  unfold Core.leaveJoin Core.dropJoin; simp only []; repeat (first | rfl | split)
@[simp] theorem Core.leaveJoin_member : (c.leaveJoin).member = c.member := by
  unfold Core.leaveJoin Core.dropJoin; simp only []; repeat (first | rfl | split)
@[simp] theorem Core.leaveJoin_gang : (c.leaveJoin).gang = c.gang := by
  unfold Core.leaveJoin Core.dropJoin; simp only []; repeat (first | rfl | split)
@[simp] theorem Core.leaveJoin_took : (c.leaveJoin).took = c.took := by
  unfold Core.leaveJoin Core.dropJoin; simp only []; repeat (first | rfl | split)
@[simp] theorem Core.leaveJoin_stream : (c.leaveJoin).stream = c.stream := by
  unfold Core.leaveJoin Core.dropJoin; simp only []; repeat (first | rfl | split)
@[simp] theorem Core.leaveJoin_ahead : (c.leaveJoin).ahead = c.ahead := by
  unfold Core.leaveJoin Core.dropJoin; simp only []; repeat (first | rfl | split)
@[simp] theorem Core.leaveJoin_begun : (c.leaveJoin).begun = c.begun := by
  unfold Core.leaveJoin Core.dropJoin; simp only []; repeat (first | rfl | split)
@[simp] theorem Core.leaveJoin_arrived : (c.leaveJoin).arrived = c.arrived := by
  unfold Core.leaveJoin Core.dropJoin; simp only []; repeat (first | rfl | split)
@[simp] theorem Core.leaveJoin_since : (c.leaveJoin).since = c.since := by
  unfold Core.leaveJoin Core.dropJoin; simp only []; repeat (first | rfl | split)
@[simp] theorem Core.leaveJoin_gated : (c.leaveJoin).gated = c.gated := by
  unfold Core.leaveJoin Core.dropJoin; simp only []; repeat (first | rfl | split)
@[simp] theorem Core.leaveJoin_freeing : (c.leaveJoin).freeing = c.freeing := by
  unfold Core.leaveJoin Core.dropJoin; simp only []; repeat (first | rfl | split)
@[simp] theorem Core.leaveJoin_unwindTo : (c.leaveJoin).unwindTo = c.unwindTo := by
  unfold Core.leaveJoin Core.dropJoin; simp only []; repeat (first | rfl | split)

end

section
variable (c : Core) (k : Cause) (v : W64) (pc : W32)

@[simp] theorem Core.enterTrap_g : (c.enterTrap k v pc).g = c.g := by
  simp only [Core.enterTrap, Core.setLevel_g, Core.leaveGang_g, Core.leaveJoin_g]
@[simp] theorem Core.enterTrap_frames : (c.enterTrap k v pc).frames = c.frames := by
  simp only [Core.enterTrap, Core.setLevel_frames, Core.leaveGang_frames, Core.leaveJoin_frames]
@[simp] theorem Core.enterTrap_p : (c.enterTrap k v pc).p = c.p := by
  simp only [Core.enterTrap, Core.setLevel_p, Core.leaveGang_p, Core.leaveJoin_p]
@[simp] theorem Core.enterTrap_v : (c.enterTrap k v pc).v = c.v := by
  simp only [Core.enterTrap, Core.setLevel_v, Core.leaveGang_v, Core.leaveJoin_v]
@[simp] theorem Core.enterTrap_q : (c.enterTrap k v pc).q = c.q := by
  simp only [Core.enterTrap, Core.setLevel_q, Core.leaveGang_q, Core.leaveJoin_q]
@[simp] theorem Core.enterTrap_acc : (c.enterTrap k v pc).acc = c.acc := by
  simp only [Core.enterTrap, Core.setLevel_acc, Core.leaveGang_acc, Core.leaveJoin_acc]
@[simp] theorem Core.enterTrap_bd : (c.enterTrap k v pc).bd = c.bd := by
  simp only [Core.enterTrap, Core.setLevel_bd, Core.leaveGang_bd, Core.leaveJoin_bd]
@[simp] theorem Core.enterTrap_lw : (c.enterTrap k v pc).lw = c.lw := by
  simp only [Core.enterTrap, Core.setLevel_lw, Core.leaveGang_lw, Core.leaveJoin_lw]
@[simp] theorem Core.enterTrap_mc : (c.enterTrap k v pc).mc = c.mc := by
  simp only [Core.enterTrap, Core.setLevel_mc, Core.leaveGang_mc, Core.leaveJoin_mc]
@[simp] theorem Core.enterTrap_held : (c.enterTrap k v pc).held = c.held := by
  simp only [Core.enterTrap, Core.setLevel_held, Core.leaveGang_held, Core.leaveJoin_held]
@[simp] theorem Core.enterTrap_srseed : (c.enterTrap k v pc).srseed = c.srseed := by
  simp only [Core.enterTrap, Core.setLevel_srseed, Core.leaveGang_srseed, Core.leaveJoin_srseed]
@[simp] theorem Core.enterTrap_tstamp : (c.enterTrap k v pc).tstamp = c.tstamp := by
  simp only [Core.enterTrap, Core.setLevel_tstamp, Core.leaveGang_tstamp, Core.leaveJoin_tstamp]
@[simp] theorem Core.enterTrap_ssn : (c.enterTrap k v pc).ssn = c.ssn := by
  simp only [Core.enterTrap, Core.setLevel_ssn, Core.leaveGang_ssn, Core.leaveJoin_ssn]
@[simp] theorem Core.enterTrap_xt : (c.enterTrap k v pc).xt = c.xt := by
  simp only [Core.enterTrap, Core.setLevel_xt, Core.leaveGang_xt, Core.leaveJoin_xt]
@[simp] theorem Core.enterTrap_xpc : (c.enterTrap k v pc).xpc = c.xpc := by
  simp only [Core.enterTrap, Core.setLevel_xpc, Core.leaveGang_xpc, Core.leaveJoin_xpc]
@[simp] theorem Core.enterTrap_syncm : (c.enterTrap k v pc).syncm = c.syncm := by
  simp only [Core.enterTrap, Core.setLevel_syncm, Core.leaveGang_syncm, Core.leaveJoin_syncm]
@[simp] theorem Core.enterTrap_vote : (c.enterTrap k v pc).vote = c.vote := by
  simp only [Core.enterTrap, Core.setLevel_vote, Core.leaveGang_vote, Core.leaveJoin_vote]
@[simp] theorem Core.enterTrap_wptr : (c.enterTrap k v pc).wptr = c.wptr := by
  simp only [Core.enterTrap, Core.setLevel_wptr, Core.leaveGang_wptr, Core.leaveJoin_wptr]
@[simp] theorem Core.enterTrap_wsp : (c.enterTrap k v pc).wsp = c.wsp := by
  simp only [Core.enterTrap, Core.setLevel_wsp, Core.leaveGang_wsp, Core.leaveJoin_wsp]
@[simp] theorem Core.enterTrap_dsd : (c.enterTrap k v pc).dsd = c.dsd := by
  simp only [Core.enterTrap, Core.setLevel_dsd, Core.leaveGang_dsd, Core.leaveJoin_dsd]
@[simp] theorem Core.enterTrap_repc : (c.enterTrap k v pc).repc = c.repc := by
  simp only [Core.enterTrap, Core.setLevel_repc, Core.leaveGang_repc, Core.leaveJoin_repc]
@[simp] theorem Core.enterTrap_curpol : (c.enterTrap k v pc).curpol = c.curpol := by
  simp only [Core.enterTrap, Core.setLevel_curpol, Core.leaveGang_curpol, Core.leaveJoin_curpol]
@[simp] theorem Core.enterTrap_gst : (c.enterTrap k v pc).gst = c.gst := by
  simp only [Core.enterTrap, Core.setLevel_gst, Core.leaveGang_gst, Core.leaveJoin_gst]
@[simp] theorem Core.enterTrap_aw0 : (c.enterTrap k v pc).aw0 = c.aw0 := by
  simp only [Core.enterTrap, Core.setLevel_aw0, Core.leaveGang_aw0, Core.leaveJoin_aw0]
@[simp] theorem Core.enterTrap_aw1 : (c.enterTrap k v pc).aw1 = c.aw1 := by
  simp only [Core.enterTrap, Core.setLevel_aw1, Core.leaveGang_aw1, Core.leaveJoin_aw1]
@[simp] theorem Core.enterTrap_atp : (c.enterTrap k v pc).atp = c.atp := by
  simp only [Core.enterTrap, Core.setLevel_atp, Core.leaveGang_atp, Core.leaveJoin_atp]
@[simp] theorem Core.enterTrap_gcfg : (c.enterTrap k v pc).gcfg = c.gcfg := by
  simp only [Core.enterTrap, Core.setLevel_gcfg, Core.leaveGang_gcfg, Core.leaveJoin_gcfg]
@[simp] theorem Core.enterTrap_recm : (c.enterTrap k v pc).recm = c.recm := by
  simp only [Core.enterTrap, Core.setLevel_recm, Core.leaveGang_recm, Core.leaveJoin_recm]
@[simp] theorem Core.enterTrap_logb : (c.enterTrap k v pc).logb = c.logb := by
  simp only [Core.enterTrap, Core.setLevel_logb, Core.leaveGang_logb, Core.leaveJoin_logb]
@[simp] theorem Core.enterTrap_logl : (c.enterTrap k v pc).logl = c.logl := by
  simp only [Core.enterTrap, Core.setLevel_logl, Core.leaveGang_logl, Core.leaveJoin_logl]
@[simp] theorem Core.enterTrap_tvec : (c.enterTrap k v pc).tvec = c.tvec := by
  simp only [Core.enterTrap, Core.setLevel_tvec, Core.leaveGang_tvec, Core.leaveJoin_tvec]
@[simp] theorem Core.enterTrap_tnan : (c.enterTrap k v pc).tnan = c.tnan := by
  simp only [Core.enterTrap, Core.setLevel_tnan, Core.leaveGang_tnan, Core.leaveJoin_tnan]
@[simp] theorem Core.enterTrap_tof : (c.enterTrap k v pc).tof = c.tof := by
  simp only [Core.enterTrap, Core.setLevel_tof, Core.leaveGang_tof, Core.leaveJoin_tof]
@[simp] theorem Core.enterTrap_repBuf : (c.enterTrap k v pc).repBuf = c.repBuf := by
  simp only [Core.enterTrap, Core.setLevel_repBuf, Core.leaveGang_repBuf, Core.leaveJoin_repBuf]
@[simp] theorem Core.enterTrap_dom : (c.enterTrap k v pc).dom = c.dom := by
  simp only [Core.enterTrap, Core.setLevel_dom, Core.leaveGang_dom, Core.leaveJoin_dom]
@[simp] theorem Core.enterTrap_budget : (c.enterTrap k v pc).budget = c.budget := by
  simp only [Core.enterTrap, Core.setLevel_budget, Core.leaveGang_budget, Core.leaveJoin_budget]
@[simp] theorem Core.enterTrap_vsaved : (c.enterTrap k v pc).vsaved = c.vsaved := by
  simp only [Core.enterTrap, Core.setLevel_vsaved, Core.leaveGang_vsaved, Core.leaveJoin_vsaved]
@[simp] theorem Core.enterTrap_tasks : (c.enterTrap k v pc).tasks = c.tasks := by
  simp only [Core.enterTrap, Core.setLevel_tasks, Core.leaveGang_tasks, Core.leaveJoin_tasks]
@[simp] theorem Core.enterTrap_passes : (c.enterTrap k v pc).passes = c.passes := by
  simp only [Core.enterTrap, Core.setLevel_passes, Core.leaveGang_passes, Core.leaveJoin_passes]
@[simp] theorem Core.enterTrap_yields : (c.enterTrap k v pc).yields = c.yields := by
  simp only [Core.enterTrap, Core.setLevel_yields, Core.leaveGang_yields, Core.leaveJoin_yields]
@[simp] theorem Core.enterTrap_setup : (c.enterTrap k v pc).setup = c.setup := by
  simp only [Core.enterTrap, Core.setLevel_setup, Core.leaveGang_setup, Core.leaveJoin_setup]
@[simp] theorem Core.enterTrap_again : (c.enterTrap k v pc).again = c.again := by
  simp only [Core.enterTrap, Core.setLevel_again, Core.leaveGang_again, Core.leaveJoin_again]
@[simp] theorem Core.enterTrap_older : (c.enterTrap k v pc).older = c.older := by
  simp only [Core.enterTrap, Core.setLevel_older, Core.leaveGang_older, Core.leaveJoin_older]
@[simp] theorem Core.enterTrap_qfail : (c.enterTrap k v pc).qfail = c.qfail := by
  simp only [Core.enterTrap, Core.setLevel_qfail, Core.leaveGang_qfail, Core.leaveJoin_qfail]
@[simp] theorem Core.enterTrap_act : (c.enterTrap k v pc).act = c.act := by
  simp only [Core.enterTrap, Core.setLevel_act, Core.leaveGang_act, Core.leaveJoin_act]
@[simp] theorem Core.enterTrap_visit : (c.enterTrap k v pc).visit = c.visit := by
  simp only [Core.enterTrap, Core.setLevel_visit, Core.leaveGang_visit, Core.leaveJoin_visit]
@[simp] theorem Core.enterTrap_awaits : (c.enterTrap k v pc).awaits = c.awaits := by
  simp only [Core.enterTrap, Core.setLevel_awaits, Core.leaveGang_awaits, Core.leaveJoin_awaits]
@[simp] theorem Core.enterTrap_deferred : (c.enterTrap k v pc).deferred = c.deferred := by
  simp only [Core.enterTrap, Core.setLevel_deferred, Core.leaveGang_deferred, Core.leaveJoin_deferred]
@[simp] theorem Core.enterTrap_ordered : (c.enterTrap k v pc).ordered = c.ordered := by
  simp only [Core.enterTrap, Core.setLevel_ordered, Core.leaveGang_ordered, Core.leaveJoin_ordered]
@[simp] theorem Core.enterTrap_ports : (c.enterTrap k v pc).ports = c.ports := by
  simp only [Core.enterTrap, Core.setLevel_ports, Core.leaveGang_ports, Core.leaveJoin_ports]
@[simp] theorem Core.enterTrap_tileq : (c.enterTrap k v pc).tileq = c.tileq := by
  simp only [Core.enterTrap, Core.setLevel_tileq, Core.leaveGang_tileq, Core.leaveJoin_tileq]
@[simp] theorem Core.enterTrap_reissue : (c.enterTrap k v pc).reissue = c.reissue := by
  simp only [Core.enterTrap, Core.setLevel_reissue, Core.leaveGang_reissue, Core.leaveJoin_reissue]
@[simp] theorem Core.enterTrap_sels : (c.enterTrap k v pc).sels = c.sels := by
  simp only [Core.enterTrap, Core.setLevel_sels, Core.leaveGang_sels, Core.leaveJoin_sels]
@[simp] theorem Core.enterTrap_syncv : (c.enterTrap k v pc).syncv = c.syncv := by
  simp only [Core.enterTrap, Core.setLevel_syncv, Core.leaveGang_syncv, Core.leaveJoin_syncv]
@[simp] theorem Core.enterTrap_pushes : (c.enterTrap k v pc).pushes = c.pushes := by
  simp only [Core.enterTrap, Core.setLevel_pushes, Core.leaveGang_pushes, Core.leaveJoin_pushes]
@[simp] theorem Core.enterTrap_cecnt : (c.enterTrap k v pc).cecnt = c.cecnt := by
  simp only [Core.enterTrap, Core.setLevel_cecnt, Core.leaveGang_cecnt, Core.leaveJoin_cecnt]
@[simp] theorem Core.enterTrap_ctr : (c.enterTrap k v pc).ctr = c.ctr := by
  simp only [Core.enterTrap, Core.setLevel_ctr, Core.leaveGang_ctr, Core.leaveJoin_ctr]
@[simp] theorem Core.enterTrap_ctrSel : (c.enterTrap k v pc).ctrSel = c.ctrSel := by
  simp only [Core.enterTrap, Core.setLevel_ctrSel, Core.leaveGang_ctrSel, Core.leaveJoin_ctrSel]
@[simp] theorem Core.enterTrap_passHit : (c.enterTrap k v pc).passHit = c.passHit := by
  simp only [Core.enterTrap, Core.setLevel_passHit, Core.leaveGang_passHit, Core.leaveJoin_passHit]
@[simp] theorem Core.enterTrap_wctl : (c.enterTrap k v pc).wctl = c.wctl := by
  simp only [Core.enterTrap, Core.setLevel_wctl, Core.leaveGang_wctl, Core.leaveJoin_wctl]
@[simp] theorem Core.enterTrap_wbase : (c.enterTrap k v pc).wbase = c.wbase := by
  simp only [Core.enterTrap, Core.setLevel_wbase, Core.leaveGang_wbase, Core.leaveJoin_wbase]
@[simp] theorem Core.enterTrap_l1 : (c.enterTrap k v pc).l1 = c.l1 := by
  simp only [Core.enterTrap, Core.setLevel_l1, Core.leaveGang_l1, Core.leaveJoin_l1]
@[simp] theorem Core.enterTrap_member : (c.enterTrap k v pc).member = c.member := by
  simp only [Core.enterTrap, Core.setLevel_member, Core.leaveGang_member, Core.leaveJoin_member]
@[simp] theorem Core.enterTrap_took : (c.enterTrap k v pc).took = c.took := by
  simp only [Core.enterTrap, Core.setLevel_took, Core.leaveGang_took, Core.leaveJoin_took]
@[simp] theorem Core.enterTrap_begun : (c.enterTrap k v pc).begun = c.begun := by
  simp only [Core.enterTrap, Core.setLevel_begun, Core.leaveGang_begun, Core.leaveJoin_begun]
@[simp] theorem Core.enterTrap_arrived : (c.enterTrap k v pc).arrived = c.arrived := by
  simp only [Core.enterTrap, Core.setLevel_arrived, Core.leaveGang_arrived, Core.leaveJoin_arrived]
@[simp] theorem Core.enterTrap_since : (c.enterTrap k v pc).since = c.since := by
  simp only [Core.enterTrap, Core.setLevel_since, Core.leaveGang_since, Core.leaveJoin_since]
@[simp] theorem Core.enterTrap_gated : (c.enterTrap k v pc).gated = c.gated := by
  simp only [Core.enterTrap, Core.setLevel_gated, Core.leaveGang_gated, Core.leaveJoin_gated]
@[simp] theorem Core.enterTrap_freeing : (c.enterTrap k v pc).freeing = c.freeing := by
  simp only [Core.enterTrap, Core.setLevel_freeing, Core.leaveGang_freeing, Core.leaveJoin_freeing]
@[simp] theorem Core.enterTrap_unwindTo : (c.enterTrap k v pc).unwindTo = c.unwindTo := by
  simp only [Core.enterTrap, Core.setLevel_unwindTo, Core.leaveGang_unwindTo, Core.leaveJoin_unwindTo]

end

section
variable (c : Core) 

@[simp] theorem Core.leaveTrap_g : (c.leaveTrap).g = c.g := by
  simp only [Core.leaveTrap, Core.setLevel_g]
@[simp] theorem Core.leaveTrap_frames : (c.leaveTrap).frames = c.frames := by
  simp only [Core.leaveTrap, Core.setLevel_frames]
@[simp] theorem Core.leaveTrap_p : (c.leaveTrap).p = c.p := by
  simp only [Core.leaveTrap, Core.setLevel_p]
@[simp] theorem Core.leaveTrap_v : (c.leaveTrap).v = c.v := by
  simp only [Core.leaveTrap, Core.setLevel_v]
@[simp] theorem Core.leaveTrap_q : (c.leaveTrap).q = c.q := by
  simp only [Core.leaveTrap, Core.setLevel_q]
@[simp] theorem Core.leaveTrap_acc : (c.leaveTrap).acc = c.acc := by
  simp only [Core.leaveTrap, Core.setLevel_acc]
@[simp] theorem Core.leaveTrap_bd : (c.leaveTrap).bd = c.bd := by
  simp only [Core.leaveTrap, Core.setLevel_bd]
@[simp] theorem Core.leaveTrap_lw : (c.leaveTrap).lw = c.lw := by
  simp only [Core.leaveTrap, Core.setLevel_lw]
@[simp] theorem Core.leaveTrap_mc : (c.leaveTrap).mc = c.mc := by
  simp only [Core.leaveTrap, Core.setLevel_mc]
@[simp] theorem Core.leaveTrap_held : (c.leaveTrap).held = c.held := by
  simp only [Core.leaveTrap, Core.setLevel_held]
@[simp] theorem Core.leaveTrap_fcsr : (c.leaveTrap).fcsr = c.fcsr := by
  simp only [Core.leaveTrap, Core.setLevel_fcsr]
@[simp] theorem Core.leaveTrap_srseed : (c.leaveTrap).srseed = c.srseed := by
  simp only [Core.leaveTrap, Core.setLevel_srseed]
@[simp] theorem Core.leaveTrap_tstamp : (c.leaveTrap).tstamp = c.tstamp := by
  simp only [Core.leaveTrap, Core.setLevel_tstamp]
@[simp] theorem Core.leaveTrap_ssn : (c.leaveTrap).ssn = c.ssn := by
  simp only [Core.leaveTrap, Core.setLevel_ssn]
@[simp] theorem Core.leaveTrap_xt : (c.leaveTrap).xt = c.xt := by
  simp only [Core.leaveTrap, Core.setLevel_xt]
@[simp] theorem Core.leaveTrap_xpc : (c.leaveTrap).xpc = c.xpc := by
  simp only [Core.leaveTrap, Core.setLevel_xpc]
@[simp] theorem Core.leaveTrap_syncm : (c.leaveTrap).syncm = c.syncm := by
  simp only [Core.leaveTrap, Core.setLevel_syncm]
@[simp] theorem Core.leaveTrap_vote : (c.leaveTrap).vote = c.vote := by
  simp only [Core.leaveTrap, Core.setLevel_vote]
@[simp] theorem Core.leaveTrap_wptr : (c.leaveTrap).wptr = c.wptr := by
  simp only [Core.leaveTrap, Core.setLevel_wptr]
@[simp] theorem Core.leaveTrap_wsp : (c.leaveTrap).wsp = c.wsp := by
  simp only [Core.leaveTrap, Core.setLevel_wsp]
@[simp] theorem Core.leaveTrap_dsd : (c.leaveTrap).dsd = c.dsd := by
  simp only [Core.leaveTrap, Core.setLevel_dsd]
@[simp] theorem Core.leaveTrap_repc : (c.leaveTrap).repc = c.repc := by
  simp only [Core.leaveTrap, Core.setLevel_repc]
@[simp] theorem Core.leaveTrap_curpol : (c.leaveTrap).curpol = c.curpol := by
  simp only [Core.leaveTrap, Core.setLevel_curpol]
@[simp] theorem Core.leaveTrap_gst : (c.leaveTrap).gst = c.gst := by
  simp only [Core.leaveTrap, Core.setLevel_gst]
@[simp] theorem Core.leaveTrap_aw0 : (c.leaveTrap).aw0 = c.aw0 := by
  simp only [Core.leaveTrap, Core.setLevel_aw0]
@[simp] theorem Core.leaveTrap_aw1 : (c.leaveTrap).aw1 = c.aw1 := by
  simp only [Core.leaveTrap, Core.setLevel_aw1]
@[simp] theorem Core.leaveTrap_atp : (c.leaveTrap).atp = c.atp := by
  simp only [Core.leaveTrap, Core.setLevel_atp]
@[simp] theorem Core.leaveTrap_gcfg : (c.leaveTrap).gcfg = c.gcfg := by
  simp only [Core.leaveTrap, Core.setLevel_gcfg]
@[simp] theorem Core.leaveTrap_recm : (c.leaveTrap).recm = c.recm := by
  simp only [Core.leaveTrap, Core.setLevel_recm]
@[simp] theorem Core.leaveTrap_logb : (c.leaveTrap).logb = c.logb := by
  simp only [Core.leaveTrap, Core.setLevel_logb]
@[simp] theorem Core.leaveTrap_logl : (c.leaveTrap).logl = c.logl := by
  simp only [Core.leaveTrap, Core.setLevel_logl]
@[simp] theorem Core.leaveTrap_logp : (c.leaveTrap).logp = c.logp := by
  simp only [Core.leaveTrap, Core.setLevel_logp]
@[simp] theorem Core.leaveTrap_trappc : (c.leaveTrap).trappc = c.trappc := by
  simp only [Core.leaveTrap, Core.setLevel_trappc]
@[simp] theorem Core.leaveTrap_trapv : (c.leaveTrap).trapv = c.trapv := by
  simp only [Core.leaveTrap, Core.setLevel_trapv]
@[simp] theorem Core.leaveTrap_tvec : (c.leaveTrap).tvec = c.tvec := by
  simp only [Core.leaveTrap, Core.setLevel_tvec]
@[simp] theorem Core.leaveTrap_tnan : (c.leaveTrap).tnan = c.tnan := by
  simp only [Core.leaveTrap, Core.setLevel_tnan]
@[simp] theorem Core.leaveTrap_tof : (c.leaveTrap).tof = c.tof := by
  simp only [Core.leaveTrap, Core.setLevel_tof]
@[simp] theorem Core.leaveTrap_repBuf : (c.leaveTrap).repBuf = c.repBuf := by
  simp only [Core.leaveTrap, Core.setLevel_repBuf]
@[simp] theorem Core.leaveTrap_dom : (c.leaveTrap).dom = c.dom := by
  simp only [Core.leaveTrap, Core.setLevel_dom]
@[simp] theorem Core.leaveTrap_budget : (c.leaveTrap).budget = c.budget := by
  simp only [Core.leaveTrap, Core.setLevel_budget]
@[simp] theorem Core.leaveTrap_vsaved : (c.leaveTrap).vsaved = c.vsaved := by
  simp only [Core.leaveTrap, Core.setLevel_vsaved]
@[simp] theorem Core.leaveTrap_tasks : (c.leaveTrap).tasks = c.tasks := by
  simp only [Core.leaveTrap, Core.setLevel_tasks]
@[simp] theorem Core.leaveTrap_passes : (c.leaveTrap).passes = c.passes := by
  simp only [Core.leaveTrap, Core.setLevel_passes]
@[simp] theorem Core.leaveTrap_yields : (c.leaveTrap).yields = c.yields := by
  simp only [Core.leaveTrap, Core.setLevel_yields]
@[simp] theorem Core.leaveTrap_setup : (c.leaveTrap).setup = c.setup := by
  simp only [Core.leaveTrap, Core.setLevel_setup]
@[simp] theorem Core.leaveTrap_again : (c.leaveTrap).again = c.again := by
  simp only [Core.leaveTrap, Core.setLevel_again]
@[simp] theorem Core.leaveTrap_older : (c.leaveTrap).older = c.older := by
  simp only [Core.leaveTrap, Core.setLevel_older]
@[simp] theorem Core.leaveTrap_qfail : (c.leaveTrap).qfail = c.qfail := by
  simp only [Core.leaveTrap, Core.setLevel_qfail]
@[simp] theorem Core.leaveTrap_act : (c.leaveTrap).act = c.act := by
  simp only [Core.leaveTrap, Core.setLevel_act]
@[simp] theorem Core.leaveTrap_visit : (c.leaveTrap).visit = c.visit := by
  simp only [Core.leaveTrap, Core.setLevel_visit]
@[simp] theorem Core.leaveTrap_awaits : (c.leaveTrap).awaits = c.awaits := by
  simp only [Core.leaveTrap, Core.setLevel_awaits]
@[simp] theorem Core.leaveTrap_deferred : (c.leaveTrap).deferred = c.deferred := by
  simp only [Core.leaveTrap, Core.setLevel_deferred]
@[simp] theorem Core.leaveTrap_ordered : (c.leaveTrap).ordered = c.ordered := by
  simp only [Core.leaveTrap, Core.setLevel_ordered]
@[simp] theorem Core.leaveTrap_tileq : (c.leaveTrap).tileq = c.tileq := by
  simp only [Core.leaveTrap, Core.setLevel_tileq]
@[simp] theorem Core.leaveTrap_reissue : (c.leaveTrap).reissue = c.reissue := by
  simp only [Core.leaveTrap, Core.setLevel_reissue]
@[simp] theorem Core.leaveTrap_join : (c.leaveTrap).join = c.join := by
  simp only [Core.leaveTrap, Core.setLevel_join]
@[simp] theorem Core.leaveTrap_rev : (c.leaveTrap).rev = c.rev := by
  simp only [Core.leaveTrap, Core.setLevel_rev]
@[simp] theorem Core.leaveTrap_sels : (c.leaveTrap).sels = c.sels := by
  simp only [Core.leaveTrap, Core.setLevel_sels]
@[simp] theorem Core.leaveTrap_syncv : (c.leaveTrap).syncv = c.syncv := by
  simp only [Core.leaveTrap, Core.setLevel_syncv]
@[simp] theorem Core.leaveTrap_pushes : (c.leaveTrap).pushes = c.pushes := by
  simp only [Core.leaveTrap, Core.setLevel_pushes]
@[simp] theorem Core.leaveTrap_cecnt : (c.leaveTrap).cecnt = c.cecnt := by
  simp only [Core.leaveTrap, Core.setLevel_cecnt]
@[simp] theorem Core.leaveTrap_ctr : (c.leaveTrap).ctr = c.ctr := by
  simp only [Core.leaveTrap, Core.setLevel_ctr]
@[simp] theorem Core.leaveTrap_ctrSel : (c.leaveTrap).ctrSel = c.ctrSel := by
  simp only [Core.leaveTrap, Core.setLevel_ctrSel]
@[simp] theorem Core.leaveTrap_passHit : (c.leaveTrap).passHit = c.passHit := by
  simp only [Core.leaveTrap, Core.setLevel_passHit]
@[simp] theorem Core.leaveTrap_wctl : (c.leaveTrap).wctl = c.wctl := by
  simp only [Core.leaveTrap, Core.setLevel_wctl]
@[simp] theorem Core.leaveTrap_wbase : (c.leaveTrap).wbase = c.wbase := by
  simp only [Core.leaveTrap, Core.setLevel_wbase]
@[simp] theorem Core.leaveTrap_l1 : (c.leaveTrap).l1 = c.l1 := by
  simp only [Core.leaveTrap, Core.setLevel_l1]
@[simp] theorem Core.leaveTrap_farReq : (c.leaveTrap).farReq = c.farReq := by
  simp only [Core.leaveTrap, Core.setLevel_farReq]
@[simp] theorem Core.leaveTrap_walked : (c.leaveTrap).walked = c.walked := by
  simp only [Core.leaveTrap, Core.setLevel_walked]
@[simp] theorem Core.leaveTrap_member : (c.leaveTrap).member = c.member := by
  simp only [Core.leaveTrap, Core.setLevel_member]
@[simp] theorem Core.leaveTrap_gang : (c.leaveTrap).gang = c.gang := by
  simp only [Core.leaveTrap, Core.setLevel_gang]
@[simp] theorem Core.leaveTrap_took : (c.leaveTrap).took = c.took := by
  simp only [Core.leaveTrap, Core.setLevel_took]
@[simp] theorem Core.leaveTrap_stream : (c.leaveTrap).stream = c.stream := by
  simp only [Core.leaveTrap, Core.setLevel_stream]
@[simp] theorem Core.leaveTrap_ahead : (c.leaveTrap).ahead = c.ahead := by
  simp only [Core.leaveTrap, Core.setLevel_ahead]
@[simp] theorem Core.leaveTrap_begun : (c.leaveTrap).begun = c.begun := by
  simp only [Core.leaveTrap, Core.setLevel_begun]
@[simp] theorem Core.leaveTrap_arrived : (c.leaveTrap).arrived = c.arrived := by
  simp only [Core.leaveTrap, Core.setLevel_arrived]
@[simp] theorem Core.leaveTrap_since : (c.leaveTrap).since = c.since := by
  simp only [Core.leaveTrap, Core.setLevel_since]
@[simp] theorem Core.leaveTrap_gated : (c.leaveTrap).gated = c.gated := by
  simp only [Core.leaveTrap, Core.setLevel_gated]
@[simp] theorem Core.leaveTrap_freeing : (c.leaveTrap).freeing = c.freeing := by
  simp only [Core.leaveTrap, Core.setLevel_freeing]
@[simp] theorem Core.leaveTrap_unwindTo : (c.leaveTrap).unwindTo = c.unwindTo := by
  simp only [Core.leaveTrap, Core.setLevel_unwindTo]

end

/-- What TrapEntry writes (R219). -/
theorem Core.enterTrap_saves (c : Core) (k : Cause) (v : W64) (pc : W32) :
    (c.enterTrap k v pc).trappc = pc.setWidth 64 ∧ (c.enterTrap k v pc).trapv = v ∧
      (c.enterTrap k v pc).trapc = c.trapcFor k ∧ (c.enterTrap k v pc).latch = none ∧
      (c.enterTrap k v pc).pc = (c.tvec.extractLsb' 2 30) ++ (0 : BitVec 2) := ⟨rfl, rfl, rfl, rfl, rfl⟩

end Sys2Proof.Machine
end

