-- ==== Sys2Proof/Laws/Decode.lean ====
section
/-! SUPPORT. Bits of concatenated fields, and the decoder on words whose selector and major are known. -/

namespace Sys2Proof

theorem bits_hi {n m : Nat} (x : BitVec n) (y : BitVec m) (lo k : Nat) (h : m ≤ lo) :
    (x ++ y).extractLsb' lo k = x.extractLsb' (lo - m) k := by
  apply BitVec.eq_of_getLsbD_eq
  intro i hi
  simp only [BitVec.getLsbD_append, BitVec.getLsbD_extractLsb', hi, decide_true, Bool.true_and]
  rw [if_neg (by omega)]; congr 1; omega

theorem bits_lo {n m : Nat} (x : BitVec n) (y : BitVec m) (lo k : Nat) (h : lo + k ≤ m) :
    (x ++ y).extractLsb' lo k = y.extractLsb' lo k := by
  apply BitVec.eq_of_getLsbD_eq
  intro i hi
  simp only [BitVec.getLsbD_append, BitVec.getLsbD_extractLsb', hi, decide_true, Bool.true_and]
  rw [if_pos (by omega)]

theorem bits_all {n : Nat} (x : BitVec n) : x.extractLsb' 0 n = x := by simp

theorem bits_join (x : BitVec 32) : x.extractLsb' 2 30 ++ x.extractLsb' 0 2 = x := by
  apply BitVec.eq_of_getLsbD_eq
  intro i hi
  simp only [BitVec.getLsbD_append, BitVec.getLsbD_extractLsb']
  split
  · simp_all
  · have h1 : i - 2 < 30 := by omega
    simp only [h1, decide_true, Bool.true_and]; congr 1; omega

theorem wordOf_bytes (w : W32) :
    wordOf (w.extractLsb' 0 8) (w.extractLsb' 8 8) (w.extractLsb' 16 8) (w.extractLsb' 24 8) = w := by
  unfold wordOf
  apply BitVec.eq_of_getLsbD_eq
  intro i hi
  simp only [BitVec.getLsbD_append, BitVec.getLsbD_extractLsb']
  split
  · simp_all
  · split
    · simp_all
    · split
      · have : i - 8 - 8 < 8 := by omega
        simp only [this]; simp; congr 1; omega
      · have : i - 8 - 8 - 8 < 8 := by omega
        simp only [this]; simp; congr 1; omega

theorem accept_wf {w : W32} {segs : List (Nat × Nat)} {i : Instr} (h : i.wellFormed = true) (hz : zeros w segs = true) :
    accept w segs i = .ok i := by
  simp only [Instr.wellFormed, Bool.and_eq_true] at h
  simp [accept, h.1.1, h.1.2, h.2, hz]

theorem accept2_wf {w t : W32} {hs ts : List (Nat × Nat)} {i : Instr} (h : i.wellFormed = true) (hz : zeros w hs = true)
    (hz' : zeros t ts = true) : accept2 w t hs ts i = .ok i := by
  simp only [Instr.wellFormed, Bool.and_eq_true] at h
  simp [accept2, h.1.1, h.1.2, h.2, hz, hz']

theorem decode_one (w : W32) (i : Instr) (rest : List Byte) (hs : bitsAt w 0 2 = 0#2) (h : decodeWords w none = .ok i) :
    decode (Words.bytes (.one w) ++ rest) = .ok (i, rest) := by
  show decode (w.extractLsb' 0 8 :: w.extractLsb' 8 8 :: w.extractLsb' 16 8 :: w.extractLsb' 24 8 :: rest) = _
  simp only [decode, wordOf_bytes, hs, h]
  rfl

theorem decode_pfx (w : W32) (i : Instr) (rest : List Byte) (hs : bitsAt w 0 2 = 1#2) (h : decodePfx w = .ok i) :
    decode (Words.bytes (.one w) ++ rest) = .ok (i, rest) := by
  show decode (w.extractLsb' 0 8 :: w.extractLsb' 8 8 :: w.extractLsb' 16 8 :: w.extractLsb' 24 8 :: rest) = _
  simp only [decode, wordOf_bytes, decodeWords, hs]
  exact congrArg (Except.map fun i => (i, rest)) h

theorem decode_two (h t : W32) (i : Instr) (rest : List Byte) (hs : bitsAt h 0 2 = 2#2)
    (e : decodeWords h (some t) = .ok i) : decode (Words.bytes (.two h t) ++ rest) = .ok (i, rest) := by
  show decode (h.extractLsb' 0 8 :: h.extractLsb' 8 8 :: h.extractLsb' 16 8 :: h.extractLsb' 24 8 ::
    t.extractLsb' 0 8 :: t.extractLsb' 8 8 :: t.extractLsb' 16 8 :: t.extractLsb' 24 8 :: rest) = _
  simp only [decode, wordOf_bytes, hs, e]
  rfl

/-- A single word of a major that is neither reserved nor a hint. -/
theorem decodeWords_single (w : W32) (m : Nat) (hs : bitsAt w 0 2 = 0#2) (hm : (bitsAt w 3 7).toNat = m)
    (hr : reservedMajor m = false) (hd : doubleMajor m = false) (h7 : m ≠ 0x7F)
    (hp : (noPfxMajor m && bitsAt w 2 1 == 1) = false) : decodeWords w none = decodeSingle w := by
  simp only [decodeWords, hs, hm, hr, hd, hp]
  simp [h7]

/-- A double word of a major that is neither reserved nor a hint. -/
theorem decodeWords_double (h t : W32) (m : Nat) (hs : bitsAt h 0 2 = 2#2) (ht : bitsAt t 0 2 = 3#2)
    (hm : (bitsAt h 3 7).toNat = m) (hr : reservedMajor m = false) (hd : doubleMajor m = true) (h7 : m ≠ 0x7F)
    (hp : (noPfxMajor m && bitsAt h 2 1 == 1) = false) : decodeWords h (some t) = decodeDouble h t := by
  simp only [decodeWords, hs, ht, hm, hr, hd, hp]
  simp [h7]

theorem decodeWords_hint (w : W32) (hs : bitsAt w 0 2 = 0#2) (hm : bitsAt w 3 7 = 0x7F#7) :
    decodeWords w none = .ok (decodeHint w) := by
  simp only [decodeWords, hs, hm]
  rfl

theorem decodeWords_hint2 (h t : W32) (hs : bitsAt h 0 2 = 2#2) (ht : bitsAt t 0 2 = 3#2) (hm : bitsAt h 3 7 = 0x7F#7) :
    decodeWords h (some t) = .ok (.hint (bitsAt h 10 22) (bitsAt h 2 1) (some (bitsAt t 2 30))) := by
  simp only [decodeWords, hs, ht, hm]
  rfl

end Sys2Proof
end

