-- ==== Sys2Proof/Laws/PerInstr.lean ====
section
/-! SUPPORT. Statements made of each instruction: decoding gives back every well-formed instruction from its words. -/

set_option linter.unusedSimpArgs false

/-- The words of a well-formed instruction, whatever bytes follow them, decode to that instruction. -/
def Sys2Proof.Laws.RoundTrip.Statement (i : Sys2Proof.Instr) : Prop :=
  ∀ (ws : Sys2Proof.Words) (rest : List Sys2Proof.Byte), i.wellFormed = true → Sys2Proof.encode i = some ws →
    Sys2Proof.decode (ws.bytes ++ rest) = .ok (i, rest)

namespace Sys2Proof.Laws.RoundTrip

theorem pfx (f : BitVec 1) (e : BitVec 2) (n : BitVec 1) (g : BitVec 3) (s : BitVec 2) (r : BitVec 3) :
    Statement (.pfx f e n g s r) := by
  intro ws rest hw he
  obtain rfl := Option.some.inj he
  have hs : bitsAt ((0 : BitVec 18) ++ f ++ e ++ n ++ g ++ s ++ r ++ (0x1 : BitVec 2)) 0 2 = 1#2 := by
    simp (disch := decide) only [bitsAt, bits_hi, bits_lo, bits_all, Nat.reduceSub] <;> rfl
  refine decode_pfx _ _ rest hs ?_
  simp only [Instr.wellFormed, Instr.valueOk, Bool.and_eq_true, decide_eq_true_eq] at hw
  unfold decodePfx
  rw [if_neg]
  · simp (disch := decide) only [bitsAt, bits_hi, bits_lo, bits_all, Nat.reduceSub] <;> rfl
  · simp (disch := decide) only [bitsAt, bits_hi, bits_lo, bits_all, Nat.reduceSub]
    rintro (h | h | h)
    · exact h rfl
    · omega
    · omega

theorem add (w : BitVec 1) (rs2 : BitVec 5) (rs1 : BitVec 5) (rd : BitVec 5) (p : BitVec 1) : Statement (.add w rs2 rs1 rd p) := by
  intro ws rest hw he
  obtain rfl := Option.some.inj he
  have hm : bitsAt (w ++ (0 : BitVec 6) ++ rs2 ++ rs1 ++ rd ++ (0 : BitVec 7) ++ p ++ (0 : BitVec 2)) 3 7 = 0x0#7 := by simp (disch := decide) only [bitsAt, bits_hi, bits_lo, bits_all, Nat.reduceSub] <;> rfl
  refine decode_one _ _ rest (by simp (disch := decide) only [bitsAt, bits_hi, bits_lo, bits_all, Nat.reduceSub] <;> rfl) ?_
  rw [decodeWords_single _ 0 (by simp (disch := decide) only [bitsAt, bits_hi, bits_lo, bits_all, Nat.reduceSub] <;> rfl) (by rw [hm]; rfl) rfl rfl (by decide) (by rfl)]
  unfold decodeSingle
  rw [hm]
  show decMajor00 _ = _
  unfold decMajor00
  have hf : bitsAt (w ++ (0 : BitVec 6) ++ rs2 ++ rs1 ++ rd ++ (0 : BitVec 7) ++ p ++ (0 : BitVec 2)) 25 6 = 0#6 := by simp (disch := decide) only [bitsAt, bits_hi, bits_lo, bits_all, Nat.reduceSub] <;> rfl
  rw [hf]
  show accept _ _ _ = _
  refine (congrArg (accept _ _) ?_).trans (accept_wf hw ?_)
  · simp (disch := decide) only [bitsAt, bits_hi, bits_lo, bits_all, Nat.reduceSub] <;> rfl
  · simp (disch := decide) only [zeros, List.all_cons, List.all_nil, bits_hi, bits_lo, bits_all, Nat.reduceSub] <;> rfl

theorem sub (w : BitVec 1) (rs2 : BitVec 5) (rs1 : BitVec 5) (rd : BitVec 5) (p : BitVec 1) : Statement (.sub w rs2 rs1 rd p) := by
  intro ws rest hw he
  obtain rfl := Option.some.inj he
  have hm : bitsAt (w ++ (0x1 : BitVec 6) ++ rs2 ++ rs1 ++ rd ++ (0 : BitVec 7) ++ p ++ (0 : BitVec 2)) 3 7 = 0x0#7 := by simp (disch := decide) only [bitsAt, bits_hi, bits_lo, bits_all, Nat.reduceSub] <;> rfl
  refine decode_one _ _ rest (by simp (disch := decide) only [bitsAt, bits_hi, bits_lo, bits_all, Nat.reduceSub] <;> rfl) ?_
  rw [decodeWords_single _ 0 (by simp (disch := decide) only [bitsAt, bits_hi, bits_lo, bits_all, Nat.reduceSub] <;> rfl) (by rw [hm]; rfl) rfl rfl (by decide) (by rfl)]
  unfold decodeSingle
  rw [hm]
  show decMajor00 _ = _
  unfold decMajor00
  have hf : bitsAt (w ++ (0x1 : BitVec 6) ++ rs2 ++ rs1 ++ rd ++ (0 : BitVec 7) ++ p ++ (0 : BitVec 2)) 25 6 = 1#6 := by simp (disch := decide) only [bitsAt, bits_hi, bits_lo, bits_all, Nat.reduceSub] <;> rfl
  rw [hf]
  show accept _ _ _ = _
  refine (congrArg (accept _ _) ?_).trans (accept_wf hw ?_)
  · simp (disch := decide) only [bitsAt, bits_hi, bits_lo, bits_all, Nat.reduceSub] <;> rfl
  · simp (disch := decide) only [zeros, List.all_cons, List.all_nil, bits_hi, bits_lo, bits_all, Nat.reduceSub] <;> rfl

theorem and (w : BitVec 1) (rs2 : BitVec 5) (rs1 : BitVec 5) (rd : BitVec 5) (p : BitVec 1) : Statement (.and w rs2 rs1 rd p) := by
  intro ws rest hw he
  obtain rfl := Option.some.inj he
  have hm : bitsAt (w ++ (0x2 : BitVec 6) ++ rs2 ++ rs1 ++ rd ++ (0 : BitVec 7) ++ p ++ (0 : BitVec 2)) 3 7 = 0x0#7 := by simp (disch := decide) only [bitsAt, bits_hi, bits_lo, bits_all, Nat.reduceSub] <;> rfl
  refine decode_one _ _ rest (by simp (disch := decide) only [bitsAt, bits_hi, bits_lo, bits_all, Nat.reduceSub] <;> rfl) ?_
  rw [decodeWords_single _ 0 (by simp (disch := decide) only [bitsAt, bits_hi, bits_lo, bits_all, Nat.reduceSub] <;> rfl) (by rw [hm]; rfl) rfl rfl (by decide) (by rfl)]
  unfold decodeSingle
  rw [hm]
  show decMajor00 _ = _
  unfold decMajor00
  have hf : bitsAt (w ++ (0x2 : BitVec 6) ++ rs2 ++ rs1 ++ rd ++ (0 : BitVec 7) ++ p ++ (0 : BitVec 2)) 25 6 = 2#6 := by simp (disch := decide) only [bitsAt, bits_hi, bits_lo, bits_all, Nat.reduceSub] <;> rfl
  rw [hf]
  show accept _ _ _ = _
  refine (congrArg (accept _ _) ?_).trans (accept_wf hw ?_)
  · simp (disch := decide) only [bitsAt, bits_hi, bits_lo, bits_all, Nat.reduceSub] <;> rfl
  · simp (disch := decide) only [zeros, List.all_cons, List.all_nil, bits_hi, bits_lo, bits_all, Nat.reduceSub] <;> rfl

theorem or (w : BitVec 1) (rs2 : BitVec 5) (rs1 : BitVec 5) (rd : BitVec 5) (p : BitVec 1) : Statement (.or w rs2 rs1 rd p) := by
  intro ws rest hw he
  obtain rfl := Option.some.inj he
  have hm : bitsAt (w ++ (0x3 : BitVec 6) ++ rs2 ++ rs1 ++ rd ++ (0 : BitVec 7) ++ p ++ (0 : BitVec 2)) 3 7 = 0x0#7 := by simp (disch := decide) only [bitsAt, bits_hi, bits_lo, bits_all, Nat.reduceSub] <;> rfl
  refine decode_one _ _ rest (by simp (disch := decide) only [bitsAt, bits_hi, bits_lo, bits_all, Nat.reduceSub] <;> rfl) ?_
  rw [decodeWords_single _ 0 (by simp (disch := decide) only [bitsAt, bits_hi, bits_lo, bits_all, Nat.reduceSub] <;> rfl) (by rw [hm]; rfl) rfl rfl (by decide) (by rfl)]
  unfold decodeSingle
  rw [hm]
  show decMajor00 _ = _
  unfold decMajor00
  have hf : bitsAt (w ++ (0x3 : BitVec 6) ++ rs2 ++ rs1 ++ rd ++ (0 : BitVec 7) ++ p ++ (0 : BitVec 2)) 25 6 = 3#6 := by simp (disch := decide) only [bitsAt, bits_hi, bits_lo, bits_all, Nat.reduceSub] <;> rfl
  rw [hf]
  show accept _ _ _ = _
  refine (congrArg (accept _ _) ?_).trans (accept_wf hw ?_)
  · simp (disch := decide) only [bitsAt, bits_hi, bits_lo, bits_all, Nat.reduceSub] <;> rfl
  · simp (disch := decide) only [zeros, List.all_cons, List.all_nil, bits_hi, bits_lo, bits_all, Nat.reduceSub] <;> rfl

theorem xor (w : BitVec 1) (rs2 : BitVec 5) (rs1 : BitVec 5) (rd : BitVec 5) (p : BitVec 1) : Statement (.xor w rs2 rs1 rd p) := by
  intro ws rest hw he
  obtain rfl := Option.some.inj he
  have hm : bitsAt (w ++ (0x4 : BitVec 6) ++ rs2 ++ rs1 ++ rd ++ (0 : BitVec 7) ++ p ++ (0 : BitVec 2)) 3 7 = 0x0#7 := by simp (disch := decide) only [bitsAt, bits_hi, bits_lo, bits_all, Nat.reduceSub] <;> rfl
  refine decode_one _ _ rest (by simp (disch := decide) only [bitsAt, bits_hi, bits_lo, bits_all, Nat.reduceSub] <;> rfl) ?_
  rw [decodeWords_single _ 0 (by simp (disch := decide) only [bitsAt, bits_hi, bits_lo, bits_all, Nat.reduceSub] <;> rfl) (by rw [hm]; rfl) rfl rfl (by decide) (by rfl)]
  unfold decodeSingle
  rw [hm]
  show decMajor00 _ = _
  unfold decMajor00
  have hf : bitsAt (w ++ (0x4 : BitVec 6) ++ rs2 ++ rs1 ++ rd ++ (0 : BitVec 7) ++ p ++ (0 : BitVec 2)) 25 6 = 4#6 := by simp (disch := decide) only [bitsAt, bits_hi, bits_lo, bits_all, Nat.reduceSub] <;> rfl
  rw [hf]
  show accept _ _ _ = _
  refine (congrArg (accept _ _) ?_).trans (accept_wf hw ?_)
  · simp (disch := decide) only [bitsAt, bits_hi, bits_lo, bits_all, Nat.reduceSub] <;> rfl
  · simp (disch := decide) only [zeros, List.all_cons, List.all_nil, bits_hi, bits_lo, bits_all, Nat.reduceSub] <;> rfl

theorem shl (w : BitVec 1) (rs2 : BitVec 5) (rs1 : BitVec 5) (rd : BitVec 5) (p : BitVec 1) : Statement (.shl w rs2 rs1 rd p) := by
  intro ws rest hw he
  obtain rfl := Option.some.inj he
  have hm : bitsAt (w ++ (0x5 : BitVec 6) ++ rs2 ++ rs1 ++ rd ++ (0 : BitVec 7) ++ p ++ (0 : BitVec 2)) 3 7 = 0x0#7 := by simp (disch := decide) only [bitsAt, bits_hi, bits_lo, bits_all, Nat.reduceSub] <;> rfl
  refine decode_one _ _ rest (by simp (disch := decide) only [bitsAt, bits_hi, bits_lo, bits_all, Nat.reduceSub] <;> rfl) ?_
  rw [decodeWords_single _ 0 (by simp (disch := decide) only [bitsAt, bits_hi, bits_lo, bits_all, Nat.reduceSub] <;> rfl) (by rw [hm]; rfl) rfl rfl (by decide) (by rfl)]
  unfold decodeSingle
  rw [hm]
  show decMajor00 _ = _
  unfold decMajor00
  have hf : bitsAt (w ++ (0x5 : BitVec 6) ++ rs2 ++ rs1 ++ rd ++ (0 : BitVec 7) ++ p ++ (0 : BitVec 2)) 25 6 = 5#6 := by simp (disch := decide) only [bitsAt, bits_hi, bits_lo, bits_all, Nat.reduceSub] <;> rfl
  rw [hf]
  show accept _ _ _ = _
  refine (congrArg (accept _ _) ?_).trans (accept_wf hw ?_)
  · simp (disch := decide) only [bitsAt, bits_hi, bits_lo, bits_all, Nat.reduceSub] <;> rfl
  · simp (disch := decide) only [zeros, List.all_cons, List.all_nil, bits_hi, bits_lo, bits_all, Nat.reduceSub] <;> rfl

theorem shr (w : BitVec 1) (rs2 : BitVec 5) (rs1 : BitVec 5) (rd : BitVec 5) (p : BitVec 1) : Statement (.shr w rs2 rs1 rd p) := by
  intro ws rest hw he
  obtain rfl := Option.some.inj he
  have hm : bitsAt (w ++ (0x6 : BitVec 6) ++ rs2 ++ rs1 ++ rd ++ (0 : BitVec 7) ++ p ++ (0 : BitVec 2)) 3 7 = 0x0#7 := by simp (disch := decide) only [bitsAt, bits_hi, bits_lo, bits_all, Nat.reduceSub] <;> rfl
  refine decode_one _ _ rest (by simp (disch := decide) only [bitsAt, bits_hi, bits_lo, bits_all, Nat.reduceSub] <;> rfl) ?_
  rw [decodeWords_single _ 0 (by simp (disch := decide) only [bitsAt, bits_hi, bits_lo, bits_all, Nat.reduceSub] <;> rfl) (by rw [hm]; rfl) rfl rfl (by decide) (by rfl)]
  unfold decodeSingle
  rw [hm]
  show decMajor00 _ = _
  unfold decMajor00
  have hf : bitsAt (w ++ (0x6 : BitVec 6) ++ rs2 ++ rs1 ++ rd ++ (0 : BitVec 7) ++ p ++ (0 : BitVec 2)) 25 6 = 6#6 := by simp (disch := decide) only [bitsAt, bits_hi, bits_lo, bits_all, Nat.reduceSub] <;> rfl
  rw [hf]
  show accept _ _ _ = _
  refine (congrArg (accept _ _) ?_).trans (accept_wf hw ?_)
  · simp (disch := decide) only [bitsAt, bits_hi, bits_lo, bits_all, Nat.reduceSub] <;> rfl
  · simp (disch := decide) only [zeros, List.all_cons, List.all_nil, bits_hi, bits_lo, bits_all, Nat.reduceSub] <;> rfl

theorem sha (w : BitVec 1) (rs2 : BitVec 5) (rs1 : BitVec 5) (rd : BitVec 5) (p : BitVec 1) : Statement (.sha w rs2 rs1 rd p) := by
  intro ws rest hw he
  obtain rfl := Option.some.inj he
  have hm : bitsAt (w ++ (0x7 : BitVec 6) ++ rs2 ++ rs1 ++ rd ++ (0 : BitVec 7) ++ p ++ (0 : BitVec 2)) 3 7 = 0x0#7 := by simp (disch := decide) only [bitsAt, bits_hi, bits_lo, bits_all, Nat.reduceSub] <;> rfl
  refine decode_one _ _ rest (by simp (disch := decide) only [bitsAt, bits_hi, bits_lo, bits_all, Nat.reduceSub] <;> rfl) ?_
  rw [decodeWords_single _ 0 (by simp (disch := decide) only [bitsAt, bits_hi, bits_lo, bits_all, Nat.reduceSub] <;> rfl) (by rw [hm]; rfl) rfl rfl (by decide) (by rfl)]
  unfold decodeSingle
  rw [hm]
  show decMajor00 _ = _
  unfold decMajor00
  have hf : bitsAt (w ++ (0x7 : BitVec 6) ++ rs2 ++ rs1 ++ rd ++ (0 : BitVec 7) ++ p ++ (0 : BitVec 2)) 25 6 = 7#6 := by simp (disch := decide) only [bitsAt, bits_hi, bits_lo, bits_all, Nat.reduceSub] <;> rfl
  rw [hf]
  show accept _ _ _ = _
  refine (congrArg (accept _ _) ?_).trans (accept_wf hw ?_)
  · simp (disch := decide) only [bitsAt, bits_hi, bits_lo, bits_all, Nat.reduceSub] <;> rfl
  · simp (disch := decide) only [zeros, List.all_cons, List.all_nil, bits_hi, bits_lo, bits_all, Nat.reduceSub] <;> rfl

theorem min (w : BitVec 1) (rs2 : BitVec 5) (rs1 : BitVec 5) (rd : BitVec 5) (p : BitVec 1) : Statement (.min w rs2 rs1 rd p) := by
  intro ws rest hw he
  obtain rfl := Option.some.inj he
  have hm : bitsAt (w ++ (0x8 : BitVec 6) ++ rs2 ++ rs1 ++ rd ++ (0 : BitVec 7) ++ p ++ (0 : BitVec 2)) 3 7 = 0x0#7 := by simp (disch := decide) only [bitsAt, bits_hi, bits_lo, bits_all, Nat.reduceSub] <;> rfl
  refine decode_one _ _ rest (by simp (disch := decide) only [bitsAt, bits_hi, bits_lo, bits_all, Nat.reduceSub] <;> rfl) ?_
  rw [decodeWords_single _ 0 (by simp (disch := decide) only [bitsAt, bits_hi, bits_lo, bits_all, Nat.reduceSub] <;> rfl) (by rw [hm]; rfl) rfl rfl (by decide) (by rfl)]
  unfold decodeSingle
  rw [hm]
  show decMajor00 _ = _
  unfold decMajor00
  have hf : bitsAt (w ++ (0x8 : BitVec 6) ++ rs2 ++ rs1 ++ rd ++ (0 : BitVec 7) ++ p ++ (0 : BitVec 2)) 25 6 = 8#6 := by simp (disch := decide) only [bitsAt, bits_hi, bits_lo, bits_all, Nat.reduceSub] <;> rfl
  rw [hf]
  show accept _ _ _ = _
  refine (congrArg (accept _ _) ?_).trans (accept_wf hw ?_)
  · simp (disch := decide) only [bitsAt, bits_hi, bits_lo, bits_all, Nat.reduceSub] <;> rfl
  · simp (disch := decide) only [zeros, List.all_cons, List.all_nil, bits_hi, bits_lo, bits_all, Nat.reduceSub] <;> rfl

theorem max (w : BitVec 1) (rs2 : BitVec 5) (rs1 : BitVec 5) (rd : BitVec 5) (p : BitVec 1) : Statement (.max w rs2 rs1 rd p) := by
  intro ws rest hw he
  obtain rfl := Option.some.inj he
  have hm : bitsAt (w ++ (0x9 : BitVec 6) ++ rs2 ++ rs1 ++ rd ++ (0 : BitVec 7) ++ p ++ (0 : BitVec 2)) 3 7 = 0x0#7 := by simp (disch := decide) only [bitsAt, bits_hi, bits_lo, bits_all, Nat.reduceSub] <;> rfl
  refine decode_one _ _ rest (by simp (disch := decide) only [bitsAt, bits_hi, bits_lo, bits_all, Nat.reduceSub] <;> rfl) ?_
  rw [decodeWords_single _ 0 (by simp (disch := decide) only [bitsAt, bits_hi, bits_lo, bits_all, Nat.reduceSub] <;> rfl) (by rw [hm]; rfl) rfl rfl (by decide) (by rfl)]
  unfold decodeSingle
  rw [hm]
  show decMajor00 _ = _
  unfold decMajor00
  have hf : bitsAt (w ++ (0x9 : BitVec 6) ++ rs2 ++ rs1 ++ rd ++ (0 : BitVec 7) ++ p ++ (0 : BitVec 2)) 25 6 = 9#6 := by simp (disch := decide) only [bitsAt, bits_hi, bits_lo, bits_all, Nat.reduceSub] <;> rfl
  rw [hf]
  show accept _ _ _ = _
  refine (congrArg (accept _ _) ?_).trans (accept_wf hw ?_)
  · simp (disch := decide) only [bitsAt, bits_hi, bits_lo, bits_all, Nat.reduceSub] <;> rfl
  · simp (disch := decide) only [zeros, List.all_cons, List.all_nil, bits_hi, bits_lo, bits_all, Nat.reduceSub] <;> rfl

theorem minn (w : BitVec 1) (rs2 : BitVec 5) (rs1 : BitVec 5) (rd : BitVec 5) (p : BitVec 1) : Statement (.minn w rs2 rs1 rd p) := by
  intro ws rest hw he
  obtain rfl := Option.some.inj he
  have hm : bitsAt (w ++ (0xa : BitVec 6) ++ rs2 ++ rs1 ++ rd ++ (0 : BitVec 7) ++ p ++ (0 : BitVec 2)) 3 7 = 0x0#7 := by simp (disch := decide) only [bitsAt, bits_hi, bits_lo, bits_all, Nat.reduceSub] <;> rfl
  refine decode_one _ _ rest (by simp (disch := decide) only [bitsAt, bits_hi, bits_lo, bits_all, Nat.reduceSub] <;> rfl) ?_
  rw [decodeWords_single _ 0 (by simp (disch := decide) only [bitsAt, bits_hi, bits_lo, bits_all, Nat.reduceSub] <;> rfl) (by rw [hm]; rfl) rfl rfl (by decide) (by rfl)]
  unfold decodeSingle
  rw [hm]
  show decMajor00 _ = _
  unfold decMajor00
  have hf : bitsAt (w ++ (0xa : BitVec 6) ++ rs2 ++ rs1 ++ rd ++ (0 : BitVec 7) ++ p ++ (0 : BitVec 2)) 25 6 = 10#6 := by simp (disch := decide) only [bitsAt, bits_hi, bits_lo, bits_all, Nat.reduceSub] <;> rfl
  rw [hf]
  show accept _ _ _ = _
  refine (congrArg (accept _ _) ?_).trans (accept_wf hw ?_)
  · simp (disch := decide) only [bitsAt, bits_hi, bits_lo, bits_all, Nat.reduceSub] <;> rfl
  · simp (disch := decide) only [zeros, List.all_cons, List.all_nil, bits_hi, bits_lo, bits_all, Nat.reduceSub] <;> rfl

theorem maxn (w : BitVec 1) (rs2 : BitVec 5) (rs1 : BitVec 5) (rd : BitVec 5) (p : BitVec 1) : Statement (.maxn w rs2 rs1 rd p) := by
  intro ws rest hw he
  obtain rfl := Option.some.inj he
  have hm : bitsAt (w ++ (0xb : BitVec 6) ++ rs2 ++ rs1 ++ rd ++ (0 : BitVec 7) ++ p ++ (0 : BitVec 2)) 3 7 = 0x0#7 := by simp (disch := decide) only [bitsAt, bits_hi, bits_lo, bits_all, Nat.reduceSub] <;> rfl
  refine decode_one _ _ rest (by simp (disch := decide) only [bitsAt, bits_hi, bits_lo, bits_all, Nat.reduceSub] <;> rfl) ?_
  rw [decodeWords_single _ 0 (by simp (disch := decide) only [bitsAt, bits_hi, bits_lo, bits_all, Nat.reduceSub] <;> rfl) (by rw [hm]; rfl) rfl rfl (by decide) (by rfl)]
  unfold decodeSingle
  rw [hm]
  show decMajor00 _ = _
  unfold decMajor00
  have hf : bitsAt (w ++ (0xb : BitVec 6) ++ rs2 ++ rs1 ++ rd ++ (0 : BitVec 7) ++ p ++ (0 : BitVec 2)) 25 6 = 11#6 := by simp (disch := decide) only [bitsAt, bits_hi, bits_lo, bits_all, Nat.reduceSub] <;> rfl
  rw [hf]
  show accept _ _ _ = _
  refine (congrArg (accept _ _) ?_).trans (accept_wf hw ?_)
  · simp (disch := decide) only [bitsAt, bits_hi, bits_lo, bits_all, Nat.reduceSub] <;> rfl
  · simp (disch := decide) only [zeros, List.all_cons, List.all_nil, bits_hi, bits_lo, bits_all, Nat.reduceSub] <;> rfl

theorem mul (w : BitVec 1) (rs2 : BitVec 5) (rs1 : BitVec 5) (rd : BitVec 5) (p : BitVec 1) : Statement (.mul w rs2 rs1 rd p) := by
  intro ws rest hw he
  obtain rfl := Option.some.inj he
  have hm : bitsAt (w ++ (0xc : BitVec 6) ++ rs2 ++ rs1 ++ rd ++ (0 : BitVec 7) ++ p ++ (0 : BitVec 2)) 3 7 = 0x0#7 := by simp (disch := decide) only [bitsAt, bits_hi, bits_lo, bits_all, Nat.reduceSub] <;> rfl
  refine decode_one _ _ rest (by simp (disch := decide) only [bitsAt, bits_hi, bits_lo, bits_all, Nat.reduceSub] <;> rfl) ?_
  rw [decodeWords_single _ 0 (by simp (disch := decide) only [bitsAt, bits_hi, bits_lo, bits_all, Nat.reduceSub] <;> rfl) (by rw [hm]; rfl) rfl rfl (by decide) (by rfl)]
  unfold decodeSingle
  rw [hm]
  show decMajor00 _ = _
  unfold decMajor00
  have hf : bitsAt (w ++ (0xc : BitVec 6) ++ rs2 ++ rs1 ++ rd ++ (0 : BitVec 7) ++ p ++ (0 : BitVec 2)) 25 6 = 12#6 := by simp (disch := decide) only [bitsAt, bits_hi, bits_lo, bits_all, Nat.reduceSub] <;> rfl
  rw [hf]
  show accept _ _ _ = _
  refine (congrArg (accept _ _) ?_).trans (accept_wf hw ?_)
  · simp (disch := decide) only [bitsAt, bits_hi, bits_lo, bits_all, Nat.reduceSub] <;> rfl
  · simp (disch := decide) only [zeros, List.all_cons, List.all_nil, bits_hi, bits_lo, bits_all, Nat.reduceSub] <;> rfl

theorem mulh (w : BitVec 1) (rs2 : BitVec 5) (rs1 : BitVec 5) (rd : BitVec 5) (p : BitVec 1) : Statement (.mulh w rs2 rs1 rd p) := by
  intro ws rest hw he
  obtain rfl := Option.some.inj he
  have hm : bitsAt (w ++ (0xd : BitVec 6) ++ rs2 ++ rs1 ++ rd ++ (0 : BitVec 7) ++ p ++ (0 : BitVec 2)) 3 7 = 0x0#7 := by simp (disch := decide) only [bitsAt, bits_hi, bits_lo, bits_all, Nat.reduceSub] <;> rfl
  refine decode_one _ _ rest (by simp (disch := decide) only [bitsAt, bits_hi, bits_lo, bits_all, Nat.reduceSub] <;> rfl) ?_
  rw [decodeWords_single _ 0 (by simp (disch := decide) only [bitsAt, bits_hi, bits_lo, bits_all, Nat.reduceSub] <;> rfl) (by rw [hm]; rfl) rfl rfl (by decide) (by rfl)]
  unfold decodeSingle
  rw [hm]
  show decMajor00 _ = _
  unfold decMajor00
  have hf : bitsAt (w ++ (0xd : BitVec 6) ++ rs2 ++ rs1 ++ rd ++ (0 : BitVec 7) ++ p ++ (0 : BitVec 2)) 25 6 = 13#6 := by simp (disch := decide) only [bitsAt, bits_hi, bits_lo, bits_all, Nat.reduceSub] <;> rfl
  rw [hf]
  show accept _ _ _ = _
  refine (congrArg (accept _ _) ?_).trans (accept_wf hw ?_)
  · simp (disch := decide) only [bitsAt, bits_hi, bits_lo, bits_all, Nat.reduceSub] <;> rfl
  · simp (disch := decide) only [zeros, List.all_cons, List.all_nil, bits_hi, bits_lo, bits_all, Nat.reduceSub] <;> rfl

theorem mulhn (w : BitVec 1) (rs2 : BitVec 5) (rs1 : BitVec 5) (rd : BitVec 5) (p : BitVec 1) : Statement (.mulhn w rs2 rs1 rd p) := by
  intro ws rest hw he
  obtain rfl := Option.some.inj he
  have hm : bitsAt (w ++ (0xe : BitVec 6) ++ rs2 ++ rs1 ++ rd ++ (0 : BitVec 7) ++ p ++ (0 : BitVec 2)) 3 7 = 0x0#7 := by simp (disch := decide) only [bitsAt, bits_hi, bits_lo, bits_all, Nat.reduceSub] <;> rfl
  refine decode_one _ _ rest (by simp (disch := decide) only [bitsAt, bits_hi, bits_lo, bits_all, Nat.reduceSub] <;> rfl) ?_
  rw [decodeWords_single _ 0 (by simp (disch := decide) only [bitsAt, bits_hi, bits_lo, bits_all, Nat.reduceSub] <;> rfl) (by rw [hm]; rfl) rfl rfl (by decide) (by rfl)]
  unfold decodeSingle
  rw [hm]
  show decMajor00 _ = _
  unfold decMajor00
  have hf : bitsAt (w ++ (0xe : BitVec 6) ++ rs2 ++ rs1 ++ rd ++ (0 : BitVec 7) ++ p ++ (0 : BitVec 2)) 25 6 = 14#6 := by simp (disch := decide) only [bitsAt, bits_hi, bits_lo, bits_all, Nat.reduceSub] <;> rfl
  rw [hf]
  show accept _ _ _ = _
  refine (congrArg (accept _ _) ?_).trans (accept_wf hw ?_)
  · simp (disch := decide) only [bitsAt, bits_hi, bits_lo, bits_all, Nat.reduceSub] <;> rfl
  · simp (disch := decide) only [zeros, List.all_cons, List.all_nil, bits_hi, bits_lo, bits_all, Nat.reduceSub] <;> rfl

theorem div (w : BitVec 1) (rs2 : BitVec 5) (rs1 : BitVec 5) (rd : BitVec 5) (p : BitVec 1) : Statement (.div w rs2 rs1 rd p) := by
  intro ws rest hw he
  obtain rfl := Option.some.inj he
  have hm : bitsAt (w ++ (0xf : BitVec 6) ++ rs2 ++ rs1 ++ rd ++ (0 : BitVec 7) ++ p ++ (0 : BitVec 2)) 3 7 = 0x0#7 := by simp (disch := decide) only [bitsAt, bits_hi, bits_lo, bits_all, Nat.reduceSub] <;> rfl
  refine decode_one _ _ rest (by simp (disch := decide) only [bitsAt, bits_hi, bits_lo, bits_all, Nat.reduceSub] <;> rfl) ?_
  rw [decodeWords_single _ 0 (by simp (disch := decide) only [bitsAt, bits_hi, bits_lo, bits_all, Nat.reduceSub] <;> rfl) (by rw [hm]; rfl) rfl rfl (by decide) (by rfl)]
  unfold decodeSingle
  rw [hm]
  show decMajor00 _ = _
  unfold decMajor00
  have hf : bitsAt (w ++ (0xf : BitVec 6) ++ rs2 ++ rs1 ++ rd ++ (0 : BitVec 7) ++ p ++ (0 : BitVec 2)) 25 6 = 15#6 := by simp (disch := decide) only [bitsAt, bits_hi, bits_lo, bits_all, Nat.reduceSub] <;> rfl
  rw [hf]
  show accept _ _ _ = _
  refine (congrArg (accept _ _) ?_).trans (accept_wf hw ?_)
  · simp (disch := decide) only [bitsAt, bits_hi, bits_lo, bits_all, Nat.reduceSub] <;> rfl
  · simp (disch := decide) only [zeros, List.all_cons, List.all_nil, bits_hi, bits_lo, bits_all, Nat.reduceSub] <;> rfl

theorem divn (w : BitVec 1) (rs2 : BitVec 5) (rs1 : BitVec 5) (rd : BitVec 5) (p : BitVec 1) : Statement (.divn w rs2 rs1 rd p) := by
  intro ws rest hw he
  obtain rfl := Option.some.inj he
  have hm : bitsAt (w ++ (0x10 : BitVec 6) ++ rs2 ++ rs1 ++ rd ++ (0 : BitVec 7) ++ p ++ (0 : BitVec 2)) 3 7 = 0x0#7 := by simp (disch := decide) only [bitsAt, bits_hi, bits_lo, bits_all, Nat.reduceSub] <;> rfl
  refine decode_one _ _ rest (by simp (disch := decide) only [bitsAt, bits_hi, bits_lo, bits_all, Nat.reduceSub] <;> rfl) ?_
  rw [decodeWords_single _ 0 (by simp (disch := decide) only [bitsAt, bits_hi, bits_lo, bits_all, Nat.reduceSub] <;> rfl) (by rw [hm]; rfl) rfl rfl (by decide) (by rfl)]
  unfold decodeSingle
  rw [hm]
  show decMajor00 _ = _
  unfold decMajor00
  have hf : bitsAt (w ++ (0x10 : BitVec 6) ++ rs2 ++ rs1 ++ rd ++ (0 : BitVec 7) ++ p ++ (0 : BitVec 2)) 25 6 = 16#6 := by simp (disch := decide) only [bitsAt, bits_hi, bits_lo, bits_all, Nat.reduceSub] <;> rfl
  rw [hf]
  show accept _ _ _ = _
  refine (congrArg (accept _ _) ?_).trans (accept_wf hw ?_)
  · simp (disch := decide) only [bitsAt, bits_hi, bits_lo, bits_all, Nat.reduceSub] <;> rfl
  · simp (disch := decide) only [zeros, List.all_cons, List.all_nil, bits_hi, bits_lo, bits_all, Nat.reduceSub] <;> rfl

theorem rem (w : BitVec 1) (rs2 : BitVec 5) (rs1 : BitVec 5) (rd : BitVec 5) (p : BitVec 1) : Statement (.rem w rs2 rs1 rd p) := by
  intro ws rest hw he
  obtain rfl := Option.some.inj he
  have hm : bitsAt (w ++ (0x11 : BitVec 6) ++ rs2 ++ rs1 ++ rd ++ (0 : BitVec 7) ++ p ++ (0 : BitVec 2)) 3 7 = 0x0#7 := by simp (disch := decide) only [bitsAt, bits_hi, bits_lo, bits_all, Nat.reduceSub] <;> rfl
  refine decode_one _ _ rest (by simp (disch := decide) only [bitsAt, bits_hi, bits_lo, bits_all, Nat.reduceSub] <;> rfl) ?_
  rw [decodeWords_single _ 0 (by simp (disch := decide) only [bitsAt, bits_hi, bits_lo, bits_all, Nat.reduceSub] <;> rfl) (by rw [hm]; rfl) rfl rfl (by decide) (by rfl)]
  unfold decodeSingle
  rw [hm]
  show decMajor00 _ = _
  unfold decMajor00
  have hf : bitsAt (w ++ (0x11 : BitVec 6) ++ rs2 ++ rs1 ++ rd ++ (0 : BitVec 7) ++ p ++ (0 : BitVec 2)) 25 6 = 17#6 := by simp (disch := decide) only [bitsAt, bits_hi, bits_lo, bits_all, Nat.reduceSub] <;> rfl
  rw [hf]
  show accept _ _ _ = _
  refine (congrArg (accept _ _) ?_).trans (accept_wf hw ?_)
  · simp (disch := decide) only [bitsAt, bits_hi, bits_lo, bits_all, Nat.reduceSub] <;> rfl
  · simp (disch := decide) only [zeros, List.all_cons, List.all_nil, bits_hi, bits_lo, bits_all, Nat.reduceSub] <;> rfl

theorem remn (w : BitVec 1) (rs2 : BitVec 5) (rs1 : BitVec 5) (rd : BitVec 5) (p : BitVec 1) : Statement (.remn w rs2 rs1 rd p) := by
  intro ws rest hw he
  obtain rfl := Option.some.inj he
  have hm : bitsAt (w ++ (0x12 : BitVec 6) ++ rs2 ++ rs1 ++ rd ++ (0 : BitVec 7) ++ p ++ (0 : BitVec 2)) 3 7 = 0x0#7 := by simp (disch := decide) only [bitsAt, bits_hi, bits_lo, bits_all, Nat.reduceSub] <;> rfl
  refine decode_one _ _ rest (by simp (disch := decide) only [bitsAt, bits_hi, bits_lo, bits_all, Nat.reduceSub] <;> rfl) ?_
  rw [decodeWords_single _ 0 (by simp (disch := decide) only [bitsAt, bits_hi, bits_lo, bits_all, Nat.reduceSub] <;> rfl) (by rw [hm]; rfl) rfl rfl (by decide) (by rfl)]
  unfold decodeSingle
  rw [hm]
  show decMajor00 _ = _
  unfold decMajor00
  have hf : bitsAt (w ++ (0x12 : BitVec 6) ++ rs2 ++ rs1 ++ rd ++ (0 : BitVec 7) ++ p ++ (0 : BitVec 2)) 25 6 = 18#6 := by simp (disch := decide) only [bitsAt, bits_hi, bits_lo, bits_all, Nat.reduceSub] <;> rfl
  rw [hf]
  show accept _ _ _ = _
  refine (congrArg (accept _ _) ?_).trans (accept_wf hw ?_)
  · simp (disch := decide) only [bitsAt, bits_hi, bits_lo, bits_all, Nat.reduceSub] <;> rfl
  · simp (disch := decide) only [zeros, List.all_cons, List.all_nil, bits_hi, bits_lo, bits_all, Nat.reduceSub] <;> rfl

theorem clz (w : BitVec 1) (rs1 : BitVec 5) (rd : BitVec 5) (p : BitVec 1) : Statement (.clz w rs1 rd p) := by
  intro ws rest hw he
  obtain rfl := Option.some.inj he
  have hm : bitsAt (w ++ (0x260 : BitVec 11) ++ rs1 ++ rd ++ (0 : BitVec 7) ++ p ++ (0 : BitVec 2)) 3 7 = 0x0#7 := by simp (disch := decide) only [bitsAt, bits_hi, bits_lo, bits_all, Nat.reduceSub] <;> rfl
  refine decode_one _ _ rest (by simp (disch := decide) only [bitsAt, bits_hi, bits_lo, bits_all, Nat.reduceSub] <;> rfl) ?_
  rw [decodeWords_single _ 0 (by simp (disch := decide) only [bitsAt, bits_hi, bits_lo, bits_all, Nat.reduceSub] <;> rfl) (by rw [hm]; rfl) rfl rfl (by decide) (by rfl)]
  unfold decodeSingle
  rw [hm]
  show decMajor00 _ = _
  unfold decMajor00
  have hf : bitsAt (w ++ (0x260 : BitVec 11) ++ rs1 ++ rd ++ (0 : BitVec 7) ++ p ++ (0 : BitVec 2)) 25 6 = 19#6 := by simp (disch := decide) only [bitsAt, bits_hi, bits_lo, bits_all, Nat.reduceSub] <;> rfl
  rw [hf]
  show accept _ _ _ = _
  refine (congrArg (accept _ _) ?_).trans (accept_wf hw ?_)
  · simp (disch := decide) only [bitsAt, bits_hi, bits_lo, bits_all, Nat.reduceSub] <;> rfl
  · simp (disch := decide) only [zeros, List.all_cons, List.all_nil, bits_hi, bits_lo, bits_all, Nat.reduceSub] <;> rfl

theorem ctz (w : BitVec 1) (rs1 : BitVec 5) (rd : BitVec 5) (p : BitVec 1) : Statement (.ctz w rs1 rd p) := by
  intro ws rest hw he
  obtain rfl := Option.some.inj he
  have hm : bitsAt (w ++ (0x280 : BitVec 11) ++ rs1 ++ rd ++ (0 : BitVec 7) ++ p ++ (0 : BitVec 2)) 3 7 = 0x0#7 := by simp (disch := decide) only [bitsAt, bits_hi, bits_lo, bits_all, Nat.reduceSub] <;> rfl
  refine decode_one _ _ rest (by simp (disch := decide) only [bitsAt, bits_hi, bits_lo, bits_all, Nat.reduceSub] <;> rfl) ?_
  rw [decodeWords_single _ 0 (by simp (disch := decide) only [bitsAt, bits_hi, bits_lo, bits_all, Nat.reduceSub] <;> rfl) (by rw [hm]; rfl) rfl rfl (by decide) (by rfl)]
  unfold decodeSingle
  rw [hm]
  show decMajor00 _ = _
  unfold decMajor00
  have hf : bitsAt (w ++ (0x280 : BitVec 11) ++ rs1 ++ rd ++ (0 : BitVec 7) ++ p ++ (0 : BitVec 2)) 25 6 = 20#6 := by simp (disch := decide) only [bitsAt, bits_hi, bits_lo, bits_all, Nat.reduceSub] <;> rfl
  rw [hf]
  show accept _ _ _ = _
  refine (congrArg (accept _ _) ?_).trans (accept_wf hw ?_)
  · simp (disch := decide) only [bitsAt, bits_hi, bits_lo, bits_all, Nat.reduceSub] <;> rfl
  · simp (disch := decide) only [zeros, List.all_cons, List.all_nil, bits_hi, bits_lo, bits_all, Nat.reduceSub] <;> rfl

theorem popc (w : BitVec 1) (rs1 : BitVec 5) (rd : BitVec 5) (p : BitVec 1) : Statement (.popc w rs1 rd p) := by
  intro ws rest hw he
  obtain rfl := Option.some.inj he
  have hm : bitsAt (w ++ (0x2a0 : BitVec 11) ++ rs1 ++ rd ++ (0 : BitVec 7) ++ p ++ (0 : BitVec 2)) 3 7 = 0x0#7 := by simp (disch := decide) only [bitsAt, bits_hi, bits_lo, bits_all, Nat.reduceSub] <;> rfl
  refine decode_one _ _ rest (by simp (disch := decide) only [bitsAt, bits_hi, bits_lo, bits_all, Nat.reduceSub] <;> rfl) ?_
  rw [decodeWords_single _ 0 (by simp (disch := decide) only [bitsAt, bits_hi, bits_lo, bits_all, Nat.reduceSub] <;> rfl) (by rw [hm]; rfl) rfl rfl (by decide) (by rfl)]
  unfold decodeSingle
  rw [hm]
  show decMajor00 _ = _
  unfold decMajor00
  have hf : bitsAt (w ++ (0x2a0 : BitVec 11) ++ rs1 ++ rd ++ (0 : BitVec 7) ++ p ++ (0 : BitVec 2)) 25 6 = 21#6 := by simp (disch := decide) only [bitsAt, bits_hi, bits_lo, bits_all, Nat.reduceSub] <;> rfl
  rw [hf]
  show accept _ _ _ = _
  refine (congrArg (accept _ _) ?_).trans (accept_wf hw ?_)
  · simp (disch := decide) only [bitsAt, bits_hi, bits_lo, bits_all, Nat.reduceSub] <;> rfl
  · simp (disch := decide) only [zeros, List.all_cons, List.all_nil, bits_hi, bits_lo, bits_all, Nat.reduceSub] <;> rfl

theorem andn (w : BitVec 1) (rs2 : BitVec 5) (rs1 : BitVec 5) (rd : BitVec 5) (p : BitVec 1) : Statement (.andn w rs2 rs1 rd p) := by
  intro ws rest hw he
  obtain rfl := Option.some.inj he
  have hm : bitsAt (w ++ (0x16 : BitVec 6) ++ rs2 ++ rs1 ++ rd ++ (0 : BitVec 7) ++ p ++ (0 : BitVec 2)) 3 7 = 0x0#7 := by simp (disch := decide) only [bitsAt, bits_hi, bits_lo, bits_all, Nat.reduceSub] <;> rfl
  refine decode_one _ _ rest (by simp (disch := decide) only [bitsAt, bits_hi, bits_lo, bits_all, Nat.reduceSub] <;> rfl) ?_
  rw [decodeWords_single _ 0 (by simp (disch := decide) only [bitsAt, bits_hi, bits_lo, bits_all, Nat.reduceSub] <;> rfl) (by rw [hm]; rfl) rfl rfl (by decide) (by rfl)]
  unfold decodeSingle
  rw [hm]
  show decMajor00 _ = _
  unfold decMajor00
  have hf : bitsAt (w ++ (0x16 : BitVec 6) ++ rs2 ++ rs1 ++ rd ++ (0 : BitVec 7) ++ p ++ (0 : BitVec 2)) 25 6 = 22#6 := by simp (disch := decide) only [bitsAt, bits_hi, bits_lo, bits_all, Nat.reduceSub] <;> rfl
  rw [hf]
  show accept _ _ _ = _
  refine (congrArg (accept _ _) ?_).trans (accept_wf hw ?_)
  · simp (disch := decide) only [bitsAt, bits_hi, bits_lo, bits_all, Nat.reduceSub] <;> rfl
  · simp (disch := decide) only [zeros, List.all_cons, List.all_nil, bits_hi, bits_lo, bits_all, Nat.reduceSub] <;> rfl

theorem orn (w : BitVec 1) (rs2 : BitVec 5) (rs1 : BitVec 5) (rd : BitVec 5) (p : BitVec 1) : Statement (.orn w rs2 rs1 rd p) := by
  intro ws rest hw he
  obtain rfl := Option.some.inj he
  have hm : bitsAt (w ++ (0x17 : BitVec 6) ++ rs2 ++ rs1 ++ rd ++ (0 : BitVec 7) ++ p ++ (0 : BitVec 2)) 3 7 = 0x0#7 := by simp (disch := decide) only [bitsAt, bits_hi, bits_lo, bits_all, Nat.reduceSub] <;> rfl
  refine decode_one _ _ rest (by simp (disch := decide) only [bitsAt, bits_hi, bits_lo, bits_all, Nat.reduceSub] <;> rfl) ?_
  rw [decodeWords_single _ 0 (by simp (disch := decide) only [bitsAt, bits_hi, bits_lo, bits_all, Nat.reduceSub] <;> rfl) (by rw [hm]; rfl) rfl rfl (by decide) (by rfl)]
  unfold decodeSingle
  rw [hm]
  show decMajor00 _ = _
  unfold decMajor00
  have hf : bitsAt (w ++ (0x17 : BitVec 6) ++ rs2 ++ rs1 ++ rd ++ (0 : BitVec 7) ++ p ++ (0 : BitVec 2)) 25 6 = 23#6 := by simp (disch := decide) only [bitsAt, bits_hi, bits_lo, bits_all, Nat.reduceSub] <;> rfl
  rw [hf]
  show accept _ _ _ = _
  refine (congrArg (accept _ _) ?_).trans (accept_wf hw ?_)
  · simp (disch := decide) only [bitsAt, bits_hi, bits_lo, bits_all, Nat.reduceSub] <;> rfl
  · simp (disch := decide) only [zeros, List.all_cons, List.all_nil, bits_hi, bits_lo, bits_all, Nat.reduceSub] <;> rfl

theorem addi (imm : BitVec 12) (rs1 : BitVec 5) (rd : BitVec 5) (p : BitVec 1) : Statement (.addi imm rs1 rd p) := by
  intro ws rest hw he
  obtain rfl := Option.some.inj he
  have hm : bitsAt (imm ++ rs1 ++ rd ++ (0x1 : BitVec 7) ++ p ++ (0 : BitVec 2)) 3 7 = 0x1#7 := by simp (disch := decide) only [bitsAt, bits_hi, bits_lo, bits_all, Nat.reduceSub] <;> rfl
  refine decode_one _ _ rest (by simp (disch := decide) only [bitsAt, bits_hi, bits_lo, bits_all, Nat.reduceSub] <;> rfl) ?_
  rw [decodeWords_single _ 1 (by simp (disch := decide) only [bitsAt, bits_hi, bits_lo, bits_all, Nat.reduceSub] <;> rfl) (by rw [hm]; rfl) rfl rfl (by decide) (by rfl)]
  unfold decodeSingle
  rw [hm]
  show decMajor01 _ = _
  unfold decMajor01
  refine (congrArg (accept _ _) ?_).trans (accept_wf hw ?_)
  · simp (disch := decide) only [bitsAt, bits_hi, bits_lo, bits_all, Nat.reduceSub] <;> rfl
  · simp (disch := decide) only [zeros, List.all_cons, List.all_nil, bits_hi, bits_lo, bits_all, Nat.reduceSub] <;> rfl

theorem andi (imm : BitVec 12) (rs1 : BitVec 5) (rd : BitVec 5) (p : BitVec 1) : Statement (.andi imm rs1 rd p) := by
  intro ws rest hw he
  obtain rfl := Option.some.inj he
  have hm : bitsAt (imm ++ rs1 ++ rd ++ (0x2 : BitVec 7) ++ p ++ (0 : BitVec 2)) 3 7 = 0x2#7 := by simp (disch := decide) only [bitsAt, bits_hi, bits_lo, bits_all, Nat.reduceSub] <;> rfl
  refine decode_one _ _ rest (by simp (disch := decide) only [bitsAt, bits_hi, bits_lo, bits_all, Nat.reduceSub] <;> rfl) ?_
  rw [decodeWords_single _ 2 (by simp (disch := decide) only [bitsAt, bits_hi, bits_lo, bits_all, Nat.reduceSub] <;> rfl) (by rw [hm]; rfl) rfl rfl (by decide) (by rfl)]
  unfold decodeSingle
  rw [hm]
  show decMajor02 _ = _
  unfold decMajor02
  refine (congrArg (accept _ _) ?_).trans (accept_wf hw ?_)
  · simp (disch := decide) only [bitsAt, bits_hi, bits_lo, bits_all, Nat.reduceSub] <;> rfl
  · simp (disch := decide) only [zeros, List.all_cons, List.all_nil, bits_hi, bits_lo, bits_all, Nat.reduceSub] <;> rfl

theorem ori (imm : BitVec 12) (rs1 : BitVec 5) (rd : BitVec 5) (p : BitVec 1) : Statement (.ori imm rs1 rd p) := by
  intro ws rest hw he
  obtain rfl := Option.some.inj he
  have hm : bitsAt (imm ++ rs1 ++ rd ++ (0x3 : BitVec 7) ++ p ++ (0 : BitVec 2)) 3 7 = 0x3#7 := by simp (disch := decide) only [bitsAt, bits_hi, bits_lo, bits_all, Nat.reduceSub] <;> rfl
  refine decode_one _ _ rest (by simp (disch := decide) only [bitsAt, bits_hi, bits_lo, bits_all, Nat.reduceSub] <;> rfl) ?_
  rw [decodeWords_single _ 3 (by simp (disch := decide) only [bitsAt, bits_hi, bits_lo, bits_all, Nat.reduceSub] <;> rfl) (by rw [hm]; rfl) rfl rfl (by decide) (by rfl)]
  unfold decodeSingle
  rw [hm]
  show decMajor03 _ = _
  unfold decMajor03
  refine (congrArg (accept _ _) ?_).trans (accept_wf hw ?_)
  · simp (disch := decide) only [bitsAt, bits_hi, bits_lo, bits_all, Nat.reduceSub] <;> rfl
  · simp (disch := decide) only [zeros, List.all_cons, List.all_nil, bits_hi, bits_lo, bits_all, Nat.reduceSub] <;> rfl

theorem xori (imm : BitVec 12) (rs1 : BitVec 5) (rd : BitVec 5) (p : BitVec 1) : Statement (.xori imm rs1 rd p) := by
  intro ws rest hw he
  obtain rfl := Option.some.inj he
  have hm : bitsAt (imm ++ rs1 ++ rd ++ (0x4 : BitVec 7) ++ p ++ (0 : BitVec 2)) 3 7 = 0x4#7 := by simp (disch := decide) only [bitsAt, bits_hi, bits_lo, bits_all, Nat.reduceSub] <;> rfl
  refine decode_one _ _ rest (by simp (disch := decide) only [bitsAt, bits_hi, bits_lo, bits_all, Nat.reduceSub] <;> rfl) ?_
  rw [decodeWords_single _ 4 (by simp (disch := decide) only [bitsAt, bits_hi, bits_lo, bits_all, Nat.reduceSub] <;> rfl) (by rw [hm]; rfl) rfl rfl (by decide) (by rfl)]
  unfold decodeSingle
  rw [hm]
  show decMajor04 _ = _
  unfold decMajor04
  refine (congrArg (accept _ _) ?_).trans (accept_wf hw ?_)
  · simp (disch := decide) only [bitsAt, bits_hi, bits_lo, bits_all, Nat.reduceSub] <;> rfl
  · simp (disch := decide) only [zeros, List.all_cons, List.all_nil, bits_hi, bits_lo, bits_all, Nat.reduceSub] <;> rfl

theorem shli (w : BitVec 1) (h : BitVec 6) (rs1 : BitVec 5) (rd : BitVec 5) (p : BitVec 1) : Statement (.shli w h rs1 rd p) := by
  intro ws rest hw he
  obtain rfl := Option.some.inj he
  have hm : bitsAt ((0 : BitVec 5) ++ w ++ h ++ rs1 ++ rd ++ (0x5 : BitVec 7) ++ p ++ (0 : BitVec 2)) 3 7 = 0x5#7 := by simp (disch := decide) only [bitsAt, bits_hi, bits_lo, bits_all, Nat.reduceSub] <;> rfl
  refine decode_one _ _ rest (by simp (disch := decide) only [bitsAt, bits_hi, bits_lo, bits_all, Nat.reduceSub] <;> rfl) ?_
  rw [decodeWords_single _ 5 (by simp (disch := decide) only [bitsAt, bits_hi, bits_lo, bits_all, Nat.reduceSub] <;> rfl) (by rw [hm]; rfl) rfl rfl (by decide) (by rfl)]
  unfold decodeSingle
  rw [hm]
  show decMajor05 _ = _
  unfold decMajor05
  refine (congrArg (accept _ _) ?_).trans (accept_wf hw ?_)
  · simp (disch := decide) only [bitsAt, bits_hi, bits_lo, bits_all, Nat.reduceSub] <;> rfl
  · simp (disch := decide) only [zeros, List.all_cons, List.all_nil, bits_hi, bits_lo, bits_all, Nat.reduceSub] <;> rfl

theorem shri (w : BitVec 1) (h : BitVec 6) (rs1 : BitVec 5) (rd : BitVec 5) (p : BitVec 1) : Statement (.shri w h rs1 rd p) := by
  intro ws rest hw he
  obtain rfl := Option.some.inj he
  have hm : bitsAt ((0 : BitVec 5) ++ w ++ h ++ rs1 ++ rd ++ (0x6 : BitVec 7) ++ p ++ (0 : BitVec 2)) 3 7 = 0x6#7 := by simp (disch := decide) only [bitsAt, bits_hi, bits_lo, bits_all, Nat.reduceSub] <;> rfl
  refine decode_one _ _ rest (by simp (disch := decide) only [bitsAt, bits_hi, bits_lo, bits_all, Nat.reduceSub] <;> rfl) ?_
  rw [decodeWords_single _ 6 (by simp (disch := decide) only [bitsAt, bits_hi, bits_lo, bits_all, Nat.reduceSub] <;> rfl) (by rw [hm]; rfl) rfl rfl (by decide) (by rfl)]
  unfold decodeSingle
  rw [hm]
  show decMajor06 _ = _
  unfold decMajor06
  refine (congrArg (accept _ _) ?_).trans (accept_wf hw ?_)
  · simp (disch := decide) only [bitsAt, bits_hi, bits_lo, bits_all, Nat.reduceSub] <;> rfl
  · simp (disch := decide) only [zeros, List.all_cons, List.all_nil, bits_hi, bits_lo, bits_all, Nat.reduceSub] <;> rfl

theorem shai (w : BitVec 1) (h : BitVec 6) (rs1 : BitVec 5) (rd : BitVec 5) (p : BitVec 1) : Statement (.shai w h rs1 rd p) := by
  intro ws rest hw he
  obtain rfl := Option.some.inj he
  have hm : bitsAt ((0 : BitVec 5) ++ w ++ h ++ rs1 ++ rd ++ (0x7 : BitVec 7) ++ p ++ (0 : BitVec 2)) 3 7 = 0x7#7 := by simp (disch := decide) only [bitsAt, bits_hi, bits_lo, bits_all, Nat.reduceSub] <;> rfl
  refine decode_one _ _ rest (by simp (disch := decide) only [bitsAt, bits_hi, bits_lo, bits_all, Nat.reduceSub] <;> rfl) ?_
  rw [decodeWords_single _ 7 (by simp (disch := decide) only [bitsAt, bits_hi, bits_lo, bits_all, Nat.reduceSub] <;> rfl) (by rw [hm]; rfl) rfl rfl (by decide) (by rfl)]
  unfold decodeSingle
  rw [hm]
  show decMajor07 _ = _
  unfold decMajor07
  refine (congrArg (accept _ _) ?_).trans (accept_wf hw ?_)
  · simp (disch := decide) only [bitsAt, bits_hi, bits_lo, bits_all, Nat.reduceSub] <;> rfl
  · simp (disch := decide) only [zeros, List.all_cons, List.all_nil, bits_hi, bits_lo, bits_all, Nat.reduceSub] <;> rfl

theorem lea (imm : BitVec 10) (c : BitVec 2) (rs1 : BitVec 5) (rd : BitVec 5) (p : BitVec 1) : Statement (.lea imm c rs1 rd p) := by
  intro ws rest hw he
  obtain rfl := Option.some.inj he
  have hm : bitsAt (imm ++ c ++ rs1 ++ rd ++ (0x8 : BitVec 7) ++ p ++ (0 : BitVec 2)) 3 7 = 0x8#7 := by simp (disch := decide) only [bitsAt, bits_hi, bits_lo, bits_all, Nat.reduceSub] <;> rfl
  refine decode_one _ _ rest (by simp (disch := decide) only [bitsAt, bits_hi, bits_lo, bits_all, Nat.reduceSub] <;> rfl) ?_
  rw [decodeWords_single _ 8 (by simp (disch := decide) only [bitsAt, bits_hi, bits_lo, bits_all, Nat.reduceSub] <;> rfl) (by rw [hm]; rfl) rfl rfl (by decide) (by rfl)]
  unfold decodeSingle
  rw [hm]
  show decMajor08 _ = _
  unfold decMajor08
  refine (congrArg (accept _ _) ?_).trans (accept_wf hw ?_)
  · simp (disch := decide) only [bitsAt, bits_hi, bits_lo, bits_all, Nat.reduceSub] <;> rfl
  · simp (disch := decide) only [zeros, List.all_cons, List.all_nil, bits_hi, bits_lo, bits_all, Nat.reduceSub] <;> rfl

theorem ldi (x : BitVec 1) (imm : BitVec 32) (rd : BitVec 5) (p : BitVec 1) : Statement (.ldi x imm rd p) := by
  intro ws rest hw he
  obtain rfl := Option.some.inj he
  have hm : bitsAt ((0 : BitVec 14) ++ x ++ imm.extractLsb' 0 2 ++ rd ++ (0x09 : BitVec 7) ++ p ++ (2 : BitVec 2)) 3 7 = 0x9#7 := by simp (disch := decide) only [bitsAt, bits_hi, bits_lo, bits_all, Nat.reduceSub] <;> rfl
  refine decode_two _ _ _ rest (by simp (disch := decide) only [bitsAt, bits_hi, bits_lo, bits_all, Nat.reduceSub] <;> rfl) ?_
  rw [decodeWords_double _ _ 9 (by simp (disch := decide) only [bitsAt, bits_hi, bits_lo, bits_all, Nat.reduceSub] <;> rfl) (by simp (disch := decide) only [bitsAt, bits_hi, bits_lo, bits_all, Nat.reduceSub] <;> rfl) (by rw [hm]; rfl) rfl rfl (by decide) (by rfl)]
  unfold decodeDouble
  rw [hm]
  show accept2 _ _ _ _ _ = _
  refine (congrArg (accept2 _ _ _ _) ?_).trans (accept2_wf hw ?_ ?_)
  · simp (disch := decide) only [bitsAt, bits_hi, bits_lo, bits_all, bits_join, Nat.reduceSub]
  · simp (disch := decide) only [zeros, List.all_cons, List.all_nil, bits_hi, bits_lo, bits_all, Nat.reduceSub] <;> rfl
  · simp (disch := decide) only [zeros, List.all_cons, List.all_nil, bits_hi, bits_lo, bits_all, Nat.reduceSub] <;> rfl

theorem ldih (imm : BitVec 32) (rd : BitVec 5) (p : BitVec 1) : Statement (.ldih imm rd p) := by
  intro ws rest hw he
  obtain rfl := Option.some.inj he
  have hm : bitsAt ((0 : BitVec 15) ++ imm.extractLsb' 0 2 ++ rd ++ (0x0A : BitVec 7) ++ p ++ (2 : BitVec 2)) 3 7 = 0xA#7 := by simp (disch := decide) only [bitsAt, bits_hi, bits_lo, bits_all, Nat.reduceSub] <;> rfl
  refine decode_two _ _ _ rest (by simp (disch := decide) only [bitsAt, bits_hi, bits_lo, bits_all, Nat.reduceSub] <;> rfl) ?_
  rw [decodeWords_double _ _ 10 (by simp (disch := decide) only [bitsAt, bits_hi, bits_lo, bits_all, Nat.reduceSub] <;> rfl) (by simp (disch := decide) only [bitsAt, bits_hi, bits_lo, bits_all, Nat.reduceSub] <;> rfl) (by rw [hm]; rfl) rfl rfl (by decide) (by rfl)]
  unfold decodeDouble
  rw [hm]
  show accept2 _ _ _ _ _ = _
  refine (congrArg (accept2 _ _ _ _) ?_).trans (accept2_wf hw ?_ ?_)
  · simp (disch := decide) only [bitsAt, bits_hi, bits_lo, bits_all, bits_join, Nat.reduceSub]
  · simp (disch := decide) only [zeros, List.all_cons, List.all_nil, bits_hi, bits_lo, bits_all, Nat.reduceSub] <;> rfl
  · simp (disch := decide) only [zeros, List.all_cons, List.all_nil, bits_hi, bits_lo, bits_all, Nat.reduceSub] <;> rfl

theorem bnd (rs2 : BitVec 5) (rs1 : BitVec 5) (rd : BitVec 5) (p : BitVec 1) : Statement (.bnd rs2 rs1 rd p) := by
  intro ws rest hw he
  obtain rfl := Option.some.inj he
  have hm : bitsAt ((0 : BitVec 7) ++ rs2 ++ rs1 ++ rd ++ (0xb : BitVec 7) ++ p ++ (0 : BitVec 2)) 3 7 = 0xB#7 := by simp (disch := decide) only [bitsAt, bits_hi, bits_lo, bits_all, Nat.reduceSub] <;> rfl
  refine decode_one _ _ rest (by simp (disch := decide) only [bitsAt, bits_hi, bits_lo, bits_all, Nat.reduceSub] <;> rfl) ?_
  rw [decodeWords_single _ 11 (by simp (disch := decide) only [bitsAt, bits_hi, bits_lo, bits_all, Nat.reduceSub] <;> rfl) (by rw [hm]; rfl) rfl rfl (by decide) (by rfl)]
  unfold decodeSingle
  rw [hm]
  show decMajor0B _ = _
  unfold decMajor0B
  refine (congrArg (accept _ _) ?_).trans (accept_wf hw ?_)
  · simp (disch := decide) only [bitsAt, bits_hi, bits_lo, bits_all, Nat.reduceSub] <;> rfl
  · simp (disch := decide) only [zeros, List.all_cons, List.all_nil, bits_hi, bits_lo, bits_all, Nat.reduceSub] <;> rfl

theorem bndi (imm : BitVec 12) (rs1 : BitVec 5) (rd : BitVec 5) (p : BitVec 1) : Statement (.bndi imm rs1 rd p) := by
  intro ws rest hw he
  obtain rfl := Option.some.inj he
  have hm : bitsAt (imm ++ rs1 ++ rd ++ (0xc : BitVec 7) ++ p ++ (0 : BitVec 2)) 3 7 = 0xC#7 := by simp (disch := decide) only [bitsAt, bits_hi, bits_lo, bits_all, Nat.reduceSub] <;> rfl
  refine decode_one _ _ rest (by simp (disch := decide) only [bitsAt, bits_hi, bits_lo, bits_all, Nat.reduceSub] <;> rfl) ?_
  rw [decodeWords_single _ 12 (by simp (disch := decide) only [bitsAt, bits_hi, bits_lo, bits_all, Nat.reduceSub] <;> rfl) (by rw [hm]; rfl) rfl rfl (by decide) (by rfl)]
  unfold decodeSingle
  rw [hm]
  show decMajor0C _ = _
  unfold decMajor0C
  refine (congrArg (accept _ _) ?_).trans (accept_wf hw ?_)
  · simp (disch := decide) only [bitsAt, bits_hi, bits_lo, bits_all, Nat.reduceSub] <;> rfl
  · simp (disch := decide) only [zeros, List.all_cons, List.all_nil, bits_hi, bits_lo, bits_all, Nat.reduceSub] <;> rfl

theorem muli (imm : BitVec 12) (rs1 : BitVec 5) (rd : BitVec 5) (p : BitVec 1) : Statement (.muli imm rs1 rd p) := by
  intro ws rest hw he
  obtain rfl := Option.some.inj he
  have hm : bitsAt (imm ++ rs1 ++ rd ++ (0xd : BitVec 7) ++ p ++ (0 : BitVec 2)) 3 7 = 0xD#7 := by simp (disch := decide) only [bitsAt, bits_hi, bits_lo, bits_all, Nat.reduceSub] <;> rfl
  refine decode_one _ _ rest (by simp (disch := decide) only [bitsAt, bits_hi, bits_lo, bits_all, Nat.reduceSub] <;> rfl) ?_
  rw [decodeWords_single _ 13 (by simp (disch := decide) only [bitsAt, bits_hi, bits_lo, bits_all, Nat.reduceSub] <;> rfl) (by rw [hm]; rfl) rfl rfl (by decide) (by rfl)]
  unfold decodeSingle
  rw [hm]
  show decMajor0D _ = _
  unfold decMajor0D
  refine (congrArg (accept _ _) ?_).trans (accept_wf hw ?_)
  · simp (disch := decide) only [bitsAt, bits_hi, bits_lo, bits_all, Nat.reduceSub] <;> rfl
  · simp (disch := decide) only [zeros, List.all_cons, List.all_nil, bits_hi, bits_lo, bits_all, Nat.reduceSub] <;> rfl

theorem addiW (imm : BitVec 12) (rs1 : BitVec 5) (rd : BitVec 5) (p : BitVec 1) : Statement (.addiW imm rs1 rd p) := by
  intro ws rest hw he
  obtain rfl := Option.some.inj he
  have hm : bitsAt (imm ++ rs1 ++ rd ++ (0xe : BitVec 7) ++ p ++ (0 : BitVec 2)) 3 7 = 0xE#7 := by simp (disch := decide) only [bitsAt, bits_hi, bits_lo, bits_all, Nat.reduceSub] <;> rfl
  refine decode_one _ _ rest (by simp (disch := decide) only [bitsAt, bits_hi, bits_lo, bits_all, Nat.reduceSub] <;> rfl) ?_
  rw [decodeWords_single _ 14 (by simp (disch := decide) only [bitsAt, bits_hi, bits_lo, bits_all, Nat.reduceSub] <;> rfl) (by rw [hm]; rfl) rfl rfl (by decide) (by rfl)]
  unfold decodeSingle
  rw [hm]
  show decMajor0E _ = _
  unfold decMajor0E
  refine (congrArg (accept _ _) ?_).trans (accept_wf hw ?_)
  · simp (disch := decide) only [bitsAt, bits_hi, bits_lo, bits_all, Nat.reduceSub] <;> rfl
  · simp (disch := decide) only [zeros, List.all_cons, List.all_nil, bits_hi, bits_lo, bits_all, Nat.reduceSub] <;> rfl

theorem bdset (lr : BitVec 1) (esz : BitVec 3) (rs2 : BitVec 5) (rs1 : BitVec 5) (clr : BitVec 1) (n : BitVec 3) (leni : BitVec 24) (p : BitVec 1) : Statement (.bdset lr esz rs2 rs1 clr n leni p) := by
  intro ws rest hw he
  obtain rfl := Option.some.inj he
  have hm : bitsAt ((0 : BitVec 4) ++ lr ++ esz ++ rs2 ++ rs1 ++ clr ++ n ++ (0x0F : BitVec 7) ++ p ++ (2 : BitVec 2)) 3 7 = 0xF#7 := by simp (disch := decide) only [bitsAt, bits_hi, bits_lo, bits_all, Nat.reduceSub] <;> rfl
  refine decode_two _ _ _ rest (by simp (disch := decide) only [bitsAt, bits_hi, bits_lo, bits_all, Nat.reduceSub] <;> rfl) ?_
  rw [decodeWords_double _ _ 15 (by simp (disch := decide) only [bitsAt, bits_hi, bits_lo, bits_all, Nat.reduceSub] <;> rfl) (by simp (disch := decide) only [bitsAt, bits_hi, bits_lo, bits_all, Nat.reduceSub] <;> rfl) (by rw [hm]; rfl) rfl rfl (by decide) (by rfl)]
  unfold decodeDouble
  rw [hm]
  show accept2 _ _ _ _ _ = _
  refine (congrArg (accept2 _ _ _ _) ?_).trans (accept2_wf hw ?_ ?_)
  · simp (disch := decide) only [bitsAt, bits_hi, bits_lo, bits_all, Nat.reduceSub] <;> rfl
  · simp (disch := decide) only [zeros, List.all_cons, List.all_nil, bits_hi, bits_lo, bits_all, Nat.reduceSub] <;> rfl
  · simp (disch := decide) only [zeros, List.all_cons, List.all_nil, bits_hi, bits_lo, bits_all, Nat.reduceSub] <;> rfl

theorem cmp (w : BitVec 1) (c : BitVec 3) (rs2 : BitVec 5) (rs1 : BitVec 5) (rd : BitVec 3) (p : BitVec 1) : Statement (.cmp w c rs2 rs1 rd p) := by
  intro ws rest hw he
  obtain rfl := Option.some.inj he
  have hm : bitsAt ((0 : BitVec 3) ++ w ++ c ++ rs2 ++ rs1 ++ (0 : BitVec 2) ++ rd ++ (0x10 : BitVec 7) ++ p ++ (0 : BitVec 2)) 3 7 = 0x10#7 := by simp (disch := decide) only [bitsAt, bits_hi, bits_lo, bits_all, Nat.reduceSub] <;> rfl
  refine decode_one _ _ rest (by simp (disch := decide) only [bitsAt, bits_hi, bits_lo, bits_all, Nat.reduceSub] <;> rfl) ?_
  rw [decodeWords_single _ 16 (by simp (disch := decide) only [bitsAt, bits_hi, bits_lo, bits_all, Nat.reduceSub] <;> rfl) (by rw [hm]; rfl) rfl rfl (by decide) (by rfl)]
  unfold decodeSingle
  rw [hm]
  show decMajor10 _ = _
  unfold decMajor10
  refine (congrArg (accept _ _) ?_).trans (accept_wf hw ?_)
  · simp (disch := decide) only [bitsAt, bits_hi, bits_lo, bits_all, Nat.reduceSub] <;> rfl
  · simp (disch := decide) only [zeros, List.all_cons, List.all_nil, bits_hi, bits_lo, bits_all, Nat.reduceSub] <;> rfl

theorem cmpi (imm : BitVec 9) (c : BitVec 3) (rs1 : BitVec 5) (rd : BitVec 3) (p : BitVec 1) : Statement (.cmpi imm c rs1 rd p) := by
  intro ws rest hw he
  obtain rfl := Option.some.inj he
  have hm : bitsAt (imm ++ c ++ rs1 ++ (0 : BitVec 2) ++ rd ++ (0x11 : BitVec 7) ++ p ++ (0 : BitVec 2)) 3 7 = 0x11#7 := by simp (disch := decide) only [bitsAt, bits_hi, bits_lo, bits_all, Nat.reduceSub] <;> rfl
  refine decode_one _ _ rest (by simp (disch := decide) only [bitsAt, bits_hi, bits_lo, bits_all, Nat.reduceSub] <;> rfl) ?_
  rw [decodeWords_single _ 17 (by simp (disch := decide) only [bitsAt, bits_hi, bits_lo, bits_all, Nat.reduceSub] <;> rfl) (by rw [hm]; rfl) rfl rfl (by decide) (by rfl)]
  unfold decodeSingle
  rw [hm]
  show decMajor11 _ = _
  unfold decMajor11
  refine (congrArg (accept _ _) ?_).trans (accept_wf hw ?_)
  · simp (disch := decide) only [bitsAt, bits_hi, bits_lo, bits_all, Nat.reduceSub] <;> rfl
  · simp (disch := decide) only [zeros, List.all_cons, List.all_nil, bits_hi, bits_lo, bits_all, Nat.reduceSub] <;> rfl

theorem plog (l : BitVec 4) (rs2 : BitVec 3) (rs1 : BitVec 3) (rd : BitVec 3) (p : BitVec 1) : Statement (.plog l rs2 rs1 rd p) := by
  intro ws rest hw he
  obtain rfl := Option.some.inj he
  have hm : bitsAt ((0 : BitVec 3) ++ l ++ (0 : BitVec 2) ++ rs2 ++ (0 : BitVec 2) ++ rs1 ++ (0 : BitVec 2) ++ rd ++ (0x12 : BitVec 7) ++ p ++ (0 : BitVec 2)) 3 7 = 0x12#7 := by simp (disch := decide) only [bitsAt, bits_hi, bits_lo, bits_all, Nat.reduceSub] <;> rfl
  refine decode_one _ _ rest (by simp (disch := decide) only [bitsAt, bits_hi, bits_lo, bits_all, Nat.reduceSub] <;> rfl) ?_
  rw [decodeWords_single _ 18 (by simp (disch := decide) only [bitsAt, bits_hi, bits_lo, bits_all, Nat.reduceSub] <;> rfl) (by rw [hm]; rfl) rfl rfl (by decide) (by rfl)]
  unfold decodeSingle
  rw [hm]
  show decMajor12 _ = _
  unfold decMajor12
  refine (congrArg (accept _ _) ?_).trans (accept_wf hw ?_)
  · simp (disch := decide) only [bitsAt, bits_hi, bits_lo, bits_all, Nat.reduceSub] <;> rfl
  · simp (disch := decide) only [zeros, List.all_cons, List.all_nil, bits_hi, bits_lo, bits_all, Nat.reduceSub] <;> rfl

theorem sel (n : BitVec 1) (c : BitVec 3) (rs2 : BitVec 5) (rs1 : BitVec 5) (rd : BitVec 5) (p : BitVec 1) : Statement (.sel n c rs2 rs1 rd p) := by
  intro ws rest hw he
  obtain rfl := Option.some.inj he
  have hm : bitsAt ((0 : BitVec 3) ++ n ++ c ++ rs2 ++ rs1 ++ rd ++ (0x13 : BitVec 7) ++ p ++ (0 : BitVec 2)) 3 7 = 0x13#7 := by simp (disch := decide) only [bitsAt, bits_hi, bits_lo, bits_all, Nat.reduceSub] <;> rfl
  refine decode_one _ _ rest (by simp (disch := decide) only [bitsAt, bits_hi, bits_lo, bits_all, Nat.reduceSub] <;> rfl) ?_
  rw [decodeWords_single _ 19 (by simp (disch := decide) only [bitsAt, bits_hi, bits_lo, bits_all, Nat.reduceSub] <;> rfl) (by rw [hm]; rfl) rfl rfl (by decide) (by rfl)]
  unfold decodeSingle
  rw [hm]
  show decMajor13 _ = _
  unfold decMajor13
  refine (congrArg (accept _ _) ?_).trans (accept_wf hw ?_)
  · simp (disch := decide) only [bitsAt, bits_hi, bits_lo, bits_all, Nat.reduceSub] <;> rfl
  · simp (disch := decide) only [zeros, List.all_cons, List.all_nil, bits_hi, bits_lo, bits_all, Nat.reduceSub] <;> rfl

theorem pmovToScalar (rd : BitVec 5) (p : BitVec 1) : Statement (.pmovToScalar rd p) := by
  intro ws rest hw he
  obtain rfl := Option.some.inj he
  have hm : bitsAt ((0 : BitVec 17) ++ rd ++ (0x14 : BitVec 7) ++ p ++ (0 : BitVec 2)) 3 7 = 0x14#7 := by simp (disch := decide) only [bitsAt, bits_hi, bits_lo, bits_all, Nat.reduceSub] <;> rfl
  refine decode_one _ _ rest (by simp (disch := decide) only [bitsAt, bits_hi, bits_lo, bits_all, Nat.reduceSub] <;> rfl) ?_
  rw [decodeWords_single _ 20 (by simp (disch := decide) only [bitsAt, bits_hi, bits_lo, bits_all, Nat.reduceSub] <;> rfl) (by rw [hm]; rfl) rfl rfl (by decide) (by rfl)]
  unfold decodeSingle
  rw [hm]
  show decMajor14 _ = _
  unfold decMajor14
  have hf : bitsAt ((0 : BitVec 17) ++ rd ++ (0x14 : BitVec 7) ++ p ++ (0 : BitVec 2)) 25 1 = 0#1 := by simp (disch := decide) only [bitsAt, bits_hi, bits_lo, bits_all, Nat.reduceSub] <;> rfl
  rw [hf]
  show accept _ _ _ = _
  refine (congrArg (accept _ _) ?_).trans (accept_wf hw ?_)
  · simp (disch := decide) only [bitsAt, bits_hi, bits_lo, bits_all, Nat.reduceSub] <;> rfl
  · simp (disch := decide) only [zeros, List.all_cons, List.all_nil, bits_hi, bits_lo, bits_all, Nat.reduceSub] <;> rfl

theorem pmovFromScalar (rs1 : BitVec 5) (p : BitVec 1) : Statement (.pmovFromScalar rs1 p) := by
  intro ws rest hw he
  obtain rfl := Option.some.inj he
  have hm : bitsAt ((0x20 : BitVec 12) ++ rs1 ++ (0x14 : BitVec 12) ++ p ++ (0 : BitVec 2)) 3 7 = 0x14#7 := by simp (disch := decide) only [bitsAt, bits_hi, bits_lo, bits_all, Nat.reduceSub] <;> rfl
  refine decode_one _ _ rest (by simp (disch := decide) only [bitsAt, bits_hi, bits_lo, bits_all, Nat.reduceSub] <;> rfl) ?_
  rw [decodeWords_single _ 20 (by simp (disch := decide) only [bitsAt, bits_hi, bits_lo, bits_all, Nat.reduceSub] <;> rfl) (by rw [hm]; rfl) rfl rfl (by decide) (by rfl)]
  unfold decodeSingle
  rw [hm]
  show decMajor14 _ = _
  unfold decMajor14
  have hf : bitsAt ((0x20 : BitVec 12) ++ rs1 ++ (0x14 : BitVec 12) ++ p ++ (0 : BitVec 2)) 25 1 = 1#1 := by simp (disch := decide) only [bitsAt, bits_hi, bits_lo, bits_all, Nat.reduceSub] <;> rfl
  rw [hf]
  show accept _ _ _ = _
  refine (congrArg (accept _ _) ?_).trans (accept_wf hw ?_)
  · simp (disch := decide) only [bitsAt, bits_hi, bits_lo, bits_all, Nat.reduceSub] <;> rfl
  · simp (disch := decide) only [zeros, List.all_cons, List.all_nil, bits_hi, bits_lo, bits_all, Nat.reduceSub] <;> rfl

theorem br (imm : BitVec 18) (n : BitVec 1) (c : BitVec 3) : Statement (.br imm n c) := by
  intro ws rest hw he
  obtain rfl := Option.some.inj he
  have hm : bitsAt (imm ++ n ++ c ++ (0xc0 : BitVec 10)) 3 7 = 0x18#7 := by simp (disch := decide) only [bitsAt, bits_hi, bits_lo, bits_all, Nat.reduceSub] <;> rfl
  refine decode_one _ _ rest (by simp (disch := decide) only [bitsAt, bits_hi, bits_lo, bits_all, Nat.reduceSub] <;> rfl) ?_
  rw [decodeWords_single _ 24 (by simp (disch := decide) only [bitsAt, bits_hi, bits_lo, bits_all, Nat.reduceSub] <;> rfl) (by rw [hm]; rfl) rfl rfl (by decide) (by simp (disch := decide) only [bitsAt, bits_hi, bits_lo, bits_all, Nat.reduceSub] <;> rfl)]
  unfold decodeSingle
  rw [hm]
  show decMajor18 _ = _
  unfold decMajor18
  refine (congrArg (accept _ _) ?_).trans (accept_wf hw ?_)
  · simp (disch := decide) only [bitsAt, bits_hi, bits_lo, bits_all, Nat.reduceSub] <;> rfl
  · simp (disch := decide) only [zeros, List.all_cons, List.all_nil, bits_hi, bits_lo, bits_all, Nat.reduceSub] <;> rfl

theorem j (imm : BitVec 22) : Statement (.j imm) := by
  intro ws rest hw he
  obtain rfl := Option.some.inj he
  have hm : bitsAt (imm ++ (0xc8 : BitVec 10)) 3 7 = 0x19#7 := by simp (disch := decide) only [bitsAt, bits_hi, bits_lo, bits_all, Nat.reduceSub] <;> rfl
  refine decode_one _ _ rest (by simp (disch := decide) only [bitsAt, bits_hi, bits_lo, bits_all, Nat.reduceSub] <;> rfl) ?_
  rw [decodeWords_single _ 25 (by simp (disch := decide) only [bitsAt, bits_hi, bits_lo, bits_all, Nat.reduceSub] <;> rfl) (by rw [hm]; rfl) rfl rfl (by decide) (by simp (disch := decide) only [bitsAt, bits_hi, bits_lo, bits_all, Nat.reduceSub] <;> rfl)]
  unfold decodeSingle
  rw [hm]
  show decMajor19 _ = _
  unfold decMajor19
  refine (congrArg (accept _ _) ?_).trans (accept_wf hw ?_)
  · simp (disch := decide) only [bitsAt, bits_hi, bits_lo, bits_all, Nat.reduceSub] <;> rfl
  · simp (disch := decide) only [zeros, List.all_cons, List.all_nil, bits_hi, bits_lo, bits_all, Nat.reduceSub] <;> rfl

theorem jr (rs1 : BitVec 5) (p : BitVec 1) : Statement (.jr rs1 p) := by
  intro ws rest hw he
  obtain rfl := Option.some.inj he
  have hm : bitsAt ((0 : BitVec 12) ++ rs1 ++ (0x1a : BitVec 12) ++ p ++ (0 : BitVec 2)) 3 7 = 0x1A#7 := by simp (disch := decide) only [bitsAt, bits_hi, bits_lo, bits_all, Nat.reduceSub] <;> rfl
  refine decode_one _ _ rest (by simp (disch := decide) only [bitsAt, bits_hi, bits_lo, bits_all, Nat.reduceSub] <;> rfl) ?_
  rw [decodeWords_single _ 26 (by simp (disch := decide) only [bitsAt, bits_hi, bits_lo, bits_all, Nat.reduceSub] <;> rfl) (by rw [hm]; rfl) rfl rfl (by decide) (by rfl)]
  unfold decodeSingle
  rw [hm]
  show decMajor1A _ = _
  unfold decMajor1A
  refine (congrArg (accept _ _) ?_).trans (accept_wf hw ?_)
  · simp (disch := decide) only [bitsAt, bits_hi, bits_lo, bits_all, Nat.reduceSub] <;> rfl
  · simp (disch := decide) only [zeros, List.all_cons, List.all_nil, bits_hi, bits_lo, bits_all, Nat.reduceSub] <;> rfl

theorem call (imm : BitVec 22) : Statement (.call imm) := by
  intro ws rest hw he
  obtain rfl := Option.some.inj he
  have hm : bitsAt (imm ++ (0xd8 : BitVec 10)) 3 7 = 0x1B#7 := by simp (disch := decide) only [bitsAt, bits_hi, bits_lo, bits_all, Nat.reduceSub] <;> rfl
  refine decode_one _ _ rest (by simp (disch := decide) only [bitsAt, bits_hi, bits_lo, bits_all, Nat.reduceSub] <;> rfl) ?_
  rw [decodeWords_single _ 27 (by simp (disch := decide) only [bitsAt, bits_hi, bits_lo, bits_all, Nat.reduceSub] <;> rfl) (by rw [hm]; rfl) rfl rfl (by decide) (by simp (disch := decide) only [bitsAt, bits_hi, bits_lo, bits_all, Nat.reduceSub] <;> rfl)]
  unfold decodeSingle
  rw [hm]
  show decMajor1B _ = _
  unfold decMajor1B
  refine (congrArg (accept _ _) ?_).trans (accept_wf hw ?_)
  · simp (disch := decide) only [bitsAt, bits_hi, bits_lo, bits_all, Nat.reduceSub] <;> rfl
  · simp (disch := decide) only [zeros, List.all_cons, List.all_nil, bits_hi, bits_lo, bits_all, Nat.reduceSub] <;> rfl

theorem callr (rs1 : BitVec 5) (p : BitVec 1) : Statement (.callr rs1 p) := by
  intro ws rest hw he
  obtain rfl := Option.some.inj he
  have hm : bitsAt ((0 : BitVec 12) ++ rs1 ++ (0x1c : BitVec 12) ++ p ++ (0 : BitVec 2)) 3 7 = 0x1C#7 := by simp (disch := decide) only [bitsAt, bits_hi, bits_lo, bits_all, Nat.reduceSub] <;> rfl
  refine decode_one _ _ rest (by simp (disch := decide) only [bitsAt, bits_hi, bits_lo, bits_all, Nat.reduceSub] <;> rfl) ?_
  rw [decodeWords_single _ 28 (by simp (disch := decide) only [bitsAt, bits_hi, bits_lo, bits_all, Nat.reduceSub] <;> rfl) (by rw [hm]; rfl) rfl rfl (by decide) (by rfl)]
  unfold decodeSingle
  rw [hm]
  show decMajor1C _ = _
  unfold decMajor1C
  refine (congrArg (accept _ _) ?_).trans (accept_wf hw ?_)
  · simp (disch := decide) only [bitsAt, bits_hi, bits_lo, bits_all, Nat.reduceSub] <;> rfl
  · simp (disch := decide) only [zeros, List.all_cons, List.all_nil, bits_hi, bits_lo, bits_all, Nat.reduceSub] <;> rfl

theorem ret (p : BitVec 1) : Statement (.ret p) := by
  intro ws rest hw he
  obtain rfl := Option.some.inj he
  have hm : bitsAt ((0x1d : BitVec 29) ++ p ++ (0 : BitVec 2)) 3 7 = 0x1D#7 := by simp (disch := decide) only [bitsAt, bits_hi, bits_lo, bits_all, Nat.reduceSub] <;> rfl
  refine decode_one _ _ rest (by simp (disch := decide) only [bitsAt, bits_hi, bits_lo, bits_all, Nat.reduceSub] <;> rfl) ?_
  rw [decodeWords_single _ 29 (by simp (disch := decide) only [bitsAt, bits_hi, bits_lo, bits_all, Nat.reduceSub] <;> rfl) (by rw [hm]; rfl) rfl rfl (by decide) (by rfl)]
  unfold decodeSingle
  rw [hm]
  show decMajor1D _ = _
  unfold decMajor1D
  refine (congrArg (accept _ _) ?_).trans (accept_wf hw ?_)
  · simp (disch := decide) only [bitsAt, bits_hi, bits_lo, bits_all, Nat.reduceSub] <;> rfl
  · simp (disch := decide) only [zeros, List.all_cons, List.all_nil, bits_hi, bits_lo, bits_all, Nat.reduceSub] <;> rfl

theorem loop (imm : BitVec 18) (c : BitVec 3) : Statement (.loop imm c) := by
  intro ws rest hw he
  obtain rfl := Option.some.inj he
  have hm : bitsAt (imm ++ (0 : BitVec 1) ++ c ++ (0xf0 : BitVec 10)) 3 7 = 0x1E#7 := by simp (disch := decide) only [bitsAt, bits_hi, bits_lo, bits_all, Nat.reduceSub] <;> rfl
  refine decode_one _ _ rest (by simp (disch := decide) only [bitsAt, bits_hi, bits_lo, bits_all, Nat.reduceSub] <;> rfl) ?_
  rw [decodeWords_single _ 30 (by simp (disch := decide) only [bitsAt, bits_hi, bits_lo, bits_all, Nat.reduceSub] <;> rfl) (by rw [hm]; rfl) rfl rfl (by decide) (by simp (disch := decide) only [bitsAt, bits_hi, bits_lo, bits_all, Nat.reduceSub] <;> rfl)]
  unfold decodeSingle
  rw [hm]
  show decMajor1E _ = _
  unfold decMajor1E
  refine (congrArg (accept _ _) ?_).trans (accept_wf hw ?_)
  · simp (disch := decide) only [bitsAt, bits_hi, bits_lo, bits_all, Nat.reduceSub] <;> rfl
  · simp (disch := decide) only [zeros, List.all_cons, List.all_nil, bits_hi, bits_lo, bits_all, Nat.reduceSub] <;> rfl

theorem repf (n : BitVec 12) (rs1 : BitVec 2) (v : BitVec 4) (l : BitVec 4) : Statement (.repf n rs1 v l) := by
  intro ws rest hw he
  obtain rfl := Option.some.inj he
  have hm : bitsAt (n ++ rs1 ++ v ++ l ++ (0xf8 : BitVec 10)) 3 7 = 0x1F#7 := by simp (disch := decide) only [bitsAt, bits_hi, bits_lo, bits_all, Nat.reduceSub] <;> rfl
  refine decode_one _ _ rest (by simp (disch := decide) only [bitsAt, bits_hi, bits_lo, bits_all, Nat.reduceSub] <;> rfl) ?_
  rw [decodeWords_single _ 31 (by simp (disch := decide) only [bitsAt, bits_hi, bits_lo, bits_all, Nat.reduceSub] <;> rfl) (by rw [hm]; rfl) rfl rfl (by decide) (by simp (disch := decide) only [bitsAt, bits_hi, bits_lo, bits_all, Nat.reduceSub] <;> rfl)]
  unfold decodeSingle
  rw [hm]
  show decMajor1F _ = _
  unfold decMajor1F
  refine (congrArg (accept _ _) ?_).trans (accept_wf hw ?_)
  · simp (disch := decide) only [bitsAt, bits_hi, bits_lo, bits_all, Nat.reduceSub] <;> rfl
  · simp (disch := decide) only [zeros, List.all_cons, List.all_nil, bits_hi, bits_lo, bits_all, Nat.reduceSub] <;> rfl

theorem ldb (imm : BitVec 12) (rs1 : BitVec 5) (rd : BitVec 5) (p : BitVec 1) : Statement (.ldb imm rs1 rd p) := by
  intro ws rest hw he
  obtain rfl := Option.some.inj he
  have hm : bitsAt (imm ++ rs1 ++ rd ++ (0x20 : BitVec 7) ++ p ++ (0 : BitVec 2)) 3 7 = 0x20#7 := by simp (disch := decide) only [bitsAt, bits_hi, bits_lo, bits_all, Nat.reduceSub] <;> rfl
  refine decode_one _ _ rest (by simp (disch := decide) only [bitsAt, bits_hi, bits_lo, bits_all, Nat.reduceSub] <;> rfl) ?_
  rw [decodeWords_single _ 32 (by simp (disch := decide) only [bitsAt, bits_hi, bits_lo, bits_all, Nat.reduceSub] <;> rfl) (by rw [hm]; rfl) rfl rfl (by decide) (by rfl)]
  unfold decodeSingle
  rw [hm]
  show decMajor20 _ = _
  unfold decMajor20
  refine (congrArg (accept _ _) ?_).trans (accept_wf hw ?_)
  · simp (disch := decide) only [bitsAt, bits_hi, bits_lo, bits_all, Nat.reduceSub] <;> rfl
  · simp (disch := decide) only [zeros, List.all_cons, List.all_nil, bits_hi, bits_lo, bits_all, Nat.reduceSub] <;> rfl

theorem ldbn (imm : BitVec 12) (rs1 : BitVec 5) (rd : BitVec 5) (p : BitVec 1) : Statement (.ldbn imm rs1 rd p) := by
  intro ws rest hw he
  obtain rfl := Option.some.inj he
  have hm : bitsAt (imm ++ rs1 ++ rd ++ (0x21 : BitVec 7) ++ p ++ (0 : BitVec 2)) 3 7 = 0x21#7 := by simp (disch := decide) only [bitsAt, bits_hi, bits_lo, bits_all, Nat.reduceSub] <;> rfl
  refine decode_one _ _ rest (by simp (disch := decide) only [bitsAt, bits_hi, bits_lo, bits_all, Nat.reduceSub] <;> rfl) ?_
  rw [decodeWords_single _ 33 (by simp (disch := decide) only [bitsAt, bits_hi, bits_lo, bits_all, Nat.reduceSub] <;> rfl) (by rw [hm]; rfl) rfl rfl (by decide) (by rfl)]
  unfold decodeSingle
  rw [hm]
  show decMajor21 _ = _
  unfold decMajor21
  refine (congrArg (accept _ _) ?_).trans (accept_wf hw ?_)
  · simp (disch := decide) only [bitsAt, bits_hi, bits_lo, bits_all, Nat.reduceSub] <;> rfl
  · simp (disch := decide) only [zeros, List.all_cons, List.all_nil, bits_hi, bits_lo, bits_all, Nat.reduceSub] <;> rfl

theorem ldh (imm : BitVec 12) (rs1 : BitVec 5) (rd : BitVec 5) (p : BitVec 1) : Statement (.ldh imm rs1 rd p) := by
  intro ws rest hw he
  obtain rfl := Option.some.inj he
  have hm : bitsAt (imm ++ rs1 ++ rd ++ (0x22 : BitVec 7) ++ p ++ (0 : BitVec 2)) 3 7 = 0x22#7 := by simp (disch := decide) only [bitsAt, bits_hi, bits_lo, bits_all, Nat.reduceSub] <;> rfl
  refine decode_one _ _ rest (by simp (disch := decide) only [bitsAt, bits_hi, bits_lo, bits_all, Nat.reduceSub] <;> rfl) ?_
  rw [decodeWords_single _ 34 (by simp (disch := decide) only [bitsAt, bits_hi, bits_lo, bits_all, Nat.reduceSub] <;> rfl) (by rw [hm]; rfl) rfl rfl (by decide) (by rfl)]
  unfold decodeSingle
  rw [hm]
  show decMajor22 _ = _
  unfold decMajor22
  refine (congrArg (accept _ _) ?_).trans (accept_wf hw ?_)
  · simp (disch := decide) only [bitsAt, bits_hi, bits_lo, bits_all, Nat.reduceSub] <;> rfl
  · simp (disch := decide) only [zeros, List.all_cons, List.all_nil, bits_hi, bits_lo, bits_all, Nat.reduceSub] <;> rfl

theorem ldhn (imm : BitVec 12) (rs1 : BitVec 5) (rd : BitVec 5) (p : BitVec 1) : Statement (.ldhn imm rs1 rd p) := by
  intro ws rest hw he
  obtain rfl := Option.some.inj he
  have hm : bitsAt (imm ++ rs1 ++ rd ++ (0x23 : BitVec 7) ++ p ++ (0 : BitVec 2)) 3 7 = 0x23#7 := by simp (disch := decide) only [bitsAt, bits_hi, bits_lo, bits_all, Nat.reduceSub] <;> rfl
  refine decode_one _ _ rest (by simp (disch := decide) only [bitsAt, bits_hi, bits_lo, bits_all, Nat.reduceSub] <;> rfl) ?_
  rw [decodeWords_single _ 35 (by simp (disch := decide) only [bitsAt, bits_hi, bits_lo, bits_all, Nat.reduceSub] <;> rfl) (by rw [hm]; rfl) rfl rfl (by decide) (by rfl)]
  unfold decodeSingle
  rw [hm]
  show decMajor23 _ = _
  unfold decMajor23
  refine (congrArg (accept _ _) ?_).trans (accept_wf hw ?_)
  · simp (disch := decide) only [bitsAt, bits_hi, bits_lo, bits_all, Nat.reduceSub] <;> rfl
  · simp (disch := decide) only [zeros, List.all_cons, List.all_nil, bits_hi, bits_lo, bits_all, Nat.reduceSub] <;> rfl

theorem ldw (imm : BitVec 12) (rs1 : BitVec 5) (rd : BitVec 5) (p : BitVec 1) : Statement (.ldw imm rs1 rd p) := by
  intro ws rest hw he
  obtain rfl := Option.some.inj he
  have hm : bitsAt (imm ++ rs1 ++ rd ++ (0x24 : BitVec 7) ++ p ++ (0 : BitVec 2)) 3 7 = 0x24#7 := by simp (disch := decide) only [bitsAt, bits_hi, bits_lo, bits_all, Nat.reduceSub] <;> rfl
  refine decode_one _ _ rest (by simp (disch := decide) only [bitsAt, bits_hi, bits_lo, bits_all, Nat.reduceSub] <;> rfl) ?_
  rw [decodeWords_single _ 36 (by simp (disch := decide) only [bitsAt, bits_hi, bits_lo, bits_all, Nat.reduceSub] <;> rfl) (by rw [hm]; rfl) rfl rfl (by decide) (by rfl)]
  unfold decodeSingle
  rw [hm]
  show decMajor24 _ = _
  unfold decMajor24
  refine (congrArg (accept _ _) ?_).trans (accept_wf hw ?_)
  · simp (disch := decide) only [bitsAt, bits_hi, bits_lo, bits_all, Nat.reduceSub] <;> rfl
  · simp (disch := decide) only [zeros, List.all_cons, List.all_nil, bits_hi, bits_lo, bits_all, Nat.reduceSub] <;> rfl

theorem ldwn (imm : BitVec 12) (rs1 : BitVec 5) (rd : BitVec 5) (p : BitVec 1) : Statement (.ldwn imm rs1 rd p) := by
  intro ws rest hw he
  obtain rfl := Option.some.inj he
  have hm : bitsAt (imm ++ rs1 ++ rd ++ (0x25 : BitVec 7) ++ p ++ (0 : BitVec 2)) 3 7 = 0x25#7 := by simp (disch := decide) only [bitsAt, bits_hi, bits_lo, bits_all, Nat.reduceSub] <;> rfl
  refine decode_one _ _ rest (by simp (disch := decide) only [bitsAt, bits_hi, bits_lo, bits_all, Nat.reduceSub] <;> rfl) ?_
  rw [decodeWords_single _ 37 (by simp (disch := decide) only [bitsAt, bits_hi, bits_lo, bits_all, Nat.reduceSub] <;> rfl) (by rw [hm]; rfl) rfl rfl (by decide) (by rfl)]
  unfold decodeSingle
  rw [hm]
  show decMajor25 _ = _
  unfold decMajor25
  refine (congrArg (accept _ _) ?_).trans (accept_wf hw ?_)
  · simp (disch := decide) only [bitsAt, bits_hi, bits_lo, bits_all, Nat.reduceSub] <;> rfl
  · simp (disch := decide) only [zeros, List.all_cons, List.all_nil, bits_hi, bits_lo, bits_all, Nat.reduceSub] <;> rfl

theorem ldd (imm : BitVec 12) (rs1 : BitVec 5) (rd : BitVec 5) (p : BitVec 1) : Statement (.ldd imm rs1 rd p) := by
  intro ws rest hw he
  obtain rfl := Option.some.inj he
  have hm : bitsAt (imm ++ rs1 ++ rd ++ (0x26 : BitVec 7) ++ p ++ (0 : BitVec 2)) 3 7 = 0x26#7 := by simp (disch := decide) only [bitsAt, bits_hi, bits_lo, bits_all, Nat.reduceSub] <;> rfl
  refine decode_one _ _ rest (by simp (disch := decide) only [bitsAt, bits_hi, bits_lo, bits_all, Nat.reduceSub] <;> rfl) ?_
  rw [decodeWords_single _ 38 (by simp (disch := decide) only [bitsAt, bits_hi, bits_lo, bits_all, Nat.reduceSub] <;> rfl) (by rw [hm]; rfl) rfl rfl (by decide) (by rfl)]
  unfold decodeSingle
  rw [hm]
  show decMajor26 _ = _
  unfold decMajor26
  refine (congrArg (accept _ _) ?_).trans (accept_wf hw ?_)
  · simp (disch := decide) only [bitsAt, bits_hi, bits_lo, bits_all, Nat.reduceSub] <;> rfl
  · simp (disch := decide) only [zeros, List.all_cons, List.all_nil, bits_hi, bits_lo, bits_all, Nat.reduceSub] <;> rfl

theorem stb (imm : BitVec 12) (rs1 : BitVec 5) (rd : BitVec 5) (p : BitVec 1) : Statement (.stb imm rs1 rd p) := by
  intro ws rest hw he
  obtain rfl := Option.some.inj he
  have hm : bitsAt (imm ++ rs1 ++ rd ++ (0x27 : BitVec 7) ++ p ++ (0 : BitVec 2)) 3 7 = 0x27#7 := by simp (disch := decide) only [bitsAt, bits_hi, bits_lo, bits_all, Nat.reduceSub] <;> rfl
  refine decode_one _ _ rest (by simp (disch := decide) only [bitsAt, bits_hi, bits_lo, bits_all, Nat.reduceSub] <;> rfl) ?_
  rw [decodeWords_single _ 39 (by simp (disch := decide) only [bitsAt, bits_hi, bits_lo, bits_all, Nat.reduceSub] <;> rfl) (by rw [hm]; rfl) rfl rfl (by decide) (by rfl)]
  unfold decodeSingle
  rw [hm]
  show decMajor27 _ = _
  unfold decMajor27
  refine (congrArg (accept _ _) ?_).trans (accept_wf hw ?_)
  · simp (disch := decide) only [bitsAt, bits_hi, bits_lo, bits_all, Nat.reduceSub] <;> rfl
  · simp (disch := decide) only [zeros, List.all_cons, List.all_nil, bits_hi, bits_lo, bits_all, Nat.reduceSub] <;> rfl

theorem sth (imm : BitVec 12) (rs1 : BitVec 5) (rd : BitVec 5) (p : BitVec 1) : Statement (.sth imm rs1 rd p) := by
  intro ws rest hw he
  obtain rfl := Option.some.inj he
  have hm : bitsAt (imm ++ rs1 ++ rd ++ (0x28 : BitVec 7) ++ p ++ (0 : BitVec 2)) 3 7 = 0x28#7 := by simp (disch := decide) only [bitsAt, bits_hi, bits_lo, bits_all, Nat.reduceSub] <;> rfl
  refine decode_one _ _ rest (by simp (disch := decide) only [bitsAt, bits_hi, bits_lo, bits_all, Nat.reduceSub] <;> rfl) ?_
  rw [decodeWords_single _ 40 (by simp (disch := decide) only [bitsAt, bits_hi, bits_lo, bits_all, Nat.reduceSub] <;> rfl) (by rw [hm]; rfl) rfl rfl (by decide) (by rfl)]
  unfold decodeSingle
  rw [hm]
  show decMajor28 _ = _
  unfold decMajor28
  refine (congrArg (accept _ _) ?_).trans (accept_wf hw ?_)
  · simp (disch := decide) only [bitsAt, bits_hi, bits_lo, bits_all, Nat.reduceSub] <;> rfl
  · simp (disch := decide) only [zeros, List.all_cons, List.all_nil, bits_hi, bits_lo, bits_all, Nat.reduceSub] <;> rfl

theorem stw (imm : BitVec 12) (rs1 : BitVec 5) (rd : BitVec 5) (p : BitVec 1) : Statement (.stw imm rs1 rd p) := by
  intro ws rest hw he
  obtain rfl := Option.some.inj he
  have hm : bitsAt (imm ++ rs1 ++ rd ++ (0x29 : BitVec 7) ++ p ++ (0 : BitVec 2)) 3 7 = 0x29#7 := by simp (disch := decide) only [bitsAt, bits_hi, bits_lo, bits_all, Nat.reduceSub] <;> rfl
  refine decode_one _ _ rest (by simp (disch := decide) only [bitsAt, bits_hi, bits_lo, bits_all, Nat.reduceSub] <;> rfl) ?_
  rw [decodeWords_single _ 41 (by simp (disch := decide) only [bitsAt, bits_hi, bits_lo, bits_all, Nat.reduceSub] <;> rfl) (by rw [hm]; rfl) rfl rfl (by decide) (by rfl)]
  unfold decodeSingle
  rw [hm]
  show decMajor29 _ = _
  unfold decMajor29
  refine (congrArg (accept _ _) ?_).trans (accept_wf hw ?_)
  · simp (disch := decide) only [bitsAt, bits_hi, bits_lo, bits_all, Nat.reduceSub] <;> rfl
  · simp (disch := decide) only [zeros, List.all_cons, List.all_nil, bits_hi, bits_lo, bits_all, Nat.reduceSub] <;> rfl

theorem std (imm : BitVec 12) (rs1 : BitVec 5) (rd : BitVec 5) (p : BitVec 1) : Statement (.std imm rs1 rd p) := by
  intro ws rest hw he
  obtain rfl := Option.some.inj he
  have hm : bitsAt (imm ++ rs1 ++ rd ++ (0x2a : BitVec 7) ++ p ++ (0 : BitVec 2)) 3 7 = 0x2A#7 := by simp (disch := decide) only [bitsAt, bits_hi, bits_lo, bits_all, Nat.reduceSub] <;> rfl
  refine decode_one _ _ rest (by simp (disch := decide) only [bitsAt, bits_hi, bits_lo, bits_all, Nat.reduceSub] <;> rfl) ?_
  rw [decodeWords_single _ 42 (by simp (disch := decide) only [bitsAt, bits_hi, bits_lo, bits_all, Nat.reduceSub] <;> rfl) (by rw [hm]; rfl) rfl rfl (by decide) (by rfl)]
  unfold decodeSingle
  rw [hm]
  show decMajor2A _ = _
  unfold decMajor2A
  refine (congrArg (accept _ _) ?_).trans (accept_wf hw ?_)
  · simp (disch := decide) only [bitsAt, bits_hi, bits_lo, bits_all, Nat.reduceSub] <;> rfl
  · simp (disch := decide) only [zeros, List.all_cons, List.all_nil, bits_hi, bits_lo, bits_all, Nat.reduceSub] <;> rfl

theorem ldx (x : BitVec 1) (n : BitVec 3) (rs1 : BitVec 5) (rd : BitVec 5) (p : BitVec 1) : Statement (.ldx x n rs1 rd p) := by
  intro ws rest hw he
  obtain rfl := Option.some.inj he
  have hm : bitsAt ((0 : BitVec 3) ++ x ++ n ++ (0 : BitVec 5) ++ rs1 ++ rd ++ (0x2b : BitVec 7) ++ p ++ (0 : BitVec 2)) 3 7 = 0x2B#7 := by simp (disch := decide) only [bitsAt, bits_hi, bits_lo, bits_all, Nat.reduceSub] <;> rfl
  refine decode_one _ _ rest (by simp (disch := decide) only [bitsAt, bits_hi, bits_lo, bits_all, Nat.reduceSub] <;> rfl) ?_
  rw [decodeWords_single _ 43 (by simp (disch := decide) only [bitsAt, bits_hi, bits_lo, bits_all, Nat.reduceSub] <;> rfl) (by rw [hm]; rfl) rfl rfl (by decide) (by rfl)]
  unfold decodeSingle
  rw [hm]
  show decMajor2B _ = _
  unfold decMajor2B
  refine (congrArg (accept _ _) ?_).trans (accept_wf hw ?_)
  · simp (disch := decide) only [bitsAt, bits_hi, bits_lo, bits_all, Nat.reduceSub] <;> rfl
  · simp (disch := decide) only [zeros, List.all_cons, List.all_nil, bits_hi, bits_lo, bits_all, Nat.reduceSub] <;> rfl

theorem stx (n : BitVec 3) (rs1 : BitVec 5) (rd : BitVec 5) (p : BitVec 1) : Statement (.stx n rs1 rd p) := by
  intro ws rest hw he
  obtain rfl := Option.some.inj he
  have hm : bitsAt ((0 : BitVec 4) ++ n ++ (0 : BitVec 5) ++ rs1 ++ rd ++ (0x2c : BitVec 7) ++ p ++ (0 : BitVec 2)) 3 7 = 0x2C#7 := by simp (disch := decide) only [bitsAt, bits_hi, bits_lo, bits_all, Nat.reduceSub] <;> rfl
  refine decode_one _ _ rest (by simp (disch := decide) only [bitsAt, bits_hi, bits_lo, bits_all, Nat.reduceSub] <;> rfl) ?_
  rw [decodeWords_single _ 44 (by simp (disch := decide) only [bitsAt, bits_hi, bits_lo, bits_all, Nat.reduceSub] <;> rfl) (by rw [hm]; rfl) rfl rfl (by decide) (by rfl)]
  unfold decodeSingle
  rw [hm]
  show decMajor2C _ = _
  unfold decMajor2C
  refine (congrArg (accept _ _) ?_).trans (accept_wf hw ?_)
  · simp (disch := decide) only [bitsAt, bits_hi, bits_lo, bits_all, Nat.reduceSub] <;> rfl
  · simp (disch := decide) only [zeros, List.all_cons, List.all_nil, bits_hi, bits_lo, bits_all, Nat.reduceSub] <;> rfl

theorem tags (f : BitVec 1) (rs2 : BitVec 5) (rs1 : BitVec 5) (p : BitVec 1) : Statement (.tags f rs2 rs1 p) := by
  intro ws rest hw he
  obtain rfl := Option.some.inj he
  have hm : bitsAt ((0 : BitVec 4) ++ f ++ (0 : BitVec 2) ++ rs2 ++ rs1 ++ (0x2d : BitVec 12) ++ p ++ (0 : BitVec 2)) 3 7 = 0x2D#7 := by simp (disch := decide) only [bitsAt, bits_hi, bits_lo, bits_all, Nat.reduceSub] <;> rfl
  refine decode_one _ _ rest (by simp (disch := decide) only [bitsAt, bits_hi, bits_lo, bits_all, Nat.reduceSub] <;> rfl) ?_
  rw [decodeWords_single _ 45 (by simp (disch := decide) only [bitsAt, bits_hi, bits_lo, bits_all, Nat.reduceSub] <;> rfl) (by rw [hm]; rfl) rfl rfl (by decide) (by rfl)]
  unfold decodeSingle
  rw [hm]
  show decMajor2D _ = _
  unfold decMajor2D
  have hf : bitsAt ((0 : BitVec 4) ++ f ++ (0 : BitVec 2) ++ rs2 ++ rs1 ++ (0x2d : BitVec 12) ++ p ++ (0 : BitVec 2)) 25 2 = 0#2 := by simp (disch := decide) only [bitsAt, bits_hi, bits_lo, bits_all, Nat.reduceSub] <;> rfl
  rw [hf]
  show accept _ _ _ = _
  refine (congrArg (accept _ _) ?_).trans (accept_wf hw ?_)
  · simp (disch := decide) only [bitsAt, bits_hi, bits_lo, bits_all, Nat.reduceSub] <;> rfl
  · simp (disch := decide) only [zeros, List.all_cons, List.all_nil, bits_hi, bits_lo, bits_all, Nat.reduceSub] <;> rfl

theorem tagr (f : BitVec 1) (rs1 : BitVec 5) (rd : BitVec 5) (p : BitVec 1) : Statement (.tagr f rs1 rd p) := by
  intro ws rest hw he
  obtain rfl := Option.some.inj he
  have hm : bitsAt ((0 : BitVec 4) ++ f ++ (0x20 : BitVec 7) ++ rs1 ++ rd ++ (0x2d : BitVec 7) ++ p ++ (0 : BitVec 2)) 3 7 = 0x2D#7 := by simp (disch := decide) only [bitsAt, bits_hi, bits_lo, bits_all, Nat.reduceSub] <;> rfl
  refine decode_one _ _ rest (by simp (disch := decide) only [bitsAt, bits_hi, bits_lo, bits_all, Nat.reduceSub] <;> rfl) ?_
  rw [decodeWords_single _ 45 (by simp (disch := decide) only [bitsAt, bits_hi, bits_lo, bits_all, Nat.reduceSub] <;> rfl) (by rw [hm]; rfl) rfl rfl (by decide) (by rfl)]
  unfold decodeSingle
  rw [hm]
  show decMajor2D _ = _
  unfold decMajor2D
  have hf : bitsAt ((0 : BitVec 4) ++ f ++ (0x20 : BitVec 7) ++ rs1 ++ rd ++ (0x2d : BitVec 7) ++ p ++ (0 : BitVec 2)) 25 2 = 1#2 := by simp (disch := decide) only [bitsAt, bits_hi, bits_lo, bits_all, Nat.reduceSub] <;> rfl
  rw [hf]
  show accept _ _ _ = _
  refine (congrArg (accept _ _) ?_).trans (accept_wf hw ?_)
  · simp (disch := decide) only [bitsAt, bits_hi, bits_lo, bits_all, Nat.reduceSub] <;> rfl
  · simp (disch := decide) only [zeros, List.all_cons, List.all_nil, bits_hi, bits_lo, bits_all, Nat.reduceSub] <;> rfl

theorem tagp (f : BitVec 1) (rs2 : BitVec 5) (rs1 : BitVec 5) (rd : BitVec 5) (p : BitVec 1) : Statement (.tagp f rs2 rs1 rd p) := by
  intro ws rest hw he
  obtain rfl := Option.some.inj he
  have hm : bitsAt ((0 : BitVec 4) ++ f ++ (0x2 : BitVec 2) ++ rs2 ++ rs1 ++ rd ++ (0x2d : BitVec 7) ++ p ++ (0 : BitVec 2)) 3 7 = 0x2D#7 := by simp (disch := decide) only [bitsAt, bits_hi, bits_lo, bits_all, Nat.reduceSub] <;> rfl
  refine decode_one _ _ rest (by simp (disch := decide) only [bitsAt, bits_hi, bits_lo, bits_all, Nat.reduceSub] <;> rfl) ?_
  rw [decodeWords_single _ 45 (by simp (disch := decide) only [bitsAt, bits_hi, bits_lo, bits_all, Nat.reduceSub] <;> rfl) (by rw [hm]; rfl) rfl rfl (by decide) (by rfl)]
  unfold decodeSingle
  rw [hm]
  show decMajor2D _ = _
  unfold decMajor2D
  have hf : bitsAt ((0 : BitVec 4) ++ f ++ (0x2 : BitVec 2) ++ rs2 ++ rs1 ++ rd ++ (0x2d : BitVec 7) ++ p ++ (0 : BitVec 2)) 25 2 = 2#2 := by simp (disch := decide) only [bitsAt, bits_hi, bits_lo, bits_all, Nat.reduceSub] <;> rfl
  rw [hf]
  show accept _ _ _ = _
  refine (congrArg (accept _ _) ?_).trans (accept_wf hw ?_)
  · simp (disch := decide) only [bitsAt, bits_hi, bits_lo, bits_all, Nat.reduceSub] <;> rfl
  · simp (disch := decide) only [zeros, List.all_cons, List.all_nil, bits_hi, bits_lo, bits_all, Nat.reduceSub] <;> rfl

theorem probe (imm : BitVec 8) (k : BitVec 1) (f : BitVec 1) (rs1 : BitVec 5) (s : BitVec 2) (rd : BitVec 3) (p : BitVec 1) : Statement (.probe imm k f rs1 s rd p) := by
  intro ws rest hw he
  obtain rfl := Option.some.inj he
  have hm : bitsAt (imm ++ k ++ f ++ (0 : BitVec 2) ++ rs1 ++ s ++ rd ++ (0x2e : BitVec 7) ++ p ++ (0 : BitVec 2)) 3 7 = 0x2E#7 := by simp (disch := decide) only [bitsAt, bits_hi, bits_lo, bits_all, Nat.reduceSub] <;> rfl
  refine decode_one _ _ rest (by simp (disch := decide) only [bitsAt, bits_hi, bits_lo, bits_all, Nat.reduceSub] <;> rfl) ?_
  rw [decodeWords_single _ 46 (by simp (disch := decide) only [bitsAt, bits_hi, bits_lo, bits_all, Nat.reduceSub] <;> rfl) (by rw [hm]; rfl) rfl rfl (by decide) (by rfl)]
  unfold decodeSingle
  rw [hm]
  show decMajor2E _ = _
  unfold decMajor2E
  refine (congrArg (accept _ _) ?_).trans (accept_wf hw ?_)
  · simp (disch := decide) only [bitsAt, bits_hi, bits_lo, bits_all, Nat.reduceSub] <;> rfl
  · simp (disch := decide) only [zeros, List.all_cons, List.all_nil, bits_hi, bits_lo, bits_all, Nat.reduceSub] <;> rfl

theorem bcopy (rs2 : BitVec 5) (rs1 : BitVec 5) (rd : BitVec 5) (p : BitVec 1) : Statement (.bcopy rs2 rs1 rd p) := by
  intro ws rest hw he
  obtain rfl := Option.some.inj he
  have hm : bitsAt ((0 : BitVec 7) ++ rs2 ++ rs1 ++ rd ++ (0x2f : BitVec 7) ++ p ++ (0 : BitVec 2)) 3 7 = 0x2F#7 := by simp (disch := decide) only [bitsAt, bits_hi, bits_lo, bits_all, Nat.reduceSub] <;> rfl
  refine decode_one _ _ rest (by simp (disch := decide) only [bitsAt, bits_hi, bits_lo, bits_all, Nat.reduceSub] <;> rfl) ?_
  rw [decodeWords_single _ 47 (by simp (disch := decide) only [bitsAt, bits_hi, bits_lo, bits_all, Nat.reduceSub] <;> rfl) (by rw [hm]; rfl) rfl rfl (by decide) (by rfl)]
  unfold decodeSingle
  rw [hm]
  show decMajor2F _ = _
  unfold decMajor2F
  refine (congrArg (accept _ _) ?_).trans (accept_wf hw ?_)
  · simp (disch := decide) only [bitsAt, bits_hi, bits_lo, bits_all, Nat.reduceSub] <;> rfl
  · simp (disch := decide) only [zeros, List.all_cons, List.all_nil, bits_hi, bits_lo, bits_all, Nat.reduceSub] <;> rfl

theorem ldf (imm : BitVec 10) (z : BitVec 1) (rs1 : BitVec 5) (rd : BitVec 5) (p : BitVec 1) : Statement (.ldf imm z rs1 rd p) := by
  intro ws rest hw he
  obtain rfl := Option.some.inj he
  have hm : bitsAt (imm ++ z ++ (0 : BitVec 1) ++ rs1 ++ rd ++ (0x30 : BitVec 7) ++ p ++ (0 : BitVec 2)) 3 7 = 0x30#7 := by simp (disch := decide) only [bitsAt, bits_hi, bits_lo, bits_all, Nat.reduceSub] <;> rfl
  refine decode_one _ _ rest (by simp (disch := decide) only [bitsAt, bits_hi, bits_lo, bits_all, Nat.reduceSub] <;> rfl) ?_
  rw [decodeWords_single _ 48 (by simp (disch := decide) only [bitsAt, bits_hi, bits_lo, bits_all, Nat.reduceSub] <;> rfl) (by rw [hm]; rfl) rfl rfl (by decide) (by rfl)]
  unfold decodeSingle
  rw [hm]
  show decMajor30 _ = _
  unfold decMajor30
  have hf : bitsAt (imm ++ z ++ (0 : BitVec 1) ++ rs1 ++ rd ++ (0x30 : BitVec 7) ++ p ++ (0 : BitVec 2)) 20 1 = 0#1 := by simp (disch := decide) only [bitsAt, bits_hi, bits_lo, bits_all, Nat.reduceSub] <;> rfl
  rw [hf]
  show accept _ _ _ = _
  refine (congrArg (accept _ _) ?_).trans (accept_wf hw ?_)
  · simp (disch := decide) only [bitsAt, bits_hi, bits_lo, bits_all, Nat.reduceSub] <;> rfl
  · simp (disch := decide) only [zeros, List.all_cons, List.all_nil, bits_hi, bits_lo, bits_all, Nat.reduceSub] <;> rfl

theorem ldfc (imm : BitVec 10) (z : BitVec 1) (rs1 : BitVec 5) (rd : BitVec 5) (p : BitVec 1) : Statement (.ldfc imm z rs1 rd p) := by
  intro ws rest hw he
  obtain rfl := Option.some.inj he
  have hm : bitsAt (imm ++ z ++ (0x1 : BitVec 1) ++ rs1 ++ rd ++ (0x30 : BitVec 7) ++ p ++ (0 : BitVec 2)) 3 7 = 0x30#7 := by simp (disch := decide) only [bitsAt, bits_hi, bits_lo, bits_all, Nat.reduceSub] <;> rfl
  refine decode_one _ _ rest (by simp (disch := decide) only [bitsAt, bits_hi, bits_lo, bits_all, Nat.reduceSub] <;> rfl) ?_
  rw [decodeWords_single _ 48 (by simp (disch := decide) only [bitsAt, bits_hi, bits_lo, bits_all, Nat.reduceSub] <;> rfl) (by rw [hm]; rfl) rfl rfl (by decide) (by rfl)]
  unfold decodeSingle
  rw [hm]
  show decMajor30 _ = _
  unfold decMajor30
  have hf : bitsAt (imm ++ z ++ (0x1 : BitVec 1) ++ rs1 ++ rd ++ (0x30 : BitVec 7) ++ p ++ (0 : BitVec 2)) 20 1 = 1#1 := by simp (disch := decide) only [bitsAt, bits_hi, bits_lo, bits_all, Nat.reduceSub] <;> rfl
  rw [hf]
  show accept _ _ _ = _
  refine (congrArg (accept _ _) ?_).trans (accept_wf hw ?_)
  · simp (disch := decide) only [bitsAt, bits_hi, bits_lo, bits_all, Nat.reduceSub] <;> rfl
  · simp (disch := decide) only [zeros, List.all_cons, List.all_nil, bits_hi, bits_lo, bits_all, Nat.reduceSub] <;> rfl

theorem stf (imm : BitVec 10) (z : BitVec 1) (rs1 : BitVec 5) (rd : BitVec 5) (p : BitVec 1) : Statement (.stf imm z rs1 rd p) := by
  intro ws rest hw he
  obtain rfl := Option.some.inj he
  have hm : bitsAt (imm ++ z ++ (0 : BitVec 1) ++ rs1 ++ rd ++ (0x31 : BitVec 7) ++ p ++ (0 : BitVec 2)) 3 7 = 0x31#7 := by simp (disch := decide) only [bitsAt, bits_hi, bits_lo, bits_all, Nat.reduceSub] <;> rfl
  refine decode_one _ _ rest (by simp (disch := decide) only [bitsAt, bits_hi, bits_lo, bits_all, Nat.reduceSub] <;> rfl) ?_
  rw [decodeWords_single _ 49 (by simp (disch := decide) only [bitsAt, bits_hi, bits_lo, bits_all, Nat.reduceSub] <;> rfl) (by rw [hm]; rfl) rfl rfl (by decide) (by rfl)]
  unfold decodeSingle
  rw [hm]
  show decMajor31 _ = _
  unfold decMajor31
  refine (congrArg (accept _ _) ?_).trans (accept_wf hw ?_)
  · simp (disch := decide) only [bitsAt, bits_hi, bits_lo, bits_all, Nat.reduceSub] <;> rfl
  · simp (disch := decide) only [zeros, List.all_cons, List.all_nil, bits_hi, bits_lo, bits_all, Nat.reduceSub] <;> rfl

theorem fec (rs2 : BitVec 5) (rs1 : BitVec 5) (p : BitVec 1) : Statement (.fec rs2 rs1 p) := by
  intro ws rest hw he
  obtain rfl := Option.some.inj he
  have hm : bitsAt ((0 : BitVec 7) ++ rs2 ++ rs1 ++ (0x32 : BitVec 12) ++ p ++ (0 : BitVec 2)) 3 7 = 0x32#7 := by simp (disch := decide) only [bitsAt, bits_hi, bits_lo, bits_all, Nat.reduceSub] <;> rfl
  refine decode_one _ _ rest (by simp (disch := decide) only [bitsAt, bits_hi, bits_lo, bits_all, Nat.reduceSub] <;> rfl) ?_
  rw [decodeWords_single _ 50 (by simp (disch := decide) only [bitsAt, bits_hi, bits_lo, bits_all, Nat.reduceSub] <;> rfl) (by rw [hm]; rfl) rfl rfl (by decide) (by rfl)]
  unfold decodeSingle
  rw [hm]
  show decMajor32 _ = _
  unfold decMajor32
  have hf : bitsAt ((0 : BitVec 7) ++ rs2 ++ rs1 ++ (0x32 : BitVec 12) ++ p ++ (0 : BitVec 2)) 25 1 = 0#1 := by simp (disch := decide) only [bitsAt, bits_hi, bits_lo, bits_all, Nat.reduceSub] <;> rfl
  rw [hf]
  show accept _ _ _ = _
  refine (congrArg (accept _ _) ?_).trans (accept_wf hw ?_)
  · simp (disch := decide) only [bitsAt, bits_hi, bits_lo, bits_all, Nat.reduceSub] <;> rfl
  · simp (disch := decide) only [zeros, List.all_cons, List.all_nil, bits_hi, bits_lo, bits_all, Nat.reduceSub] <;> rfl

theorem feq (rs1 : BitVec 5) (rd : BitVec 3) (p : BitVec 1) : Statement (.feq rs1 rd p) := by
  intro ws rest hw he
  obtain rfl := Option.some.inj he
  have hm : bitsAt ((0x20 : BitVec 12) ++ rs1 ++ (0 : BitVec 2) ++ rd ++ (0x32 : BitVec 7) ++ p ++ (0 : BitVec 2)) 3 7 = 0x32#7 := by simp (disch := decide) only [bitsAt, bits_hi, bits_lo, bits_all, Nat.reduceSub] <;> rfl
  refine decode_one _ _ rest (by simp (disch := decide) only [bitsAt, bits_hi, bits_lo, bits_all, Nat.reduceSub] <;> rfl) ?_
  rw [decodeWords_single _ 50 (by simp (disch := decide) only [bitsAt, bits_hi, bits_lo, bits_all, Nat.reduceSub] <;> rfl) (by rw [hm]; rfl) rfl rfl (by decide) (by rfl)]
  unfold decodeSingle
  rw [hm]
  show decMajor32 _ = _
  unfold decMajor32
  have hf : bitsAt ((0x20 : BitVec 12) ++ rs1 ++ (0 : BitVec 2) ++ rd ++ (0x32 : BitVec 7) ++ p ++ (0 : BitVec 2)) 25 1 = 1#1 := by simp (disch := decide) only [bitsAt, bits_hi, bits_lo, bits_all, Nat.reduceSub] <;> rfl
  rw [hf]
  show accept _ _ _ = _
  refine (congrArg (accept _ _) ?_).trans (accept_wf hw ?_)
  · simp (disch := decide) only [bitsAt, bits_hi, bits_lo, bits_all, Nat.reduceSub] <;> rfl
  · simp (disch := decide) only [zeros, List.all_cons, List.all_nil, bits_hi, bits_lo, bits_all, Nat.reduceSub] <;> rfl

theorem amoAdd (g : BitVec 3) (s : BitVec 5) (rs1 : BitVec 5) (o : BitVec 2) (w : BitVec 1) (r : BitVec 2) (p : BitVec 1) : Statement (.amoAdd g s rs1 o w r p) := by
  intro ws rest hw he
  obtain rfl := Option.some.inj he
  have hm : bitsAt (g ++ (0 : BitVec 4) ++ s ++ rs1 ++ o ++ w ++ r ++ (0x33 : BitVec 7) ++ p ++ (0 : BitVec 2)) 3 7 = 0x33#7 := by simp (disch := decide) only [bitsAt, bits_hi, bits_lo, bits_all, Nat.reduceSub] <;> rfl
  refine decode_one _ _ rest (by simp (disch := decide) only [bitsAt, bits_hi, bits_lo, bits_all, Nat.reduceSub] <;> rfl) ?_
  rw [decodeWords_single _ 51 (by simp (disch := decide) only [bitsAt, bits_hi, bits_lo, bits_all, Nat.reduceSub] <;> rfl) (by rw [hm]; rfl) rfl rfl (by decide) (by rfl)]
  unfold decodeSingle
  rw [hm]
  show decMajor33 _ = _
  unfold decMajor33
  have hf : bitsAt (g ++ (0 : BitVec 4) ++ s ++ rs1 ++ o ++ w ++ r ++ (0x33 : BitVec 7) ++ p ++ (0 : BitVec 2)) 25 4 = 0#4 := by simp (disch := decide) only [bitsAt, bits_hi, bits_lo, bits_all, Nat.reduceSub] <;> rfl
  rw [hf]
  show accept _ _ _ = _
  refine (congrArg (accept _ _) ?_).trans (accept_wf hw ?_)
  · simp (disch := decide) only [bitsAt, bits_hi, bits_lo, bits_all, Nat.reduceSub] <;> rfl
  · simp (disch := decide) only [zeros, List.all_cons, List.all_nil, bits_hi, bits_lo, bits_all, Nat.reduceSub] <;> rfl

theorem amoAnd (g : BitVec 3) (s : BitVec 5) (rs1 : BitVec 5) (o : BitVec 2) (w : BitVec 1) (r : BitVec 2) (p : BitVec 1) : Statement (.amoAnd g s rs1 o w r p) := by
  intro ws rest hw he
  obtain rfl := Option.some.inj he
  have hm : bitsAt (g ++ (0x1 : BitVec 4) ++ s ++ rs1 ++ o ++ w ++ r ++ (0x33 : BitVec 7) ++ p ++ (0 : BitVec 2)) 3 7 = 0x33#7 := by simp (disch := decide) only [bitsAt, bits_hi, bits_lo, bits_all, Nat.reduceSub] <;> rfl
  refine decode_one _ _ rest (by simp (disch := decide) only [bitsAt, bits_hi, bits_lo, bits_all, Nat.reduceSub] <;> rfl) ?_
  rw [decodeWords_single _ 51 (by simp (disch := decide) only [bitsAt, bits_hi, bits_lo, bits_all, Nat.reduceSub] <;> rfl) (by rw [hm]; rfl) rfl rfl (by decide) (by rfl)]
  unfold decodeSingle
  rw [hm]
  show decMajor33 _ = _
  unfold decMajor33
  have hf : bitsAt (g ++ (0x1 : BitVec 4) ++ s ++ rs1 ++ o ++ w ++ r ++ (0x33 : BitVec 7) ++ p ++ (0 : BitVec 2)) 25 4 = 1#4 := by simp (disch := decide) only [bitsAt, bits_hi, bits_lo, bits_all, Nat.reduceSub] <;> rfl
  rw [hf]
  show accept _ _ _ = _
  refine (congrArg (accept _ _) ?_).trans (accept_wf hw ?_)
  · simp (disch := decide) only [bitsAt, bits_hi, bits_lo, bits_all, Nat.reduceSub] <;> rfl
  · simp (disch := decide) only [zeros, List.all_cons, List.all_nil, bits_hi, bits_lo, bits_all, Nat.reduceSub] <;> rfl

theorem amoOr (g : BitVec 3) (s : BitVec 5) (rs1 : BitVec 5) (o : BitVec 2) (w : BitVec 1) (r : BitVec 2) (p : BitVec 1) : Statement (.amoOr g s rs1 o w r p) := by
  intro ws rest hw he
  obtain rfl := Option.some.inj he
  have hm : bitsAt (g ++ (0x2 : BitVec 4) ++ s ++ rs1 ++ o ++ w ++ r ++ (0x33 : BitVec 7) ++ p ++ (0 : BitVec 2)) 3 7 = 0x33#7 := by simp (disch := decide) only [bitsAt, bits_hi, bits_lo, bits_all, Nat.reduceSub] <;> rfl
  refine decode_one _ _ rest (by simp (disch := decide) only [bitsAt, bits_hi, bits_lo, bits_all, Nat.reduceSub] <;> rfl) ?_
  rw [decodeWords_single _ 51 (by simp (disch := decide) only [bitsAt, bits_hi, bits_lo, bits_all, Nat.reduceSub] <;> rfl) (by rw [hm]; rfl) rfl rfl (by decide) (by rfl)]
  unfold decodeSingle
  rw [hm]
  show decMajor33 _ = _
  unfold decMajor33
  have hf : bitsAt (g ++ (0x2 : BitVec 4) ++ s ++ rs1 ++ o ++ w ++ r ++ (0x33 : BitVec 7) ++ p ++ (0 : BitVec 2)) 25 4 = 2#4 := by simp (disch := decide) only [bitsAt, bits_hi, bits_lo, bits_all, Nat.reduceSub] <;> rfl
  rw [hf]
  show accept _ _ _ = _
  refine (congrArg (accept _ _) ?_).trans (accept_wf hw ?_)
  · simp (disch := decide) only [bitsAt, bits_hi, bits_lo, bits_all, Nat.reduceSub] <;> rfl
  · simp (disch := decide) only [zeros, List.all_cons, List.all_nil, bits_hi, bits_lo, bits_all, Nat.reduceSub] <;> rfl

theorem amoXor (g : BitVec 3) (s : BitVec 5) (rs1 : BitVec 5) (o : BitVec 2) (w : BitVec 1) (r : BitVec 2) (p : BitVec 1) : Statement (.amoXor g s rs1 o w r p) := by
  intro ws rest hw he
  obtain rfl := Option.some.inj he
  have hm : bitsAt (g ++ (0x3 : BitVec 4) ++ s ++ rs1 ++ o ++ w ++ r ++ (0x33 : BitVec 7) ++ p ++ (0 : BitVec 2)) 3 7 = 0x33#7 := by simp (disch := decide) only [bitsAt, bits_hi, bits_lo, bits_all, Nat.reduceSub] <;> rfl
  refine decode_one _ _ rest (by simp (disch := decide) only [bitsAt, bits_hi, bits_lo, bits_all, Nat.reduceSub] <;> rfl) ?_
  rw [decodeWords_single _ 51 (by simp (disch := decide) only [bitsAt, bits_hi, bits_lo, bits_all, Nat.reduceSub] <;> rfl) (by rw [hm]; rfl) rfl rfl (by decide) (by rfl)]
  unfold decodeSingle
  rw [hm]
  show decMajor33 _ = _
  unfold decMajor33
  have hf : bitsAt (g ++ (0x3 : BitVec 4) ++ s ++ rs1 ++ o ++ w ++ r ++ (0x33 : BitVec 7) ++ p ++ (0 : BitVec 2)) 25 4 = 3#4 := by simp (disch := decide) only [bitsAt, bits_hi, bits_lo, bits_all, Nat.reduceSub] <;> rfl
  rw [hf]
  show accept _ _ _ = _
  refine (congrArg (accept _ _) ?_).trans (accept_wf hw ?_)
  · simp (disch := decide) only [bitsAt, bits_hi, bits_lo, bits_all, Nat.reduceSub] <;> rfl
  · simp (disch := decide) only [zeros, List.all_cons, List.all_nil, bits_hi, bits_lo, bits_all, Nat.reduceSub] <;> rfl

theorem amoMin (g : BitVec 3) (s : BitVec 5) (rs1 : BitVec 5) (o : BitVec 2) (w : BitVec 1) (r : BitVec 2) (p : BitVec 1) : Statement (.amoMin g s rs1 o w r p) := by
  intro ws rest hw he
  obtain rfl := Option.some.inj he
  have hm : bitsAt (g ++ (0x4 : BitVec 4) ++ s ++ rs1 ++ o ++ w ++ r ++ (0x33 : BitVec 7) ++ p ++ (0 : BitVec 2)) 3 7 = 0x33#7 := by simp (disch := decide) only [bitsAt, bits_hi, bits_lo, bits_all, Nat.reduceSub] <;> rfl
  refine decode_one _ _ rest (by simp (disch := decide) only [bitsAt, bits_hi, bits_lo, bits_all, Nat.reduceSub] <;> rfl) ?_
  rw [decodeWords_single _ 51 (by simp (disch := decide) only [bitsAt, bits_hi, bits_lo, bits_all, Nat.reduceSub] <;> rfl) (by rw [hm]; rfl) rfl rfl (by decide) (by rfl)]
  unfold decodeSingle
  rw [hm]
  show decMajor33 _ = _
  unfold decMajor33
  have hf : bitsAt (g ++ (0x4 : BitVec 4) ++ s ++ rs1 ++ o ++ w ++ r ++ (0x33 : BitVec 7) ++ p ++ (0 : BitVec 2)) 25 4 = 4#4 := by simp (disch := decide) only [bitsAt, bits_hi, bits_lo, bits_all, Nat.reduceSub] <;> rfl
  rw [hf]
  show accept _ _ _ = _
  refine (congrArg (accept _ _) ?_).trans (accept_wf hw ?_)
  · simp (disch := decide) only [bitsAt, bits_hi, bits_lo, bits_all, Nat.reduceSub] <;> rfl
  · simp (disch := decide) only [zeros, List.all_cons, List.all_nil, bits_hi, bits_lo, bits_all, Nat.reduceSub] <;> rfl

theorem amoMax (g : BitVec 3) (s : BitVec 5) (rs1 : BitVec 5) (o : BitVec 2) (w : BitVec 1) (r : BitVec 2) (p : BitVec 1) : Statement (.amoMax g s rs1 o w r p) := by
  intro ws rest hw he
  obtain rfl := Option.some.inj he
  have hm : bitsAt (g ++ (0x5 : BitVec 4) ++ s ++ rs1 ++ o ++ w ++ r ++ (0x33 : BitVec 7) ++ p ++ (0 : BitVec 2)) 3 7 = 0x33#7 := by simp (disch := decide) only [bitsAt, bits_hi, bits_lo, bits_all, Nat.reduceSub] <;> rfl
  refine decode_one _ _ rest (by simp (disch := decide) only [bitsAt, bits_hi, bits_lo, bits_all, Nat.reduceSub] <;> rfl) ?_
  rw [decodeWords_single _ 51 (by simp (disch := decide) only [bitsAt, bits_hi, bits_lo, bits_all, Nat.reduceSub] <;> rfl) (by rw [hm]; rfl) rfl rfl (by decide) (by rfl)]
  unfold decodeSingle
  rw [hm]
  show decMajor33 _ = _
  unfold decMajor33
  have hf : bitsAt (g ++ (0x5 : BitVec 4) ++ s ++ rs1 ++ o ++ w ++ r ++ (0x33 : BitVec 7) ++ p ++ (0 : BitVec 2)) 25 4 = 5#4 := by simp (disch := decide) only [bitsAt, bits_hi, bits_lo, bits_all, Nat.reduceSub] <;> rfl
  rw [hf]
  show accept _ _ _ = _
  refine (congrArg (accept _ _) ?_).trans (accept_wf hw ?_)
  · simp (disch := decide) only [bitsAt, bits_hi, bits_lo, bits_all, Nat.reduceSub] <;> rfl
  · simp (disch := decide) only [zeros, List.all_cons, List.all_nil, bits_hi, bits_lo, bits_all, Nat.reduceSub] <;> rfl

theorem amoMinn (g : BitVec 3) (s : BitVec 5) (rs1 : BitVec 5) (o : BitVec 2) (w : BitVec 1) (r : BitVec 2) (p : BitVec 1) : Statement (.amoMinn g s rs1 o w r p) := by
  intro ws rest hw he
  obtain rfl := Option.some.inj he
  have hm : bitsAt (g ++ (0x6 : BitVec 4) ++ s ++ rs1 ++ o ++ w ++ r ++ (0x33 : BitVec 7) ++ p ++ (0 : BitVec 2)) 3 7 = 0x33#7 := by simp (disch := decide) only [bitsAt, bits_hi, bits_lo, bits_all, Nat.reduceSub] <;> rfl
  refine decode_one _ _ rest (by simp (disch := decide) only [bitsAt, bits_hi, bits_lo, bits_all, Nat.reduceSub] <;> rfl) ?_
  rw [decodeWords_single _ 51 (by simp (disch := decide) only [bitsAt, bits_hi, bits_lo, bits_all, Nat.reduceSub] <;> rfl) (by rw [hm]; rfl) rfl rfl (by decide) (by rfl)]
  unfold decodeSingle
  rw [hm]
  show decMajor33 _ = _
  unfold decMajor33
  have hf : bitsAt (g ++ (0x6 : BitVec 4) ++ s ++ rs1 ++ o ++ w ++ r ++ (0x33 : BitVec 7) ++ p ++ (0 : BitVec 2)) 25 4 = 6#4 := by simp (disch := decide) only [bitsAt, bits_hi, bits_lo, bits_all, Nat.reduceSub] <;> rfl
  rw [hf]
  show accept _ _ _ = _
  refine (congrArg (accept _ _) ?_).trans (accept_wf hw ?_)
  · simp (disch := decide) only [bitsAt, bits_hi, bits_lo, bits_all, Nat.reduceSub] <;> rfl
  · simp (disch := decide) only [zeros, List.all_cons, List.all_nil, bits_hi, bits_lo, bits_all, Nat.reduceSub] <;> rfl

theorem amoMaxn (g : BitVec 3) (s : BitVec 5) (rs1 : BitVec 5) (o : BitVec 2) (w : BitVec 1) (r : BitVec 2) (p : BitVec 1) : Statement (.amoMaxn g s rs1 o w r p) := by
  intro ws rest hw he
  obtain rfl := Option.some.inj he
  have hm : bitsAt (g ++ (0x7 : BitVec 4) ++ s ++ rs1 ++ o ++ w ++ r ++ (0x33 : BitVec 7) ++ p ++ (0 : BitVec 2)) 3 7 = 0x33#7 := by simp (disch := decide) only [bitsAt, bits_hi, bits_lo, bits_all, Nat.reduceSub] <;> rfl
  refine decode_one _ _ rest (by simp (disch := decide) only [bitsAt, bits_hi, bits_lo, bits_all, Nat.reduceSub] <;> rfl) ?_
  rw [decodeWords_single _ 51 (by simp (disch := decide) only [bitsAt, bits_hi, bits_lo, bits_all, Nat.reduceSub] <;> rfl) (by rw [hm]; rfl) rfl rfl (by decide) (by rfl)]
  unfold decodeSingle
  rw [hm]
  show decMajor33 _ = _
  unfold decMajor33
  have hf : bitsAt (g ++ (0x7 : BitVec 4) ++ s ++ rs1 ++ o ++ w ++ r ++ (0x33 : BitVec 7) ++ p ++ (0 : BitVec 2)) 25 4 = 7#4 := by simp (disch := decide) only [bitsAt, bits_hi, bits_lo, bits_all, Nat.reduceSub] <;> rfl
  rw [hf]
  show accept _ _ _ = _
  refine (congrArg (accept _ _) ?_).trans (accept_wf hw ?_)
  · simp (disch := decide) only [bitsAt, bits_hi, bits_lo, bits_all, Nat.reduceSub] <;> rfl
  · simp (disch := decide) only [zeros, List.all_cons, List.all_nil, bits_hi, bits_lo, bits_all, Nat.reduceSub] <;> rfl

theorem amoSwap (g : BitVec 3) (s : BitVec 5) (rs1 : BitVec 5) (o : BitVec 2) (w : BitVec 1) (r : BitVec 2) (p : BitVec 1) : Statement (.amoSwap g s rs1 o w r p) := by
  intro ws rest hw he
  obtain rfl := Option.some.inj he
  have hm : bitsAt (g ++ (0x8 : BitVec 4) ++ s ++ rs1 ++ o ++ w ++ r ++ (0x33 : BitVec 7) ++ p ++ (0 : BitVec 2)) 3 7 = 0x33#7 := by simp (disch := decide) only [bitsAt, bits_hi, bits_lo, bits_all, Nat.reduceSub] <;> rfl
  refine decode_one _ _ rest (by simp (disch := decide) only [bitsAt, bits_hi, bits_lo, bits_all, Nat.reduceSub] <;> rfl) ?_
  rw [decodeWords_single _ 51 (by simp (disch := decide) only [bitsAt, bits_hi, bits_lo, bits_all, Nat.reduceSub] <;> rfl) (by rw [hm]; rfl) rfl rfl (by decide) (by rfl)]
  unfold decodeSingle
  rw [hm]
  show decMajor33 _ = _
  unfold decMajor33
  have hf : bitsAt (g ++ (0x8 : BitVec 4) ++ s ++ rs1 ++ o ++ w ++ r ++ (0x33 : BitVec 7) ++ p ++ (0 : BitVec 2)) 25 4 = 8#4 := by simp (disch := decide) only [bitsAt, bits_hi, bits_lo, bits_all, Nat.reduceSub] <;> rfl
  rw [hf]
  show accept _ _ _ = _
  refine (congrArg (accept _ _) ?_).trans (accept_wf hw ?_)
  · simp (disch := decide) only [bitsAt, bits_hi, bits_lo, bits_all, Nat.reduceSub] <;> rfl
  · simp (disch := decide) only [zeros, List.all_cons, List.all_nil, bits_hi, bits_lo, bits_all, Nat.reduceSub] <;> rfl

theorem cas (g : BitVec 3) (s : BitVec 5) (rs1 : BitVec 5) (o : BitVec 2) (w : BitVec 1) (r : BitVec 2) (p : BitVec 1) : Statement (.cas g s rs1 o w r p) := by
  intro ws rest hw he
  obtain rfl := Option.some.inj he
  have hm : bitsAt (g ++ (0 : BitVec 4) ++ s ++ rs1 ++ o ++ w ++ r ++ (0x34 : BitVec 7) ++ p ++ (0 : BitVec 2)) 3 7 = 0x34#7 := by simp (disch := decide) only [bitsAt, bits_hi, bits_lo, bits_all, Nat.reduceSub] <;> rfl
  refine decode_one _ _ rest (by simp (disch := decide) only [bitsAt, bits_hi, bits_lo, bits_all, Nat.reduceSub] <;> rfl) ?_
  rw [decodeWords_single _ 52 (by simp (disch := decide) only [bitsAt, bits_hi, bits_lo, bits_all, Nat.reduceSub] <;> rfl) (by rw [hm]; rfl) rfl rfl (by decide) (by rfl)]
  unfold decodeSingle
  rw [hm]
  show decMajor34 _ = _
  unfold decMajor34
  refine (congrArg (accept _ _) ?_).trans (accept_wf hw ?_)
  · simp (disch := decide) only [bitsAt, bits_hi, bits_lo, bits_all, Nat.reduceSub] <;> rfl
  · simp (disch := decide) only [zeros, List.all_cons, List.all_nil, bits_hi, bits_lo, bits_all, Nat.reduceSub] <;> rfl

theorem fence (g : BitVec 3) (s : BitVec 5) (o : BitVec 2) : Statement (.fence g s o) := by
  intro ws rest hw he
  obtain rfl := Option.some.inj he
  have hm : bitsAt (g ++ (0 : BitVec 4) ++ s ++ (0 : BitVec 5) ++ o ++ (0x1a8 : BitVec 13)) 3 7 = 0x35#7 := by simp (disch := decide) only [bitsAt, bits_hi, bits_lo, bits_all, Nat.reduceSub] <;> rfl
  refine decode_one _ _ rest (by simp (disch := decide) only [bitsAt, bits_hi, bits_lo, bits_all, Nat.reduceSub] <;> rfl) ?_
  rw [decodeWords_single _ 53 (by simp (disch := decide) only [bitsAt, bits_hi, bits_lo, bits_all, Nat.reduceSub] <;> rfl) (by rw [hm]; rfl) rfl rfl (by decide) (by simp (disch := decide) only [bitsAt, bits_hi, bits_lo, bits_all, Nat.reduceSub] <;> rfl)]
  unfold decodeSingle
  rw [hm]
  show decMajor35 _ = _
  unfold decMajor35
  refine (congrArg (accept _ _) ?_).trans (accept_wf hw ?_)
  · simp (disch := decide) only [bitsAt, bits_hi, bits_lo, bits_all, Nat.reduceSub] <;> rfl
  · simp (disch := decide) only [zeros, List.all_cons, List.all_nil, bits_hi, bits_lo, bits_all, Nat.reduceSub] <;> rfl

theorem qinit (q : BitVec 5) (rs2 : BitVec 5) (rs1 : BitVec 5) (rd : BitVec 3) (p : BitVec 1) : Statement (.qinit q rs2 rs1 rd p) := by
  intro ws rest hw he
  obtain rfl := Option.some.inj he
  have hm : bitsAt (q ++ (0 : BitVec 2) ++ rs2 ++ rs1 ++ (0 : BitVec 2) ++ rd ++ (0x36 : BitVec 7) ++ p ++ (0 : BitVec 2)) 3 7 = 0x36#7 := by simp (disch := decide) only [bitsAt, bits_hi, bits_lo, bits_all, Nat.reduceSub] <;> rfl
  refine decode_one _ _ rest (by simp (disch := decide) only [bitsAt, bits_hi, bits_lo, bits_all, Nat.reduceSub] <;> rfl) ?_
  rw [decodeWords_single _ 54 (by simp (disch := decide) only [bitsAt, bits_hi, bits_lo, bits_all, Nat.reduceSub] <;> rfl) (by rw [hm]; rfl) rfl rfl (by decide) (by rfl)]
  unfold decodeSingle
  rw [hm]
  show decMajor36 _ = _
  unfold decMajor36
  have hf : bitsAt (q ++ (0 : BitVec 2) ++ rs2 ++ rs1 ++ (0 : BitVec 2) ++ rd ++ (0x36 : BitVec 7) ++ p ++ (0 : BitVec 2)) 25 2 = 0#2 := by simp (disch := decide) only [bitsAt, bits_hi, bits_lo, bits_all, Nat.reduceSub] <;> rfl
  rw [hf]
  show accept _ _ _ = _
  refine (congrArg (accept _ _) ?_).trans (accept_wf hw ?_)
  · simp (disch := decide) only [bitsAt, bits_hi, bits_lo, bits_all, Nat.reduceSub] <;> rfl
  · simp (disch := decide) only [zeros, List.all_cons, List.all_nil, bits_hi, bits_lo, bits_all, Nat.reduceSub] <;> rfl

theorem qenq (q : BitVec 5) (rs1 : BitVec 5) (v : BitVec 1) (rd : BitVec 3) (p : BitVec 1) : Statement (.qenq q rs1 v rd p) := by
  intro ws rest hw he
  obtain rfl := Option.some.inj he
  have hm : bitsAt (q ++ (0x20 : BitVec 7) ++ rs1 ++ (0 : BitVec 1) ++ v ++ rd ++ (0x36 : BitVec 7) ++ p ++ (0 : BitVec 2)) 3 7 = 0x36#7 := by simp (disch := decide) only [bitsAt, bits_hi, bits_lo, bits_all, Nat.reduceSub] <;> rfl
  refine decode_one _ _ rest (by simp (disch := decide) only [bitsAt, bits_hi, bits_lo, bits_all, Nat.reduceSub] <;> rfl) ?_
  rw [decodeWords_single _ 54 (by simp (disch := decide) only [bitsAt, bits_hi, bits_lo, bits_all, Nat.reduceSub] <;> rfl) (by rw [hm]; rfl) rfl rfl (by decide) (by rfl)]
  unfold decodeSingle
  rw [hm]
  show decMajor36 _ = _
  unfold decMajor36
  have hf : bitsAt (q ++ (0x20 : BitVec 7) ++ rs1 ++ (0 : BitVec 1) ++ v ++ rd ++ (0x36 : BitVec 7) ++ p ++ (0 : BitVec 2)) 25 2 = 1#2 := by simp (disch := decide) only [bitsAt, bits_hi, bits_lo, bits_all, Nat.reduceSub] <;> rfl
  rw [hf]
  show accept _ _ _ = _
  refine (congrArg (accept _ _) ?_).trans (accept_wf hw ?_)
  · simp (disch := decide) only [bitsAt, bits_hi, bits_lo, bits_all, Nat.reduceSub] <;> rfl
  · simp (disch := decide) only [zeros, List.all_cons, List.all_nil, bits_hi, bits_lo, bits_all, Nat.reduceSub] <;> rfl

theorem qdeq (q : BitVec 5) (v : BitVec 1) (c : BitVec 3) (rd : BitVec 5) (p : BitVec 1) : Statement (.qdeq q v c rd p) := by
  intro ws rest hw he
  obtain rfl := Option.some.inj he
  have hm : bitsAt (q ++ (0x4 : BitVec 3) ++ v ++ c ++ (0 : BitVec 5) ++ rd ++ (0x36 : BitVec 7) ++ p ++ (0 : BitVec 2)) 3 7 = 0x36#7 := by simp (disch := decide) only [bitsAt, bits_hi, bits_lo, bits_all, Nat.reduceSub] <;> rfl
  refine decode_one _ _ rest (by simp (disch := decide) only [bitsAt, bits_hi, bits_lo, bits_all, Nat.reduceSub] <;> rfl) ?_
  rw [decodeWords_single _ 54 (by simp (disch := decide) only [bitsAt, bits_hi, bits_lo, bits_all, Nat.reduceSub] <;> rfl) (by rw [hm]; rfl) rfl rfl (by decide) (by rfl)]
  unfold decodeSingle
  rw [hm]
  show decMajor36 _ = _
  unfold decMajor36
  have hf : bitsAt (q ++ (0x4 : BitVec 3) ++ v ++ c ++ (0 : BitVec 5) ++ rd ++ (0x36 : BitVec 7) ++ p ++ (0 : BitVec 2)) 25 2 = 2#2 := by simp (disch := decide) only [bitsAt, bits_hi, bits_lo, bits_all, Nat.reduceSub] <;> rfl
  rw [hf]
  show accept _ _ _ = _
  refine (congrArg (accept _ _) ?_).trans (accept_wf hw ?_)
  · simp (disch := decide) only [bitsAt, bits_hi, bits_lo, bits_all, Nat.reduceSub] <;> rfl
  · simp (disch := decide) only [zeros, List.all_cons, List.all_nil, bits_hi, bits_lo, bits_all, Nat.reduceSub] <;> rfl

theorem qcnt (q : BitVec 5) (rd : BitVec 5) (p : BitVec 1) : Statement (.qcnt q rd p) := by
  intro ws rest hw he
  obtain rfl := Option.some.inj he
  have hm : bitsAt (q ++ (0xc00 : BitVec 12) ++ rd ++ (0x36 : BitVec 7) ++ p ++ (0 : BitVec 2)) 3 7 = 0x36#7 := by simp (disch := decide) only [bitsAt, bits_hi, bits_lo, bits_all, Nat.reduceSub] <;> rfl
  refine decode_one _ _ rest (by simp (disch := decide) only [bitsAt, bits_hi, bits_lo, bits_all, Nat.reduceSub] <;> rfl) ?_
  rw [decodeWords_single _ 54 (by simp (disch := decide) only [bitsAt, bits_hi, bits_lo, bits_all, Nat.reduceSub] <;> rfl) (by rw [hm]; rfl) rfl rfl (by decide) (by rfl)]
  unfold decodeSingle
  rw [hm]
  show decMajor36 _ = _
  unfold decMajor36
  have hf : bitsAt (q ++ (0xc00 : BitVec 12) ++ rd ++ (0x36 : BitVec 7) ++ p ++ (0 : BitVec 2)) 25 2 = 3#2 := by simp (disch := decide) only [bitsAt, bits_hi, bits_lo, bits_all, Nat.reduceSub] <;> rfl
  rw [hf]
  show accept _ _ _ = _
  refine (congrArg (accept _ _) ?_).trans (accept_wf hw ?_)
  · simp (disch := decide) only [bitsAt, bits_hi, bits_lo, bits_all, Nat.reduceSub] <;> rfl
  · simp (disch := decide) only [zeros, List.all_cons, List.all_nil, bits_hi, bits_lo, bits_all, Nat.reduceSub] <;> rfl

theorem oldest  : Statement (.oldest ) := by
  intro ws rest hw he
  obtain rfl := Option.some.inj he
  have hm : bitsAt ((0x1b8 : BitVec 32)) 3 7 = 0x37#7 := by simp (disch := decide) only [bitsAt, bits_hi, bits_lo, bits_all, Nat.reduceSub] <;> rfl
  refine decode_one _ _ rest (by simp (disch := decide) only [bitsAt, bits_hi, bits_lo, bits_all, Nat.reduceSub] <;> rfl) ?_
  rw [decodeWords_single _ 55 (by simp (disch := decide) only [bitsAt, bits_hi, bits_lo, bits_all, Nat.reduceSub] <;> rfl) (by rw [hm]; rfl) rfl rfl (by decide) (by simp (disch := decide) only [bitsAt, bits_hi, bits_lo, bits_all, Nat.reduceSub] <;> rfl)]
  unfold decodeSingle
  rw [hm]
  show decMajor37 _ = _
  unfold decMajor37
  refine (congrArg (accept _ _) ?_).trans (accept_wf hw ?_)
  · simp (disch := decide) only [bitsAt, bits_hi, bits_lo, bits_all, Nat.reduceSub] <;> rfl
  · simp (disch := decide) only [zeros, List.all_cons, List.all_nil, bits_hi, bits_lo, bits_all, Nat.reduceSub] <;> rfl

theorem rds (n : BitVec 12) (rd : BitVec 5) (p : BitVec 1) : Statement (.rds n rd p) := by
  intro ws rest hw he
  obtain rfl := Option.some.inj he
  have hm : bitsAt (n ++ (0 : BitVec 5) ++ rd ++ (0x38 : BitVec 7) ++ p ++ (0 : BitVec 2)) 3 7 = 0x38#7 := by simp (disch := decide) only [bitsAt, bits_hi, bits_lo, bits_all, Nat.reduceSub] <;> rfl
  refine decode_one _ _ rest (by simp (disch := decide) only [bitsAt, bits_hi, bits_lo, bits_all, Nat.reduceSub] <;> rfl) ?_
  rw [decodeWords_single _ 56 (by simp (disch := decide) only [bitsAt, bits_hi, bits_lo, bits_all, Nat.reduceSub] <;> rfl) (by rw [hm]; rfl) rfl rfl (by decide) (by rfl)]
  unfold decodeSingle
  rw [hm]
  show decMajor38 _ = _
  unfold decMajor38
  refine (congrArg (accept _ _) ?_).trans (accept_wf hw ?_)
  · simp (disch := decide) only [bitsAt, bits_hi, bits_lo, bits_all, Nat.reduceSub] <;> rfl
  · simp (disch := decide) only [zeros, List.all_cons, List.all_nil, bits_hi, bits_lo, bits_all, Nat.reduceSub] <;> rfl

theorem wrs (n : BitVec 12) (rs1 : BitVec 5) (p : BitVec 1) : Statement (.wrs n rs1 p) := by
  intro ws rest hw he
  obtain rfl := Option.some.inj he
  have hm : bitsAt (n ++ rs1 ++ (0x39 : BitVec 12) ++ p ++ (0 : BitVec 2)) 3 7 = 0x39#7 := by simp (disch := decide) only [bitsAt, bits_hi, bits_lo, bits_all, Nat.reduceSub] <;> rfl
  refine decode_one _ _ rest (by simp (disch := decide) only [bitsAt, bits_hi, bits_lo, bits_all, Nat.reduceSub] <;> rfl) ?_
  rw [decodeWords_single _ 57 (by simp (disch := decide) only [bitsAt, bits_hi, bits_lo, bits_all, Nat.reduceSub] <;> rfl) (by rw [hm]; rfl) rfl rfl (by decide) (by rfl)]
  unfold decodeSingle
  rw [hm]
  show decMajor39 _ = _
  unfold decMajor39
  refine (congrArg (accept _ _) ?_).trans (accept_wf hw ?_)
  · simp (disch := decide) only [bitsAt, bits_hi, bits_lo, bits_all, Nat.reduceSub] <;> rfl
  · simp (disch := decide) only [zeros, List.all_cons, List.all_nil, bits_hi, bits_lo, bits_all, Nat.reduceSub] <;> rfl

theorem trap (c : BitVec 12) : Statement (.trap c) := by
  intro ws rest hw he
  obtain rfl := Option.some.inj he
  have hm : bitsAt (c ++ (0x1d0 : BitVec 20)) 3 7 = 0x3A#7 := by simp (disch := decide) only [bitsAt, bits_hi, bits_lo, bits_all, Nat.reduceSub] <;> rfl
  refine decode_one _ _ rest (by simp (disch := decide) only [bitsAt, bits_hi, bits_lo, bits_all, Nat.reduceSub] <;> rfl) ?_
  rw [decodeWords_single _ 58 (by simp (disch := decide) only [bitsAt, bits_hi, bits_lo, bits_all, Nat.reduceSub] <;> rfl) (by rw [hm]; rfl) rfl rfl (by decide) (by simp (disch := decide) only [bitsAt, bits_hi, bits_lo, bits_all, Nat.reduceSub] <;> rfl)]
  unfold decodeSingle
  rw [hm]
  show decMajor3A _ = _
  unfold decMajor3A
  refine (congrArg (accept _ _) ?_).trans (accept_wf hw ?_)
  · simp (disch := decide) only [bitsAt, bits_hi, bits_lo, bits_all, Nat.reduceSub] <;> rfl
  · simp (disch := decide) only [zeros, List.all_cons, List.all_nil, bits_hi, bits_lo, bits_all, Nat.reduceSub] <;> rfl

theorem eret  : Statement (.eret ) := by
  intro ws rest hw he
  obtain rfl := Option.some.inj he
  have hm : bitsAt ((0x1d8 : BitVec 32)) 3 7 = 0x3B#7 := by simp (disch := decide) only [bitsAt, bits_hi, bits_lo, bits_all, Nat.reduceSub] <;> rfl
  refine decode_one _ _ rest (by simp (disch := decide) only [bitsAt, bits_hi, bits_lo, bits_all, Nat.reduceSub] <;> rfl) ?_
  rw [decodeWords_single _ 59 (by simp (disch := decide) only [bitsAt, bits_hi, bits_lo, bits_all, Nat.reduceSub] <;> rfl) (by rw [hm]; rfl) rfl rfl (by decide) (by simp (disch := decide) only [bitsAt, bits_hi, bits_lo, bits_all, Nat.reduceSub] <;> rfl)]
  unfold decodeSingle
  rw [hm]
  show decMajor3B _ = _
  unfold decMajor3B
  refine (congrArg (accept _ _) ?_).trans (accept_wf hw ?_)
  · simp (disch := decide) only [bitsAt, bits_hi, bits_lo, bits_all, Nat.reduceSub] <;> rfl
  · simp (disch := decide) only [zeros, List.all_cons, List.all_nil, bits_hi, bits_lo, bits_all, Nat.reduceSub] <;> rfl

theorem tend  : Statement (.tend ) := by
  intro ws rest hw he
  obtain rfl := Option.some.inj he
  have hm : bitsAt ((0x1e0 : BitVec 32)) 3 7 = 0x3C#7 := by simp (disch := decide) only [bitsAt, bits_hi, bits_lo, bits_all, Nat.reduceSub] <;> rfl
  refine decode_one _ _ rest (by simp (disch := decide) only [bitsAt, bits_hi, bits_lo, bits_all, Nat.reduceSub] <;> rfl) ?_
  rw [decodeWords_single _ 60 (by simp (disch := decide) only [bitsAt, bits_hi, bits_lo, bits_all, Nat.reduceSub] <;> rfl) (by rw [hm]; rfl) rfl rfl (by decide) (by simp (disch := decide) only [bitsAt, bits_hi, bits_lo, bits_all, Nat.reduceSub] <;> rfl)]
  unfold decodeSingle
  rw [hm]
  show decMajor3C _ = _
  unfold decMajor3C
  have hf : bitsAt ((0x1e0 : BitVec 32)) 25 2 = 0#2 := by simp (disch := decide) only [bitsAt, bits_hi, bits_lo, bits_all, Nat.reduceSub] <;> rfl
  rw [hf]
  show accept _ _ _ = _
  refine (congrArg (accept _ _) ?_).trans (accept_wf hw ?_)
  · simp (disch := decide) only [bitsAt, bits_hi, bits_lo, bits_all, Nat.reduceSub] <;> rfl
  · simp (disch := decide) only [zeros, List.all_cons, List.all_nil, bits_hi, bits_lo, bits_all, Nat.reduceSub] <;> rfl

theorem yield  : Statement (.yield ) := by
  intro ws rest hw he
  obtain rfl := Option.some.inj he
  have hm : bitsAt ((0x20001e0 : BitVec 32)) 3 7 = 0x3C#7 := by simp (disch := decide) only [bitsAt, bits_hi, bits_lo, bits_all, Nat.reduceSub] <;> rfl
  refine decode_one _ _ rest (by simp (disch := decide) only [bitsAt, bits_hi, bits_lo, bits_all, Nat.reduceSub] <;> rfl) ?_
  rw [decodeWords_single _ 60 (by simp (disch := decide) only [bitsAt, bits_hi, bits_lo, bits_all, Nat.reduceSub] <;> rfl) (by rw [hm]; rfl) rfl rfl (by decide) (by simp (disch := decide) only [bitsAt, bits_hi, bits_lo, bits_all, Nat.reduceSub] <;> rfl)]
  unfold decodeSingle
  rw [hm]
  show decMajor3C _ = _
  unfold decMajor3C
  have hf : bitsAt ((0x20001e0 : BitVec 32)) 25 2 = 1#2 := by simp (disch := decide) only [bitsAt, bits_hi, bits_lo, bits_all, Nat.reduceSub] <;> rfl
  rw [hf]
  show accept _ _ _ = _
  refine (congrArg (accept _ _) ?_).trans (accept_wf hw ?_)
  · simp (disch := decide) only [bitsAt, bits_hi, bits_lo, bits_all, Nat.reduceSub] <;> rfl
  · simp (disch := decide) only [zeros, List.all_cons, List.all_nil, bits_hi, bits_lo, bits_all, Nat.reduceSub] <;> rfl

theorem tspawn (rs2 : BitVec 5) (rs1 : BitVec 5) (rd : BitVec 3) : Statement (.tspawn rs2 rs1 rd) := by
  intro ws rest hw he
  obtain rfl := Option.some.inj he
  have hm : bitsAt ((0x2 : BitVec 7) ++ rs2 ++ rs1 ++ (0 : BitVec 2) ++ rd ++ (0x1e0 : BitVec 10)) 3 7 = 0x3C#7 := by simp (disch := decide) only [bitsAt, bits_hi, bits_lo, bits_all, Nat.reduceSub] <;> rfl
  refine decode_one _ _ rest (by simp (disch := decide) only [bitsAt, bits_hi, bits_lo, bits_all, Nat.reduceSub] <;> rfl) ?_
  rw [decodeWords_single _ 60 (by simp (disch := decide) only [bitsAt, bits_hi, bits_lo, bits_all, Nat.reduceSub] <;> rfl) (by rw [hm]; rfl) rfl rfl (by decide) (by simp (disch := decide) only [bitsAt, bits_hi, bits_lo, bits_all, Nat.reduceSub] <;> rfl)]
  unfold decodeSingle
  rw [hm]
  show decMajor3C _ = _
  unfold decMajor3C
  have hf : bitsAt ((0x2 : BitVec 7) ++ rs2 ++ rs1 ++ (0 : BitVec 2) ++ rd ++ (0x1e0 : BitVec 10)) 25 2 = 2#2 := by simp (disch := decide) only [bitsAt, bits_hi, bits_lo, bits_all, Nat.reduceSub] <;> rfl
  rw [hf]
  show accept _ _ _ = _
  refine (congrArg (accept _ _) ?_).trans (accept_wf hw ?_)
  · simp (disch := decide) only [bitsAt, bits_hi, bits_lo, bits_all, Nat.reduceSub] <;> rfl
  · simp (disch := decide) only [zeros, List.all_cons, List.all_nil, bits_hi, bits_lo, bits_all, Nat.reduceSub] <;> rfl

theorem brk (c : BitVec 12) : Statement (.brk c) := by
  intro ws rest hw he
  obtain rfl := Option.some.inj he
  have hm : bitsAt (c ++ (0x1e8 : BitVec 20)) 3 7 = 0x3D#7 := by simp (disch := decide) only [bitsAt, bits_hi, bits_lo, bits_all, Nat.reduceSub] <;> rfl
  refine decode_one _ _ rest (by simp (disch := decide) only [bitsAt, bits_hi, bits_lo, bits_all, Nat.reduceSub] <;> rfl) ?_
  rw [decodeWords_single _ 61 (by simp (disch := decide) only [bitsAt, bits_hi, bits_lo, bits_all, Nat.reduceSub] <;> rfl) (by rw [hm]; rfl) rfl rfl (by decide) (by simp (disch := decide) only [bitsAt, bits_hi, bits_lo, bits_all, Nat.reduceSub] <;> rfl)]
  unfold decodeSingle
  rw [hm]
  show decMajor3D _ = _
  unfold decMajor3D
  refine (congrArg (accept _ _) ?_).trans (accept_wf hw ?_)
  · simp (disch := decide) only [bitsAt, bits_hi, bits_lo, bits_all, Nat.reduceSub] <;> rfl
  · simp (disch := decide) only [zeros, List.all_cons, List.all_nil, bits_hi, bits_lo, bits_all, Nat.reduceSub] <;> rfl

theorem trc (t : BitVec 7) (rs2 : BitVec 5) (rs1 : BitVec 5) (p : BitVec 1) : Statement (.trc t rs2 rs1 p) := by
  intro ws rest hw he
  obtain rfl := Option.some.inj he
  have hm : bitsAt (t ++ rs2 ++ rs1 ++ (0x3e : BitVec 12) ++ p ++ (0 : BitVec 2)) 3 7 = 0x3E#7 := by simp (disch := decide) only [bitsAt, bits_hi, bits_lo, bits_all, Nat.reduceSub] <;> rfl
  refine decode_one _ _ rest (by simp (disch := decide) only [bitsAt, bits_hi, bits_lo, bits_all, Nat.reduceSub] <;> rfl) ?_
  rw [decodeWords_single _ 62 (by simp (disch := decide) only [bitsAt, bits_hi, bits_lo, bits_all, Nat.reduceSub] <;> rfl) (by rw [hm]; rfl) rfl rfl (by decide) (by rfl)]
  unfold decodeSingle
  rw [hm]
  show decMajor3E _ = _
  unfold decMajor3E
  refine (congrArg (accept _ _) ?_).trans (accept_wf hw ?_)
  · simp (disch := decide) only [bitsAt, bits_hi, bits_lo, bits_all, Nat.reduceSub] <;> rfl
  · simp (disch := decide) only [zeros, List.all_cons, List.all_nil, bits_hi, bits_lo, bits_all, Nat.reduceSub] <;> rfl

theorem cnt (c : BitVec 2) (rd : BitVec 5) (p : BitVec 1) : Statement (.cnt c rd p) := by
  intro ws rest hw he
  obtain rfl := Option.some.inj he
  have hm : bitsAt ((0 : BitVec 5) ++ c ++ (0 : BitVec 10) ++ rd ++ (0x3f : BitVec 7) ++ p ++ (0 : BitVec 2)) 3 7 = 0x3F#7 := by simp (disch := decide) only [bitsAt, bits_hi, bits_lo, bits_all, Nat.reduceSub] <;> rfl
  refine decode_one _ _ rest (by simp (disch := decide) only [bitsAt, bits_hi, bits_lo, bits_all, Nat.reduceSub] <;> rfl) ?_
  rw [decodeWords_single _ 63 (by simp (disch := decide) only [bitsAt, bits_hi, bits_lo, bits_all, Nat.reduceSub] <;> rfl) (by rw [hm]; rfl) rfl rfl (by decide) (by rfl)]
  unfold decodeSingle
  rw [hm]
  show decMajor3F _ = _
  unfold decMajor3F
  have hf : bitsAt ((0 : BitVec 5) ++ c ++ (0 : BitVec 10) ++ rd ++ (0x3f : BitVec 7) ++ p ++ (0 : BitVec 2)) 27 1 = 0#1 := by simp (disch := decide) only [bitsAt, bits_hi, bits_lo, bits_all, Nat.reduceSub] <;> rfl
  rw [hf]
  show accept _ _ _ = _
  refine (congrArg (accept _ _) ?_).trans (accept_wf hw ?_)
  · simp (disch := decide) only [bitsAt, bits_hi, bits_lo, bits_all, Nat.reduceSub] <;> rfl
  · simp (disch := decide) only [zeros, List.all_cons, List.all_nil, bits_hi, bits_lo, bits_all, Nat.reduceSub] <;> rfl

theorem cntSel (c : BitVec 2) (rs1 : BitVec 5) (p : BitVec 1) : Statement (.cntSel c rs1 p) := by
  intro ws rest hw he
  obtain rfl := Option.some.inj he
  have hm : bitsAt ((0x1 : BitVec 5) ++ c ++ (0 : BitVec 5) ++ rs1 ++ (0x3f : BitVec 12) ++ p ++ (0 : BitVec 2)) 3 7 = 0x3F#7 := by simp (disch := decide) only [bitsAt, bits_hi, bits_lo, bits_all, Nat.reduceSub] <;> rfl
  refine decode_one _ _ rest (by simp (disch := decide) only [bitsAt, bits_hi, bits_lo, bits_all, Nat.reduceSub] <;> rfl) ?_
  rw [decodeWords_single _ 63 (by simp (disch := decide) only [bitsAt, bits_hi, bits_lo, bits_all, Nat.reduceSub] <;> rfl) (by rw [hm]; rfl) rfl rfl (by decide) (by rfl)]
  unfold decodeSingle
  rw [hm]
  show decMajor3F _ = _
  unfold decMajor3F
  have hf : bitsAt ((0x1 : BitVec 5) ++ c ++ (0 : BitVec 5) ++ rs1 ++ (0x3f : BitVec 12) ++ p ++ (0 : BitVec 2)) 27 1 = 1#1 := by simp (disch := decide) only [bitsAt, bits_hi, bits_lo, bits_all, Nat.reduceSub] <;> rfl
  rw [hf]
  show accept _ _ _ = _
  refine (congrArg (accept _ _) ?_).trans (accept_wf hw ?_)
  · simp (disch := decide) only [bitsAt, bits_hi, bits_lo, bits_all, Nat.reduceSub] <;> rfl
  · simp (disch := decide) only [zeros, List.all_cons, List.all_nil, bits_hi, bits_lo, bits_all, Nat.reduceSub] <;> rfl

theorem vld (imm : BitVec 10) (rs1 : BitVec 5) (rd : BitVec 5) (p : BitVec 1) : Statement (.vld imm rs1 rd p) := by
  intro ws rest hw he
  obtain rfl := Option.some.inj he
  have hm : bitsAt (imm ++ (0 : BitVec 2) ++ rs1 ++ rd ++ (0x40 : BitVec 7) ++ p ++ (0 : BitVec 2)) 3 7 = 0x40#7 := by simp (disch := decide) only [bitsAt, bits_hi, bits_lo, bits_all, Nat.reduceSub] <;> rfl
  refine decode_one _ _ rest (by simp (disch := decide) only [bitsAt, bits_hi, bits_lo, bits_all, Nat.reduceSub] <;> rfl) ?_
  rw [decodeWords_single _ 64 (by simp (disch := decide) only [bitsAt, bits_hi, bits_lo, bits_all, Nat.reduceSub] <;> rfl) (by rw [hm]; rfl) rfl rfl (by decide) (by rfl)]
  unfold decodeSingle
  rw [hm]
  show decMajor40 _ = _
  unfold decMajor40
  have hf : bitsAt (imm ++ (0 : BitVec 2) ++ rs1 ++ rd ++ (0x40 : BitVec 7) ++ p ++ (0 : BitVec 2)) 20 2 = 0#2 := by simp (disch := decide) only [bitsAt, bits_hi, bits_lo, bits_all, Nat.reduceSub] <;> rfl
  rw [hf]
  show accept _ _ _ = _
  refine (congrArg (accept _ _) ?_).trans (accept_wf hw ?_)
  · simp (disch := decide) only [bitsAt, bits_hi, bits_lo, bits_all, Nat.reduceSub] <;> rfl
  · simp (disch := decide) only [zeros, List.all_cons, List.all_nil, bits_hi, bits_lo, bits_all, Nat.reduceSub] <;> rfl

theorem vldDec (imm : BitVec 10) (rs1 : BitVec 5) (rd : BitVec 5) (p : BitVec 1) : Statement (.vldDec imm rs1 rd p) := by
  intro ws rest hw he
  obtain rfl := Option.some.inj he
  have hm : bitsAt (imm ++ (0x1 : BitVec 2) ++ rs1 ++ rd ++ (0x40 : BitVec 7) ++ p ++ (0 : BitVec 2)) 3 7 = 0x40#7 := by simp (disch := decide) only [bitsAt, bits_hi, bits_lo, bits_all, Nat.reduceSub] <;> rfl
  refine decode_one _ _ rest (by simp (disch := decide) only [bitsAt, bits_hi, bits_lo, bits_all, Nat.reduceSub] <;> rfl) ?_
  rw [decodeWords_single _ 64 (by simp (disch := decide) only [bitsAt, bits_hi, bits_lo, bits_all, Nat.reduceSub] <;> rfl) (by rw [hm]; rfl) rfl rfl (by decide) (by rfl)]
  unfold decodeSingle
  rw [hm]
  show decMajor40 _ = _
  unfold decMajor40
  have hf : bitsAt (imm ++ (0x1 : BitVec 2) ++ rs1 ++ rd ++ (0x40 : BitVec 7) ++ p ++ (0 : BitVec 2)) 20 2 = 1#2 := by simp (disch := decide) only [bitsAt, bits_hi, bits_lo, bits_all, Nat.reduceSub] <;> rfl
  rw [hf]
  show accept _ _ _ = _
  refine (congrArg (accept _ _) ?_).trans (accept_wf hw ?_)
  · simp (disch := decide) only [bitsAt, bits_hi, bits_lo, bits_all, Nat.reduceSub] <;> rfl
  · simp (disch := decide) only [zeros, List.all_cons, List.all_nil, bits_hi, bits_lo, bits_all, Nat.reduceSub] <;> rfl

theorem vst (imm : BitVec 10) (rs1 : BitVec 5) (rd : BitVec 5) (p : BitVec 1) : Statement (.vst imm rs1 rd p) := by
  intro ws rest hw he
  obtain rfl := Option.some.inj he
  have hm : bitsAt (imm ++ (0 : BitVec 2) ++ rs1 ++ rd ++ (0x41 : BitVec 7) ++ p ++ (0 : BitVec 2)) 3 7 = 0x41#7 := by simp (disch := decide) only [bitsAt, bits_hi, bits_lo, bits_all, Nat.reduceSub] <;> rfl
  refine decode_one _ _ rest (by simp (disch := decide) only [bitsAt, bits_hi, bits_lo, bits_all, Nat.reduceSub] <;> rfl) ?_
  rw [decodeWords_single _ 65 (by simp (disch := decide) only [bitsAt, bits_hi, bits_lo, bits_all, Nat.reduceSub] <;> rfl) (by rw [hm]; rfl) rfl rfl (by decide) (by rfl)]
  unfold decodeSingle
  rw [hm]
  show decMajor41 _ = _
  unfold decMajor41
  have hf : bitsAt (imm ++ (0 : BitVec 2) ++ rs1 ++ rd ++ (0x41 : BitVec 7) ++ p ++ (0 : BitVec 2)) 20 2 = 0#2 := by simp (disch := decide) only [bitsAt, bits_hi, bits_lo, bits_all, Nat.reduceSub] <;> rfl
  rw [hf]
  show accept _ _ _ = _
  refine (congrArg (accept _ _) ?_).trans (accept_wf hw ?_)
  · simp (disch := decide) only [bitsAt, bits_hi, bits_lo, bits_all, Nat.reduceSub] <;> rfl
  · simp (disch := decide) only [zeros, List.all_cons, List.all_nil, bits_hi, bits_lo, bits_all, Nat.reduceSub] <;> rfl

theorem vstCnv (imm : BitVec 10) (rs1 : BitVec 5) (rd : BitVec 5) (p : BitVec 1) : Statement (.vstCnv imm rs1 rd p) := by
  intro ws rest hw he
  obtain rfl := Option.some.inj he
  have hm : bitsAt (imm ++ (0x1 : BitVec 2) ++ rs1 ++ rd ++ (0x41 : BitVec 7) ++ p ++ (0 : BitVec 2)) 3 7 = 0x41#7 := by simp (disch := decide) only [bitsAt, bits_hi, bits_lo, bits_all, Nat.reduceSub] <;> rfl
  refine decode_one _ _ rest (by simp (disch := decide) only [bitsAt, bits_hi, bits_lo, bits_all, Nat.reduceSub] <;> rfl) ?_
  rw [decodeWords_single _ 65 (by simp (disch := decide) only [bitsAt, bits_hi, bits_lo, bits_all, Nat.reduceSub] <;> rfl) (by rw [hm]; rfl) rfl rfl (by decide) (by rfl)]
  unfold decodeSingle
  rw [hm]
  show decMajor41 _ = _
  unfold decMajor41
  have hf : bitsAt (imm ++ (0x1 : BitVec 2) ++ rs1 ++ rd ++ (0x41 : BitVec 7) ++ p ++ (0 : BitVec 2)) 20 2 = 1#2 := by simp (disch := decide) only [bitsAt, bits_hi, bits_lo, bits_all, Nat.reduceSub] <;> rfl
  rw [hf]
  show accept _ _ _ = _
  refine (congrArg (accept _ _) ?_).trans (accept_wf hw ?_)
  · simp (disch := decide) only [bitsAt, bits_hi, bits_lo, bits_all, Nat.reduceSub] <;> rfl
  · simp (disch := decide) only [zeros, List.all_cons, List.all_nil, bits_hi, bits_lo, bits_all, Nat.reduceSub] <;> rfl

theorem vlds (imm : BitVec 12) (rs1 : BitVec 5) (rd : BitVec 5) (p : BitVec 1) : Statement (.vlds imm rs1 rd p) := by
  intro ws rest hw he
  obtain rfl := Option.some.inj he
  have hm : bitsAt (imm ++ rs1 ++ rd ++ (0x42 : BitVec 7) ++ p ++ (0 : BitVec 2)) 3 7 = 0x42#7 := by simp (disch := decide) only [bitsAt, bits_hi, bits_lo, bits_all, Nat.reduceSub] <;> rfl
  refine decode_one _ _ rest (by simp (disch := decide) only [bitsAt, bits_hi, bits_lo, bits_all, Nat.reduceSub] <;> rfl) ?_
  rw [decodeWords_single _ 66 (by simp (disch := decide) only [bitsAt, bits_hi, bits_lo, bits_all, Nat.reduceSub] <;> rfl) (by rw [hm]; rfl) rfl rfl (by decide) (by rfl)]
  unfold decodeSingle
  rw [hm]
  show decMajor42 _ = _
  unfold decMajor42
  refine (congrArg (accept _ _) ?_).trans (accept_wf hw ?_)
  · simp (disch := decide) only [bitsAt, bits_hi, bits_lo, bits_all, Nat.reduceSub] <;> rfl
  · simp (disch := decide) only [zeros, List.all_cons, List.all_nil, bits_hi, bits_lo, bits_all, Nat.reduceSub] <;> rfl

theorem vsts (imm : BitVec 12) (rs1 : BitVec 5) (rd : BitVec 5) (p : BitVec 1) : Statement (.vsts imm rs1 rd p) := by
  intro ws rest hw he
  obtain rfl := Option.some.inj he
  have hm : bitsAt (imm ++ rs1 ++ rd ++ (0x43 : BitVec 7) ++ p ++ (0 : BitVec 2)) 3 7 = 0x43#7 := by simp (disch := decide) only [bitsAt, bits_hi, bits_lo, bits_all, Nat.reduceSub] <;> rfl
  refine decode_one _ _ rest (by simp (disch := decide) only [bitsAt, bits_hi, bits_lo, bits_all, Nat.reduceSub] <;> rfl) ?_
  rw [decodeWords_single _ 67 (by simp (disch := decide) only [bitsAt, bits_hi, bits_lo, bits_all, Nat.reduceSub] <;> rfl) (by rw [hm]; rfl) rfl rfl (by decide) (by rfl)]
  unfold decodeSingle
  rw [hm]
  show decMajor43 _ = _
  unfold decMajor43
  refine (congrArg (accept _ _) ?_).trans (accept_wf hw ?_)
  · simp (disch := decide) only [bitsAt, bits_hi, bits_lo, bits_all, Nat.reduceSub] <;> rfl
  · simp (disch := decide) only [zeros, List.all_cons, List.all_nil, bits_hi, bits_lo, bits_all, Nat.reduceSub] <;> rfl

theorem vgath (rs2 : BitVec 5) (rs1 : BitVec 5) (rd : BitVec 5) (p : BitVec 1) : Statement (.vgath rs2 rs1 rd p) := by
  intro ws rest hw he
  obtain rfl := Option.some.inj he
  have hm : bitsAt ((0 : BitVec 7) ++ rs2 ++ rs1 ++ rd ++ (0x44 : BitVec 7) ++ p ++ (0 : BitVec 2)) 3 7 = 0x44#7 := by simp (disch := decide) only [bitsAt, bits_hi, bits_lo, bits_all, Nat.reduceSub] <;> rfl
  refine decode_one _ _ rest (by simp (disch := decide) only [bitsAt, bits_hi, bits_lo, bits_all, Nat.reduceSub] <;> rfl) ?_
  rw [decodeWords_single _ 68 (by simp (disch := decide) only [bitsAt, bits_hi, bits_lo, bits_all, Nat.reduceSub] <;> rfl) (by rw [hm]; rfl) rfl rfl (by decide) (by rfl)]
  unfold decodeSingle
  rw [hm]
  show decMajor44 _ = _
  unfold decMajor44
  refine (congrArg (accept _ _) ?_).trans (accept_wf hw ?_)
  · simp (disch := decide) only [bitsAt, bits_hi, bits_lo, bits_all, Nat.reduceSub] <;> rfl
  · simp (disch := decide) only [zeros, List.all_cons, List.all_nil, bits_hi, bits_lo, bits_all, Nat.reduceSub] <;> rfl

theorem vscat (rs2 : BitVec 5) (rs1 : BitVec 5) (rd : BitVec 5) (p : BitVec 1) : Statement (.vscat rs2 rs1 rd p) := by
  intro ws rest hw he
  obtain rfl := Option.some.inj he
  have hm : bitsAt ((0 : BitVec 7) ++ rs2 ++ rs1 ++ rd ++ (0x45 : BitVec 7) ++ p ++ (0 : BitVec 2)) 3 7 = 0x45#7 := by simp (disch := decide) only [bitsAt, bits_hi, bits_lo, bits_all, Nat.reduceSub] <;> rfl
  refine decode_one _ _ rest (by simp (disch := decide) only [bitsAt, bits_hi, bits_lo, bits_all, Nat.reduceSub] <;> rfl) ?_
  rw [decodeWords_single _ 69 (by simp (disch := decide) only [bitsAt, bits_hi, bits_lo, bits_all, Nat.reduceSub] <;> rfl) (by rw [hm]; rfl) rfl rfl (by decide) (by rfl)]
  unfold decodeSingle
  rw [hm]
  show decMajor45 _ = _
  unfold decMajor45
  refine (congrArg (accept _ _) ?_).trans (accept_wf hw ?_)
  · simp (disch := decide) only [bitsAt, bits_hi, bits_lo, bits_all, Nat.reduceSub] <;> rfl
  · simp (disch := decide) only [zeros, List.all_cons, List.all_nil, bits_hi, bits_lo, bits_all, Nat.reduceSub] <;> rfl

theorem vadd (t : BitVec 4) (rs2 : BitVec 5) (rs1 : BitVec 5) (rd : BitVec 5) (p : BitVec 1) : Statement (.vadd t rs2 rs1 rd p) := by
  intro ws rest hw he
  obtain rfl := Option.some.inj he
  have hm : bitsAt (t ++ (0 : BitVec 3) ++ rs2 ++ rs1 ++ rd ++ (0x46 : BitVec 7) ++ p ++ (0 : BitVec 2)) 3 7 = 0x46#7 := by simp (disch := decide) only [bitsAt, bits_hi, bits_lo, bits_all, Nat.reduceSub] <;> rfl
  refine decode_one _ _ rest (by simp (disch := decide) only [bitsAt, bits_hi, bits_lo, bits_all, Nat.reduceSub] <;> rfl) ?_
  rw [decodeWords_single _ 70 (by simp (disch := decide) only [bitsAt, bits_hi, bits_lo, bits_all, Nat.reduceSub] <;> rfl) (by rw [hm]; rfl) rfl rfl (by decide) (by rfl)]
  unfold decodeSingle
  rw [hm]
  show decMajor46 _ = _
  unfold decMajor46
  have hf : bitsAt (t ++ (0 : BitVec 3) ++ rs2 ++ rs1 ++ rd ++ (0x46 : BitVec 7) ++ p ++ (0 : BitVec 2)) 25 3 = 0#3 := by simp (disch := decide) only [bitsAt, bits_hi, bits_lo, bits_all, Nat.reduceSub] <;> rfl
  rw [hf]
  show accept _ _ _ = _
  refine (congrArg (accept _ _) ?_).trans (accept_wf hw ?_)
  · simp (disch := decide) only [bitsAt, bits_hi, bits_lo, bits_all, Nat.reduceSub] <;> rfl
  · simp (disch := decide) only [zeros, List.all_cons, List.all_nil, bits_hi, bits_lo, bits_all, Nat.reduceSub] <;> rfl

theorem vsub (t : BitVec 4) (rs2 : BitVec 5) (rs1 : BitVec 5) (rd : BitVec 5) (p : BitVec 1) : Statement (.vsub t rs2 rs1 rd p) := by
  intro ws rest hw he
  obtain rfl := Option.some.inj he
  have hm : bitsAt (t ++ (0x1 : BitVec 3) ++ rs2 ++ rs1 ++ rd ++ (0x46 : BitVec 7) ++ p ++ (0 : BitVec 2)) 3 7 = 0x46#7 := by simp (disch := decide) only [bitsAt, bits_hi, bits_lo, bits_all, Nat.reduceSub] <;> rfl
  refine decode_one _ _ rest (by simp (disch := decide) only [bitsAt, bits_hi, bits_lo, bits_all, Nat.reduceSub] <;> rfl) ?_
  rw [decodeWords_single _ 70 (by simp (disch := decide) only [bitsAt, bits_hi, bits_lo, bits_all, Nat.reduceSub] <;> rfl) (by rw [hm]; rfl) rfl rfl (by decide) (by rfl)]
  unfold decodeSingle
  rw [hm]
  show decMajor46 _ = _
  unfold decMajor46
  have hf : bitsAt (t ++ (0x1 : BitVec 3) ++ rs2 ++ rs1 ++ rd ++ (0x46 : BitVec 7) ++ p ++ (0 : BitVec 2)) 25 3 = 1#3 := by simp (disch := decide) only [bitsAt, bits_hi, bits_lo, bits_all, Nat.reduceSub] <;> rfl
  rw [hf]
  show accept _ _ _ = _
  refine (congrArg (accept _ _) ?_).trans (accept_wf hw ?_)
  · simp (disch := decide) only [bitsAt, bits_hi, bits_lo, bits_all, Nat.reduceSub] <;> rfl
  · simp (disch := decide) only [zeros, List.all_cons, List.all_nil, bits_hi, bits_lo, bits_all, Nat.reduceSub] <;> rfl

theorem vmul (t : BitVec 4) (rs2 : BitVec 5) (rs1 : BitVec 5) (rd : BitVec 5) (p : BitVec 1) : Statement (.vmul t rs2 rs1 rd p) := by
  intro ws rest hw he
  obtain rfl := Option.some.inj he
  have hm : bitsAt (t ++ (0x2 : BitVec 3) ++ rs2 ++ rs1 ++ rd ++ (0x46 : BitVec 7) ++ p ++ (0 : BitVec 2)) 3 7 = 0x46#7 := by simp (disch := decide) only [bitsAt, bits_hi, bits_lo, bits_all, Nat.reduceSub] <;> rfl
  refine decode_one _ _ rest (by simp (disch := decide) only [bitsAt, bits_hi, bits_lo, bits_all, Nat.reduceSub] <;> rfl) ?_
  rw [decodeWords_single _ 70 (by simp (disch := decide) only [bitsAt, bits_hi, bits_lo, bits_all, Nat.reduceSub] <;> rfl) (by rw [hm]; rfl) rfl rfl (by decide) (by rfl)]
  unfold decodeSingle
  rw [hm]
  show decMajor46 _ = _
  unfold decMajor46
  have hf : bitsAt (t ++ (0x2 : BitVec 3) ++ rs2 ++ rs1 ++ rd ++ (0x46 : BitVec 7) ++ p ++ (0 : BitVec 2)) 25 3 = 2#3 := by simp (disch := decide) only [bitsAt, bits_hi, bits_lo, bits_all, Nat.reduceSub] <;> rfl
  rw [hf]
  show accept _ _ _ = _
  refine (congrArg (accept _ _) ?_).trans (accept_wf hw ?_)
  · simp (disch := decide) only [bitsAt, bits_hi, bits_lo, bits_all, Nat.reduceSub] <;> rfl
  · simp (disch := decide) only [zeros, List.all_cons, List.all_nil, bits_hi, bits_lo, bits_all, Nat.reduceSub] <;> rfl

theorem vmin (t : BitVec 4) (rs2 : BitVec 5) (rs1 : BitVec 5) (rd : BitVec 5) (p : BitVec 1) : Statement (.vmin t rs2 rs1 rd p) := by
  intro ws rest hw he
  obtain rfl := Option.some.inj he
  have hm : bitsAt (t ++ (0x3 : BitVec 3) ++ rs2 ++ rs1 ++ rd ++ (0x46 : BitVec 7) ++ p ++ (0 : BitVec 2)) 3 7 = 0x46#7 := by simp (disch := decide) only [bitsAt, bits_hi, bits_lo, bits_all, Nat.reduceSub] <;> rfl
  refine decode_one _ _ rest (by simp (disch := decide) only [bitsAt, bits_hi, bits_lo, bits_all, Nat.reduceSub] <;> rfl) ?_
  rw [decodeWords_single _ 70 (by simp (disch := decide) only [bitsAt, bits_hi, bits_lo, bits_all, Nat.reduceSub] <;> rfl) (by rw [hm]; rfl) rfl rfl (by decide) (by rfl)]
  unfold decodeSingle
  rw [hm]
  show decMajor46 _ = _
  unfold decMajor46
  have hf : bitsAt (t ++ (0x3 : BitVec 3) ++ rs2 ++ rs1 ++ rd ++ (0x46 : BitVec 7) ++ p ++ (0 : BitVec 2)) 25 3 = 3#3 := by simp (disch := decide) only [bitsAt, bits_hi, bits_lo, bits_all, Nat.reduceSub] <;> rfl
  rw [hf]
  show accept _ _ _ = _
  refine (congrArg (accept _ _) ?_).trans (accept_wf hw ?_)
  · simp (disch := decide) only [bitsAt, bits_hi, bits_lo, bits_all, Nat.reduceSub] <;> rfl
  · simp (disch := decide) only [zeros, List.all_cons, List.all_nil, bits_hi, bits_lo, bits_all, Nat.reduceSub] <;> rfl

theorem vmax (t : BitVec 4) (rs2 : BitVec 5) (rs1 : BitVec 5) (rd : BitVec 5) (p : BitVec 1) : Statement (.vmax t rs2 rs1 rd p) := by
  intro ws rest hw he
  obtain rfl := Option.some.inj he
  have hm : bitsAt (t ++ (0x4 : BitVec 3) ++ rs2 ++ rs1 ++ rd ++ (0x46 : BitVec 7) ++ p ++ (0 : BitVec 2)) 3 7 = 0x46#7 := by simp (disch := decide) only [bitsAt, bits_hi, bits_lo, bits_all, Nat.reduceSub] <;> rfl
  refine decode_one _ _ rest (by simp (disch := decide) only [bitsAt, bits_hi, bits_lo, bits_all, Nat.reduceSub] <;> rfl) ?_
  rw [decodeWords_single _ 70 (by simp (disch := decide) only [bitsAt, bits_hi, bits_lo, bits_all, Nat.reduceSub] <;> rfl) (by rw [hm]; rfl) rfl rfl (by decide) (by rfl)]
  unfold decodeSingle
  rw [hm]
  show decMajor46 _ = _
  unfold decMajor46
  have hf : bitsAt (t ++ (0x4 : BitVec 3) ++ rs2 ++ rs1 ++ rd ++ (0x46 : BitVec 7) ++ p ++ (0 : BitVec 2)) 25 3 = 4#3 := by simp (disch := decide) only [bitsAt, bits_hi, bits_lo, bits_all, Nat.reduceSub] <;> rfl
  rw [hf]
  show accept _ _ _ = _
  refine (congrArg (accept _ _) ?_).trans (accept_wf hw ?_)
  · simp (disch := decide) only [bitsAt, bits_hi, bits_lo, bits_all, Nat.reduceSub] <;> rfl
  · simp (disch := decide) only [zeros, List.all_cons, List.all_nil, bits_hi, bits_lo, bits_all, Nat.reduceSub] <;> rfl

theorem vabs (t : BitVec 4) (rs1 : BitVec 5) (rd : BitVec 5) (p : BitVec 1) : Statement (.vabs t rs1 rd p) := by
  intro ws rest hw he
  obtain rfl := Option.some.inj he
  have hm : bitsAt (t ++ (0xa0 : BitVec 8) ++ rs1 ++ rd ++ (0x46 : BitVec 7) ++ p ++ (0 : BitVec 2)) 3 7 = 0x46#7 := by simp (disch := decide) only [bitsAt, bits_hi, bits_lo, bits_all, Nat.reduceSub] <;> rfl
  refine decode_one _ _ rest (by simp (disch := decide) only [bitsAt, bits_hi, bits_lo, bits_all, Nat.reduceSub] <;> rfl) ?_
  rw [decodeWords_single _ 70 (by simp (disch := decide) only [bitsAt, bits_hi, bits_lo, bits_all, Nat.reduceSub] <;> rfl) (by rw [hm]; rfl) rfl rfl (by decide) (by rfl)]
  unfold decodeSingle
  rw [hm]
  show decMajor46 _ = _
  unfold decMajor46
  have hf : bitsAt (t ++ (0xa0 : BitVec 8) ++ rs1 ++ rd ++ (0x46 : BitVec 7) ++ p ++ (0 : BitVec 2)) 25 3 = 5#3 := by simp (disch := decide) only [bitsAt, bits_hi, bits_lo, bits_all, Nat.reduceSub] <;> rfl
  rw [hf]
  show accept _ _ _ = _
  refine (congrArg (accept _ _) ?_).trans (accept_wf hw ?_)
  · simp (disch := decide) only [bitsAt, bits_hi, bits_lo, bits_all, Nat.reduceSub] <;> rfl
  · simp (disch := decide) only [zeros, List.all_cons, List.all_nil, bits_hi, bits_lo, bits_all, Nat.reduceSub] <;> rfl

theorem vneg (t : BitVec 4) (rs1 : BitVec 5) (rd : BitVec 5) (p : BitVec 1) : Statement (.vneg t rs1 rd p) := by
  intro ws rest hw he
  obtain rfl := Option.some.inj he
  have hm : bitsAt (t ++ (0xc0 : BitVec 8) ++ rs1 ++ rd ++ (0x46 : BitVec 7) ++ p ++ (0 : BitVec 2)) 3 7 = 0x46#7 := by simp (disch := decide) only [bitsAt, bits_hi, bits_lo, bits_all, Nat.reduceSub] <;> rfl
  refine decode_one _ _ rest (by simp (disch := decide) only [bitsAt, bits_hi, bits_lo, bits_all, Nat.reduceSub] <;> rfl) ?_
  rw [decodeWords_single _ 70 (by simp (disch := decide) only [bitsAt, bits_hi, bits_lo, bits_all, Nat.reduceSub] <;> rfl) (by rw [hm]; rfl) rfl rfl (by decide) (by rfl)]
  unfold decodeSingle
  rw [hm]
  show decMajor46 _ = _
  unfold decMajor46
  have hf : bitsAt (t ++ (0xc0 : BitVec 8) ++ rs1 ++ rd ++ (0x46 : BitVec 7) ++ p ++ (0 : BitVec 2)) 25 3 = 6#3 := by simp (disch := decide) only [bitsAt, bits_hi, bits_lo, bits_all, Nat.reduceSub] <;> rfl
  rw [hf]
  show accept _ _ _ = _
  refine (congrArg (accept _ _) ?_).trans (accept_wf hw ?_)
  · simp (disch := decide) only [bitsAt, bits_hi, bits_lo, bits_all, Nat.reduceSub] <;> rfl
  · simp (disch := decide) only [zeros, List.all_cons, List.all_nil, bits_hi, bits_lo, bits_all, Nat.reduceSub] <;> rfl

theorem vfma (t : BitVec 4) (rs2 : BitVec 5) (rs1 : BitVec 5) (rd : BitVec 5) (p : BitVec 1) : Statement (.vfma t rs2 rs1 rd p) := by
  intro ws rest hw he
  obtain rfl := Option.some.inj he
  have hm : bitsAt (t ++ (0 : BitVec 3) ++ rs2 ++ rs1 ++ rd ++ (0x47 : BitVec 7) ++ p ++ (0 : BitVec 2)) 3 7 = 0x47#7 := by simp (disch := decide) only [bitsAt, bits_hi, bits_lo, bits_all, Nat.reduceSub] <;> rfl
  refine decode_one _ _ rest (by simp (disch := decide) only [bitsAt, bits_hi, bits_lo, bits_all, Nat.reduceSub] <;> rfl) ?_
  rw [decodeWords_single _ 71 (by simp (disch := decide) only [bitsAt, bits_hi, bits_lo, bits_all, Nat.reduceSub] <;> rfl) (by rw [hm]; rfl) rfl rfl (by decide) (by rfl)]
  unfold decodeSingle
  rw [hm]
  show decMajor47 _ = _
  unfold decMajor47
  have hf : bitsAt (t ++ (0 : BitVec 3) ++ rs2 ++ rs1 ++ rd ++ (0x47 : BitVec 7) ++ p ++ (0 : BitVec 2)) 25 2 = 0#2 := by simp (disch := decide) only [bitsAt, bits_hi, bits_lo, bits_all, Nat.reduceSub] <;> rfl
  rw [hf]
  show accept _ _ _ = _
  refine (congrArg (accept _ _) ?_).trans (accept_wf hw ?_)
  · simp (disch := decide) only [bitsAt, bits_hi, bits_lo, bits_all, Nat.reduceSub] <;> rfl
  · simp (disch := decide) only [zeros, List.all_cons, List.all_nil, bits_hi, bits_lo, bits_all, Nat.reduceSub] <;> rfl

theorem vfms (t : BitVec 4) (rs2 : BitVec 5) (rs1 : BitVec 5) (rd : BitVec 5) (p : BitVec 1) : Statement (.vfms t rs2 rs1 rd p) := by
  intro ws rest hw he
  obtain rfl := Option.some.inj he
  have hm : bitsAt (t ++ (0x1 : BitVec 3) ++ rs2 ++ rs1 ++ rd ++ (0x47 : BitVec 7) ++ p ++ (0 : BitVec 2)) 3 7 = 0x47#7 := by simp (disch := decide) only [bitsAt, bits_hi, bits_lo, bits_all, Nat.reduceSub] <;> rfl
  refine decode_one _ _ rest (by simp (disch := decide) only [bitsAt, bits_hi, bits_lo, bits_all, Nat.reduceSub] <;> rfl) ?_
  rw [decodeWords_single _ 71 (by simp (disch := decide) only [bitsAt, bits_hi, bits_lo, bits_all, Nat.reduceSub] <;> rfl) (by rw [hm]; rfl) rfl rfl (by decide) (by rfl)]
  unfold decodeSingle
  rw [hm]
  show decMajor47 _ = _
  unfold decMajor47
  have hf : bitsAt (t ++ (0x1 : BitVec 3) ++ rs2 ++ rs1 ++ rd ++ (0x47 : BitVec 7) ++ p ++ (0 : BitVec 2)) 25 2 = 1#2 := by simp (disch := decide) only [bitsAt, bits_hi, bits_lo, bits_all, Nat.reduceSub] <;> rfl
  rw [hf]
  show accept _ _ _ = _
  refine (congrArg (accept _ _) ?_).trans (accept_wf hw ?_)
  · simp (disch := decide) only [bitsAt, bits_hi, bits_lo, bits_all, Nat.reduceSub] <;> rfl
  · simp (disch := decide) only [zeros, List.all_cons, List.all_nil, bits_hi, bits_lo, bits_all, Nat.reduceSub] <;> rfl

theorem vfnma (t : BitVec 4) (rs2 : BitVec 5) (rs1 : BitVec 5) (rd : BitVec 5) (p : BitVec 1) : Statement (.vfnma t rs2 rs1 rd p) := by
  intro ws rest hw he
  obtain rfl := Option.some.inj he
  have hm : bitsAt (t ++ (0x2 : BitVec 3) ++ rs2 ++ rs1 ++ rd ++ (0x47 : BitVec 7) ++ p ++ (0 : BitVec 2)) 3 7 = 0x47#7 := by simp (disch := decide) only [bitsAt, bits_hi, bits_lo, bits_all, Nat.reduceSub] <;> rfl
  refine decode_one _ _ rest (by simp (disch := decide) only [bitsAt, bits_hi, bits_lo, bits_all, Nat.reduceSub] <;> rfl) ?_
  rw [decodeWords_single _ 71 (by simp (disch := decide) only [bitsAt, bits_hi, bits_lo, bits_all, Nat.reduceSub] <;> rfl) (by rw [hm]; rfl) rfl rfl (by decide) (by rfl)]
  unfold decodeSingle
  rw [hm]
  show decMajor47 _ = _
  unfold decMajor47
  have hf : bitsAt (t ++ (0x2 : BitVec 3) ++ rs2 ++ rs1 ++ rd ++ (0x47 : BitVec 7) ++ p ++ (0 : BitVec 2)) 25 2 = 2#2 := by simp (disch := decide) only [bitsAt, bits_hi, bits_lo, bits_all, Nat.reduceSub] <;> rfl
  rw [hf]
  show accept _ _ _ = _
  refine (congrArg (accept _ _) ?_).trans (accept_wf hw ?_)
  · simp (disch := decide) only [bitsAt, bits_hi, bits_lo, bits_all, Nat.reduceSub] <;> rfl
  · simp (disch := decide) only [zeros, List.all_cons, List.all_nil, bits_hi, bits_lo, bits_all, Nat.reduceSub] <;> rfl

theorem vand (rs2 : BitVec 5) (rs1 : BitVec 5) (rd : BitVec 5) (p : BitVec 1) : Statement (.vand rs2 rs1 rd p) := by
  intro ws rest hw he
  obtain rfl := Option.some.inj he
  have hm : bitsAt ((0 : BitVec 7) ++ rs2 ++ rs1 ++ rd ++ (0x48 : BitVec 7) ++ p ++ (0 : BitVec 2)) 3 7 = 0x48#7 := by simp (disch := decide) only [bitsAt, bits_hi, bits_lo, bits_all, Nat.reduceSub] <;> rfl
  refine decode_one _ _ rest (by simp (disch := decide) only [bitsAt, bits_hi, bits_lo, bits_all, Nat.reduceSub] <;> rfl) ?_
  rw [decodeWords_single _ 72 (by simp (disch := decide) only [bitsAt, bits_hi, bits_lo, bits_all, Nat.reduceSub] <;> rfl) (by rw [hm]; rfl) rfl rfl (by decide) (by rfl)]
  unfold decodeSingle
  rw [hm]
  show decMajor48 _ = _
  unfold decMajor48
  have hf : bitsAt ((0 : BitVec 7) ++ rs2 ++ rs1 ++ rd ++ (0x48 : BitVec 7) ++ p ++ (0 : BitVec 2)) 25 3 = 0#3 := by simp (disch := decide) only [bitsAt, bits_hi, bits_lo, bits_all, Nat.reduceSub] <;> rfl
  rw [hf]
  show accept _ _ _ = _
  refine (congrArg (accept _ _) ?_).trans (accept_wf hw ?_)
  · simp (disch := decide) only [bitsAt, bits_hi, bits_lo, bits_all, Nat.reduceSub] <;> rfl
  · simp (disch := decide) only [zeros, List.all_cons, List.all_nil, bits_hi, bits_lo, bits_all, Nat.reduceSub] <;> rfl

theorem vor (rs2 : BitVec 5) (rs1 : BitVec 5) (rd : BitVec 5) (p : BitVec 1) : Statement (.vor rs2 rs1 rd p) := by
  intro ws rest hw he
  obtain rfl := Option.some.inj he
  have hm : bitsAt ((0x1 : BitVec 7) ++ rs2 ++ rs1 ++ rd ++ (0x48 : BitVec 7) ++ p ++ (0 : BitVec 2)) 3 7 = 0x48#7 := by simp (disch := decide) only [bitsAt, bits_hi, bits_lo, bits_all, Nat.reduceSub] <;> rfl
  refine decode_one _ _ rest (by simp (disch := decide) only [bitsAt, bits_hi, bits_lo, bits_all, Nat.reduceSub] <;> rfl) ?_
  rw [decodeWords_single _ 72 (by simp (disch := decide) only [bitsAt, bits_hi, bits_lo, bits_all, Nat.reduceSub] <;> rfl) (by rw [hm]; rfl) rfl rfl (by decide) (by rfl)]
  unfold decodeSingle
  rw [hm]
  show decMajor48 _ = _
  unfold decMajor48
  have hf : bitsAt ((0x1 : BitVec 7) ++ rs2 ++ rs1 ++ rd ++ (0x48 : BitVec 7) ++ p ++ (0 : BitVec 2)) 25 3 = 1#3 := by simp (disch := decide) only [bitsAt, bits_hi, bits_lo, bits_all, Nat.reduceSub] <;> rfl
  rw [hf]
  show accept _ _ _ = _
  refine (congrArg (accept _ _) ?_).trans (accept_wf hw ?_)
  · simp (disch := decide) only [bitsAt, bits_hi, bits_lo, bits_all, Nat.reduceSub] <;> rfl
  · simp (disch := decide) only [zeros, List.all_cons, List.all_nil, bits_hi, bits_lo, bits_all, Nat.reduceSub] <;> rfl

theorem vxor (rs2 : BitVec 5) (rs1 : BitVec 5) (rd : BitVec 5) (p : BitVec 1) : Statement (.vxor rs2 rs1 rd p) := by
  intro ws rest hw he
  obtain rfl := Option.some.inj he
  have hm : bitsAt ((0x2 : BitVec 7) ++ rs2 ++ rs1 ++ rd ++ (0x48 : BitVec 7) ++ p ++ (0 : BitVec 2)) 3 7 = 0x48#7 := by simp (disch := decide) only [bitsAt, bits_hi, bits_lo, bits_all, Nat.reduceSub] <;> rfl
  refine decode_one _ _ rest (by simp (disch := decide) only [bitsAt, bits_hi, bits_lo, bits_all, Nat.reduceSub] <;> rfl) ?_
  rw [decodeWords_single _ 72 (by simp (disch := decide) only [bitsAt, bits_hi, bits_lo, bits_all, Nat.reduceSub] <;> rfl) (by rw [hm]; rfl) rfl rfl (by decide) (by rfl)]
  unfold decodeSingle
  rw [hm]
  show decMajor48 _ = _
  unfold decMajor48
  have hf : bitsAt ((0x2 : BitVec 7) ++ rs2 ++ rs1 ++ rd ++ (0x48 : BitVec 7) ++ p ++ (0 : BitVec 2)) 25 3 = 2#3 := by simp (disch := decide) only [bitsAt, bits_hi, bits_lo, bits_all, Nat.reduceSub] <;> rfl
  rw [hf]
  show accept _ _ _ = _
  refine (congrArg (accept _ _) ?_).trans (accept_wf hw ?_)
  · simp (disch := decide) only [bitsAt, bits_hi, bits_lo, bits_all, Nat.reduceSub] <;> rfl
  · simp (disch := decide) only [zeros, List.all_cons, List.all_nil, bits_hi, bits_lo, bits_all, Nat.reduceSub] <;> rfl

theorem vandn (rs2 : BitVec 5) (rs1 : BitVec 5) (rd : BitVec 5) (p : BitVec 1) : Statement (.vandn rs2 rs1 rd p) := by
  intro ws rest hw he
  obtain rfl := Option.some.inj he
  have hm : bitsAt ((0x3 : BitVec 7) ++ rs2 ++ rs1 ++ rd ++ (0x48 : BitVec 7) ++ p ++ (0 : BitVec 2)) 3 7 = 0x48#7 := by simp (disch := decide) only [bitsAt, bits_hi, bits_lo, bits_all, Nat.reduceSub] <;> rfl
  refine decode_one _ _ rest (by simp (disch := decide) only [bitsAt, bits_hi, bits_lo, bits_all, Nat.reduceSub] <;> rfl) ?_
  rw [decodeWords_single _ 72 (by simp (disch := decide) only [bitsAt, bits_hi, bits_lo, bits_all, Nat.reduceSub] <;> rfl) (by rw [hm]; rfl) rfl rfl (by decide) (by rfl)]
  unfold decodeSingle
  rw [hm]
  show decMajor48 _ = _
  unfold decMajor48
  have hf : bitsAt ((0x3 : BitVec 7) ++ rs2 ++ rs1 ++ rd ++ (0x48 : BitVec 7) ++ p ++ (0 : BitVec 2)) 25 3 = 3#3 := by simp (disch := decide) only [bitsAt, bits_hi, bits_lo, bits_all, Nat.reduceSub] <;> rfl
  rw [hf]
  show accept _ _ _ = _
  refine (congrArg (accept _ _) ?_).trans (accept_wf hw ?_)
  · simp (disch := decide) only [bitsAt, bits_hi, bits_lo, bits_all, Nat.reduceSub] <;> rfl
  · simp (disch := decide) only [zeros, List.all_cons, List.all_nil, bits_hi, bits_lo, bits_all, Nat.reduceSub] <;> rfl

theorem vcmp (t : BitVec 4) (c : BitVec 3) (rs2 : BitVec 5) (rs1 : BitVec 5) (rd : BitVec 3) (p : BitVec 1) : Statement (.vcmp t c rs2 rs1 rd p) := by
  intro ws rest hw he
  obtain rfl := Option.some.inj he
  have hm : bitsAt (t ++ c ++ rs2 ++ rs1 ++ (0 : BitVec 2) ++ rd ++ (0x49 : BitVec 7) ++ p ++ (0 : BitVec 2)) 3 7 = 0x49#7 := by simp (disch := decide) only [bitsAt, bits_hi, bits_lo, bits_all, Nat.reduceSub] <;> rfl
  refine decode_one _ _ rest (by simp (disch := decide) only [bitsAt, bits_hi, bits_lo, bits_all, Nat.reduceSub] <;> rfl) ?_
  rw [decodeWords_single _ 73 (by simp (disch := decide) only [bitsAt, bits_hi, bits_lo, bits_all, Nat.reduceSub] <;> rfl) (by rw [hm]; rfl) rfl rfl (by decide) (by rfl)]
  unfold decodeSingle
  rw [hm]
  show decMajor49 _ = _
  unfold decMajor49
  refine (congrArg (accept _ _) ?_).trans (accept_wf hw ?_)
  · simp (disch := decide) only [bitsAt, bits_hi, bits_lo, bits_all, Nat.reduceSub] <;> rfl
  · simp (disch := decide) only [zeros, List.all_cons, List.all_nil, bits_hi, bits_lo, bits_all, Nat.reduceSub] <;> rfl

theorem vsel (m : BitVec 3) (rs2 : BitVec 5) (rs1 : BitVec 5) (rd : BitVec 5) (p : BitVec 1) : Statement (.vsel m rs2 rs1 rd p) := by
  intro ws rest hw he
  obtain rfl := Option.some.inj he
  have hm : bitsAt ((0 : BitVec 4) ++ m ++ rs2 ++ rs1 ++ rd ++ (0x4a : BitVec 7) ++ p ++ (0 : BitVec 2)) 3 7 = 0x4A#7 := by simp (disch := decide) only [bitsAt, bits_hi, bits_lo, bits_all, Nat.reduceSub] <;> rfl
  refine decode_one _ _ rest (by simp (disch := decide) only [bitsAt, bits_hi, bits_lo, bits_all, Nat.reduceSub] <;> rfl) ?_
  rw [decodeWords_single _ 74 (by simp (disch := decide) only [bitsAt, bits_hi, bits_lo, bits_all, Nat.reduceSub] <;> rfl) (by rw [hm]; rfl) rfl rfl (by decide) (by rfl)]
  unfold decodeSingle
  rw [hm]
  show decMajor4A _ = _
  unfold decMajor4A
  refine (congrArg (accept _ _) ?_).trans (accept_wf hw ?_)
  · simp (disch := decide) only [bitsAt, bits_hi, bits_lo, bits_all, Nat.reduceSub] <;> rfl
  · simp (disch := decide) only [zeros, List.all_cons, List.all_nil, bits_hi, bits_lo, bits_all, Nat.reduceSub] <;> rfl

theorem vredAdd (t : BitVec 4) (q : BitVec 3) (rs1 : BitVec 5) (rd : BitVec 5) (p : BitVec 1) : Statement (.vredAdd t q rs1 rd p) := by
  intro ws rest hw he
  obtain rfl := Option.some.inj he
  have hm : bitsAt (t ++ (0 : BitVec 5) ++ q ++ rs1 ++ rd ++ (0x4b : BitVec 7) ++ p ++ (0 : BitVec 2)) 3 7 = 0x4B#7 := by simp (disch := decide) only [bitsAt, bits_hi, bits_lo, bits_all, Nat.reduceSub] <;> rfl
  refine decode_one _ _ rest (by simp (disch := decide) only [bitsAt, bits_hi, bits_lo, bits_all, Nat.reduceSub] <;> rfl) ?_
  rw [decodeWords_single _ 75 (by simp (disch := decide) only [bitsAt, bits_hi, bits_lo, bits_all, Nat.reduceSub] <;> rfl) (by rw [hm]; rfl) rfl rfl (by decide) (by rfl)]
  unfold decodeSingle
  rw [hm]
  show decMajor4B _ = _
  unfold decMajor4B
  have hf : bitsAt (t ++ (0 : BitVec 5) ++ q ++ rs1 ++ rd ++ (0x4b : BitVec 7) ++ p ++ (0 : BitVec 2)) 25 2 = 0#2 := by simp (disch := decide) only [bitsAt, bits_hi, bits_lo, bits_all, Nat.reduceSub] <;> rfl
  rw [hf]
  show accept _ _ _ = _
  refine (congrArg (accept _ _) ?_).trans (accept_wf hw ?_)
  · simp (disch := decide) only [bitsAt, bits_hi, bits_lo, bits_all, Nat.reduceSub] <;> rfl
  · simp (disch := decide) only [zeros, List.all_cons, List.all_nil, bits_hi, bits_lo, bits_all, Nat.reduceSub] <;> rfl

theorem vredMax (t : BitVec 4) (q : BitVec 3) (rs1 : BitVec 5) (rd : BitVec 5) (p : BitVec 1) : Statement (.vredMax t q rs1 rd p) := by
  intro ws rest hw he
  obtain rfl := Option.some.inj he
  have hm : bitsAt (t ++ (0x4 : BitVec 5) ++ q ++ rs1 ++ rd ++ (0x4b : BitVec 7) ++ p ++ (0 : BitVec 2)) 3 7 = 0x4B#7 := by simp (disch := decide) only [bitsAt, bits_hi, bits_lo, bits_all, Nat.reduceSub] <;> rfl
  refine decode_one _ _ rest (by simp (disch := decide) only [bitsAt, bits_hi, bits_lo, bits_all, Nat.reduceSub] <;> rfl) ?_
  rw [decodeWords_single _ 75 (by simp (disch := decide) only [bitsAt, bits_hi, bits_lo, bits_all, Nat.reduceSub] <;> rfl) (by rw [hm]; rfl) rfl rfl (by decide) (by rfl)]
  unfold decodeSingle
  rw [hm]
  show decMajor4B _ = _
  unfold decMajor4B
  have hf : bitsAt (t ++ (0x4 : BitVec 5) ++ q ++ rs1 ++ rd ++ (0x4b : BitVec 7) ++ p ++ (0 : BitVec 2)) 25 2 = 1#2 := by simp (disch := decide) only [bitsAt, bits_hi, bits_lo, bits_all, Nat.reduceSub] <;> rfl
  rw [hf]
  show accept _ _ _ = _
  refine (congrArg (accept _ _) ?_).trans (accept_wf hw ?_)
  · simp (disch := decide) only [bitsAt, bits_hi, bits_lo, bits_all, Nat.reduceSub] <;> rfl
  · simp (disch := decide) only [zeros, List.all_cons, List.all_nil, bits_hi, bits_lo, bits_all, Nat.reduceSub] <;> rfl

theorem vredMin (t : BitVec 4) (q : BitVec 3) (rs1 : BitVec 5) (rd : BitVec 5) (p : BitVec 1) : Statement (.vredMin t q rs1 rd p) := by
  intro ws rest hw he
  obtain rfl := Option.some.inj he
  have hm : bitsAt (t ++ (0x8 : BitVec 5) ++ q ++ rs1 ++ rd ++ (0x4b : BitVec 7) ++ p ++ (0 : BitVec 2)) 3 7 = 0x4B#7 := by simp (disch := decide) only [bitsAt, bits_hi, bits_lo, bits_all, Nat.reduceSub] <;> rfl
  refine decode_one _ _ rest (by simp (disch := decide) only [bitsAt, bits_hi, bits_lo, bits_all, Nat.reduceSub] <;> rfl) ?_
  rw [decodeWords_single _ 75 (by simp (disch := decide) only [bitsAt, bits_hi, bits_lo, bits_all, Nat.reduceSub] <;> rfl) (by rw [hm]; rfl) rfl rfl (by decide) (by rfl)]
  unfold decodeSingle
  rw [hm]
  show decMajor4B _ = _
  unfold decMajor4B
  have hf : bitsAt (t ++ (0x8 : BitVec 5) ++ q ++ rs1 ++ rd ++ (0x4b : BitVec 7) ++ p ++ (0 : BitVec 2)) 25 2 = 2#2 := by simp (disch := decide) only [bitsAt, bits_hi, bits_lo, bits_all, Nat.reduceSub] <;> rfl
  rw [hf]
  show accept _ _ _ = _
  refine (congrArg (accept _ _) ?_).trans (accept_wf hw ?_)
  · simp (disch := decide) only [bitsAt, bits_hi, bits_lo, bits_all, Nat.reduceSub] <;> rfl
  · simp (disch := decide) only [zeros, List.all_cons, List.all_nil, bits_hi, bits_lo, bits_all, Nat.reduceSub] <;> rfl

theorem vcvt (s : BitVec 4) (p : BitVec 2) (t : BitVec 4) (rs1 : BitVec 5) (rd : BitVec 5) (p_part2 : BitVec 1) : Statement (.vcvt s p t rs1 rd p_part2) := by
  intro ws rest hw he
  obtain rfl := Option.some.inj he
  have hm : bitsAt (s ++ (0 : BitVec 1) ++ p ++ (0 : BitVec 1) ++ t ++ rs1 ++ rd ++ (0x4c : BitVec 7) ++ p_part2 ++ (0 : BitVec 2)) 3 7 = 0x4C#7 := by simp (disch := decide) only [bitsAt, bits_hi, bits_lo, bits_all, Nat.reduceSub] <;> rfl
  refine decode_one _ _ rest (by simp (disch := decide) only [bitsAt, bits_hi, bits_lo, bits_all, Nat.reduceSub] <;> rfl) ?_
  rw [decodeWords_single _ 76 (by simp (disch := decide) only [bitsAt, bits_hi, bits_lo, bits_all, Nat.reduceSub] <;> rfl) (by rw [hm]; rfl) rfl rfl (by decide) (by rfl)]
  unfold decodeSingle
  rw [hm]
  show decMajor4C _ = _
  unfold decMajor4C
  refine (congrArg (accept _ _) ?_).trans (accept_wf hw ?_)
  · simp (disch := decide) only [bitsAt, bits_hi, bits_lo, bits_all, Nat.reduceSub] <;> rfl
  · simp (disch := decide) only [zeros, List.all_cons, List.all_nil, bits_hi, bits_lo, bits_all, Nat.reduceSub] <;> rfl

theorem vbcst (rs1 : BitVec 5) (rd : BitVec 5) (p : BitVec 1) : Statement (.vbcst rs1 rd p) := by
  intro ws rest hw he
  obtain rfl := Option.some.inj he
  have hm : bitsAt ((0 : BitVec 12) ++ rs1 ++ rd ++ (0x4d : BitVec 7) ++ p ++ (0 : BitVec 2)) 3 7 = 0x4D#7 := by simp (disch := decide) only [bitsAt, bits_hi, bits_lo, bits_all, Nat.reduceSub] <;> rfl
  refine decode_one _ _ rest (by simp (disch := decide) only [bitsAt, bits_hi, bits_lo, bits_all, Nat.reduceSub] <;> rfl) ?_
  rw [decodeWords_single _ 77 (by simp (disch := decide) only [bitsAt, bits_hi, bits_lo, bits_all, Nat.reduceSub] <;> rfl) (by rw [hm]; rfl) rfl rfl (by decide) (by rfl)]
  unfold decodeSingle
  rw [hm]
  show decMajor4D _ = _
  unfold decMajor4D
  refine (congrArg (accept _ _) ?_).trans (accept_wf hw ?_)
  · simp (disch := decide) only [bitsAt, bits_hi, bits_lo, bits_all, Nat.reduceSub] <;> rfl
  · simp (disch := decide) only [zeros, List.all_cons, List.all_nil, bits_hi, bits_lo, bits_all, Nat.reduceSub] <;> rfl

theorem vext (x : BitVec 1) (rs2 : BitVec 5) (rs1 : BitVec 5) (rd : BitVec 5) (p : BitVec 1) : Statement (.vext x rs2 rs1 rd p) := by
  intro ws rest hw he
  obtain rfl := Option.some.inj he
  have hm : bitsAt ((0 : BitVec 6) ++ x ++ rs2 ++ rs1 ++ rd ++ (0x4e : BitVec 7) ++ p ++ (0 : BitVec 2)) 3 7 = 0x4E#7 := by simp (disch := decide) only [bitsAt, bits_hi, bits_lo, bits_all, Nat.reduceSub] <;> rfl
  refine decode_one _ _ rest (by simp (disch := decide) only [bitsAt, bits_hi, bits_lo, bits_all, Nat.reduceSub] <;> rfl) ?_
  rw [decodeWords_single _ 78 (by simp (disch := decide) only [bitsAt, bits_hi, bits_lo, bits_all, Nat.reduceSub] <;> rfl) (by rw [hm]; rfl) rfl rfl (by decide) (by rfl)]
  unfold decodeSingle
  rw [hm]
  show decMajor4E _ = _
  unfold decMajor4E
  refine (congrArg (accept _ _) ?_).trans (accept_wf hw ?_)
  · simp (disch := decide) only [bitsAt, bits_hi, bits_lo, bits_all, Nat.reduceSub] <;> rfl
  · simp (disch := decide) only [zeros, List.all_cons, List.all_nil, bits_hi, bits_lo, bits_all, Nat.reduceSub] <;> rfl

theorem vperm (rs2 : BitVec 5) (rs1 : BitVec 5) (rd : BitVec 5) (p : BitVec 1) : Statement (.vperm rs2 rs1 rd p) := by
  intro ws rest hw he
  obtain rfl := Option.some.inj he
  have hm : bitsAt ((0 : BitVec 7) ++ rs2 ++ rs1 ++ rd ++ (0x4f : BitVec 7) ++ p ++ (0 : BitVec 2)) 3 7 = 0x4F#7 := by simp (disch := decide) only [bitsAt, bits_hi, bits_lo, bits_all, Nat.reduceSub] <;> rfl
  refine decode_one _ _ rest (by simp (disch := decide) only [bitsAt, bits_hi, bits_lo, bits_all, Nat.reduceSub] <;> rfl) ?_
  rw [decodeWords_single _ 79 (by simp (disch := decide) only [bitsAt, bits_hi, bits_lo, bits_all, Nat.reduceSub] <;> rfl) (by rw [hm]; rfl) rfl rfl (by decide) (by rfl)]
  unfold decodeSingle
  rw [hm]
  show decMajor4F _ = _
  unfold decMajor4F
  refine (congrArg (accept _ _) ?_).trans (accept_wf hw ?_)
  · simp (disch := decide) only [bitsAt, bits_hi, bits_lo, bits_all, Nat.reduceSub] <;> rfl
  · simp (disch := decide) only [zeros, List.all_cons, List.all_nil, bits_hi, bits_lo, bits_all, Nat.reduceSub] <;> rfl

theorem vmskAnd (rs2 : BitVec 3) (rs1 : BitVec 3) (rd : BitVec 3) (p : BitVec 1) : Statement (.vmskAnd rs2 rs1 rd p) := by
  intro ws rest hw he
  obtain rfl := Option.some.inj he
  have hm : bitsAt ((0 : BitVec 9) ++ rs2 ++ (0 : BitVec 2) ++ rs1 ++ (0 : BitVec 2) ++ rd ++ (0x50 : BitVec 7) ++ p ++ (0 : BitVec 2)) 3 7 = 0x50#7 := by simp (disch := decide) only [bitsAt, bits_hi, bits_lo, bits_all, Nat.reduceSub] <;> rfl
  refine decode_one _ _ rest (by simp (disch := decide) only [bitsAt, bits_hi, bits_lo, bits_all, Nat.reduceSub] <;> rfl) ?_
  rw [decodeWords_single _ 80 (by simp (disch := decide) only [bitsAt, bits_hi, bits_lo, bits_all, Nat.reduceSub] <;> rfl) (by rw [hm]; rfl) rfl rfl (by decide) (by rfl)]
  unfold decodeSingle
  rw [hm]
  show decMajor50 _ = _
  unfold decMajor50
  have hf : bitsAt ((0 : BitVec 9) ++ rs2 ++ (0 : BitVec 2) ++ rs1 ++ (0 : BitVec 2) ++ rd ++ (0x50 : BitVec 7) ++ p ++ (0 : BitVec 2)) 25 3 = 0#3 := by simp (disch := decide) only [bitsAt, bits_hi, bits_lo, bits_all, Nat.reduceSub] <;> rfl
  rw [hf]
  show accept _ _ _ = _
  refine (congrArg (accept _ _) ?_).trans (accept_wf hw ?_)
  · simp (disch := decide) only [bitsAt, bits_hi, bits_lo, bits_all, Nat.reduceSub] <;> rfl
  · simp (disch := decide) only [zeros, List.all_cons, List.all_nil, bits_hi, bits_lo, bits_all, Nat.reduceSub] <;> rfl

theorem vmskOr (rs2 : BitVec 3) (rs1 : BitVec 3) (rd : BitVec 3) (p : BitVec 1) : Statement (.vmskOr rs2 rs1 rd p) := by
  intro ws rest hw he
  obtain rfl := Option.some.inj he
  have hm : bitsAt ((0x4 : BitVec 9) ++ rs2 ++ (0 : BitVec 2) ++ rs1 ++ (0 : BitVec 2) ++ rd ++ (0x50 : BitVec 7) ++ p ++ (0 : BitVec 2)) 3 7 = 0x50#7 := by simp (disch := decide) only [bitsAt, bits_hi, bits_lo, bits_all, Nat.reduceSub] <;> rfl
  refine decode_one _ _ rest (by simp (disch := decide) only [bitsAt, bits_hi, bits_lo, bits_all, Nat.reduceSub] <;> rfl) ?_
  rw [decodeWords_single _ 80 (by simp (disch := decide) only [bitsAt, bits_hi, bits_lo, bits_all, Nat.reduceSub] <;> rfl) (by rw [hm]; rfl) rfl rfl (by decide) (by rfl)]
  unfold decodeSingle
  rw [hm]
  show decMajor50 _ = _
  unfold decMajor50
  have hf : bitsAt ((0x4 : BitVec 9) ++ rs2 ++ (0 : BitVec 2) ++ rs1 ++ (0 : BitVec 2) ++ rd ++ (0x50 : BitVec 7) ++ p ++ (0 : BitVec 2)) 25 3 = 1#3 := by simp (disch := decide) only [bitsAt, bits_hi, bits_lo, bits_all, Nat.reduceSub] <;> rfl
  rw [hf]
  show accept _ _ _ = _
  refine (congrArg (accept _ _) ?_).trans (accept_wf hw ?_)
  · simp (disch := decide) only [bitsAt, bits_hi, bits_lo, bits_all, Nat.reduceSub] <;> rfl
  · simp (disch := decide) only [zeros, List.all_cons, List.all_nil, bits_hi, bits_lo, bits_all, Nat.reduceSub] <;> rfl

theorem vmskXor (rs2 : BitVec 3) (rs1 : BitVec 3) (rd : BitVec 3) (p : BitVec 1) : Statement (.vmskXor rs2 rs1 rd p) := by
  intro ws rest hw he
  obtain rfl := Option.some.inj he
  have hm : bitsAt ((0x8 : BitVec 9) ++ rs2 ++ (0 : BitVec 2) ++ rs1 ++ (0 : BitVec 2) ++ rd ++ (0x50 : BitVec 7) ++ p ++ (0 : BitVec 2)) 3 7 = 0x50#7 := by simp (disch := decide) only [bitsAt, bits_hi, bits_lo, bits_all, Nat.reduceSub] <;> rfl
  refine decode_one _ _ rest (by simp (disch := decide) only [bitsAt, bits_hi, bits_lo, bits_all, Nat.reduceSub] <;> rfl) ?_
  rw [decodeWords_single _ 80 (by simp (disch := decide) only [bitsAt, bits_hi, bits_lo, bits_all, Nat.reduceSub] <;> rfl) (by rw [hm]; rfl) rfl rfl (by decide) (by rfl)]
  unfold decodeSingle
  rw [hm]
  show decMajor50 _ = _
  unfold decMajor50
  have hf : bitsAt ((0x8 : BitVec 9) ++ rs2 ++ (0 : BitVec 2) ++ rs1 ++ (0 : BitVec 2) ++ rd ++ (0x50 : BitVec 7) ++ p ++ (0 : BitVec 2)) 25 3 = 2#3 := by simp (disch := decide) only [bitsAt, bits_hi, bits_lo, bits_all, Nat.reduceSub] <;> rfl
  rw [hf]
  show accept _ _ _ = _
  refine (congrArg (accept _ _) ?_).trans (accept_wf hw ?_)
  · simp (disch := decide) only [bitsAt, bits_hi, bits_lo, bits_all, Nat.reduceSub] <;> rfl
  · simp (disch := decide) only [zeros, List.all_cons, List.all_nil, bits_hi, bits_lo, bits_all, Nat.reduceSub] <;> rfl

theorem vmskAndn (rs2 : BitVec 3) (rs1 : BitVec 3) (rd : BitVec 3) (p : BitVec 1) : Statement (.vmskAndn rs2 rs1 rd p) := by
  intro ws rest hw he
  obtain rfl := Option.some.inj he
  have hm : bitsAt ((0xc : BitVec 9) ++ rs2 ++ (0 : BitVec 2) ++ rs1 ++ (0 : BitVec 2) ++ rd ++ (0x50 : BitVec 7) ++ p ++ (0 : BitVec 2)) 3 7 = 0x50#7 := by simp (disch := decide) only [bitsAt, bits_hi, bits_lo, bits_all, Nat.reduceSub] <;> rfl
  refine decode_one _ _ rest (by simp (disch := decide) only [bitsAt, bits_hi, bits_lo, bits_all, Nat.reduceSub] <;> rfl) ?_
  rw [decodeWords_single _ 80 (by simp (disch := decide) only [bitsAt, bits_hi, bits_lo, bits_all, Nat.reduceSub] <;> rfl) (by rw [hm]; rfl) rfl rfl (by decide) (by rfl)]
  unfold decodeSingle
  rw [hm]
  show decMajor50 _ = _
  unfold decMajor50
  have hf : bitsAt ((0xc : BitVec 9) ++ rs2 ++ (0 : BitVec 2) ++ rs1 ++ (0 : BitVec 2) ++ rd ++ (0x50 : BitVec 7) ++ p ++ (0 : BitVec 2)) 25 3 = 3#3 := by simp (disch := decide) only [bitsAt, bits_hi, bits_lo, bits_all, Nat.reduceSub] <;> rfl
  rw [hf]
  show accept _ _ _ = _
  refine (congrArg (accept _ _) ?_).trans (accept_wf hw ?_)
  · simp (disch := decide) only [bitsAt, bits_hi, bits_lo, bits_all, Nat.reduceSub] <;> rfl
  · simp (disch := decide) only [zeros, List.all_cons, List.all_nil, bits_hi, bits_lo, bits_all, Nat.reduceSub] <;> rfl

theorem vmskTos (rs1 : BitVec 3) (rd : BitVec 5) (p : BitVec 1) : Statement (.vmskTos rs1 rd p) := by
  intro ws rest hw he
  obtain rfl := Option.some.inj he
  have hm : bitsAt ((0x200 : BitVec 14) ++ rs1 ++ rd ++ (0x50 : BitVec 7) ++ p ++ (0 : BitVec 2)) 3 7 = 0x50#7 := by simp (disch := decide) only [bitsAt, bits_hi, bits_lo, bits_all, Nat.reduceSub] <;> rfl
  refine decode_one _ _ rest (by simp (disch := decide) only [bitsAt, bits_hi, bits_lo, bits_all, Nat.reduceSub] <;> rfl) ?_
  rw [decodeWords_single _ 80 (by simp (disch := decide) only [bitsAt, bits_hi, bits_lo, bits_all, Nat.reduceSub] <;> rfl) (by rw [hm]; rfl) rfl rfl (by decide) (by rfl)]
  unfold decodeSingle
  rw [hm]
  show decMajor50 _ = _
  unfold decMajor50
  have hf : bitsAt ((0x200 : BitVec 14) ++ rs1 ++ rd ++ (0x50 : BitVec 7) ++ p ++ (0 : BitVec 2)) 25 3 = 4#3 := by simp (disch := decide) only [bitsAt, bits_hi, bits_lo, bits_all, Nat.reduceSub] <;> rfl
  rw [hf]
  show accept _ _ _ = _
  refine (congrArg (accept _ _) ?_).trans (accept_wf hw ?_)
  · simp (disch := decide) only [bitsAt, bits_hi, bits_lo, bits_all, Nat.reduceSub] <;> rfl
  · simp (disch := decide) only [zeros, List.all_cons, List.all_nil, bits_hi, bits_lo, bits_all, Nat.reduceSub] <;> rfl

theorem vmskFroms (rs1 : BitVec 5) (rd : BitVec 3) (p : BitVec 1) : Statement (.vmskFroms rs1 rd p) := by
  intro ws rest hw he
  obtain rfl := Option.some.inj he
  have hm : bitsAt ((0xa0 : BitVec 12) ++ rs1 ++ (0 : BitVec 2) ++ rd ++ (0x50 : BitVec 7) ++ p ++ (0 : BitVec 2)) 3 7 = 0x50#7 := by simp (disch := decide) only [bitsAt, bits_hi, bits_lo, bits_all, Nat.reduceSub] <;> rfl
  refine decode_one _ _ rest (by simp (disch := decide) only [bitsAt, bits_hi, bits_lo, bits_all, Nat.reduceSub] <;> rfl) ?_
  rw [decodeWords_single _ 80 (by simp (disch := decide) only [bitsAt, bits_hi, bits_lo, bits_all, Nat.reduceSub] <;> rfl) (by rw [hm]; rfl) rfl rfl (by decide) (by rfl)]
  unfold decodeSingle
  rw [hm]
  show decMajor50 _ = _
  unfold decMajor50
  have hf : bitsAt ((0xa0 : BitVec 12) ++ rs1 ++ (0 : BitVec 2) ++ rd ++ (0x50 : BitVec 7) ++ p ++ (0 : BitVec 2)) 25 3 = 5#3 := by simp (disch := decide) only [bitsAt, bits_hi, bits_lo, bits_all, Nat.reduceSub] <;> rfl
  rw [hf]
  show accept _ _ _ = _
  refine (congrArg (accept _ _) ?_).trans (accept_wf hw ?_)
  · simp (disch := decide) only [bitsAt, bits_hi, bits_lo, bits_all, Nat.reduceSub] <;> rfl
  · simp (disch := decide) only [zeros, List.all_cons, List.all_nil, bits_hi, bits_lo, bits_all, Nat.reduceSub] <;> rfl

theorem vmskPopc (rs1 : BitVec 3) (rd : BitVec 5) (p : BitVec 1) : Statement (.vmskPopc rs1 rd p) := by
  intro ws rest hw he
  obtain rfl := Option.some.inj he
  have hm : bitsAt ((0x300 : BitVec 14) ++ rs1 ++ rd ++ (0x50 : BitVec 7) ++ p ++ (0 : BitVec 2)) 3 7 = 0x50#7 := by simp (disch := decide) only [bitsAt, bits_hi, bits_lo, bits_all, Nat.reduceSub] <;> rfl
  refine decode_one _ _ rest (by simp (disch := decide) only [bitsAt, bits_hi, bits_lo, bits_all, Nat.reduceSub] <;> rfl) ?_
  rw [decodeWords_single _ 80 (by simp (disch := decide) only [bitsAt, bits_hi, bits_lo, bits_all, Nat.reduceSub] <;> rfl) (by rw [hm]; rfl) rfl rfl (by decide) (by rfl)]
  unfold decodeSingle
  rw [hm]
  show decMajor50 _ = _
  unfold decMajor50
  have hf : bitsAt ((0x300 : BitVec 14) ++ rs1 ++ rd ++ (0x50 : BitVec 7) ++ p ++ (0 : BitVec 2)) 25 3 = 6#3 := by simp (disch := decide) only [bitsAt, bits_hi, bits_lo, bits_all, Nat.reduceSub] <;> rfl
  rw [hf]
  show accept _ _ _ = _
  refine (congrArg (accept _ _) ?_).trans (accept_wf hw ?_)
  · simp (disch := decide) only [bitsAt, bits_hi, bits_lo, bits_all, Nat.reduceSub] <;> rfl
  · simp (disch := decide) only [zeros, List.all_cons, List.all_nil, bits_hi, bits_lo, bits_all, Nat.reduceSub] <;> rfl

theorem vmskFirst (rs1 : BitVec 3) (rd : BitVec 5) (p : BitVec 1) : Statement (.vmskFirst rs1 rd p) := by
  intro ws rest hw he
  obtain rfl := Option.some.inj he
  have hm : bitsAt ((0x380 : BitVec 14) ++ rs1 ++ rd ++ (0x50 : BitVec 7) ++ p ++ (0 : BitVec 2)) 3 7 = 0x50#7 := by simp (disch := decide) only [bitsAt, bits_hi, bits_lo, bits_all, Nat.reduceSub] <;> rfl
  refine decode_one _ _ rest (by simp (disch := decide) only [bitsAt, bits_hi, bits_lo, bits_all, Nat.reduceSub] <;> rfl) ?_
  rw [decodeWords_single _ 80 (by simp (disch := decide) only [bitsAt, bits_hi, bits_lo, bits_all, Nat.reduceSub] <;> rfl) (by rw [hm]; rfl) rfl rfl (by decide) (by rfl)]
  unfold decodeSingle
  rw [hm]
  show decMajor50 _ = _
  unfold decMajor50
  have hf : bitsAt ((0x380 : BitVec 14) ++ rs1 ++ rd ++ (0x50 : BitVec 7) ++ p ++ (0 : BitVec 2)) 25 3 = 7#3 := by simp (disch := decide) only [bitsAt, bits_hi, bits_lo, bits_all, Nat.reduceSub] <;> rfl
  rw [hf]
  show accept _ _ _ = _
  refine (congrArg (accept _ _) ?_).trans (accept_wf hw ?_)
  · simp (disch := decide) only [bitsAt, bits_hi, bits_lo, bits_all, Nat.reduceSub] <;> rfl
  · simp (disch := decide) only [zeros, List.all_cons, List.all_nil, bits_hi, bits_lo, bits_all, Nat.reduceSub] <;> rfl

theorem vexp2 (t : BitVec 4) (rs1 : BitVec 5) (rd : BitVec 5) (p : BitVec 1) : Statement (.vexp2 t rs1 rd p) := by
  intro ws rest hw he
  obtain rfl := Option.some.inj he
  have hm : bitsAt (t ++ (0 : BitVec 8) ++ rs1 ++ rd ++ (0x51 : BitVec 7) ++ p ++ (0 : BitVec 2)) 3 7 = 0x51#7 := by simp (disch := decide) only [bitsAt, bits_hi, bits_lo, bits_all, Nat.reduceSub] <;> rfl
  refine decode_one _ _ rest (by simp (disch := decide) only [bitsAt, bits_hi, bits_lo, bits_all, Nat.reduceSub] <;> rfl) ?_
  rw [decodeWords_single _ 81 (by simp (disch := decide) only [bitsAt, bits_hi, bits_lo, bits_all, Nat.reduceSub] <;> rfl) (by rw [hm]; rfl) rfl rfl (by decide) (by rfl)]
  unfold decodeSingle
  rw [hm]
  show decMajor51 _ = _
  unfold decMajor51
  have hf : bitsAt (t ++ (0 : BitVec 8) ++ rs1 ++ rd ++ (0x51 : BitVec 7) ++ p ++ (0 : BitVec 2)) 25 3 = 0#3 := by simp (disch := decide) only [bitsAt, bits_hi, bits_lo, bits_all, Nat.reduceSub] <;> rfl
  rw [hf]
  show accept _ _ _ = _
  refine (congrArg (accept _ _) ?_).trans (accept_wf hw ?_)
  · simp (disch := decide) only [bitsAt, bits_hi, bits_lo, bits_all, Nat.reduceSub] <;> rfl
  · simp (disch := decide) only [zeros, List.all_cons, List.all_nil, bits_hi, bits_lo, bits_all, Nat.reduceSub] <;> rfl

theorem vlog2 (t : BitVec 4) (rs1 : BitVec 5) (rd : BitVec 5) (p : BitVec 1) : Statement (.vlog2 t rs1 rd p) := by
  intro ws rest hw he
  obtain rfl := Option.some.inj he
  have hm : bitsAt (t ++ (0x20 : BitVec 8) ++ rs1 ++ rd ++ (0x51 : BitVec 7) ++ p ++ (0 : BitVec 2)) 3 7 = 0x51#7 := by simp (disch := decide) only [bitsAt, bits_hi, bits_lo, bits_all, Nat.reduceSub] <;> rfl
  refine decode_one _ _ rest (by simp (disch := decide) only [bitsAt, bits_hi, bits_lo, bits_all, Nat.reduceSub] <;> rfl) ?_
  rw [decodeWords_single _ 81 (by simp (disch := decide) only [bitsAt, bits_hi, bits_lo, bits_all, Nat.reduceSub] <;> rfl) (by rw [hm]; rfl) rfl rfl (by decide) (by rfl)]
  unfold decodeSingle
  rw [hm]
  show decMajor51 _ = _
  unfold decMajor51
  have hf : bitsAt (t ++ (0x20 : BitVec 8) ++ rs1 ++ rd ++ (0x51 : BitVec 7) ++ p ++ (0 : BitVec 2)) 25 3 = 1#3 := by simp (disch := decide) only [bitsAt, bits_hi, bits_lo, bits_all, Nat.reduceSub] <;> rfl
  rw [hf]
  show accept _ _ _ = _
  refine (congrArg (accept _ _) ?_).trans (accept_wf hw ?_)
  · simp (disch := decide) only [bitsAt, bits_hi, bits_lo, bits_all, Nat.reduceSub] <;> rfl
  · simp (disch := decide) only [zeros, List.all_cons, List.all_nil, bits_hi, bits_lo, bits_all, Nat.reduceSub] <;> rfl

theorem vrcp (t : BitVec 4) (rs1 : BitVec 5) (rd : BitVec 5) (p : BitVec 1) : Statement (.vrcp t rs1 rd p) := by
  intro ws rest hw he
  obtain rfl := Option.some.inj he
  have hm : bitsAt (t ++ (0x40 : BitVec 8) ++ rs1 ++ rd ++ (0x51 : BitVec 7) ++ p ++ (0 : BitVec 2)) 3 7 = 0x51#7 := by simp (disch := decide) only [bitsAt, bits_hi, bits_lo, bits_all, Nat.reduceSub] <;> rfl
  refine decode_one _ _ rest (by simp (disch := decide) only [bitsAt, bits_hi, bits_lo, bits_all, Nat.reduceSub] <;> rfl) ?_
  rw [decodeWords_single _ 81 (by simp (disch := decide) only [bitsAt, bits_hi, bits_lo, bits_all, Nat.reduceSub] <;> rfl) (by rw [hm]; rfl) rfl rfl (by decide) (by rfl)]
  unfold decodeSingle
  rw [hm]
  show decMajor51 _ = _
  unfold decMajor51
  have hf : bitsAt (t ++ (0x40 : BitVec 8) ++ rs1 ++ rd ++ (0x51 : BitVec 7) ++ p ++ (0 : BitVec 2)) 25 3 = 2#3 := by simp (disch := decide) only [bitsAt, bits_hi, bits_lo, bits_all, Nat.reduceSub] <;> rfl
  rw [hf]
  show accept _ _ _ = _
  refine (congrArg (accept _ _) ?_).trans (accept_wf hw ?_)
  · simp (disch := decide) only [bitsAt, bits_hi, bits_lo, bits_all, Nat.reduceSub] <;> rfl
  · simp (disch := decide) only [zeros, List.all_cons, List.all_nil, bits_hi, bits_lo, bits_all, Nat.reduceSub] <;> rfl

theorem vrsq (t : BitVec 4) (rs1 : BitVec 5) (rd : BitVec 5) (p : BitVec 1) : Statement (.vrsq t rs1 rd p) := by
  intro ws rest hw he
  obtain rfl := Option.some.inj he
  have hm : bitsAt (t ++ (0x60 : BitVec 8) ++ rs1 ++ rd ++ (0x51 : BitVec 7) ++ p ++ (0 : BitVec 2)) 3 7 = 0x51#7 := by simp (disch := decide) only [bitsAt, bits_hi, bits_lo, bits_all, Nat.reduceSub] <;> rfl
  refine decode_one _ _ rest (by simp (disch := decide) only [bitsAt, bits_hi, bits_lo, bits_all, Nat.reduceSub] <;> rfl) ?_
  rw [decodeWords_single _ 81 (by simp (disch := decide) only [bitsAt, bits_hi, bits_lo, bits_all, Nat.reduceSub] <;> rfl) (by rw [hm]; rfl) rfl rfl (by decide) (by rfl)]
  unfold decodeSingle
  rw [hm]
  show decMajor51 _ = _
  unfold decMajor51
  have hf : bitsAt (t ++ (0x60 : BitVec 8) ++ rs1 ++ rd ++ (0x51 : BitVec 7) ++ p ++ (0 : BitVec 2)) 25 3 = 3#3 := by simp (disch := decide) only [bitsAt, bits_hi, bits_lo, bits_all, Nat.reduceSub] <;> rfl
  rw [hf]
  show accept _ _ _ = _
  refine (congrArg (accept _ _) ?_).trans (accept_wf hw ?_)
  · simp (disch := decide) only [bitsAt, bits_hi, bits_lo, bits_all, Nat.reduceSub] <;> rfl
  · simp (disch := decide) only [zeros, List.all_cons, List.all_nil, bits_hi, bits_lo, bits_all, Nat.reduceSub] <;> rfl

theorem vtanh (t : BitVec 4) (rs1 : BitVec 5) (rd : BitVec 5) (p : BitVec 1) : Statement (.vtanh t rs1 rd p) := by
  intro ws rest hw he
  obtain rfl := Option.some.inj he
  have hm : bitsAt (t ++ (0x80 : BitVec 8) ++ rs1 ++ rd ++ (0x51 : BitVec 7) ++ p ++ (0 : BitVec 2)) 3 7 = 0x51#7 := by simp (disch := decide) only [bitsAt, bits_hi, bits_lo, bits_all, Nat.reduceSub] <;> rfl
  refine decode_one _ _ rest (by simp (disch := decide) only [bitsAt, bits_hi, bits_lo, bits_all, Nat.reduceSub] <;> rfl) ?_
  rw [decodeWords_single _ 81 (by simp (disch := decide) only [bitsAt, bits_hi, bits_lo, bits_all, Nat.reduceSub] <;> rfl) (by rw [hm]; rfl) rfl rfl (by decide) (by rfl)]
  unfold decodeSingle
  rw [hm]
  show decMajor51 _ = _
  unfold decMajor51
  have hf : bitsAt (t ++ (0x80 : BitVec 8) ++ rs1 ++ rd ++ (0x51 : BitVec 7) ++ p ++ (0 : BitVec 2)) 25 3 = 4#3 := by simp (disch := decide) only [bitsAt, bits_hi, bits_lo, bits_all, Nat.reduceSub] <;> rfl
  rw [hf]
  show accept _ _ _ = _
  refine (congrArg (accept _ _) ?_).trans (accept_wf hw ?_)
  · simp (disch := decide) only [bitsAt, bits_hi, bits_lo, bits_all, Nat.reduceSub] <;> rfl
  · simp (disch := decide) only [zeros, List.all_cons, List.all_nil, bits_hi, bits_lo, bits_all, Nat.reduceSub] <;> rfl

theorem vscl (t : BitVec 4) (rs2 : BitVec 5) (rs1 : BitVec 5) (rd : BitVec 5) (p : BitVec 1) : Statement (.vscl t rs2 rs1 rd p) := by
  intro ws rest hw he
  obtain rfl := Option.some.inj he
  have hm : bitsAt (t ++ (0 : BitVec 3) ++ rs2 ++ rs1 ++ rd ++ (0x52 : BitVec 7) ++ p ++ (0 : BitVec 2)) 3 7 = 0x52#7 := by simp (disch := decide) only [bitsAt, bits_hi, bits_lo, bits_all, Nat.reduceSub] <;> rfl
  refine decode_one _ _ rest (by simp (disch := decide) only [bitsAt, bits_hi, bits_lo, bits_all, Nat.reduceSub] <;> rfl) ?_
  rw [decodeWords_single _ 82 (by simp (disch := decide) only [bitsAt, bits_hi, bits_lo, bits_all, Nat.reduceSub] <;> rfl) (by rw [hm]; rfl) rfl rfl (by decide) (by rfl)]
  unfold decodeSingle
  rw [hm]
  show decMajor52 _ = _
  unfold decMajor52
  refine (congrArg (accept _ _) ?_).trans (accept_wf hw ?_)
  · simp (disch := decide) only [bitsAt, bits_hi, bits_lo, bits_all, Nat.reduceSub] <;> rfl
  · simp (disch := decide) only [zeros, List.all_cons, List.all_nil, bits_hi, bits_lo, bits_all, Nat.reduceSub] <;> rfl

theorem vidx (rs2 : BitVec 5) (rs1 : BitVec 5) (rd : BitVec 5) (p : BitVec 1) : Statement (.vidx rs2 rs1 rd p) := by
  intro ws rest hw he
  obtain rfl := Option.some.inj he
  have hm : bitsAt ((0 : BitVec 7) ++ rs2 ++ rs1 ++ rd ++ (0x53 : BitVec 7) ++ p ++ (0 : BitVec 2)) 3 7 = 0x53#7 := by simp (disch := decide) only [bitsAt, bits_hi, bits_lo, bits_all, Nat.reduceSub] <;> rfl
  refine decode_one _ _ rest (by simp (disch := decide) only [bitsAt, bits_hi, bits_lo, bits_all, Nat.reduceSub] <;> rfl) ?_
  rw [decodeWords_single _ 83 (by simp (disch := decide) only [bitsAt, bits_hi, bits_lo, bits_all, Nat.reduceSub] <;> rfl) (by rw [hm]; rfl) rfl rfl (by decide) (by rfl)]
  unfold decodeSingle
  rw [hm]
  show decMajor53 _ = _
  unfold decMajor53
  refine (congrArg (accept _ _) ?_).trans (accept_wf hw ?_)
  · simp (disch := decide) only [bitsAt, bits_hi, bits_lo, bits_all, Nat.reduceSub] <;> rfl
  · simp (disch := decide) only [zeros, List.all_cons, List.all_nil, bits_hi, bits_lo, bits_all, Nat.reduceSub] <;> rfl

theorem vdot (m : BitVec 2) (rs2 : BitVec 5) (rs1 : BitVec 5) (rd : BitVec 5) (p : BitVec 1) : Statement (.vdot m rs2 rs1 rd p) := by
  intro ws rest hw he
  obtain rfl := Option.some.inj he
  have hm : bitsAt ((0 : BitVec 5) ++ m ++ rs2 ++ rs1 ++ rd ++ (0x54 : BitVec 7) ++ p ++ (0 : BitVec 2)) 3 7 = 0x54#7 := by simp (disch := decide) only [bitsAt, bits_hi, bits_lo, bits_all, Nat.reduceSub] <;> rfl
  refine decode_one _ _ rest (by simp (disch := decide) only [bitsAt, bits_hi, bits_lo, bits_all, Nat.reduceSub] <;> rfl) ?_
  rw [decodeWords_single _ 84 (by simp (disch := decide) only [bitsAt, bits_hi, bits_lo, bits_all, Nat.reduceSub] <;> rfl) (by rw [hm]; rfl) rfl rfl (by decide) (by rfl)]
  unfold decodeSingle
  rw [hm]
  show decMajor54 _ = _
  unfold decMajor54
  refine (congrArg (accept _ _) ?_).trans (accept_wf hw ?_)
  · simp (disch := decide) only [bitsAt, bits_hi, bits_lo, bits_all, Nat.reduceSub] <;> rfl
  · simp (disch := decide) only [zeros, List.all_cons, List.all_nil, bits_hi, bits_lo, bits_all, Nat.reduceSub] <;> rfl

theorem vmov (rs1 : BitVec 5) (rd : BitVec 5) (p : BitVec 1) : Statement (.vmov rs1 rd p) := by
  intro ws rest hw he
  obtain rfl := Option.some.inj he
  have hm : bitsAt ((0 : BitVec 12) ++ rs1 ++ rd ++ (0x55 : BitVec 7) ++ p ++ (0 : BitVec 2)) 3 7 = 0x55#7 := by simp (disch := decide) only [bitsAt, bits_hi, bits_lo, bits_all, Nat.reduceSub] <;> rfl
  refine decode_one _ _ rest (by simp (disch := decide) only [bitsAt, bits_hi, bits_lo, bits_all, Nat.reduceSub] <;> rfl) ?_
  rw [decodeWords_single _ 85 (by simp (disch := decide) only [bitsAt, bits_hi, bits_lo, bits_all, Nat.reduceSub] <;> rfl) (by rw [hm]; rfl) rfl rfl (by decide) (by rfl)]
  unfold decodeSingle
  rw [hm]
  show decMajor55 _ = _
  unfold decMajor55
  refine (congrArg (accept _ _) ?_).trans (accept_wf hw ?_)
  · simp (disch := decide) only [bitsAt, bits_hi, bits_lo, bits_all, Nat.reduceSub] <;> rfl
  · simp (disch := decide) only [zeros, List.all_cons, List.all_nil, bits_hi, bits_lo, bits_all, Nat.reduceSub] <;> rfl

theorem sbind (mode : BitVec 2) (dir : BitVec 1) (port : BitVec 2) (rs2 : BitVec 5) (rs1 : BitVec 5) (stride : BitVec 26) : Statement (.sbind mode dir port rs2 rs1 stride) := by
  intro ws rest hw he
  obtain rfl := Option.some.inj he
  have hm : bitsAt ((0 : BitVec 7) ++ mode ++ dir ++ port ++ rs2 ++ rs1 ++ (0x60 : BitVec 7) ++ (2 : BitVec 3)) 3 7 = 0x60#7 := by simp (disch := decide) only [bitsAt, bits_hi, bits_lo, bits_all, Nat.reduceSub] <;> rfl
  refine decode_two _ _ _ rest (by simp (disch := decide) only [bitsAt, bits_hi, bits_lo, bits_all, Nat.reduceSub] <;> rfl) ?_
  rw [decodeWords_double _ _ 96 (by simp (disch := decide) only [bitsAt, bits_hi, bits_lo, bits_all, Nat.reduceSub] <;> rfl) (by simp (disch := decide) only [bitsAt, bits_hi, bits_lo, bits_all, Nat.reduceSub] <;> rfl) (by rw [hm]; rfl) rfl rfl (by decide) (by simp (disch := decide) only [bitsAt, bits_hi, bits_lo, bits_all, Nat.reduceSub] <;> rfl)]
  unfold decodeDouble
  rw [hm]
  show accept2 _ _ _ _ _ = _
  refine (congrArg (accept2 _ _ _ _) ?_).trans (accept2_wf hw ?_ ?_)
  · simp (disch := decide) only [bitsAt, bits_hi, bits_lo, bits_all, Nat.reduceSub] <;> rfl
  · simp (disch := decide) only [zeros, List.all_cons, List.all_nil, bits_hi, bits_lo, bits_all, Nat.reduceSub] <;> rfl
  · simp (disch := decide) only [zeros, List.all_cons, List.all_nil, bits_hi, bits_lo, bits_all, Nat.reduceSub] <;> rfl

theorem sunb (port : BitVec 2) : Statement (.sunb port) := by
  intro ws rest hw he
  obtain rfl := Option.some.inj he
  have hm : bitsAt ((0 : BitVec 5) ++ port ++ (0x308 : BitVec 25)) 3 7 = 0x61#7 := by simp (disch := decide) only [bitsAt, bits_hi, bits_lo, bits_all, Nat.reduceSub] <;> rfl
  refine decode_one _ _ rest (by simp (disch := decide) only [bitsAt, bits_hi, bits_lo, bits_all, Nat.reduceSub] <;> rfl) ?_
  rw [decodeWords_single _ 97 (by simp (disch := decide) only [bitsAt, bits_hi, bits_lo, bits_all, Nat.reduceSub] <;> rfl) (by rw [hm]; rfl) rfl rfl (by decide) (by simp (disch := decide) only [bitsAt, bits_hi, bits_lo, bits_all, Nat.reduceSub] <;> rfl)]
  unfold decodeSingle
  rw [hm]
  show decMajor61 _ = _
  unfold decMajor61
  refine (congrArg (accept _ _) ?_).trans (accept_wf hw ?_)
  · simp (disch := decide) only [bitsAt, bits_hi, bits_lo, bits_all, Nat.reduceSub] <;> rfl
  · simp (disch := decide) only [zeros, List.all_cons, List.all_nil, bits_hi, bits_lo, bits_all, Nat.reduceSub] <;> rfl

theorem sstat (p : BitVec 2) (rd : BitVec 5) (p_part2 : BitVec 1) : Statement (.sstat p rd p_part2) := by
  intro ws rest hw he
  obtain rfl := Option.some.inj he
  have hm : bitsAt ((0 : BitVec 5) ++ p ++ (0 : BitVec 10) ++ rd ++ (0x62 : BitVec 7) ++ p_part2 ++ (0 : BitVec 2)) 3 7 = 0x62#7 := by simp (disch := decide) only [bitsAt, bits_hi, bits_lo, bits_all, Nat.reduceSub] <;> rfl
  refine decode_one _ _ rest (by simp (disch := decide) only [bitsAt, bits_hi, bits_lo, bits_all, Nat.reduceSub] <;> rfl) ?_
  rw [decodeWords_single _ 98 (by simp (disch := decide) only [bitsAt, bits_hi, bits_lo, bits_all, Nat.reduceSub] <;> rfl) (by rw [hm]; rfl) rfl rfl (by decide) (by rfl)]
  unfold decodeSingle
  rw [hm]
  show decMajor62 _ = _
  unfold decMajor62
  refine (congrArg (accept _ _) ?_).trans (accept_wf hw ?_)
  · simp (disch := decide) only [bitsAt, bits_hi, bits_lo, bits_all, Nat.reduceSub] <;> rfl
  · simp (disch := decide) only [zeros, List.all_cons, List.all_nil, bits_hi, bits_lo, bits_all, Nat.reduceSub] <;> rfl

theorem lrd (f : BitVec 1) (rd : BitVec 5) (p : BitVec 1) : Statement (.lrd f rd p) := by
  intro ws rest hw he
  obtain rfl := Option.some.inj he
  have hm : bitsAt ((0 : BitVec 6) ++ f ++ (0 : BitVec 10) ++ rd ++ (0x63 : BitVec 7) ++ p ++ (0 : BitVec 2)) 3 7 = 0x63#7 := by simp (disch := decide) only [bitsAt, bits_hi, bits_lo, bits_all, Nat.reduceSub] <;> rfl
  refine decode_one _ _ rest (by simp (disch := decide) only [bitsAt, bits_hi, bits_lo, bits_all, Nat.reduceSub] <;> rfl) ?_
  rw [decodeWords_single _ 99 (by simp (disch := decide) only [bitsAt, bits_hi, bits_lo, bits_all, Nat.reduceSub] <;> rfl) (by rw [hm]; rfl) rfl rfl (by decide) (by rfl)]
  unfold decodeSingle
  rw [hm]
  show decMajor63 _ = _
  unfold decMajor63
  refine (congrArg (accept _ _) ?_).trans (accept_wf hw ?_)
  · simp (disch := decide) only [bitsAt, bits_hi, bits_lo, bits_all, Nat.reduceSub] <;> rfl
  · simp (disch := decide) only [zeros, List.all_cons, List.all_nil, bits_hi, bits_lo, bits_all, Nat.reduceSub] <;> rfl

theorem lwr (rs1 : BitVec 5) (p : BitVec 1) : Statement (.lwr rs1 p) := by
  intro ws rest hw he
  obtain rfl := Option.some.inj he
  have hm : bitsAt ((0 : BitVec 12) ++ rs1 ++ (0x64 : BitVec 12) ++ p ++ (0 : BitVec 2)) 3 7 = 0x64#7 := by simp (disch := decide) only [bitsAt, bits_hi, bits_lo, bits_all, Nat.reduceSub] <;> rfl
  refine decode_one _ _ rest (by simp (disch := decide) only [bitsAt, bits_hi, bits_lo, bits_all, Nat.reduceSub] <;> rfl) ?_
  rw [decodeWords_single _ 100 (by simp (disch := decide) only [bitsAt, bits_hi, bits_lo, bits_all, Nat.reduceSub] <;> rfl) (by rw [hm]; rfl) rfl rfl (by decide) (by rfl)]
  unfold decodeSingle
  rw [hm]
  show decMajor64 _ = _
  unfold decMajor64
  refine (congrArg (accept _ _) ?_).trans (accept_wf hw ?_)
  · simp (disch := decide) only [bitsAt, bits_hi, bits_lo, bits_all, Nat.reduceSub] <;> rfl
  · simp (disch := decide) only [zeros, List.all_cons, List.all_nil, bits_hi, bits_lo, bits_all, Nat.reduceSub] <;> rfl

theorem lstat (rd : BitVec 5) (p : BitVec 1) : Statement (.lstat rd p) := by
  intro ws rest hw he
  obtain rfl := Option.some.inj he
  have hm : bitsAt ((0 : BitVec 17) ++ rd ++ (0x65 : BitVec 7) ++ p ++ (0 : BitVec 2)) 3 7 = 0x65#7 := by simp (disch := decide) only [bitsAt, bits_hi, bits_lo, bits_all, Nat.reduceSub] <;> rfl
  refine decode_one _ _ rest (by simp (disch := decide) only [bitsAt, bits_hi, bits_lo, bits_all, Nat.reduceSub] <;> rfl) ?_
  rw [decodeWords_single _ 101 (by simp (disch := decide) only [bitsAt, bits_hi, bits_lo, bits_all, Nat.reduceSub] <;> rfl) (by rw [hm]; rfl) rfl rfl (by decide) (by rfl)]
  unfold decodeSingle
  rw [hm]
  show decMajor65 _ = _
  unfold decMajor65
  refine (congrArg (accept _ _) ?_).trans (accept_wf hw ?_)
  · simp (disch := decide) only [bitsAt, bits_hi, bits_lo, bits_all, Nat.reduceSub] <;> rfl
  · simp (disch := decide) only [zeros, List.all_cons, List.all_nil, bits_hi, bits_lo, bits_all, Nat.reduceSub] <;> rfl

theorem tmma (rs2 : BitVec 5) (rs1 : BitVec 5) (kc : BitVec 2) (tb : BitVec 1) (ta : BitVec 1) (acc : BitVec 2) (z : BitVec 1) (rb : BitVec 2) (ra : BitVec 2) : Statement (.tmma rs2 rs1 kc tb ta acc z rb ra) := by
  intro ws rest hw he
  obtain rfl := Option.some.inj he
  have hm : bitsAt (rs2 ++ rs1 ++ kc ++ tb ++ ta ++ acc ++ (0 : BitVec 6) ++ (0x68 : BitVec 7) ++ (2 : BitVec 3)) 3 7 = 0x68#7 := by simp (disch := decide) only [bitsAt, bits_hi, bits_lo, bits_all, Nat.reduceSub] <;> rfl
  refine decode_two _ _ _ rest (by simp (disch := decide) only [bitsAt, bits_hi, bits_lo, bits_all, Nat.reduceSub] <;> rfl) ?_
  rw [decodeWords_double _ _ 104 (by simp (disch := decide) only [bitsAt, bits_hi, bits_lo, bits_all, Nat.reduceSub] <;> rfl) (by simp (disch := decide) only [bitsAt, bits_hi, bits_lo, bits_all, Nat.reduceSub] <;> rfl) (by rw [hm]; rfl) rfl rfl (by decide) (by simp (disch := decide) only [bitsAt, bits_hi, bits_lo, bits_all, Nat.reduceSub] <;> rfl)]
  unfold decodeDouble
  rw [hm]
  show accept2 _ _ _ _ _ = _
  refine (congrArg (accept2 _ _ _ _) ?_).trans (accept2_wf hw ?_ ?_)
  · simp (disch := decide) only [bitsAt, bits_hi, bits_lo, bits_all, Nat.reduceSub] <;> rfl
  · simp (disch := decide) only [zeros, List.all_cons, List.all_nil, bits_hi, bits_lo, bits_all, Nat.reduceSub] <;> rfl
  · simp (disch := decide) only [zeros, List.all_cons, List.all_nil, bits_hi, bits_lo, bits_all, Nat.reduceSub] <;> rfl

theorem tzero (c : BitVec 2) : Statement (.tzero c) := by
  intro ws rest hw he
  obtain rfl := Option.some.inj he
  have hm : bitsAt ((0 : BitVec 20) ++ c ++ (0x348 : BitVec 10)) 3 7 = 0x69#7 := by simp (disch := decide) only [bitsAt, bits_hi, bits_lo, bits_all, Nat.reduceSub] <;> rfl
  refine decode_one _ _ rest (by simp (disch := decide) only [bitsAt, bits_hi, bits_lo, bits_all, Nat.reduceSub] <;> rfl) ?_
  rw [decodeWords_single _ 105 (by simp (disch := decide) only [bitsAt, bits_hi, bits_lo, bits_all, Nat.reduceSub] <;> rfl) (by rw [hm]; rfl) rfl rfl (by decide) (by simp (disch := decide) only [bitsAt, bits_hi, bits_lo, bits_all, Nat.reduceSub] <;> rfl)]
  unfold decodeSingle
  rw [hm]
  show decMajor69 _ = _
  unfold decMajor69
  refine (congrArg (accept _ _) ?_).trans (accept_wf hw ?_)
  · simp (disch := decide) only [bitsAt, bits_hi, bits_lo, bits_all, Nat.reduceSub] <;> rfl
  · simp (disch := decide) only [zeros, List.all_cons, List.all_nil, bits_hi, bits_lo, bits_all, Nat.reduceSub] <;> rfl

theorem tld (rs1 : BitVec 5) (c : BitVec 2) : Statement (.tld rs1 c) := by
  intro ws rest hw he
  obtain rfl := Option.some.inj he
  have hm : bitsAt ((0 : BitVec 12) ++ rs1 ++ (0 : BitVec 3) ++ c ++ (0x350 : BitVec 10)) 3 7 = 0x6A#7 := by simp (disch := decide) only [bitsAt, bits_hi, bits_lo, bits_all, Nat.reduceSub] <;> rfl
  refine decode_one _ _ rest (by simp (disch := decide) only [bitsAt, bits_hi, bits_lo, bits_all, Nat.reduceSub] <;> rfl) ?_
  rw [decodeWords_single _ 106 (by simp (disch := decide) only [bitsAt, bits_hi, bits_lo, bits_all, Nat.reduceSub] <;> rfl) (by rw [hm]; rfl) rfl rfl (by decide) (by simp (disch := decide) only [bitsAt, bits_hi, bits_lo, bits_all, Nat.reduceSub] <;> rfl)]
  unfold decodeSingle
  rw [hm]
  show decMajor6A _ = _
  unfold decMajor6A
  refine (congrArg (accept _ _) ?_).trans (accept_wf hw ?_)
  · simp (disch := decide) only [bitsAt, bits_hi, bits_lo, bits_all, Nat.reduceSub] <;> rfl
  · simp (disch := decide) only [zeros, List.all_cons, List.all_nil, bits_hi, bits_lo, bits_all, Nat.reduceSub] <;> rfl

theorem tst (rs1 : BitVec 5) (c : BitVec 2) : Statement (.tst rs1 c) := by
  intro ws rest hw he
  obtain rfl := Option.some.inj he
  have hm : bitsAt ((0 : BitVec 12) ++ rs1 ++ (0 : BitVec 3) ++ c ++ (0x358 : BitVec 10)) 3 7 = 0x6B#7 := by simp (disch := decide) only [bitsAt, bits_hi, bits_lo, bits_all, Nat.reduceSub] <;> rfl
  refine decode_one _ _ rest (by simp (disch := decide) only [bitsAt, bits_hi, bits_lo, bits_all, Nat.reduceSub] <;> rfl) ?_
  rw [decodeWords_single _ 107 (by simp (disch := decide) only [bitsAt, bits_hi, bits_lo, bits_all, Nat.reduceSub] <;> rfl) (by rw [hm]; rfl) rfl rfl (by decide) (by simp (disch := decide) only [bitsAt, bits_hi, bits_lo, bits_all, Nat.reduceSub] <;> rfl)]
  unfold decodeSingle
  rw [hm]
  show decMajor6B _ = _
  unfold decMajor6B
  refine (congrArg (accept _ _) ?_).trans (accept_wf hw ?_)
  · simp (disch := decide) only [bitsAt, bits_hi, bits_lo, bits_all, Nat.reduceSub] <;> rfl
  · simp (disch := decide) only [zeros, List.all_cons, List.all_nil, bits_hi, bits_lo, bits_all, Nat.reduceSub] <;> rfl

theorem tactRelu (f : BitVec 1) (c : BitVec 2) : Statement (.tactRelu f c) := by
  intro ws rest hw he
  obtain rfl := Option.some.inj he
  have hm : bitsAt ((0 : BitVec 4) ++ f ++ (0 : BitVec 15) ++ c ++ (0x360 : BitVec 10)) 3 7 = 0x6C#7 := by simp (disch := decide) only [bitsAt, bits_hi, bits_lo, bits_all, Nat.reduceSub] <;> rfl
  refine decode_one _ _ rest (by simp (disch := decide) only [bitsAt, bits_hi, bits_lo, bits_all, Nat.reduceSub] <;> rfl) ?_
  rw [decodeWords_single _ 108 (by simp (disch := decide) only [bitsAt, bits_hi, bits_lo, bits_all, Nat.reduceSub] <;> rfl) (by rw [hm]; rfl) rfl rfl (by decide) (by simp (disch := decide) only [bitsAt, bits_hi, bits_lo, bits_all, Nat.reduceSub] <;> rfl)]
  unfold decodeSingle
  rw [hm]
  show decMajor6C _ = _
  unfold decMajor6C
  have hf : bitsAt ((0 : BitVec 4) ++ f ++ (0 : BitVec 15) ++ c ++ (0x360 : BitVec 10)) 25 2 = 0#2 := by simp (disch := decide) only [bitsAt, bits_hi, bits_lo, bits_all, Nat.reduceSub] <;> rfl
  rw [hf]
  show accept _ _ _ = _
  refine (congrArg (accept _ _) ?_).trans (accept_wf hw ?_)
  · simp (disch := decide) only [bitsAt, bits_hi, bits_lo, bits_all, Nat.reduceSub] <;> rfl
  · simp (disch := decide) only [zeros, List.all_cons, List.all_nil, bits_hi, bits_lo, bits_all, Nat.reduceSub] <;> rfl

theorem tactGelu (f : BitVec 1) (c : BitVec 2) : Statement (.tactGelu f c) := by
  intro ws rest hw he
  obtain rfl := Option.some.inj he
  have hm : bitsAt ((0 : BitVec 4) ++ f ++ (0x2000 : BitVec 15) ++ c ++ (0x360 : BitVec 10)) 3 7 = 0x6C#7 := by simp (disch := decide) only [bitsAt, bits_hi, bits_lo, bits_all, Nat.reduceSub] <;> rfl
  refine decode_one _ _ rest (by simp (disch := decide) only [bitsAt, bits_hi, bits_lo, bits_all, Nat.reduceSub] <;> rfl) ?_
  rw [decodeWords_single _ 108 (by simp (disch := decide) only [bitsAt, bits_hi, bits_lo, bits_all, Nat.reduceSub] <;> rfl) (by rw [hm]; rfl) rfl rfl (by decide) (by simp (disch := decide) only [bitsAt, bits_hi, bits_lo, bits_all, Nat.reduceSub] <;> rfl)]
  unfold decodeSingle
  rw [hm]
  show decMajor6C _ = _
  unfold decMajor6C
  have hf : bitsAt ((0 : BitVec 4) ++ f ++ (0x2000 : BitVec 15) ++ c ++ (0x360 : BitVec 10)) 25 2 = 1#2 := by simp (disch := decide) only [bitsAt, bits_hi, bits_lo, bits_all, Nat.reduceSub] <;> rfl
  rw [hf]
  show accept _ _ _ = _
  refine (congrArg (accept _ _) ?_).trans (accept_wf hw ?_)
  · simp (disch := decide) only [bitsAt, bits_hi, bits_lo, bits_all, Nat.reduceSub] <;> rfl
  · simp (disch := decide) only [zeros, List.all_cons, List.all_nil, bits_hi, bits_lo, bits_all, Nat.reduceSub] <;> rfl

theorem tactSilu (f : BitVec 1) (c : BitVec 2) : Statement (.tactSilu f c) := by
  intro ws rest hw he
  obtain rfl := Option.some.inj he
  have hm : bitsAt ((0 : BitVec 4) ++ f ++ (0x4000 : BitVec 15) ++ c ++ (0x360 : BitVec 10)) 3 7 = 0x6C#7 := by simp (disch := decide) only [bitsAt, bits_hi, bits_lo, bits_all, Nat.reduceSub] <;> rfl
  refine decode_one _ _ rest (by simp (disch := decide) only [bitsAt, bits_hi, bits_lo, bits_all, Nat.reduceSub] <;> rfl) ?_
  rw [decodeWords_single _ 108 (by simp (disch := decide) only [bitsAt, bits_hi, bits_lo, bits_all, Nat.reduceSub] <;> rfl) (by rw [hm]; rfl) rfl rfl (by decide) (by simp (disch := decide) only [bitsAt, bits_hi, bits_lo, bits_all, Nat.reduceSub] <;> rfl)]
  unfold decodeSingle
  rw [hm]
  show decMajor6C _ = _
  unfold decMajor6C
  have hf : bitsAt ((0 : BitVec 4) ++ f ++ (0x4000 : BitVec 15) ++ c ++ (0x360 : BitVec 10)) 25 2 = 2#2 := by simp (disch := decide) only [bitsAt, bits_hi, bits_lo, bits_all, Nat.reduceSub] <;> rfl
  rw [hf]
  show accept _ _ _ = _
  refine (congrArg (accept _ _) ?_).trans (accept_wf hw ?_)
  · simp (disch := decide) only [bitsAt, bits_hi, bits_lo, bits_all, Nat.reduceSub] <;> rfl
  · simp (disch := decide) only [zeros, List.all_cons, List.all_nil, bits_hi, bits_lo, bits_all, Nat.reduceSub] <;> rfl

theorem tstat (rd : BitVec 5) : Statement (.tstat rd) := by
  intro ws rest hw he
  obtain rfl := Option.some.inj he
  have hm : bitsAt ((0 : BitVec 17) ++ rd ++ (0x368 : BitVec 10)) 3 7 = 0x6D#7 := by simp (disch := decide) only [bitsAt, bits_hi, bits_lo, bits_all, Nat.reduceSub] <;> rfl
  refine decode_one _ _ rest (by simp (disch := decide) only [bitsAt, bits_hi, bits_lo, bits_all, Nat.reduceSub] <;> rfl) ?_
  rw [decodeWords_single _ 109 (by simp (disch := decide) only [bitsAt, bits_hi, bits_lo, bits_all, Nat.reduceSub] <;> rfl) (by rw [hm]; rfl) rfl rfl (by decide) (by simp (disch := decide) only [bitsAt, bits_hi, bits_lo, bits_all, Nat.reduceSub] <;> rfl)]
  unfold decodeSingle
  rw [hm]
  show decMajor6D _ = _
  unfold decMajor6D
  have hf : bitsAt ((0 : BitVec 17) ++ rd ++ (0x368 : BitVec 10)) 25 1 = 0#1 := by simp (disch := decide) only [bitsAt, bits_hi, bits_lo, bits_all, Nat.reduceSub] <;> rfl
  rw [hf]
  show accept _ _ _ = _
  refine (congrArg (accept _ _) ?_).trans (accept_wf hw ?_)
  · simp (disch := decide) only [bitsAt, bits_hi, bits_lo, bits_all, Nat.reduceSub] <;> rfl
  · simp (disch := decide) only [zeros, List.all_cons, List.all_nil, bits_hi, bits_lo, bits_all, Nat.reduceSub] <;> rfl

theorem twait  : Statement (.twait ) := by
  intro ws rest hw he
  obtain rfl := Option.some.inj he
  have hm : bitsAt ((0x2000368 : BitVec 32)) 3 7 = 0x6D#7 := by simp (disch := decide) only [bitsAt, bits_hi, bits_lo, bits_all, Nat.reduceSub] <;> rfl
  refine decode_one _ _ rest (by simp (disch := decide) only [bitsAt, bits_hi, bits_lo, bits_all, Nat.reduceSub] <;> rfl) ?_
  rw [decodeWords_single _ 109 (by simp (disch := decide) only [bitsAt, bits_hi, bits_lo, bits_all, Nat.reduceSub] <;> rfl) (by rw [hm]; rfl) rfl rfl (by decide) (by simp (disch := decide) only [bitsAt, bits_hi, bits_lo, bits_all, Nat.reduceSub] <;> rfl)]
  unfold decodeSingle
  rw [hm]
  show decMajor6D _ = _
  unfold decMajor6D
  have hf : bitsAt ((0x2000368 : BitVec 32)) 25 1 = 1#1 := by simp (disch := decide) only [bitsAt, bits_hi, bits_lo, bits_all, Nat.reduceSub] <;> rfl
  rw [hf]
  show accept _ _ _ = _
  refine (congrArg (accept _ _) ?_).trans (accept_wf hw ?_)
  · simp (disch := decide) only [bitsAt, bits_hi, bits_lo, bits_all, Nat.reduceSub] <;> rfl
  · simp (disch := decide) only [zeros, List.all_cons, List.all_nil, bits_hi, bits_lo, bits_all, Nat.reduceSub] <;> rfl

theorem recordOn (rs2 : BitVec 5) (rs1 : BitVec 5) : Statement (.recordOn rs2 rs1) := by
  intro ws rest hw he
  obtain rfl := Option.some.inj he
  have hm : bitsAt ((0 : BitVec 7) ++ rs2 ++ rs1 ++ (0x370 : BitVec 15)) 3 7 = 0x6E#7 := by simp (disch := decide) only [bitsAt, bits_hi, bits_lo, bits_all, Nat.reduceSub] <;> rfl
  refine decode_one _ _ rest (by simp (disch := decide) only [bitsAt, bits_hi, bits_lo, bits_all, Nat.reduceSub] <;> rfl) ?_
  rw [decodeWords_single _ 110 (by simp (disch := decide) only [bitsAt, bits_hi, bits_lo, bits_all, Nat.reduceSub] <;> rfl) (by rw [hm]; rfl) rfl rfl (by decide) (by simp (disch := decide) only [bitsAt, bits_hi, bits_lo, bits_all, Nat.reduceSub] <;> rfl)]
  unfold decodeSingle
  rw [hm]
  show decMajor6E _ = _
  unfold decMajor6E
  have hf : bitsAt ((0 : BitVec 7) ++ rs2 ++ rs1 ++ (0x370 : BitVec 15)) 25 2 = 0#2 := by simp (disch := decide) only [bitsAt, bits_hi, bits_lo, bits_all, Nat.reduceSub] <;> rfl
  rw [hf]
  show (if bitsAt _ 27 1 = 1 then accept _ _ _ else accept _ _ _) = _
  rw [if_neg (by simp (disch := decide) only [bitsAt, bits_hi, bits_lo, bits_all, Nat.reduceSub] <;> decide)]
  refine (congrArg (accept _ _) ?_).trans (accept_wf hw ?_)
  · simp (disch := decide) only [bitsAt, bits_hi, bits_lo, bits_all, Nat.reduceSub] <;> rfl
  · simp (disch := decide) only [zeros, List.all_cons, List.all_nil, bits_hi, bits_lo, bits_all, Nat.reduceSub] <;> rfl

theorem recordOnChain (rs2 : BitVec 5) (rs1 : BitVec 5) : Statement (.recordOnChain rs2 rs1) := by
  intro ws rest hw he
  obtain rfl := Option.some.inj he
  have hm : bitsAt ((0x4 : BitVec 7) ++ rs2 ++ rs1 ++ (0x370 : BitVec 15)) 3 7 = 0x6E#7 := by simp (disch := decide) only [bitsAt, bits_hi, bits_lo, bits_all, Nat.reduceSub] <;> rfl
  refine decode_one _ _ rest (by simp (disch := decide) only [bitsAt, bits_hi, bits_lo, bits_all, Nat.reduceSub] <;> rfl) ?_
  rw [decodeWords_single _ 110 (by simp (disch := decide) only [bitsAt, bits_hi, bits_lo, bits_all, Nat.reduceSub] <;> rfl) (by rw [hm]; rfl) rfl rfl (by decide) (by simp (disch := decide) only [bitsAt, bits_hi, bits_lo, bits_all, Nat.reduceSub] <;> rfl)]
  unfold decodeSingle
  rw [hm]
  show decMajor6E _ = _
  unfold decMajor6E
  have hf : bitsAt ((0x4 : BitVec 7) ++ rs2 ++ rs1 ++ (0x370 : BitVec 15)) 25 2 = 0#2 := by simp (disch := decide) only [bitsAt, bits_hi, bits_lo, bits_all, Nat.reduceSub] <;> rfl
  rw [hf]
  show (if bitsAt _ 27 1 = 1 then accept _ _ _ else accept _ _ _) = _
  rw [if_pos (by simp (disch := decide) only [bitsAt, bits_hi, bits_lo, bits_all, Nat.reduceSub] <;> decide)]
  refine (congrArg (accept _ _) ?_).trans (accept_wf hw ?_)
  · simp (disch := decide) only [bitsAt, bits_hi, bits_lo, bits_all, Nat.reduceSub] <;> rfl
  · simp (disch := decide) only [zeros, List.all_cons, List.all_nil, bits_hi, bits_lo, bits_all, Nat.reduceSub] <;> rfl

theorem recordOff  : Statement (.recordOff ) := by
  intro ws rest hw he
  obtain rfl := Option.some.inj he
  have hm : bitsAt ((0x2000370 : BitVec 32)) 3 7 = 0x6E#7 := by simp (disch := decide) only [bitsAt, bits_hi, bits_lo, bits_all, Nat.reduceSub] <;> rfl
  refine decode_one _ _ rest (by simp (disch := decide) only [bitsAt, bits_hi, bits_lo, bits_all, Nat.reduceSub] <;> rfl) ?_
  rw [decodeWords_single _ 110 (by simp (disch := decide) only [bitsAt, bits_hi, bits_lo, bits_all, Nat.reduceSub] <;> rfl) (by rw [hm]; rfl) rfl rfl (by decide) (by simp (disch := decide) only [bitsAt, bits_hi, bits_lo, bits_all, Nat.reduceSub] <;> rfl)]
  unfold decodeSingle
  rw [hm]
  show decMajor6E _ = _
  unfold decMajor6E
  have hf : bitsAt ((0x2000370 : BitVec 32)) 25 2 = 1#2 := by simp (disch := decide) only [bitsAt, bits_hi, bits_lo, bits_all, Nat.reduceSub] <;> rfl
  rw [hf]
  show accept _ _ _ = _
  refine (congrArg (accept _ _) ?_).trans (accept_wf hw ?_)
  · simp (disch := decide) only [bitsAt, bits_hi, bits_lo, bits_all, Nat.reduceSub] <;> rfl
  · simp (disch := decide) only [zeros, List.all_cons, List.all_nil, bits_hi, bits_lo, bits_all, Nat.reduceSub] <;> rfl

theorem recordMark (rs1 : BitVec 5) : Statement (.recordMark rs1) := by
  intro ws rest hw he
  obtain rfl := Option.some.inj he
  have hm : bitsAt ((0x40 : BitVec 12) ++ rs1 ++ (0x370 : BitVec 15)) 3 7 = 0x6E#7 := by simp (disch := decide) only [bitsAt, bits_hi, bits_lo, bits_all, Nat.reduceSub] <;> rfl
  refine decode_one _ _ rest (by simp (disch := decide) only [bitsAt, bits_hi, bits_lo, bits_all, Nat.reduceSub] <;> rfl) ?_
  rw [decodeWords_single _ 110 (by simp (disch := decide) only [bitsAt, bits_hi, bits_lo, bits_all, Nat.reduceSub] <;> rfl) (by rw [hm]; rfl) rfl rfl (by decide) (by simp (disch := decide) only [bitsAt, bits_hi, bits_lo, bits_all, Nat.reduceSub] <;> rfl)]
  unfold decodeSingle
  rw [hm]
  show decMajor6E _ = _
  unfold decMajor6E
  have hf : bitsAt ((0x40 : BitVec 12) ++ rs1 ++ (0x370 : BitVec 15)) 25 2 = 2#2 := by simp (disch := decide) only [bitsAt, bits_hi, bits_lo, bits_all, Nat.reduceSub] <;> rfl
  rw [hf]
  show accept _ _ _ = _
  refine (congrArg (accept _ _) ?_).trans (accept_wf hw ?_)
  · simp (disch := decide) only [bitsAt, bits_hi, bits_lo, bits_all, Nat.reduceSub] <;> rfl
  · simp (disch := decide) only [zeros, List.all_cons, List.all_nil, bits_hi, bits_lo, bits_all, Nat.reduceSub] <;> rfl

theorem reverse (m : BitVec 1) (mv : BitVec 12) (z : BitVec 1) : Statement (.reverse m mv z) := by
  intro ws rest hw he
  obtain rfl := Option.some.inj he
  have hm : bitsAt ((0 : BitVec 8) ++ m ++ mv ++ z ++ (0x6F : BitVec 7) ++ (2 : BitVec 3)) 3 7 = 0x6F#7 := by simp (disch := decide) only [bitsAt, bits_hi, bits_lo, bits_all, Nat.reduceSub] <;> rfl
  refine decode_two _ _ _ rest (by simp (disch := decide) only [bitsAt, bits_hi, bits_lo, bits_all, Nat.reduceSub] <;> rfl) ?_
  rw [decodeWords_double _ _ 111 (by simp (disch := decide) only [bitsAt, bits_hi, bits_lo, bits_all, Nat.reduceSub] <;> rfl) (by simp (disch := decide) only [bitsAt, bits_hi, bits_lo, bits_all, Nat.reduceSub] <;> rfl) (by rw [hm]; rfl) rfl rfl (by decide) (by simp (disch := decide) only [bitsAt, bits_hi, bits_lo, bits_all, Nat.reduceSub] <;> rfl)]
  unfold decodeDouble
  rw [hm]
  show accept2 _ _ _ _ _ = _
  refine (congrArg (accept2 _ _ _ _) ?_).trans (accept2_wf hw ?_ ?_)
  · simp (disch := decide) only [bitsAt, bits_hi, bits_lo, bits_all, Nat.reduceSub] <;> rfl
  · simp (disch := decide) only [zeros, List.all_cons, List.all_nil, bits_hi, bits_lo, bits_all, Nat.reduceSub] <;> rfl
  · simp (disch := decide) only [zeros, List.all_cons, List.all_nil, bits_hi, bits_lo, bits_all, Nat.reduceSub] <;> rfl

theorem send (slot : BitVec 11) (km1 : BitVec 4) (vs : BitVec 5) (route : BitVec 29) : Statement (.send slot km1 vs route) := by
  intro ws rest hw he
  obtain rfl := Option.some.inj he
  have hm : bitsAt (slot ++ km1 ++ vs ++ (0 : BitVec 2) ++ (0x70 : BitVec 7) ++ (2 : BitVec 3)) 3 7 = 0x70#7 := by simp (disch := decide) only [bitsAt, bits_hi, bits_lo, bits_all, Nat.reduceSub] <;> rfl
  refine decode_two _ _ _ rest (by simp (disch := decide) only [bitsAt, bits_hi, bits_lo, bits_all, Nat.reduceSub] <;> rfl) ?_
  rw [decodeWords_double _ _ 112 (by simp (disch := decide) only [bitsAt, bits_hi, bits_lo, bits_all, Nat.reduceSub] <;> rfl) (by simp (disch := decide) only [bitsAt, bits_hi, bits_lo, bits_all, Nat.reduceSub] <;> rfl) (by rw [hm]; rfl) rfl rfl (by decide) (by simp (disch := decide) only [bitsAt, bits_hi, bits_lo, bits_all, Nat.reduceSub] <;> rfl)]
  unfold decodeDouble
  rw [hm]
  show accept2 _ _ _ _ _ = _
  refine (congrArg (accept2 _ _ _ _) ?_).trans (accept2_wf hw ?_ ?_)
  · simp (disch := decide) only [bitsAt, bits_hi, bits_lo, bits_all, Nat.reduceSub] <;> rfl
  · simp (disch := decide) only [zeros, List.all_cons, List.all_nil, bits_hi, bits_lo, bits_all, Nat.reduceSub] <;> rfl
  · simp (disch := decide) only [zeros, List.all_cons, List.all_nil, bits_hi, bits_lo, bits_all, Nat.reduceSub] <;> rfl

theorem rsel (slot : BitVec 11) (km1 : BitVec 4) (rs1 : BitVec 5) (mcid : BitVec 5) (ce : BitVec 1) (link : BitVec 4) : Statement (.rsel slot km1 rs1 mcid ce link) := by
  intro ws rest hw he
  obtain rfl := Option.some.inj he
  have hm : bitsAt (slot ++ km1 ++ rs1 ++ (0 : BitVec 2) ++ (0x71 : BitVec 7) ++ (2 : BitVec 3)) 3 7 = 0x71#7 := by simp (disch := decide) only [bitsAt, bits_hi, bits_lo, bits_all, Nat.reduceSub] <;> rfl
  refine decode_two _ _ _ rest (by simp (disch := decide) only [bitsAt, bits_hi, bits_lo, bits_all, Nat.reduceSub] <;> rfl) ?_
  rw [decodeWords_double _ _ 113 (by simp (disch := decide) only [bitsAt, bits_hi, bits_lo, bits_all, Nat.reduceSub] <;> rfl) (by simp (disch := decide) only [bitsAt, bits_hi, bits_lo, bits_all, Nat.reduceSub] <;> rfl) (by rw [hm]; rfl) rfl rfl (by decide) (by simp (disch := decide) only [bitsAt, bits_hi, bits_lo, bits_all, Nat.reduceSub] <;> rfl)]
  unfold decodeDouble
  rw [hm]
  show accept2 _ _ _ _ _ = _
  refine (congrArg (accept2 _ _ _ _) ?_).trans (accept2_wf hw ?_ ?_)
  · simp (disch := decide) only [bitsAt, bits_hi, bits_lo, bits_all, Nat.reduceSub] <;> rfl
  · simp (disch := decide) only [zeros, List.all_cons, List.all_nil, bits_hi, bits_lo, bits_all, Nat.reduceSub] <;> rfl
  · simp (disch := decide) only [zeros, List.all_cons, List.all_nil, bits_hi, bits_lo, bits_all, Nat.reduceSub] <;> rfl

theorem sync  : Statement (.sync ) := by
  intro ws rest hw he
  obtain rfl := Option.some.inj he
  have hm : bitsAt ((0x390 : BitVec 32)) 3 7 = 0x72#7 := by simp (disch := decide) only [bitsAt, bits_hi, bits_lo, bits_all, Nat.reduceSub] <;> rfl
  refine decode_one _ _ rest (by simp (disch := decide) only [bitsAt, bits_hi, bits_lo, bits_all, Nat.reduceSub] <;> rfl) ?_
  rw [decodeWords_single _ 114 (by simp (disch := decide) only [bitsAt, bits_hi, bits_lo, bits_all, Nat.reduceSub] <;> rfl) (by rw [hm]; rfl) rfl rfl (by decide) (by simp (disch := decide) only [bitsAt, bits_hi, bits_lo, bits_all, Nat.reduceSub] <;> rfl)]
  unfold decodeSingle
  rw [hm]
  show decMajor72 _ = _
  unfold decMajor72
  have hf : bitsAt ((0x390 : BitVec 32)) 25 1 = 0#1 := by simp (disch := decide) only [bitsAt, bits_hi, bits_lo, bits_all, Nat.reduceSub] <;> rfl
  rw [hf]
  show accept _ _ _ = _
  refine (congrArg (accept _ _) ?_).trans (accept_wf hw ?_)
  · simp (disch := decide) only [bitsAt, bits_hi, bits_lo, bits_all, Nat.reduceSub] <;> rfl
  · simp (disch := decide) only [zeros, List.all_cons, List.all_nil, bits_hi, bits_lo, bits_all, Nat.reduceSub] <;> rfl

theorem syncv (o : BitVec 1) (rs1 : BitVec 3) (rd : BitVec 3) : Statement (.syncv o rs1 rd) := by
  intro ws rest hw he
  obtain rfl := Option.some.inj he
  have hm : bitsAt ((0 : BitVec 5) ++ o ++ (0x80 : BitVec 8) ++ rs1 ++ (0 : BitVec 2) ++ rd ++ (0x390 : BitVec 10)) 3 7 = 0x72#7 := by simp (disch := decide) only [bitsAt, bits_hi, bits_lo, bits_all, Nat.reduceSub] <;> rfl
  refine decode_one _ _ rest (by simp (disch := decide) only [bitsAt, bits_hi, bits_lo, bits_all, Nat.reduceSub] <;> rfl) ?_
  rw [decodeWords_single _ 114 (by simp (disch := decide) only [bitsAt, bits_hi, bits_lo, bits_all, Nat.reduceSub] <;> rfl) (by rw [hm]; rfl) rfl rfl (by decide) (by simp (disch := decide) only [bitsAt, bits_hi, bits_lo, bits_all, Nat.reduceSub] <;> rfl)]
  unfold decodeSingle
  rw [hm]
  show decMajor72 _ = _
  unfold decMajor72
  have hf : bitsAt ((0 : BitVec 5) ++ o ++ (0x80 : BitVec 8) ++ rs1 ++ (0 : BitVec 2) ++ rd ++ (0x390 : BitVec 10)) 25 1 = 1#1 := by simp (disch := decide) only [bitsAt, bits_hi, bits_lo, bits_all, Nat.reduceSub] <;> rfl
  rw [hf]
  show accept _ _ _ = _
  refine (congrArg (accept _ _) ?_).trans (accept_wf hw ?_)
  · simp (disch := decide) only [bitsAt, bits_hi, bits_lo, bits_all, Nat.reduceSub] <;> rfl
  · simp (disch := decide) only [zeros, List.all_cons, List.all_nil, bits_hi, bits_lo, bits_all, Nat.reduceSub] <;> rfl

theorem gcall (rs1 : BitVec 5) : Statement (.gcall rs1) := by
  intro ws rest hw he
  obtain rfl := Option.some.inj he
  have hm : bitsAt ((0 : BitVec 12) ++ rs1 ++ (0x398 : BitVec 15)) 3 7 = 0x73#7 := by simp (disch := decide) only [bitsAt, bits_hi, bits_lo, bits_all, Nat.reduceSub] <;> rfl
  refine decode_one _ _ rest (by simp (disch := decide) only [bitsAt, bits_hi, bits_lo, bits_all, Nat.reduceSub] <;> rfl) ?_
  rw [decodeWords_single _ 115 (by simp (disch := decide) only [bitsAt, bits_hi, bits_lo, bits_all, Nat.reduceSub] <;> rfl) (by rw [hm]; rfl) rfl rfl (by decide) (by simp (disch := decide) only [bitsAt, bits_hi, bits_lo, bits_all, Nat.reduceSub] <;> rfl)]
  unfold decodeSingle
  rw [hm]
  show decMajor73 _ = _
  unfold decMajor73
  refine (congrArg (accept _ _) ?_).trans (accept_wf hw ?_)
  · simp (disch := decide) only [bitsAt, bits_hi, bits_lo, bits_all, Nat.reduceSub] <;> rfl
  · simp (disch := decide) only [zeros, List.all_cons, List.all_nil, bits_hi, bits_lo, bits_all, Nat.reduceSub] <;> rfl

theorem gret  : Statement (.gret ) := by
  intro ws rest hw he
  obtain rfl := Option.some.inj he
  have hm : bitsAt ((0x3a0 : BitVec 32)) 3 7 = 0x74#7 := by simp (disch := decide) only [bitsAt, bits_hi, bits_lo, bits_all, Nat.reduceSub] <;> rfl
  refine decode_one _ _ rest (by simp (disch := decide) only [bitsAt, bits_hi, bits_lo, bits_all, Nat.reduceSub] <;> rfl) ?_
  rw [decodeWords_single _ 116 (by simp (disch := decide) only [bitsAt, bits_hi, bits_lo, bits_all, Nat.reduceSub] <;> rfl) (by rw [hm]; rfl) rfl rfl (by decide) (by simp (disch := decide) only [bitsAt, bits_hi, bits_lo, bits_all, Nat.reduceSub] <;> rfl)]
  unfold decodeSingle
  rw [hm]
  show decMajor74 _ = _
  unfold decMajor74
  refine (congrArg (accept _ _) ?_).trans (accept_wf hw ?_)
  · simp (disch := decide) only [bitsAt, bits_hi, bits_lo, bits_all, Nat.reduceSub] <;> rfl
  · simp (disch := decide) only [zeros, List.all_cons, List.all_nil, bits_hi, bits_lo, bits_all, Nat.reduceSub] <;> rfl

theorem awset (lr : BitVec 1) (n : BitVec 1) (clr : BitVec 1) (w : BitVec 1) (r : BitVec 1) (rs2 : BitVec 5) (rs1 : BitVec 5) (leni : BitVec 17) : Statement (.awset lr n clr w r rs2 rs1 leni) := by
  intro ws rest hw he
  obtain rfl := Option.some.inj he
  have hm : bitsAt ((0 : BitVec 7) ++ lr ++ n ++ clr ++ w ++ r ++ rs2 ++ rs1 ++ (0x75 : BitVec 7) ++ (2 : BitVec 3)) 3 7 = 0x75#7 := by simp (disch := decide) only [bitsAt, bits_hi, bits_lo, bits_all, Nat.reduceSub] <;> rfl
  refine decode_two _ _ _ rest (by simp (disch := decide) only [bitsAt, bits_hi, bits_lo, bits_all, Nat.reduceSub] <;> rfl) ?_
  rw [decodeWords_double _ _ 117 (by simp (disch := decide) only [bitsAt, bits_hi, bits_lo, bits_all, Nat.reduceSub] <;> rfl) (by simp (disch := decide) only [bitsAt, bits_hi, bits_lo, bits_all, Nat.reduceSub] <;> rfl) (by rw [hm]; rfl) rfl rfl (by decide) (by simp (disch := decide) only [bitsAt, bits_hi, bits_lo, bits_all, Nat.reduceSub] <;> rfl)]
  unfold decodeDouble
  rw [hm]
  show accept2 _ _ _ _ _ = _
  refine (congrArg (accept2 _ _ _ _) ?_).trans (accept2_wf hw ?_ ?_)
  · simp (disch := decide) only [bitsAt, bits_hi, bits_lo, bits_all, Nat.reduceSub] <;> rfl
  · simp (disch := decide) only [zeros, List.all_cons, List.all_nil, bits_hi, bits_lo, bits_all, Nat.reduceSub] <;> rfl
  · simp (disch := decide) only [zeros, List.all_cons, List.all_nil, bits_hi, bits_lo, bits_all, Nat.reduceSub] <;> rfl

theorem fld (x : BitVec 1) (z : BitVec 2) (rs2 : BitVec 5) (rs1 : BitVec 5) (rd : BitVec 5) (p : BitVec 1) : Statement (.fld x z rs2 rs1 rd p) := by
  intro ws rest hw he
  obtain rfl := Option.some.inj he
  have hm : bitsAt ((0 : BitVec 1) ++ x ++ z ++ (0 : BitVec 3) ++ rs2 ++ rs1 ++ rd ++ (0x76 : BitVec 7) ++ p ++ (0 : BitVec 2)) 3 7 = 0x76#7 := by simp (disch := decide) only [bitsAt, bits_hi, bits_lo, bits_all, Nat.reduceSub] <;> rfl
  refine decode_one _ _ rest (by simp (disch := decide) only [bitsAt, bits_hi, bits_lo, bits_all, Nat.reduceSub] <;> rfl) ?_
  rw [decodeWords_single _ 118 (by simp (disch := decide) only [bitsAt, bits_hi, bits_lo, bits_all, Nat.reduceSub] <;> rfl) (by rw [hm]; rfl) rfl rfl (by decide) (by rfl)]
  unfold decodeSingle
  rw [hm]
  show decMajor76 _ = _
  unfold decMajor76
  have hf : bitsAt ((0 : BitVec 1) ++ x ++ z ++ (0 : BitVec 3) ++ rs2 ++ rs1 ++ rd ++ (0x76 : BitVec 7) ++ p ++ (0 : BitVec 2)) 25 3 = 0#3 := by simp (disch := decide) only [bitsAt, bits_hi, bits_lo, bits_all, Nat.reduceSub] <;> rfl
  rw [hf]
  show accept _ _ _ = _
  refine (congrArg (accept _ _) ?_).trans (accept_wf hw ?_)
  · simp (disch := decide) only [bitsAt, bits_hi, bits_lo, bits_all, Nat.reduceSub] <;> rfl
  · simp (disch := decide) only [zeros, List.all_cons, List.all_nil, bits_hi, bits_lo, bits_all, Nat.reduceSub] <;> rfl

theorem fst (z : BitVec 2) (rs2 : BitVec 5) (rs1 : BitVec 5) (rd : BitVec 5) (p : BitVec 1) : Statement (.fst z rs2 rs1 rd p) := by
  intro ws rest hw he
  obtain rfl := Option.some.inj he
  have hm : bitsAt ((0 : BitVec 2) ++ z ++ (0x1 : BitVec 3) ++ rs2 ++ rs1 ++ rd ++ (0x76 : BitVec 7) ++ p ++ (0 : BitVec 2)) 3 7 = 0x76#7 := by simp (disch := decide) only [bitsAt, bits_hi, bits_lo, bits_all, Nat.reduceSub] <;> rfl
  refine decode_one _ _ rest (by simp (disch := decide) only [bitsAt, bits_hi, bits_lo, bits_all, Nat.reduceSub] <;> rfl) ?_
  rw [decodeWords_single _ 118 (by simp (disch := decide) only [bitsAt, bits_hi, bits_lo, bits_all, Nat.reduceSub] <;> rfl) (by rw [hm]; rfl) rfl rfl (by decide) (by rfl)]
  unfold decodeSingle
  rw [hm]
  show decMajor76 _ = _
  unfold decMajor76
  have hf : bitsAt ((0 : BitVec 2) ++ z ++ (0x1 : BitVec 3) ++ rs2 ++ rs1 ++ rd ++ (0x76 : BitVec 7) ++ p ++ (0 : BitVec 2)) 25 3 = 1#3 := by simp (disch := decide) only [bitsAt, bits_hi, bits_lo, bits_all, Nat.reduceSub] <;> rfl
  rw [hf]
  show accept _ _ _ = _
  refine (congrArg (accept _ _) ?_).trans (accept_wf hw ?_)
  · simp (disch := decide) only [bitsAt, bits_hi, bits_lo, bits_all, Nat.reduceSub] <;> rfl
  · simp (disch := decide) only [zeros, List.all_cons, List.all_nil, bits_hi, bits_lo, bits_all, Nat.reduceSub] <;> rfl

theorem fflush (imm : BitVec 1) (g : BitVec 3) (rs2 : BitVec 5) (rs1 : BitVec 5) (p : BitVec 1) : Statement (.fflush imm g rs2 rs1 p) := by
  intro ws rest hw he
  obtain rfl := Option.some.inj he
  have hm : bitsAt (imm ++ g ++ (0x2 : BitVec 3) ++ rs2 ++ rs1 ++ (0x76 : BitVec 12) ++ p ++ (0 : BitVec 2)) 3 7 = 0x76#7 := by simp (disch := decide) only [bitsAt, bits_hi, bits_lo, bits_all, Nat.reduceSub] <;> rfl
  refine decode_one _ _ rest (by simp (disch := decide) only [bitsAt, bits_hi, bits_lo, bits_all, Nat.reduceSub] <;> rfl) ?_
  rw [decodeWords_single _ 118 (by simp (disch := decide) only [bitsAt, bits_hi, bits_lo, bits_all, Nat.reduceSub] <;> rfl) (by rw [hm]; rfl) rfl rfl (by decide) (by rfl)]
  unfold decodeSingle
  rw [hm]
  show decMajor76 _ = _
  unfold decMajor76
  have hf : bitsAt (imm ++ g ++ (0x2 : BitVec 3) ++ rs2 ++ rs1 ++ (0x76 : BitVec 12) ++ p ++ (0 : BitVec 2)) 25 3 = 2#3 := by simp (disch := decide) only [bitsAt, bits_hi, bits_lo, bits_all, Nat.reduceSub] <;> rfl
  rw [hf]
  show accept _ _ _ = _
  refine (congrArg (accept _ _) ?_).trans (accept_wf hw ?_)
  · simp (disch := decide) only [bitsAt, bits_hi, bits_lo, bits_all, Nat.reduceSub] <;> rfl
  · simp (disch := decide) only [zeros, List.all_cons, List.all_nil, bits_hi, bits_lo, bits_all, Nat.reduceSub] <;> rfl

theorem fpush (s : BitVec 1) (r : BitVec 1) (rs2 : BitVec 5) (rs1 : BitVec 5) (rd : BitVec 5) (p : BitVec 1) : Statement (.fpush s r rs2 rs1 rd p) := by
  intro ws rest hw he
  obtain rfl := Option.some.inj he
  have hm : bitsAt ((0 : BitVec 2) ++ s ++ r ++ (0x3 : BitVec 3) ++ rs2 ++ rs1 ++ rd ++ (0x76 : BitVec 7) ++ p ++ (0 : BitVec 2)) 3 7 = 0x76#7 := by simp (disch := decide) only [bitsAt, bits_hi, bits_lo, bits_all, Nat.reduceSub] <;> rfl
  refine decode_one _ _ rest (by simp (disch := decide) only [bitsAt, bits_hi, bits_lo, bits_all, Nat.reduceSub] <;> rfl) ?_
  rw [decodeWords_single _ 118 (by simp (disch := decide) only [bitsAt, bits_hi, bits_lo, bits_all, Nat.reduceSub] <;> rfl) (by rw [hm]; rfl) rfl rfl (by decide) (by rfl)]
  unfold decodeSingle
  rw [hm]
  show decMajor76 _ = _
  unfold decMajor76
  have hf : bitsAt ((0 : BitVec 2) ++ s ++ r ++ (0x3 : BitVec 3) ++ rs2 ++ rs1 ++ rd ++ (0x76 : BitVec 7) ++ p ++ (0 : BitVec 2)) 25 3 = 3#3 := by simp (disch := decide) only [bitsAt, bits_hi, bits_lo, bits_all, Nat.reduceSub] <;> rfl
  rw [hf]
  show accept _ _ _ = _
  refine (congrArg (accept _ _) ?_).trans (accept_wf hw ?_)
  · simp (disch := decide) only [bitsAt, bits_hi, bits_lo, bits_all, Nat.reduceSub] <;> rfl
  · simp (disch := decide) only [zeros, List.all_cons, List.all_nil, bits_hi, bits_lo, bits_all, Nat.reduceSub] <;> rfl

theorem fpf (rs2 : BitVec 5) (rs1 : BitVec 5) (p : BitVec 1) : Statement (.fpf rs2 rs1 p) := by
  intro ws rest hw he
  obtain rfl := Option.some.inj he
  have hm : bitsAt ((0x4 : BitVec 7) ++ rs2 ++ rs1 ++ (0x76 : BitVec 12) ++ p ++ (0 : BitVec 2)) 3 7 = 0x76#7 := by simp (disch := decide) only [bitsAt, bits_hi, bits_lo, bits_all, Nat.reduceSub] <;> rfl
  refine decode_one _ _ rest (by simp (disch := decide) only [bitsAt, bits_hi, bits_lo, bits_all, Nat.reduceSub] <;> rfl) ?_
  rw [decodeWords_single _ 118 (by simp (disch := decide) only [bitsAt, bits_hi, bits_lo, bits_all, Nat.reduceSub] <;> rfl) (by rw [hm]; rfl) rfl rfl (by decide) (by rfl)]
  unfold decodeSingle
  rw [hm]
  show decMajor76 _ = _
  unfold decMajor76
  have hf : bitsAt ((0x4 : BitVec 7) ++ rs2 ++ rs1 ++ (0x76 : BitVec 12) ++ p ++ (0 : BitVec 2)) 25 3 = 4#3 := by simp (disch := decide) only [bitsAt, bits_hi, bits_lo, bits_all, Nat.reduceSub] <;> rfl
  rw [hf]
  show accept _ _ _ = _
  refine (congrArg (accept _ _) ?_).trans (accept_wf hw ?_)
  · simp (disch := decide) only [bitsAt, bits_hi, bits_lo, bits_all, Nat.reduceSub] <;> rfl
  · simp (disch := decide) only [zeros, List.all_cons, List.all_nil, bits_hi, bits_lo, bits_all, Nat.reduceSub] <;> rfl

theorem pginv (g : BitVec 3) (rs2 : BitVec 5) (rs1 : BitVec 5) (p : BitVec 1) : Statement (.pginv g rs2 rs1 p) := by
  intro ws rest hw he
  obtain rfl := Option.some.inj he
  have hm : bitsAt ((0 : BitVec 1) ++ g ++ (0x5 : BitVec 3) ++ rs2 ++ rs1 ++ (0x76 : BitVec 12) ++ p ++ (0 : BitVec 2)) 3 7 = 0x76#7 := by simp (disch := decide) only [bitsAt, bits_hi, bits_lo, bits_all, Nat.reduceSub] <;> rfl
  refine decode_one _ _ rest (by simp (disch := decide) only [bitsAt, bits_hi, bits_lo, bits_all, Nat.reduceSub] <;> rfl) ?_
  rw [decodeWords_single _ 118 (by simp (disch := decide) only [bitsAt, bits_hi, bits_lo, bits_all, Nat.reduceSub] <;> rfl) (by rw [hm]; rfl) rfl rfl (by decide) (by rfl)]
  unfold decodeSingle
  rw [hm]
  show decMajor76 _ = _
  unfold decMajor76
  have hf : bitsAt ((0 : BitVec 1) ++ g ++ (0x5 : BitVec 3) ++ rs2 ++ rs1 ++ (0x76 : BitVec 12) ++ p ++ (0 : BitVec 2)) 25 3 = 5#3 := by simp (disch := decide) only [bitsAt, bits_hi, bits_lo, bits_all, Nat.reduceSub] <;> rfl
  rw [hf]
  show accept _ _ _ = _
  refine (congrArg (accept _ _) ?_).trans (accept_wf hw ?_)
  · simp (disch := decide) only [bitsAt, bits_hi, bits_lo, bits_all, Nat.reduceSub] <;> rfl
  · simp (disch := decide) only [zeros, List.all_cons, List.all_nil, bits_hi, bits_lo, bits_all, Nat.reduceSub] <;> rfl

theorem fqdeq (c : BitVec 3) (rd : BitVec 5) (p : BitVec 1) : Statement (.fqdeq c rd p) := by
  intro ws rest hw he
  obtain rfl := Option.some.inj he
  have hm : bitsAt ((0 : BitVec 9) ++ c ++ (0 : BitVec 5) ++ rd ++ (0x77 : BitVec 7) ++ p ++ (0 : BitVec 2)) 3 7 = 0x77#7 := by simp (disch := decide) only [bitsAt, bits_hi, bits_lo, bits_all, Nat.reduceSub] <;> rfl
  refine decode_one _ _ rest (by simp (disch := decide) only [bitsAt, bits_hi, bits_lo, bits_all, Nat.reduceSub] <;> rfl) ?_
  rw [decodeWords_single _ 119 (by simp (disch := decide) only [bitsAt, bits_hi, bits_lo, bits_all, Nat.reduceSub] <;> rfl) (by rw [hm]; rfl) rfl rfl (by decide) (by rfl)]
  unfold decodeSingle
  rw [hm]
  show decMajor77 _ = _
  unfold decMajor77
  have hf : bitsAt ((0 : BitVec 9) ++ c ++ (0 : BitVec 5) ++ rd ++ (0x77 : BitVec 7) ++ p ++ (0 : BitVec 2)) 25 2 = 0#2 := by simp (disch := decide) only [bitsAt, bits_hi, bits_lo, bits_all, Nat.reduceSub] <;> rfl
  rw [hf]
  show accept _ _ _ = _
  refine (congrArg (accept _ _) ?_).trans (accept_wf hw ?_)
  · simp (disch := decide) only [bitsAt, bits_hi, bits_lo, bits_all, Nat.reduceSub] <;> rfl
  · simp (disch := decide) only [zeros, List.all_cons, List.all_nil, bits_hi, bits_lo, bits_all, Nat.reduceSub] <;> rfl

theorem replay (rs1 : BitVec 5) (rd : BitVec 3) (p : BitVec 1) : Statement (.replay rs1 rd p) := by
  intro ws rest hw he
  obtain rfl := Option.some.inj he
  have hm : bitsAt ((0x20 : BitVec 12) ++ rs1 ++ (0 : BitVec 2) ++ rd ++ (0x77 : BitVec 7) ++ p ++ (0 : BitVec 2)) 3 7 = 0x77#7 := by simp (disch := decide) only [bitsAt, bits_hi, bits_lo, bits_all, Nat.reduceSub] <;> rfl
  refine decode_one _ _ rest (by simp (disch := decide) only [bitsAt, bits_hi, bits_lo, bits_all, Nat.reduceSub] <;> rfl) ?_
  rw [decodeWords_single _ 119 (by simp (disch := decide) only [bitsAt, bits_hi, bits_lo, bits_all, Nat.reduceSub] <;> rfl) (by rw [hm]; rfl) rfl rfl (by decide) (by rfl)]
  unfold decodeSingle
  rw [hm]
  show decMajor77 _ = _
  unfold decMajor77
  have hf : bitsAt ((0x20 : BitVec 12) ++ rs1 ++ (0 : BitVec 2) ++ rd ++ (0x77 : BitVec 7) ++ p ++ (0 : BitVec 2)) 25 2 = 1#2 := by simp (disch := decide) only [bitsAt, bits_hi, bits_lo, bits_all, Nat.reduceSub] <;> rfl
  rw [hf]
  show accept _ _ _ = _
  refine (congrArg (accept _ _) ?_).trans (accept_wf hw ?_)
  · simp (disch := decide) only [bitsAt, bits_hi, bits_lo, bits_all, Nat.reduceSub] <;> rfl
  · simp (disch := decide) only [zeros, List.all_cons, List.all_nil, bits_hi, bits_lo, bits_all, Nat.reduceSub] <;> rfl

theorem term (rs1 : BitVec 5) (rd : BitVec 3) (p : BitVec 1) : Statement (.term rs1 rd p) := by
  intro ws rest hw he
  obtain rfl := Option.some.inj he
  have hm : bitsAt ((0x40 : BitVec 12) ++ rs1 ++ (0 : BitVec 2) ++ rd ++ (0x77 : BitVec 7) ++ p ++ (0 : BitVec 2)) 3 7 = 0x77#7 := by simp (disch := decide) only [bitsAt, bits_hi, bits_lo, bits_all, Nat.reduceSub] <;> rfl
  refine decode_one _ _ rest (by simp (disch := decide) only [bitsAt, bits_hi, bits_lo, bits_all, Nat.reduceSub] <;> rfl) ?_
  rw [decodeWords_single _ 119 (by simp (disch := decide) only [bitsAt, bits_hi, bits_lo, bits_all, Nat.reduceSub] <;> rfl) (by rw [hm]; rfl) rfl rfl (by decide) (by rfl)]
  unfold decodeSingle
  rw [hm]
  show decMajor77 _ = _
  unfold decMajor77
  have hf : bitsAt ((0x40 : BitVec 12) ++ rs1 ++ (0 : BitVec 2) ++ rd ++ (0x77 : BitVec 7) ++ p ++ (0 : BitVec 2)) 25 2 = 2#2 := by simp (disch := decide) only [bitsAt, bits_hi, bits_lo, bits_all, Nat.reduceSub] <;> rfl
  rw [hf]
  show accept _ _ _ = _
  refine (congrArg (accept _ _) ?_).trans (accept_wf hw ?_)
  · simp (disch := decide) only [bitsAt, bits_hi, bits_lo, bits_all, Nat.reduceSub] <;> rfl
  · simp (disch := decide) only [zeros, List.all_cons, List.all_nil, bits_hi, bits_lo, bits_all, Nat.reduceSub] <;> rfl

theorem nop : Statement .nop := by
  intro ws rest _ he
  obtain rfl := Option.some.inj he
  exact decode_one _ _ rest rfl rfl

theorem hint (h : BitVec 22) (p : BitVec 1) (tail : Option (BitVec 30)) : Statement (.hint h p tail) := by
  intro ws rest hw he
  cases tail with
  | none =>
    obtain rfl := Option.some.inj he
    have hm : bitsAt (h ++ (0x7F : BitVec 7) ++ p ++ (0 : BitVec 2)) 3 7 = 0x7F#7 := by
      simp (disch := decide) only [bitsAt, bits_hi, bits_lo, bits_all, Nat.reduceSub] <;> rfl
    refine decode_one _ _ rest (by simp (disch := decide) only [bitsAt, bits_hi, bits_lo, bits_all, Nat.reduceSub] <;> rfl) ?_
    rw [decodeWords_hint _ (by simp (disch := decide) only [bitsAt, bits_hi, bits_lo, bits_all, Nat.reduceSub] <;> rfl) hm]
    unfold decodeHint
    rw [if_neg]
    · simp (disch := decide) only [bitsAt, bits_hi, bits_lo, bits_all, Nat.reduceSub] <;> rfl
    · intro e
      have h1 : bitsAt (h ++ (0x7F : BitVec 7) ++ p ++ (0 : BitVec 2)) 10 22 = 0 := by rw [e]; rfl
      have h2 : bitsAt (h ++ (0x7F : BitVec 7) ++ p ++ (0 : BitVec 2)) 2 1 = 0 := by rw [e]; rfl
      simp (disch := decide) only [bitsAt, bits_hi, bits_lo, bits_all, Nat.reduceSub] at h1 h2
      subst h1 h2
      exact absurd hw (by decide)
  | some t =>
    obtain rfl := Option.some.inj he
    have hm : bitsAt (h ++ (0x7F : BitVec 7) ++ p ++ (2 : BitVec 2)) 3 7 = 0x7F#7 := by
      simp (disch := decide) only [bitsAt, bits_hi, bits_lo, bits_all, Nat.reduceSub] <;> rfl
    refine decode_two _ _ _ rest (by simp (disch := decide) only [bitsAt, bits_hi, bits_lo, bits_all, Nat.reduceSub] <;> rfl) ?_
    rw [decodeWords_hint2 _ _ (by simp (disch := decide) only [bitsAt, bits_hi, bits_lo, bits_all, Nat.reduceSub] <;> rfl) (by simp (disch := decide) only [bitsAt, bits_hi, bits_lo, bits_all, Nat.reduceSub] <;> rfl) hm]
    simp (disch := decide) only [bitsAt, bits_hi, bits_lo, bits_all, Nat.reduceSub] <;> rfl

theorem deferredTrap (a : BitVec 22) : Statement (.deferredTrap a) := fun _ _ _ h => nomatch h

theorem scrubEnd (kind : BitVec 2) (n : BitVec 32) : Statement (.scrubEnd kind n) := fun _ _ _ h => nomatch h

theorem barrierRelease (c : BitVec 15) (n : BitVec 3) : Statement (.barrierRelease c n) := fun _ _ _ h => nomatch h

theorem mutexHandoff (c : BitVec 15) (m : BitVec 4) : Statement (.mutexHandoff c m) := fun _ _ _ h => nomatch h

theorem fullWake (a : BitVec 22) : Statement (.fullWake a) := fun _ _ _ h => nomatch h

theorem eccWriteback (key : BitVec 48) : Statement (.eccWriteback key) := fun _ _ _ h => nomatch h

theorem conversionDrained (d : BitVec 4) : Statement (.conversionDrained d) := fun _ _ _ h => nomatch h

theorem conversionWayDone (d : BitVec 4) : Statement (.conversionWayDone d) := fun _ _ _ h => nomatch h

theorem purgeDone (k : BitVec 6) : Statement (.purgeDone k) := fun _ _ _ h => nomatch h

theorem walkStart (a : BitVec 22) : Statement (.walkStart a) := fun _ _ _ h => nomatch h

theorem walkComplete (a : BitVec 22) : Statement (.walkComplete a) := fun _ _ _ h => nomatch h

theorem faultInsertRetry (a : BitVec 22) : Statement (.faultInsertRetry a) := fun _ _ _ h => nomatch h

theorem flush (f : BitVec 6) : Statement (.flush f) := fun _ _ _ h => nomatch h

theorem flushInval (f : BitVec 6) : Statement (.flushInval f) := fun _ _ _ h => nomatch h

theorem flushComplete (f : BitVec 6) : Statement (.flushComplete f) := fun _ _ _ h => nomatch h

theorem launch (f : BitVec 6) : Statement (.launch f) := fun _ _ _ h => nomatch h

theorem launchResumed (f : BitVec 6) : Statement (.launchResumed f) := fun _ _ _ h => nomatch h

theorem kill (f : BitVec 6) : Statement (.kill f) := fun _ _ _ h => nomatch h

theorem completionInterrupt (f : BitVec 6) : Statement (.completionInterrupt f) := fun _ _ _ h => nomatch h

theorem sliceEnd (f : BitVec 6) : Statement (.sliceEnd f) := fun _ _ _ h => nomatch h

theorem switch (f : BitVec 6) (g : BitVec 6) : Statement (.switch f g) := fun _ _ _ h => nomatch h

theorem switchDone (f : BitVec 6) (g : BitVec 6) : Statement (.switchDone f g) := fun _ _ _ h => nomatch h

theorem vfResetStandStop (f : BitVec 6) : Statement (.vfResetStandStop f) := fun _ _ _ h => nomatch h

theorem vfResetDone (f : BitVec 6) : Statement (.vfResetDone f) := fun _ _ _ h => nomatch h

theorem dieEarlyRelease (d : BitVec 4) : Statement (.dieEarlyRelease d) := fun _ _ _ h => nomatch h

theorem taskStart (a : BitVec 22) : Statement (.taskStart a) := fun _ _ _ h => nomatch h

theorem gangStart (a : BitVec 22) : Statement (.gangStart a) := fun _ _ _ h => nomatch h

theorem writeThrough (a : BitVec 22) : Statement (.writeThrough a) := fun _ _ _ h => nomatch h

theorem orderedCommit (a : BitVec 22) : Statement (.orderedCommit a) := fun _ _ _ h => nomatch h

theorem coreArrive (a : BitVec 22) : Statement (.coreArrive a) := fun _ _ _ h => nomatch h

theorem barrierGroupRelease (a : BitVec 22) : Statement (.barrierGroupRelease a) := fun _ _ _ h => nomatch h

theorem disseminationRound (f : BitVec 6) (d : BitVec 4) : Statement (.disseminationRound f d) := fun _ _ _ h => nomatch h

theorem rampSlotBegin (c : BitVec 15) : Statement (.rampSlotBegin c) := fun _ _ _ h => nomatch h

theorem exchangeWatchdog (a : BitVec 22) : Statement (.exchangeWatchdog a) := fun _ _ _ h => nomatch h

theorem noProgress (f : BitVec 6) (d : BitVec 4) : Statement (.noProgress f d) := fun _ _ _ h => nomatch h

theorem sendInject (a : BitVec 22) : Statement (.sendInject a) := fun _ _ _ h => nomatch h

theorem fpushSlot (a : BitVec 22) : Statement (.fpushSlot a) := fun _ _ _ h => nomatch h

theorem pushComplete (a : BitVec 22) : Statement (.pushComplete a) := fun _ _ _ h => nomatch h

theorem copyStart (c : BitVec 15) : Statement (.copyStart c) := fun _ _ _ h => nomatch h

theorem copyComplete (c : BitVec 15) : Statement (.copyComplete c) := fun _ _ _ h => nomatch h

theorem copyStop (c : BitVec 15) : Statement (.copyStop c) := fun _ _ _ h => nomatch h

theorem streamFetch (a : BitVec 22) (port : BitVec 2) : Statement (.streamFetch a port) := fun _ _ _ h => nomatch h

theorem streamWrite (a : BitVec 22) (port : BitVec 2) : Statement (.streamWrite a port) := fun _ _ _ h => nomatch h

theorem tileJoinTimeout (a : BitVec 22) : Statement (.tileJoinTimeout a) := fun _ _ _ h => nomatch h

theorem tileComplete (a : BitVec 22) : Statement (.tileComplete a) := fun _ _ _ h => nomatch h

theorem tileFaultStop (a : BitVec 22) : Statement (.tileFaultStop a) := fun _ _ _ h => nomatch h

theorem linkWidthRestore (l : BitVec 20) : Statement (.linkWidthRestore l) := fun _ _ _ h => nomatch h

theorem budgetExhausted (a : BitVec 22) : Statement (.budgetExhausted a) := fun _ _ _ h => nomatch h

theorem unwind (a : BitVec 22) : Statement (.unwind a) := fun _ _ _ h => nomatch h

theorem adjointStepDone (a : BitVec 22) : Statement (.adjointStepDone a) := fun _ _ _ h => nomatch h

theorem registerWrite (addr : BitVec 41) (val : BitVec 64) : Statement (.registerWrite addr val) := fun _ _ _ h => nomatch h

theorem wspWrite (val : BitVec 64) : Statement (.wspWrite val) := fun _ _ _ h => nomatch h

theorem dsdWrite (val : BitVec 64) : Statement (.dsdWrite val) := fun _ _ _ h => nomatch h

theorem bfmtWrite (c : BitVec 15) (b : BitVec 4) (val : BitVec 64) : Statement (.bfmtWrite c b val) := fun _ _ _ h => nomatch h

theorem bownWrite (c : BitVec 15) (b : BitVec 4) (val : BitVec 64) : Statement (.bownWrite c b val) := fun _ _ _ h => nomatch h

theorem townWrite (c : BitVec 15) (k : BitVec 5) (val : BitVec 64) : Statement (.townWrite c k val) := fun _ _ _ h => nomatch h

theorem ltownWrite (l : BitVec 10) (val : BitVec 64) : Statement (.ltownWrite l val) := fun _ _ _ h => nomatch h

theorem segmentOwnerWrite (d : BitVec 4) (k : BitVec 11) (val : BitVec 64) : Statement (.segmentOwnerWrite d k val) := fun _ _ _ h => nomatch h

theorem arrive (n : BitVec 3) (rd : BitVec 5) : Statement (.arrive n rd) := fun _ _ _ h => nomatch h

theorem arriveNb (n : BitVec 3) (rd : BitVec 5) : Statement (.arriveNb n rd) := fun _ _ _ h => nomatch h

theorem waitLatch (n : BitVec 3) (rs : BitVec 5) : Statement (.waitLatch n rs) := fun _ _ _ h => nomatch h

theorem wait (n : BitVec 3) (rd : BitVec 5) : Statement (.wait n rd) := fun _ _ _ h => nomatch h

theorem barrierCfgWrite (n : BitVec 3) (rs : BitVec 5) : Statement (.barrierCfgWrite n rs) := fun _ _ _ h => nomatch h

theorem mutexLock (m : BitVec 4) (rd : BitVec 5) : Statement (.mutexLock m rd) := fun _ _ _ h => nomatch h

theorem mutexUnlock (m : BitVec 4) : Statement (.mutexUnlock m) := fun _ _ _ h => nomatch h

theorem eventWait (e : BitVec 5) (rd : BitVec 5) : Statement (.eventWait e rd) := fun _ _ _ h => nomatch h

theorem eventSet (e : BitVec 5) : Statement (.eventSet e) := fun _ _ _ h => nomatch h

theorem remoteEventSend (rs : BitVec 5) : Statement (.remoteEventSend rs) := fun _ _ _ h => nomatch h

theorem remoteEventArrival : Statement .remoteEventArrival := fun _ _ _ h => nomatch h

theorem selfTestDone (kind : BitVec 3) (n : BitVec 32) (pass : BitVec 1) : Statement (.selfTestDone kind n pass) := fun _ _ _ h => nomatch h

theorem waymaskWrite (d : BitVec 4) (val : BitVec 64) : Statement (.waymaskWrite d val) := fun _ _ _ h => nomatch h

theorem kslotClear (k : BitVec 6) (val : BitVec 64) : Statement (.kslotClear k val) := fun _ _ _ h => nomatch h

theorem hftinvWrite (val : BitVec 64) : Statement (.hftinvWrite val) := fun _ _ _ h => nomatch h

theorem hostWindowAccess (f : BitVec 6) (off : BitVec 24) (wr : BitVec 1) (sz : BitVec 2) (data : BitVec 64) : Statement (.hostWindowAccess f off wr sz data) := fun _ _ _ h => nomatch h

theorem hostApertureAccess (f : BitVec 6) (pa : BitVec 41) (wr : BitVec 1) (sz : BitVec 2) (data : BitVec 64) : Statement (.hostApertureAccess f pa wr sz data) := fun _ _ _ h => nomatch h

theorem flushTailWrite (f : BitVec 6) (val : BitVec 64) : Statement (.flushTailWrite f val) := fun _ _ _ h => nomatch h

theorem launchTailWrite (f : BitVec 6) (val : BitVec 64) : Statement (.launchTailWrite f val) := fun _ _ _ h => nomatch h

theorem completionHeadWrite (f : BitVec 6) (val : BitVec 64) : Statement (.completionHeadWrite f val) := fun _ _ _ h => nomatch h

theorem fabricLaunch (f : BitVec 6) (src : BitVec 12) (rec : BitVec 512) : Statement (.fabricLaunch f src rec) := fun _ _ _ h => nomatch h

theorem causeInterrupt : Statement .causeInterrupt := fun _ _ _ h => nomatch h

theorem forcedEviction (f : BitVec 6) (jid : BitVec 32) : Statement (.forcedEviction f jid) := fun _ _ _ h => nomatch h

theorem evictionOverrun (c : BitVec 15) : Statement (.evictionOverrun c) := fun _ _ _ h => nomatch h

theorem vfReset (f : BitVec 6) : Statement (.vfReset f) := fun _ _ _ h => nomatch h

theorem peerWithdrawReceived (f : BitVec 6) (d : BitVec 4) : Statement (.peerWithdrawReceived f d) := fun _ _ _ h => nomatch h

theorem vfPause (f : BitVec 6) : Statement (.vfPause f) := fun _ _ _ h => nomatch h

theorem vfUnpause (f : BitVec 6) : Statement (.vfUnpause f) := fun _ _ _ h => nomatch h

theorem supplyOutOfRange : Statement .supplyOutOfRange := fun _ _ _ h => nomatch h

theorem supplyRestored : Statement .supplyRestored := fun _ _ _ h => nomatch h

theorem supplyShutdown : Statement .supplyShutdown := fun _ _ _ h => nomatch h

theorem inletOver40 : Statement .inletOver40 := fun _ _ _ h => nomatch h

theorem inletOver45 : Statement .inletOver45 := fun _ _ _ h => nomatch h

theorem inletRestored : Statement .inletRestored := fun _ _ _ h => nomatch h

theorem powerCeilingEngage : Statement .powerCeilingEngage := fun _ _ _ h => nomatch h

theorem powerCeilingRelease : Statement .powerCeilingRelease := fun _ _ _ h => nomatch h

theorem coldStart : Statement .coldStart := fun _ _ _ h => nomatch h

theorem warmStart : Statement .warmStart := fun _ _ _ h => nomatch h

theorem startComplete : Statement .startComplete := fun _ _ _ h => nomatch h

theorem flitDrop : Statement .flitDrop := fun _ _ _ h => nomatch h

theorem rselDelivery : Statement .rselDelivery := fun _ _ _ h => nomatch h

theorem flitEjectUnselected : Statement .flitEjectUnselected := fun _ _ _ h => nomatch h

theorem governorWindow (est : BitVec 32) : Statement (.governorWindow est) := fun _ _ _ h => nomatch h

theorem rampCheck (f : BitVec 6) (jid : BitVec 32) (rise : BitVec 32) : Statement (.rampCheck f jid rise) := fun _ _ _ h => nomatch h

theorem linkNarrow (l : BitVec 20) (wd : BitVec 2) : Statement (.linkNarrow l wd) := fun _ _ _ h => nomatch h

theorem revokeWrite (val : BitVec 64) : Statement (.revokeWrite val) := fun _ _ _ h => nomatch h

theorem polderDeath (pol : BitVec 12) : Statement (.polderDeath pol) := fun _ _ _ h => nomatch h

theorem scaleAtomicCombine : Statement .scaleAtomicCombine := fun _ _ _ h => nomatch h

theorem windowAtomicAck : Statement .windowAtomicAck := fun _ _ _ h => nomatch h

theorem ownGuestClaim (f : BitVec 6) (u : BitVec 2) (n : BitVec 16) : Statement (.ownGuestClaim f u n) := fun _ _ _ h => nomatch h

theorem ownHostClaim (u : BitVec 2) (n : BitVec 16) : Statement (.ownHostClaim u n) := fun _ _ _ h => nomatch h

theorem ownRelease (f : BitVec 6) (u : BitVec 2) (n : BitVec 16) : Statement (.ownRelease f u n) := fun _ _ _ h => nomatch h

theorem cstatClear (f : BitVec 6) (hi : BitVec 1) (val : BitVec 64) : Statement (.cstatClear f hi val) := fun _ _ _ h => nomatch h

theorem counterSelectWrite (f : BitVec 6) (u : BitVec 2) (n : BitVec 16) (i : BitVec 4) (val : BitVec 64) : Statement (.counterSelectWrite f u n i val) := fun _ _ _ h => nomatch h

theorem traceRecordWrite : Statement .traceRecordWrite := fun _ _ _ h => nomatch h

theorem debugStop : Statement .debugStop := fun _ _ _ h => nomatch h

theorem debugResume : Statement .debugResume := fun _ _ _ h => nomatch h

theorem snapOn : Statement .snapOn := fun _ _ _ h => nomatch h

theorem snapOff : Statement .snapOff := fun _ _ _ h => nomatch h

theorem debugReplay (ssn : BitVec 32) : Statement (.debugReplay ssn) := fun _ _ _ h => nomatch h

theorem haltAll : Statement .haltAll := fun _ _ _ h => nomatch h

theorem snapshot (f : BitVec 6) (jid : BitVec 32) : Statement (.snapshot f jid) := fun _ _ _ h => nomatch h

theorem dstatRead : Statement .dstatRead := fun _ _ _ h => nomatch h

theorem stateWindowWrite (off : BitVec 16) (val : BitVec 64) : Statement (.stateWindowWrite off val) := fun _ _ _ h => nomatch h

theorem flitCheckError (l : BitVec 20) : Statement (.flitCheckError l) := fun _ _ _ h => nomatch h

theorem remoteAccessArrival (pa : BitVec 41) (op : BitVec 4) (sz : BitVec 2) (key : BitVec 6) (data : BitVec 128) : Statement (.remoteAccessArrival pa op sz key data) := fun _ _ _ h => nomatch h

theorem fabricIdAssign (id : BitVec 12) : Statement (.fabricIdAssign id) := fun _ _ _ h => nomatch h

end Sys2Proof.Laws.RoundTrip
end

