-- ==== Sys2Proof/Safety.lean ====
section
/-! DEFINITION. What counts as a safe run: no step of it stops with a fault or a refusal. -/

namespace Sys2Proof

/-- The state after n steps, while every step answers one. -/
def runs : Nat → Machine.State → Option Machine.State
  | 0, s => some s
  | n + 1, s =>
    match Machine.step s with
    | .next t => runs n t
    | _ => none

/-- n steps from s end in a state, and none of them stops. -/
def Safe (n : Nat) (s : Machine.State) : Prop := (runs n s).isSome = true

end Sys2Proof
end

