-- ==== Sys2Proof/Certificates/Slice0/Obligations.lean ====
section
/-! DEFINITION. The statements for the provers, and the words they use. -/

namespace Sys2Proof.Machine

/-! ## Words of the statements -/

/-- Instruction i of the core that moves passes every check that R262 makes before its effect, and its guard is true: the
prefix latch is as P says, the class is present, the prefix fields are accepted, and a block under capture may hold it. -/
abbrev Issues (i : Instr) (s : State) : Prop :=
  s.me.latch.isSome = i.pBit ∧ (i.major = 0x7F ∨ classPresent s.cur i.major = true) ∧
    (i.major = 0x7F ∨ s.me.mods.acceptedBy i.major = true) ∧
    (s.me.replaying = true → s.me.repPass = 0 → notCapturable i = none) ∧ s.me.guard s.me.mods = true

/-- Instruction i is not one that its core refuses before every check: FPUSH on a hub core (spec/15 R428). -/
def State.Lawful (s : State) (i : Instr) : Prop :=
  isHub s.cur = true → ∀ sh rem rs2 rs1 rd p, i ≠ .fpush sh rem rs2 rs1 rd p

/-- The state after instruction i completes, with effect f on the core that moves, and goes on. -/
def State.after (s : State) (i : Instr) (f : Core → Core) : State := s.modMe fun c => (f c).retire i

/-- The state after instruction i completes, with effect f on the core that moves, and control goes to pc. -/
def State.goes (s : State) (i : Instr) (pc : W32) (f : Core → Core) : State := s.modMe fun c => (f c).transfer i pc

/-- A core without what completing itself moves: PC, the prefix latch, what it waits for, the counters of spec/16 R446, its
place in a gang's stream and in a replay. -/
def Core.settled (c : Core) : Core :=
  { c with
    pc := 0, latch := none, sleep := .none, ctr := Vector.replicate 4 0, farReq := none, passHit := false, stream := []
    ahead := false, gang := none, took := false, repc := 0, repBuf := [] }

/-- A core without its scalar registers. -/
def Core.noScalars (c : Core) : Core :=
  { c with
    g := Vector.replicate 8 0, frames := Vector.replicate 6 zeroFrame }

/-- Every agent but the core that moves, every memory, cluster, die and the hub are in t as in s. -/
def State.SameElsewhere (s t : State) : Prop :=
  ({ t with cores := [] } : State) = { s with cores := [] } ∧ (∀ b, b ≠ s.cur → t.core b = s.core b) ∧
    ∀ k, t.byte k = s.byte k

/-- The instructions of major 0x00 by operation (R266). CLZ, CTZ and POPC have no second operand. -/
def aluInstr (op : AluOp) (w : BitVec 1) (rs2 rs1 rd : BitVec 5) (p : BitVec 1) : Instr :=
  match op with
  | .add => .add w rs2 rs1 rd p | .sub => .sub w rs2 rs1 rd p | .and => .and w rs2 rs1 rd p | .or => .or w rs2 rs1 rd p
  | .xor => .xor w rs2 rs1 rd p | .shl => .shl w rs2 rs1 rd p | .shr => .shr w rs2 rs1 rd p | .sha => .sha w rs2 rs1 rd p
  | .min => .min w rs2 rs1 rd p | .max => .max w rs2 rs1 rd p | .minn => .minn w rs2 rs1 rd p
  | .maxn => .maxn w rs2 rs1 rd p | .mul => .mul w rs2 rs1 rd p | .mulh => .mulh w rs2 rs1 rd p
  | .mulhn => .mulhn w rs2 rs1 rd p | .div => .div w rs2 rs1 rd p | .divn => .divn w rs2 rs1 rd p
  | .rem => .rem w rs2 rs1 rd p | .remn => .remn w rs2 rs1 rd p | .clz => .clz w rs1 rd p | .ctz => .ctz w rs1 rd p
  | .popc => .popc w rs1 rd p | .andn => .andn w rs2 rs1 rd p | .orn => .orn w rs2 rs1 rd p

/-- The table of R296 without SAT, on n-bit words. -/
def aluValue {n : Nat} (op : AluOp) (a b : BitVec n) : BitVec n :=
  match op with
  | .add => a + b
  | .sub => a - b
  | .and => a &&& b
  | .or => a ||| b
  | .xor => a ^^^ b
  | .andn => a &&& ~~~b
  | .orn => a ||| ~~~b
  | .shl => a <<< (b.toNat % n)
  | .shr => a >>> (b.toNat % n)
  | .sha => a.sshiftRight (b.toNat % n)
  | .min => if a.sle b then a else b
  | .max => if a.sle b then b else a
  | .minn => if a.ule b then a else b
  | .maxn => if a.ule b then b else a
  | .mul => a * b
  | .mulh => (a.signExtend (2 * n) * b.signExtend (2 * n)).extractLsb' n n
  | .mulhn => (a.setWidth (2 * n) * b.setWidth (2 * n)).extractLsb' n n
  | .div => if b = 0 then BitVec.allOnes n else a.sdiv b
  | .divn => if b = 0 then BitVec.allOnes n else a / b
  | .rem => if b = 0 then a else a.srem b
  | .remn => if b = 0 then a else a % b
  | .clz => BitVec.ofNat n (((List.range n).takeWhile fun i => !a.getLsbD (n - 1 - i)).length)
  | .ctz => BitVec.ofNat n (((List.range n).takeWhile fun i => !a.getLsbD i).length)
  | .popc => BitVec.ofNat n ((List.range n).countP fun i => a.getLsbD i)

/-- The exact value of the operations that accept SAT: x and y are the operands as the SAT mode reads them, b the second
operand as a natural number (R296). DIV by zero gives −1. -/
def saturated (op : AluOp) (_ b n : Nat) (x y : Int) : Int :=
  match op with
  | .add => x + y
  | .sub => x - y
  | .mul => x * y
  | .shl => x * 2 ^ (b % n)
  | .div => if y = 0 then -1 else x.tdiv y
  | _ => 0

/-- The result of an operation under SAT, signed (1) or natural (2), on n-bit words: the exact value clamped to their range (R295). -/
def clamped (op : AluOp) (sat n : Nat) (a b : W64) : W64 :=
  let x := a.toNat % 2 ^ n
  let y := b.toNat % 2 ^ n
  if sat = 1 then
    BitVec.ofInt 64 (max (-(2 ^ (n - 1))) (min (2 ^ (n - 1) - 1) (saturated op x y n (toSigned n a.toNat) (toSigned n b.toNat))))
  else BitVec.ofInt 64 (max 0 (min (2 ^ n - 1) (saturated op x y n (x : Nat) (y : Nat))))

/-- The conditions of CMP and CMPI (R303): EQ, NE, LT, GE, LTN, GEN. -/
def compares {n : Nat} (c : Nat) (a b : BitVec n) : Bool :=
  match c with
  | 0 => a == b
  | 1 => a != b
  | 2 => a.slt b
  | 3 => b.sle a
  | 4 => a.ult b
  | _ => b.ule a

/-- The instructions whose only effect is to write one scalar register, with that register. -/
def scalarDest : Instr → Option (BitVec 5)
  | .add _ _ _ d _ | .sub _ _ _ d _ | .and _ _ _ d _ | .or _ _ _ d _ | .xor _ _ _ d _ | .shl _ _ _ d _ | .shr _ _ _ d _
  | .sha _ _ _ d _ | .min _ _ _ d _ | .max _ _ _ d _ | .minn _ _ _ d _ | .maxn _ _ _ d _ | .mul _ _ _ d _
  | .mulh _ _ _ d _ | .mulhn _ _ _ d _ | .div _ _ _ d _ | .divn _ _ _ d _ | .rem _ _ _ d _ | .remn _ _ _ d _
  | .clz _ _ d _ | .ctz _ _ d _ | .popc _ _ d _ | .andn _ _ _ d _ | .orn _ _ _ d _ => some d
  | .addi _ _ d _ | .andi _ _ d _ | .ori _ _ d _ | .xori _ _ d _ | .muli _ _ d _ | .addiW _ _ d _ => some d
  | .shli _ _ _ d _ | .shri _ _ _ d _ | .shai _ _ _ d _ => some d
  | .lea _ _ _ d _ | .ldi _ _ d _ | .ldih _ d _ | .bnd _ _ d _ | .bndi _ _ d _ | .sel _ _ _ _ d _ => some d
  | .pmovToScalar d _ => some d
  | _ => none

/-- Such an instruction raises no trap of its own: its SAT is one that it accepts, a .w shift by an immediate is below 32, and
BND and BNDI find their operand below the limit. -/
def scalarOperandsOk (i : Instr) (s : State) : Bool :=
  match i with
  | .add .. | .sub .. | .mul .. | .shl .. | .addi .. | .muli .. | .addiW .. => true
  | .div .. => s.me.mods.sat ≤ 1
  | .shli w h _ _ _ => w = 0 || h.toNat < 32
  | .shri w h _ _ _ | .shai w h _ _ _ => w = 0 || h.toNat < 32
  | .bnd b a _ _ => (s.me.s a.toNat).toNat < (s.me.s b.toNat).toNat
  | .bndi n a _ _ => (s.me.s a.toNat).toNat < n.toNat
  | .lea .. | .ldi .. | .ldih .. | .sel .. | .pmovToScalar .. => true
  | .andi .. | .ori .. | .xori .. => true
  | _ => s.me.mods.sat = 0

/-! ### Memory -/

/-- A core without its scalar registers, what completing moves, and its count of corrected errors (spec/02 R96). -/
def Core.besides (c : Core) : Core := { c.settled.noScalars with cecnt := 0 }

/-- In t, after instruction i, register rd of the core that moves may differ; every other scalar register, every other
register of that core and every other core are as in s, and PC is past i. -/
abbrev State.OnlyScalar (s t : State) (i : Instr) (rd : Nat) : Prop :=
  t.cur = s.cur ∧ (∀ k, k < 32 → k ≠ rd → t.me.s k = s.me.s k) ∧ t.me.besides = s.me.besides ∧
    (∀ b, b ≠ s.cur → t.core b = s.core b) ∧ t.me.latch = none ∧
    (s.me.replaying = false → t.me.pc = s.me.pc + BitVec.ofNat 32 (4 * i.size))

/-- Every byte, granule tag and full/empty bit reads in t as in s. -/
abbrev State.SameMemory (s t : State) : Prop :=
  (∀ k, t.byte k = s.byte k) ∧ (∀ g, t.tag g = s.tag g) ∧ ∀ w, t.isFull w = s.isFull w

/-- Every byte outside the n bytes at key k reads in t as in s; so does every granule tag and every full/empty bit. -/
abbrev State.OnlyBytes (s t : State) (k n : Nat) : Prop :=
  (∀ j, (j < k ∨ k + n ≤ j) → t.byte j = s.byte j) ∧ (∀ g, t.tag g = s.tag g) ∧ ∀ w, t.isFull w = s.isFull w

/-- An access of n bytes at ea by the core that moves passes R27 at l, in TCM, scratch or shelf, and finds no error (spec/02
R98); no replay halts the core at a hit (spec/16 R452). -/
abbrev State.Reaches (s : State) (ea : W64) (n : Nat) (k : Access) (reads : Bool) (l : Loc) : Prop :=
  s.localCheck s.cur s.me.ctx s.me.level ea n k = .ok l ∧ l.tagged = true ∧ s.eccCheck s.cur l n reads = .ok () ∧
    s.haltAtHit s.cur = false

/-- The size and address of an access by LDX or STX through bd[n] at an index (spec/02 R81, spec/11 R315). -/
def Core.element (c : Core) (n : BitVec 3) (idx : W64) : Option (Nat × W64) :=
  let d := vget c.bd n.toNat 0
  let k := (d.extractLsb' 56 3).toNat
  if d.getLsbD 63 = true ∧ idx.toNat < (d.extractLsb' 32 24).toNat ∧ k ≤ 3 then
    some (2 ^ k, (d.extractLsb' 0 32).setWidth 64 + idx * BitVec.ofNat 64 (2 ^ k)) else none

/-- The loads of majors 0x20 to 0x26 and LDX: sign extension, size, address and destination. -/
def Core.loadOf (c : Core) : Instr → Option (Bool × Nat × W64 × BitVec 5)
  | .ldb m r d _ => some (true, 1, c.s r.toNat + m.signExtend 64, d)
  | .ldbn m r d _ => some (false, 1, c.s r.toNat + m.signExtend 64, d)
  | .ldh m r d _ => some (true, 2, c.s r.toNat + m.signExtend 64, d)
  | .ldhn m r d _ => some (false, 2, c.s r.toNat + m.signExtend 64, d)
  | .ldw m r d _ => some (true, 4, c.s r.toNat + m.signExtend 64, d)
  | .ldwn m r d _ => some (false, 4, c.s r.toNat + m.signExtend 64, d)
  | .ldd m r d _ => some (false, 8, c.s r.toNat + m.signExtend 64, d)
  | .ldx x n r d _ => (c.element n (c.s r.toNat)).map fun e => (x = 0, e.1, e.2, d)
  | _ => none

/-- The stores of majors 0x27 to 0x2A and STX: size, address and data. -/
def Core.storeOf (c : Core) : Instr → Option (Nat × W64 × W64)
  | .stb m r d _ => some (1, c.s r.toNat + m.signExtend 64, c.s d.toNat)
  | .sth m r d _ => some (2, c.s r.toNat + m.signExtend 64, c.s d.toNat)
  | .stw m r d _ => some (4, c.s r.toNat + m.signExtend 64, c.s d.toNat)
  | .std m r d _ => some (8, c.s r.toNat + m.signExtend 64, c.s d.toNat)
  | .stx n r d _ => (c.element n (c.s r.toNat)).map fun e => (e.1, e.2, c.s d.toNat)
  | _ => none

/-- n bytes as a register receives them. -/
def loaded (signed : Bool) (n v : Nat) : W64 :=
  if signed then (BitVec.ofNat (8 * n) v).signExtend 64 else BitVec.ofNat 64 v

/-- AMO and CAS of spec/08 R266 by operation. -/
def atomicInstr (op : AtOp) (g : BitVec 3) (st r : BitVec 5) (o : BitVec 2) (w : BitVec 1) (q : BitVec 2) (p : BitVec 1) : Instr :=
  match op with
  | .add => .amoAdd g st r o w q p | .and => .amoAnd g st r o w q p | .or => .amoOr g st r o w q p
  | .xor => .amoXor g st r o w q p | .min => .amoMin g st r o w q p | .max => .amoMax g st r o w q p
  | .minn => .amoMinn g st r o w q p | .maxn => .amoMaxn g st r o w q p | .swap => .amoSwap g st r o w q p
  | .cas => .cas g st r o w q p

/-- The function Apply of R325 on n-bit words: the old word, D and E. -/
def atomicValue {n : Nat} (op : AtOp) (old d e : BitVec n) : BitVec n :=
  match op with
  | .add => old + d
  | .and => old &&& d
  | .or => old ||| d
  | .xor => old ^^^ d
  | .min => if old.sle d then old else d
  | .max => if old.sle d then d else old
  | .minn => if old.ule d then old else d
  | .maxn => if old.ule d then d else old
  | .swap => d
  | .cas => if old = d then e else old

/-- The old value as R325 extends it into D. -/
def atomicOld {n : Nat} (op : AtOp) (old : BitVec n) : W64 :=
  match op with
  | .add | .min | .max | .swap | .cas => old.signExtend 64
  | _ => old.setWidth 64

/-! ### Hardware areas of the TCM (spec/02 R53 to R55) -/

/-- The first byte of an area and one past its last: that of WSP or DSD, and the domain spill area of DSD. -/
def areaOf (w : W64) : Nat × Nat := (areaBase w, areaLimit w)

def spillOf (w : W64) : Nat × Nat :=
  ((w.extractLsb' 56 4).toNat * 1024, (w.extractLsb' 56 4).toNat * 1024 + if w.getLsbD 55 = true then 1024 else 0)

/-- What a write of x to WSP or DSD leaves there: PTR starts at BASE. -/
def areaNew (dsd : Bool) (x : W64) : W64 :=
  setPtr (x &&& if dsd then 0x0F80FFFFFFFF0000#64 else 0x0000FFFFFFFF0000#64) (x.extractLsb' 16 16).toNat

/-- The conditions of R55 on the value: the area is empty, the depth 0, the bounds in range, and no two regions overlap. -/
def Core.areaFits (c : Core) (dsd : Bool) (x : W64) : Prop :=
  let base := (x.extractLsb' 16 16).toNat
  let lim := (x.extractLsb' 32 16).toNat
  let old := if dsd then c.dsd else c.wsp
  let wsp := if dsd then c.wsp else areaNew false x
  let dd := if dsd then areaNew true x else c.dsd
  let apart (u v : Nat × Nat) : Prop := min u.2 v.2 ≤ max u.1 v.1
  areaPtr old = areaBase old ∧ c.depth = 0 ∧ base ≤ lim ∧ lim ≤ 0x4000 ∧ base % 64 = 0 ∧ lim % 64 = 0 ∧
    apart (areaOf wsp) (areaOf dd) ∧ apart (areaOf wsp) (spillOf dd) ∧ apart (areaOf dd) (spillOf dd)

/-- Every byte of the new regions lies in TCM halves that the current polder owns. -/
def State.areaOwned (s : State) (dsd : Bool) (x : W64) : Prop :=
  s.ownsRange s.cur s.me.pol (areaOf (areaNew dsd x)) = true ∧
    (dsd = true → s.ownsRange s.cur s.me.pol (spillOf (areaNew dsd x)) = true)

/-- Granule g of the TCM lies in a region of the register. -/
def areaHolds (dsd : Bool) (w : W64) (g : Nat) : Prop :=
  (areaBase w ≤ 32 * g ∧ 32 * g < areaLimit w) ∨ (dsd = true ∧ (spillOf w).1 ≤ 32 * g ∧ 32 * g < (spillOf w).2)

/-- In t, x stands in WSP or DSD; a granule that left the regions of that register is zero, with tag 0, and empty; one that
entered is zero, with tag 0xF, and empty; every other granule of the TCM, and every byte outside it, is as in s. -/
def State.AreaMoved (s : State) (dsd : Bool) (x : W64) (t : State) : Prop :=
  let c := s.me
  let old := if dsd then c.dsd else c.wsp
  let new := areaNew dsd x
  let k (g : Nat) : Nat := tcmBase s.cur + 32 * g
  (dsd = false → t.me.wsp = new ∧ t.me.dsd = c.dsd) ∧ (dsd = true → t.me.dsd = new ∧ t.me.wsp = c.wsp) ∧
    (∀ r, t.me.s r = c.s r) ∧
    (∀ g, g < 512 → (areaHolds dsd old g ↔ ¬areaHolds dsd new g) → (∀ j, j < 32 → t.byte (k g + j) = 0) ∧
      (areaHolds dsd old g → t.tag (k g / 32) = 0) ∧ (areaHolds dsd new g → t.tag (k g / 32) = 15) ∧
      ∀ j, j < 8 → t.isFull (k g / 4 + j) = false) ∧
    (∀ g, g < 512 → (areaHolds dsd old g ↔ areaHolds dsd new g) → (∀ j, j < 32 → t.byte (k g + j) = s.byte (k g + j)) ∧
      t.tag (k g / 32) = s.tag (k g / 32) ∧ ∀ j, j < 8 → t.isFull (k g / 4 + j) = s.isFull (k g / 4 + j)) ∧
    ∀ j, (j < tcmBase s.cur ∨ tcmBase s.cur + 0x4000 ≤ j) → t.byte j = s.byte j

/-- No uncorrectable error stands in any memory, berm line or L1, and no pseudo-channel is fenced (spec/04 R138 to R140). -/
def State.Sound (s : State) : Prop :=
  s.badWords = [] ∧ s.badTags = [] ∧ (∀ n, s.failed 6 n = false) ∧ (∀ d, ∀ l ∈ (s.die d).lines, l.bad = 0) ∧
    ∀ a, ∀ l ∈ (s.core a).l1, l.bad = 0 ∧ l.badTags = 0

/-! ### Vectors -/

/-- The vector registers srcs are read and rd is written as registers: none names a bound port (spec/12 R357, R358), rd is one
of v0 to v15, and no value of a caller is to be kept first (spec/02 R57). -/
abbrev State.Registers (s : State) (srcs : List (BitVec 5)) (rd : BitVec 5) : Prop :=
  (∀ r ∈ srcs, s.me.portAt r = none) ∧ s.me.portAt rd = none ∧ rd.toNat < 16 ∧ s.keepVector rd.toNat = .ok s

/-- The state after instruction i writes y into v[rd] and raises the flags g. -/
def State.vectorAfter (s : State) (i : Instr) (rd : BitVec 5) (y : Vec) (g : FFlags) : State :=
  s.after i fun c => { c.raise g with v := vset c.v rd.toNat y }

/-- The vector registers that the source fields of an instruction name (spec/12 R357). -/
def vectorSources : Instr → List (BitVec 5)
  | .vadd _ b a _ _ | .vsub _ b a _ _ | .vmul _ b a _ _ | .vmin _ b a _ _ | .vmax _ b a _ _ | .vfma _ b a _ _ | .vfms _ b a _ _
  | .vfnma _ b a _ _ | .vand b a _ _ | .vor b a _ _ | .vxor b a _ _ | .vandn b a _ _ | .vcmp _ _ b a _ _ | .vsel _ b a _ _
  | .vperm b a _ _ | .vscl _ b a _ _ | .vdot _ b a _ _ => [b, a]
  | .vabs _ a _ _ | .vneg _ a _ _ | .vredAdd _ _ a _ _ | .vredMax _ _ a _ _ | .vredMin _ _ a _ _ | .vcvt _ _ _ a _ _
  | .vext _ _ a _ _ | .vexp2 _ a _ _ | .vlog2 _ a _ _ | .vrcp _ a _ _ | .vrsq _ a _ _ | .vtanh _ a _ _ | .vmov a _ _
  | .lwr a _ => [a]
  | .vst _ _ d _ | .vstCnv _ _ d _ | .vsts _ _ d _ => [d]
  | .vgath b _ _ _ => [b]
  | .vscat b _ d _ => [b, d]
  | _ => []

/-- The vector register that an instruction writes whenever it completes. -/
def vectorDest : Instr → Option (BitVec 5)
  | .vadd _ _ _ d _ | .vsub _ _ _ d _ | .vmul _ _ _ d _ | .vmin _ _ _ d _ | .vmax _ _ _ d _ | .vfma _ _ _ d _ | .vfms _ _ _ d _
  | .vfnma _ _ _ d _ | .vand _ _ d _ | .vor _ _ d _ | .vxor _ _ d _ | .vandn _ _ d _ | .vsel _ _ _ d _ | .vperm _ _ d _
  | .vscl _ _ _ d _ | .vdot _ _ _ d _ | .vabs _ _ d _ | .vneg _ _ d _ | .vcvt _ _ _ _ d _ | .vexp2 _ _ d _ | .vlog2 _ _ d _
  | .vrcp _ _ d _ | .vrsq _ _ d _ | .vtanh _ _ d _ | .vmov _ d _ | .vbcst _ d _ | .vidx _ _ d _ | .vld _ _ d _ | .vldDec _ _ d _
  | .vlds _ _ d _ | .vgath _ _ d _ | .lrd _ d _ => some d
  | _ => none

/-- Port q is bound and one of the fields names it. -/
def Core.names (c : Core) (srcs : List (BitVec 5)) (q : Nat) : Bool := (c.port q).bound && srcs.any fun r => r.toNat == 12 + q

/-- s with the oldest item of each port that the fields name in the register, and that port unbound. -/
def State.asRegisters (s : State) (srcs : List (BitVec 5)) : State :=
  s.modMe fun c =>
    { c with
      v := Vector.ofFn fun i =>
        if 12 ≤ i.val && c.names srcs (i.val - 12) then (((c.port (i.val - 12)).items.head?).map (·.value)).getD 0
        else vget c.v i.val 0
      ports := Vector.ofFn fun q => if c.names srcs q.val then Port.reset else vget c.ports q.val Port.reset }

/-- A core as t leaves it, with the registers and ports that the fields name as `old` has them, but for one item taken off each. -/
def Core.tookItems (t old : Core) (srcs : List (BitVec 5)) : Core :=
  { t with
    v := Vector.ofFn fun i => if 12 ≤ i.val && old.names srcs (i.val - 12) then vget old.v i.val 0 else vget t.v i.val 0
    ports := Vector.ofFn fun q =>
      if old.names srcs q.val then { old.port q.val with items := (old.port q.val).items.tail, done := (old.port q.val).done + 1 }
      else vget t.ports q.val Port.reset }

/-- From s, where the core that moves runs, an instruction came to t and has neither trapped, nor stopped the core, nor stalled. -/
abbrev State.Completes (s t : State) : Prop :=
  (s.me.act = .task ∨ s.me.act = .exchange) ∧ t.cur = s.cur ∧ t.me.act = s.me.act ∧ t.me.trapc = s.me.trapc ∧ t.me.sleep = .none

/-- A core without its vector registers, FCSR, the count of corrected errors and what completing moves. -/
def Core.besidesVectors (c : Core) : Core :=
  { c.settled with
    v := Vector.replicate 16 0, fcsr := 0, cecnt := 0 }

/-- In t, after instruction i, only v[rd] and the flags of FCSR may differ of the core that moves, PC is past i, and every
other core is as in s. -/
abbrev State.OnlyVector (s t : State) (i : Instr) (rd : Nat) : Prop :=
  t.cur = s.cur ∧ (∀ k, k < 16 → k ≠ rd → vget t.me.v k 0 = vget s.me.v k 0) ∧ (∀ k, t.me.s k = s.me.s k) ∧
    t.me.besidesVectors = s.me.besidesVectors ∧ t.me.fcsr.extractLsb' 5 59 = s.me.fcsr.extractLsb' 5 59 ∧
    s.me.fcsr &&& t.me.fcsr = s.me.fcsr ∧ (∀ b, b ≠ s.cur → t.core b = s.core b) ∧ t.me.latch = none ∧
    (s.me.replaying = false → t.me.pc = s.me.pc + BitVec.ofNat 32 (4 * i.size))

/-- The prefix fields that a typed vector instruction accepts (spec/12 R336, R337). -/
abbrev VTy.takes (t : VTy) (x : Mods) (intSat : Bool) : Prop :=
  (x.ew = 0 ∨ ewWidth x.ew = t.width) ∧
    ∀ g w, t = .int g w → x.rm = 6 ∧ x.ftz = false ∧ (intSat = true ∨ x.sat = 0)

/-- The node of the reduction tree of spec/03 R124 that covers lanes j · 2^L to (j + 1) · 2^L − 1 of v[rs1] in format f, with the flags
of its combinations: each rounds once in F32 with the random bits of index (L − 1) × n + l (spec/12 R347), and an excluded lane takes
no part. -/
def State.redNode (s : State) (op : VOp) (f : Fmt) (q : BitVec 3) (rs1 : BitVec 5) : Nat → Nat → Option Val × FFlags
  | 0, j => (if (s.me.qr q.toNat).getLsbD j then some (f.operand s.me.mods.ftz (lane (s.me.vr rs1) f.bits j)) else none, FFlags.none)
  | level + 1, j =>
    match s.redNode op f q rs1 level (2 * j), s.redNode op f q rs1 level (2 * j + 1) with
    | (some u, g), (some v, h) =>
      let r := s.me.rndOf s.me.mods false (level * (512 / f.bits) + 2 ^ (level + 1) * j)
      let (c, k) := (op.float (r.mode = 3) u v).round .f32 r
      (some (Fmt.f32.decode c), (g.or h).or k)
    | (some u, g), (none, h) => (some u, g.or h)
    | (none, g), (y, h) => (y, g.or h)

/-- The codes of 1, infinity and NaN in the formats of VTRN. -/
def trnCodes : Fmt → Nat × Nat × Nat
  | .bf16 => (0x3F80, 0x7F80, 0x7FC0)
  | .f16 => (0x3C00, 0x7C00, 0x7E00)
  | _ => (0x3F800000, 0x7F800000, 0x7FC00000)

/-- The special operands of VTRN in a format, +0, −0, +∞ and −∞, each with its result, given as a multiple of the code of 1, of infinity
or of NaN with a sign, and its flag: 1 DZ, 2 NV (spec/12 R342). -/
def trnTable (f : Fmt) (results : List ((Nat × Nat × Nat → Nat) × Bool × Nat)) : List (Nat × Nat × Nat) :=
  let sign := 2 ^ (f.bits - 1)
  let inf := (trnCodes f).2.1
  ([0, sign, inf, inf + sign].zip results).map fun e =>
    (e.1, e.2.1 (trnCodes f) + (if e.2.2.1 then sign else 0), e.2.2.2)

/-- VARI on w-bit integers without SAT (spec/12 R338, R339). -/
def variBits {w : Nat} (op : VOp) (signed : Bool) (a b : BitVec w) : BitVec w :=
  match op with
  | .add => a + b
  | .sub => a - b
  | .mul => a * b
  | .min => if (if signed then a.sle b else a.ule b) then a else b
  | .max => if (if signed then a.sle b else a.ule b) then b else a
  | .abs => if signed && a.msb then -a else a
  | .neg => -a

/-- The elements of a vector load or store with one access for each (spec/12 R353, R354): the address of element k, and the
vector registers that give it. -/
def State.elementOf (s : State) (i : Instr) (k : Nat) : Option (W64 × List (BitVec 5)) :=
  let n := ewBytes s.me.mods
  match i with
  | .vlds m r _ _ | .vsts m r _ _ => some (s.me.s r.toNat + BitVec.ofNat 64 k * m.signExtend 64, [])
  | .vgath x r _ _ | .vscat x r _ _ => some (s.me.s r.toNat + BitVec.ofNat 64 (lane (s.me.vr x) (8 * n) k * n), [x])
  | _ => none

end Sys2Proof.Machine

open Sys2Proof Sys2Proof.Machine

/-- Every well-formed instruction with words is what its words decode to, whatever bytes follow (spec/08 R250 to R257). -/
def Obligations.WordsDecodeToTheirInstruction : Prop := ∀ i : Instr, Sys2Proof.Laws.RoundTrip.Statement i

/-- Words that decode are those of a well-formed instruction, bit for bit: reserved bits are zero (spec/08 R254, R262). -/
def Obligations.AcceptedWordsAreCanonical : Prop :=
  ∀ (w t : W32) (i : Instr), decodeWords w (some t) = .ok i →
    i.wellFormed = true ∧ encode i = some (if (bitsAt w 0 2).toNat = 2 then .two w t else .one w)

/-- Words of the manual's examples (spec/08 R254, R256, R267; spec/10 R300, R303). -/
def Obligations.SpecWordsDecode : Prop :=
  decodeWords 0x00000000#32 none = .ok (.add 0 0 0 0 0) ∧
  decodeWords 0xFEA48888#32 none = .ok (.cmpi (-3) 2 9 2 0) ∧
  decodeWords 0x0000244A#32 (some 0x30089A43#32) = .ok (.ldi 0 0x30089A40#32 9 0) ∧
  decodeWords 0x000003F8#32 none = .ok .nop ∧
  decodeWords 0x00000019#32 none = .ok (.pfx 0 0 0 0 0 6)

/-- A step runs the instruction that the words at PC, or those that the core holds of a stalled instruction, decode to (spec/08 R262,
R264). The schedule is the model's own (log entry 1); `State.cycle` and `State.clock` count the cycle (log entry 4). -/
def Obligations.StepRunsTheDecodedInstruction : Prop :=
  ∀ (s : State) (a : Nat) (rest : List Nat) (w t : W32) (i : Instr),
    let v : State := { s.cycle with sched := rest }
    let head : Bool := (bitsAt w 0 2).toNat = 2
    let tail : Option W32 := if head then some t else none
    let u : State := { v.clock a with cur := a }
    s.hub.plant.powerOff = false → s.agenda = [] → s.sched = a :: rest → v.movable a = true →
    (v.core a).xtEnds = false → u.me.freeing = none → u.me.unwindTo = none → u.overBudget a = none → u.trapDue a = false →
    u.inSetup a = false →
    u.me.gang = none → u.me.replaying = false → u.Lawful i →
    (u.me.holds = some (w, tail) ∨
      (u.me.holds = none ∧ u.fetchWord u.me.pc = .ok w ∧ (head = true → u.fetchWord (u.me.pc + 4) = .ok t))) →
    decodeWords w (some t) = .ok i → ((bitsAt w 0 2).toNat = 1 → u.me.latch = none) →
    ((bitsAt w 0 2).toNat ≠ 1 → u.me.latch.isSome = i.pBit) →
    step s = exec i (u.issuing w tail)

/-- The checks that precede the effect of an instruction, in the order of spec/08 R262, whatever the instruction; before them that
of FPUSH on a hub core (spec/15 R428). -/
def Obligations.ChecksBeforeEveryEffect : Prop :=
  (∀ (sh rem : BitVec 1) (rs2 rs1 rd : BitVec 5) (p : BitVec 1) (s : State), isHub s.cur = true →
    exec (.fpush sh rem rs2 rs1 rd p) s = .next (s.takeTrap .illegal 3)) ∧
  ∀ (i : Instr) (s : State), encode i ≠ none → i.major ≠ 0x80 → s.Lawful i →
    (s.me.latch.isSome = true → i.pBit = false → exec i s = .next (s.takeTrap .pfxOrphan 1)) ∧
    (s.me.latch = none → i.pBit = true → exec i s = .next (s.takeTrap .pfxOrphan 2)) ∧
    (s.me.latch.isSome = i.pBit → i.major ≠ 0x7F → classPresent s.cur i.major = false →
      exec i s = .next (s.takeTrap .illegal 3)) ∧
    (s.me.latch.isSome = i.pBit → i.major ≠ 0x7F → classPresent s.cur i.major = true →
      s.me.mods.acceptedBy i.major = false → exec i s = .next (s.takeTrap .illegal 14)) ∧
    (∀ v, s.me.latch.isSome = i.pBit → (i.major = 0x7F ∨ classPresent s.cur i.major = true) →
      (i.major = 0x7F ∨ s.me.mods.acceptedBy i.major = true) → s.me.replaying = true → s.me.repPass = 0 →
      notCapturable i = some v → exec i s = .next (s.takeTrap .repfIllegal (w64 v)))

/-- A discarded instruction (spec/08 R259). -/
def Obligations.FalseGuardDiscards : Prop :=
  ∀ (i : Instr) (s : State), encode i ≠ none → i.major ≠ 0x80 → s.Lawful i → s.me.latch.isSome = i.pBit →
    (i.major = 0x7F ∨ classPresent s.cur i.major = true) → (i.major = 0x7F ∨ s.me.mods.acceptedBy i.major = true) →
    (s.me.replaying = true → s.me.repPass = 0 → notCapturable i = none) → s.me.guard s.me.mods = false →
    ∃ t, exec i s = .next t ∧ t = s.after i id ∧ t.me.settled = s.me.settled ∧ s.SameElsewhere t ∧ t.me.latch = none ∧
      (s.me.replaying = false → t.me.pc = s.me.pc + BitVec.ofNat 32 (4 * i.size))

/-- PREFIX (spec/08 R256 to R258, R262). -/
def Obligations.PrefixLoadsTheLatch : Prop :=
  ∀ (f : BitVec 1) (e : BitVec 2) (n : BitVec 1) (g : BitVec 3) (t : BitVec 2) (r : BitVec 3) (s : State),
    (s.me.latch.isSome = true → exec (.pfx f e n g t r) s = .next (s.takeTrap .illegal 11)) ∧
    (s.me.latch = none → (t = 3 ∨ r = 7) → exec (.pfx f e n g t r) s = .next (s.takeTrap .illegal 13)) ∧
    (s.me.latch = none → t ≠ 3 → r ≠ 7 → ∃ u w, exec (.pfx f e n g t r) s = .next u ∧
      encode (.pfx f e n g t r) = some (.one w) ∧ u.me.latch = some w ∧ u.me.pc = s.me.pc + 4 ∧
      u.me.mods = { rm := r.toNat, sat := t.toNat, pg := g.toNat, neg := n = 1, ew := e.toNat, ftz := f = 1 } ∧
      (∀ k, u.me.s k = s.me.s k) ∧ (∀ k, u.me.pr k = s.me.pr k) ∧ u.me.trapc = s.me.trapc ∧ s.SameElsewhere u)

/-- The ALU major without SAT (spec/10 R295, R296): the value of `aluValue` on 64 bits, and for .w on the low 32 bits,
sign-extended. -/
def Obligations.AluResults : Prop :=
  ∀ (op : AluOp) (rs2 rs1 rd : BitVec 5) (p : BitVec 1) (s : State), s.me.mods.sat = 0 →
    let a := s.me.s rs1.toNat
    let b := s.me.s rs2.toNat
    (Issues (aluInstr op 0 rs2 rs1 rd p) s →
      exec (aluInstr op 0 rs2 rs1 rd p) s =
        .next (s.after (aluInstr op 0 rs2 rs1 rd p) fun c => c.setS rd.toNat (aluValue op a b))) ∧
    (Issues (aluInstr op 1 rs2 rs1 rd p) s →
      exec (aluInstr op 1 rs2 rs1 rd p) s =
        .next (s.after (aluInstr op 1 rs2 rs1 rd p) fun c =>
          c.setS rd.toNat ((aluValue op (a.setWidth 32) (b.setWidth 32)).signExtend 64)))

/-- SAT in the ALU major (spec/10 R295, R296). -/
def Obligations.SaturatingResults : Prop :=
  ∀ (op : AluOp) (w : BitVec 1) (rs2 rs1 rd : BitVec 5) (p : BitVec 1) (s : State),
    let i := aluInstr op w rs2 rs1 rd p
    let n := if w = 1 then 32 else 64
    let a := s.me.s rs1.toNat
    let b := s.me.s rs2.toNat
    Issues i s →
    (s.me.mods.sat = 1 → (op = .add ∨ op = .sub ∨ op = .mul ∨ op = .shl ∨ op = .div) →
      exec i s = .next (s.after i fun c => c.setS rd.toNat
        (BitVec.ofInt 64 (max (-(2 ^ (n - 1))) (min (2 ^ (n - 1) - 1)
          (saturated op (a.toNat % 2 ^ n) (b.toNat % 2 ^ n) n (toSigned n a.toNat) (toSigned n b.toNat))))))) ∧
    (s.me.mods.sat = 2 → (op = .add ∨ op = .sub ∨ op = .mul ∨ op = .shl) →
      exec i s = .next (s.after i fun c => c.setS rd.toNat
        (BitVec.ofInt 64 (max 0 (min (2 ^ n - 1)
          (saturated op (a.toNat % 2 ^ n) (b.toNat % 2 ^ n) n (a.toNat % 2 ^ n : Nat) (b.toNat % 2 ^ n : Nat))))))) ∧
    (s.me.mods.sat ≠ 0 → op ≠ .add → op ≠ .sub → op ≠ .mul → op ≠ .shl → (op ≠ .div ∨ s.me.mods.sat ≠ 1) →
      exec i s = .next (s.takeTrap .illegal 14))

/-- The immediate forms, without SAT and with it (spec/10 R295 to R298). -/
def Obligations.ImmediateResults : Prop :=
  (∀ (imm : BitVec 12) (rs1 rd : BitVec 5) (p : BitVec 1) (s : State), s.me.mods.sat = 0 →
    let a := s.me.s rs1.toNat
    let b : W64 := imm.signExtend 64
    (Issues (.addi imm rs1 rd p) s →
      exec (.addi imm rs1 rd p) s = .next (s.after (.addi imm rs1 rd p) fun c => c.setS rd.toNat (a + b))) ∧
    (Issues (.andi imm rs1 rd p) s →
      exec (.andi imm rs1 rd p) s = .next (s.after (.andi imm rs1 rd p) fun c => c.setS rd.toNat (a &&& b))) ∧
    (Issues (.ori imm rs1 rd p) s →
      exec (.ori imm rs1 rd p) s = .next (s.after (.ori imm rs1 rd p) fun c => c.setS rd.toNat (a ||| b))) ∧
    (Issues (.xori imm rs1 rd p) s →
      exec (.xori imm rs1 rd p) s = .next (s.after (.xori imm rs1 rd p) fun c => c.setS rd.toNat (a ^^^ b))) ∧
    (Issues (.muli imm rs1 rd p) s →
      exec (.muli imm rs1 rd p) s = .next (s.after (.muli imm rs1 rd p) fun c => c.setS rd.toNat (a * b))) ∧
    (Issues (.addiW imm rs1 rd p) s →
      exec (.addiW imm rs1 rd p) s = .next (s.after (.addiW imm rs1 rd p) fun c =>
        c.setS rd.toNat ((a.setWidth 32 + b.setWidth 32).signExtend 64)))) ∧
  (∀ (h : BitVec 6) (rs1 rd : BitVec 5) (p : BitVec 1) (s : State), s.me.mods.sat = 0 →
    let a := s.me.s rs1.toNat
    let a32 := a.setWidth 32
    let n := h.toNat
    (Issues (.shli 0 h rs1 rd p) s →
      exec (.shli 0 h rs1 rd p) s = .next (s.after (.shli 0 h rs1 rd p) fun c => c.setS rd.toNat (a <<< n))) ∧
    (Issues (.shri 0 h rs1 rd p) s →
      exec (.shri 0 h rs1 rd p) s = .next (s.after (.shri 0 h rs1 rd p) fun c => c.setS rd.toNat (a >>> n))) ∧
    (Issues (.shai 0 h rs1 rd p) s →
      exec (.shai 0 h rs1 rd p) s = .next (s.after (.shai 0 h rs1 rd p) fun c => c.setS rd.toNat (a.sshiftRight n))) ∧
    (Issues (.shli 1 h rs1 rd p) s →
      exec (.shli 1 h rs1 rd p) s = if n < 32 then
        .next (s.after (.shli 1 h rs1 rd p) fun c => c.setS rd.toNat ((a32 <<< n).signExtend 64))
      else .next (s.takeTrap .illegal 1)) ∧
    (Issues (.shri 1 h rs1 rd p) s →
      exec (.shri 1 h rs1 rd p) s = if n < 32 then
        .next (s.after (.shri 1 h rs1 rd p) fun c => c.setS rd.toNat ((a32 >>> n).signExtend 64))
      else .next (s.takeTrap .illegal 1)) ∧
    (Issues (.shai 1 h rs1 rd p) s →
      exec (.shai 1 h rs1 rd p) s = if n < 32 then
        .next (s.after (.shai 1 h rs1 rd p) fun c => c.setS rd.toNat ((a32.sshiftRight n).signExtend 64))
      else .next (s.takeTrap .illegal 1))) ∧
  (∀ (imm : BitVec 12) (rs1 rd : BitVec 5) (p : BitVec 1) (s : State), s.me.mods.sat = 1 ∨ s.me.mods.sat = 2 →
    let a := s.me.s rs1.toNat
    let b : W64 := imm.signExtend 64
    let sat := s.me.mods.sat
    (Issues (.addi imm rs1 rd p) s → exec (.addi imm rs1 rd p) s =
      .next (s.after (.addi imm rs1 rd p) fun c => c.setS rd.toNat (clamped .add sat 64 a b))) ∧
    (Issues (.muli imm rs1 rd p) s → exec (.muli imm rs1 rd p) s =
      .next (s.after (.muli imm rs1 rd p) fun c => c.setS rd.toNat (clamped .mul sat 64 a b))) ∧
    (Issues (.addiW imm rs1 rd p) s → exec (.addiW imm rs1 rd p) s =
      .next (s.after (.addiW imm rs1 rd p) fun c => c.setS rd.toNat (clamped .add sat 32 a b))) ∧
    (s.me.latch.isSome = (p == 1) → exec (.andi imm rs1 rd p) s = .next (s.takeTrap .illegal 14) ∧
      exec (.ori imm rs1 rd p) s = .next (s.takeTrap .illegal 14) ∧ exec (.xori imm rs1 rd p) s = .next (s.takeTrap .illegal 14))) ∧
  ∀ (w : BitVec 1) (h : BitVec 6) (rs1 rd : BitVec 5) (p : BitVec 1) (s : State), s.me.mods.sat = 1 ∨ s.me.mods.sat = 2 →
    let n := if w = 1 then 32 else 64
    (Issues (.shli w h rs1 rd p) s → exec (.shli w h rs1 rd p) s = if h.toNat < n then
        .next (s.after (.shli w h rs1 rd p) fun c =>
          c.setS rd.toNat (clamped .shl s.me.mods.sat n (s.me.s rs1.toNat) (h.setWidth 64)))
      else .next (s.takeTrap .illegal 1)) ∧
    (s.me.latch.isSome = (p == 1) → exec (.shri w h rs1 rd p) s = .next (s.takeTrap .illegal 14) ∧
      exec (.shai w h rs1 rd p) s = .next (s.takeTrap .illegal 14))

/-- LEA (spec/10 R299): its layout and its effect. -/
def Obligations.AddressForm : Prop :=
  ∀ (imm : BitVec 10) (c : BitVec 2) (rs1 rd : BitVec 5) (p : BitVec 1) (s : State),
    encode (.lea imm c rs1 rd p) =
      some (.one (imm ++ c ++ rs1 ++ rd ++ (0x08 : BitVec 7) ++ p ++ (0 : BitVec 2))) ∧
    (Issues (.lea imm c rs1 rd p) s →
      exec (.lea imm c rs1 rd p) s = .next (s.after (.lea imm c rs1 rd p) fun k =>
        k.setS rd.toNat (s.me.s rs1.toNat + (imm.signExtend 64 <<< c.toNat))))

/-- LDI, LDIH, BND, BNDI, BDSET (spec/10 R300 to R302). -/
def Obligations.ConstantsAndBounds : Prop :=
  (∀ (imm : BitVec 32) (rd : BitVec 5) (p : BitVec 1) (s : State),
    (Issues (.ldi 0 imm rd p) s →
      exec (.ldi 0 imm rd p) s = .next (s.after (.ldi 0 imm rd p) fun c => c.setS rd.toNat (imm.setWidth 64))) ∧
    (Issues (.ldi 1 imm rd p) s →
      exec (.ldi 1 imm rd p) s = .next (s.after (.ldi 1 imm rd p) fun c => c.setS rd.toNat (imm.signExtend 64))) ∧
    (Issues (.ldih imm rd p) s →
      exec (.ldih imm rd p) s = .next (s.after (.ldih imm rd p) fun c =>
        c.setS rd.toNat (imm ++ (c.s rd.toNat).setWidth 32)))) ∧
  (∀ (rs2 rs1 rd : BitVec 5) (imm : BitVec 12) (p : BitVec 1) (s : State),
    let v := s.me.s rs1.toNat
    (Issues (.bnd rs2 rs1 rd p) s →
      exec (.bnd rs2 rs1 rd p) s = if v.toNat < (s.me.s rs2.toNat).toNat then
        .next (s.after (.bnd rs2 rs1 rd p) fun c => c.setS rd.toNat v) else .next (s.takeTrap .bounds 8)) ∧
    (Issues (.bndi imm rs1 rd p) s →
      exec (.bndi imm rs1 rd p) s = if v.toNat < imm.toNat then
        .next (s.after (.bndi imm rs1 rd p) fun c => c.setS rd.toNat v) else .next (s.takeTrap .bounds 9))) ∧
  (∀ (lr : BitVec 1) (esz : BitVec 3) (rs2 rs1 : BitVec 5) (n : BitVec 3) (leni : BitVec 24) (p : BitVec 1) (s : State),
    (Issues (.bdset 0 0 0 0 1 n 0 p) s →
      exec (.bdset 0 0 0 0 1 n 0 p) s = .next (s.after (.bdset 0 0 0 0 1 n 0 p) fun c => { c with bd := vset c.bd n.toNat 0 })) ∧
    (Issues (.bdset lr esz rs2 rs1 0 n leni p) s →
      let len := if lr = 1 then (s.me.s rs2.toNat).toNat else leni.toNat
      exec (.bdset lr esz rs2 rs1 0 n leni p) s =
        if esz = 7 then .next (s.takeTrap .illegal 1)
        else if 0xFFFFFF < len then .next (s.takeTrap .bounds 10)
        else .next (s.after (.bdset lr esz rs2 rs1 0 n leni p) fun c =>
          { c with
            bd := vset c.bd n.toNat ((1 : BitVec 1) ++ (0 : BitVec 4) ++ esz ++ BitVec.ofNat 24 len ++ (s.me.s rs1.toNat).setWidth 32) })))

/-- CMP and CMPI (spec/10 R303). -/
def Obligations.ComparesWriteOnePredicate : Prop :=
  (∀ (w : BitVec 1) (c : BitVec 3) (rs2 rs1 : BitVec 5) (rd : BitVec 3) (p : BitVec 1) (s : State),
    Issues (.cmp w c rs2 rs1 rd p) s →
      let a := s.me.s rs1.toNat
      let b := s.me.s rs2.toNat
      exec (.cmp w c rs2 rs1 rd p) s = if 5 < c.toNat then .next (s.takeTrap .illegal 1)
        else .next (s.after (.cmp w c rs2 rs1 rd p) fun k => k.setP rd.toNat
          (if w = 1 then compares c.toNat (a.setWidth 32) (b.setWidth 32) else compares c.toNat a b))) ∧
  (∀ (imm : BitVec 9) (c : BitVec 3) (rs1 : BitVec 5) (rd : BitVec 3) (p : BitVec 1) (s : State),
    Issues (.cmpi imm c rs1 rd p) s →
      exec (.cmpi imm c rs1 rd p) s = if 5 < c.toNat then .next (s.takeTrap .illegal 1)
        else .next (s.after (.cmpi imm c rs1 rd p) fun k => k.setP rd.toNat
          (compares c.toNat (s.me.s rs1.toNat) (imm.signExtend 64))))

/-- PLOG (spec/10 R304): its layout, its effect, and the four tables the rule names. -/
def Obligations.PredicateLogic : Prop :=
  ∀ (l : BitVec 4) (pb pa pd : BitVec 3) (p : BitVec 1) (s : State),
    encode (.plog l pb pa pd p) = some (.one ((0 : BitVec 3) ++ l ++ (0 : BitVec 2) ++ pb ++ (0 : BitVec 2) ++ pa ++
      (0 : BitVec 2) ++ pd ++ (0x12 : BitVec 7) ++ p ++ (0 : BitVec 2))) ∧
    s.me.pr 0 = true ∧
    (Issues (.plog l pb pa pd p) s →
      exec (.plog l pb pa pd p) s = .next (s.after (.plog l pb pa pd p) fun k => k.setP pd.toNat
        (match s.me.pr pa.toNat, s.me.pr pb.toNat with
          | false, false => l.getLsbD 0 | false, true => l.getLsbD 1 | true, false => l.getLsbD 2 | true, true => l.getLsbD 3))) ∧
    ∀ a b : Bool, bit (0x8 : BitVec 4) (2 * b2n a + b2n b) = (a && b) ∧ bit (0xE : BitVec 4) (2 * b2n a + b2n b) = (a || b) ∧
      bit (0x6 : BitVec 4) (2 * b2n a + b2n b) = (a != b) ∧ bit (0x3 : BitVec 4) (2 * b2n a + b2n b) = !a

/-- SEL (spec/10 R305): its layout and its effect. -/
def Obligations.SelectionByPredicate : Prop :=
  ∀ (n : BitVec 1) (c : BitVec 3) (rs2 rs1 rd : BitVec 5) (p : BitVec 1) (s : State),
    encode (.sel n c rs2 rs1 rd p) = some (.one ((0 : BitVec 3) ++ n ++ c ++ rs2 ++ rs1 ++ rd ++ (0x13 : BitVec 7) ++ p ++
      (0 : BitVec 2))) ∧
    (Issues (.sel n c rs2 rs1 rd p) s →
      exec (.sel n c rs2 rs1 rd p) s = .next (s.after (.sel n c rs2 rs1 rd p) fun k => k.setS rd.toNat
        (if (n = 0 ∧ s.me.pr c.toNat = true) ∨ (n = 1 ∧ s.me.pr c.toNat = false) then s.me.s rs1.toNat
         else s.me.s rs2.toNat)))

/-- PMOV (spec/10 R306): its two layouts and effects. -/
def Obligations.PredicateFileMoves : Prop :=
  ∀ (r : BitVec 5) (p : BitVec 1) (s : State),
    encode (.pmovToScalar r p) = some (.one ((0 : BitVec 17) ++ r ++ (0x14 : BitVec 7) ++ p ++ (0 : BitVec 2))) ∧
    encode (.pmovFromScalar r p) = some (.one ((0x20 : BitVec 12) ++ r ++ (0 : BitVec 5) ++ (0x14 : BitVec 7) ++ p ++
      (0 : BitVec 2))) ∧
    (Issues (.pmovToScalar r p) s →
      ∃ v : W64, exec (.pmovToScalar r p) s = .next (s.after (.pmovToScalar r p) fun k => k.setS r.toNat v) ∧
        v.getLsbD 0 = true ∧ (∀ i, i < 8 → v.getLsbD i = s.me.pr i) ∧ (∀ i, 8 ≤ i → v.getLsbD i = false)) ∧
    (Issues (.pmovFromScalar r p) s →
      ∃ t, exec (.pmovFromScalar r p) s = .next t ∧ t.me.pr 0 = true ∧
        (∀ i, 1 ≤ i → i < 8 → t.me.pr i = (s.me.s r.toNat).getLsbD i) ∧ (∀ i, t.me.s i = s.me.s i) ∧
        ({ t.me.settled with p := 0 } : Core) = { s.me.settled with p := 0 } ∧ s.SameElsewhere t)

/-- BR, J, JR, LOOP, REPF (spec/10 R307, R308; spec/08 R268, R270). -/
def Obligations.TransfersOfControl : Prop :=
  (∀ (imm : BitVec 18) (n : BitVec 1) (c : BitVec 3) (s : State), Issues (.br imm n c) s →
    exec (.br imm n c) s =
      if (n = 0 ∧ s.me.pr c.toNat = true) ∨ (n = 1 ∧ s.me.pr c.toNat = false) then
        .next (s.goes (.br imm n c) (s.me.pc + 4 * imm.signExtend 32) id)
      else .next (s.after (.br imm n c) id)) ∧
  (∀ (imm : BitVec 22) (s : State), Issues (.j imm) s →
    exec (.j imm) s = .next (s.goes (.j imm) (s.me.pc + 4 * imm.signExtend 32) id)) ∧
  (∀ (rs1 : BitVec 5) (p : BitVec 1) (s : State), Issues (.jr rs1 p) s →
    exec (.jr rs1 p) s = if (s.me.s rs1.toNat).toNat % 4 = 0 then
      .next (s.goes (.jr rs1 p) ((s.me.s rs1.toNat).setWidth 32) id) else .next (s.takeTrap .align 0x100)) ∧
  (∀ (imm : BitVec 18) (c : BitVec 3) (s : State), Issues (.loop imm c) s →
    let v := s.me.s c.toNat
    exec (.loop imm c) s =
      if c = 0 then .next (s.takeTrap .illegal 1)
      else if 1 < v.toNat then
        .next (s.goes (.loop imm c) (s.me.pc + 4 * imm.signExtend 32) fun k => k.setS c.toNat (v - 1))
      else .next (s.after (.loop imm c) fun k => k.setS c.toNat 0)) ∧
  (∀ (n : BitVec 12) (a : BitVec 2) (v l : BitVec 4) (s : State), Issues (.repf n a v l) s →
    (n = 0 → exec (.repf n a v l) s = .next (s.takeTrap .illegal 1)) ∧
    (n ≠ 0 → (s.me.repSusp = false ∨ s.me.repCount = 0) →
      exec (.repf n a v l) s = .next (s.goes (.repf n a v l) (s.me.pc + 4) fun k =>
        { k with
          repc := n ++ (0 : BitVec 12) ++ (0 : BitVec 4) ++ l ++ v ++ a ++ (s.me.pc + 4).extractLsb' 2 26, repBuf := [] }))) ∧
  (∀ (s : State) (i : Instr) (pc : W32) (f : Core → Core), (s.goes i pc f).me.latch = none ∧ (s.goes i pc f).me.pc = pc)

/-- CALL, CALLR, RET (spec/10 R309). -/
def Obligations.CallsMoveTheWindow : Prop :=
  (∀ (i : Instr) (s : State) (target : W32),
    ((∃ imm, i = .call imm ∧ target = s.me.pc + 4 * imm.signExtend 32) ∨
      (∃ rs1 p, i = .callr rs1 p ∧ target = (s.me.s rs1.toNat).setWidth 32)) →
    Issues i s → s.me.res ≤ 6 →
    (target.toNat % 4 ≠ 0 → exec i s = .next (s.takeTrap .align 0x100)) ∧
    (target.toNat % 4 = 0 → s.me.res = 6 → areaLimit s.me.wsp < areaPtr s.me.wsp + 192 →
      exec i s = .next (s.takeTrap .windowSpillLimit 1)) ∧
    (target.toNat % 4 = 0 → (s.me.res < 6 ∨ areaPtr s.me.wsp + 192 ≤ areaLimit s.me.wsp) →
      ∃ t, exec i s = .next t ∧ t.me.pc = target ∧ t.me.latch = none ∧
        (∀ k, k < 8 → t.me.s (8 + k) = s.me.s (24 + k)) ∧ t.me.s 23 = (s.me.pc + 4).setWidth 64 ∧
        (∀ k, 16 ≤ k → k < 32 → k ≠ 23 → t.me.s k = 0) ∧ (∀ k, k < 8 → t.me.s k = s.me.s k) ∧ t.me.p = s.me.p ∧
        t.me.cwp = (s.me.cwp + 1) % 6 ∧ t.me.res = (if s.me.res = 6 then 6 else s.me.res + 1) ∧
        t.me.floor = s.me.floor ∧
        (s.me.res < 6 → t.me.wsp = s.me.wsp ∧ ∀ k, t.byte k = s.byte k) ∧
        (s.me.res = 6 →
          (areaPtr s.me.wsp + 192 < 2 ^ 16 → areaPtr t.me.wsp = areaPtr s.me.wsp + 192) ∧
          (∀ j, j < 24 → t.read (tcmBase s.cur + areaPtr s.me.wsp + 8 * j) 8 =
            (vget (s.me.frame ((s.me.cwp + 1) % 6)) j 0).toNat) ∧
          ∀ k, (k < tcmBase s.cur + areaPtr s.me.wsp ∨ tcmBase s.cur + areaPtr s.me.wsp + 192 ≤ k) → t.byte k = s.byte k))) ∧
  (∀ (p : BitVec 1) (s : State), Issues (.ret p) s →
    let target : W32 := (s.me.s 23).setWidth 32
    (target.toNat % 4 ≠ 0 → exec (.ret p) s = .next (s.takeTrap .align 0x100)) ∧
    (target.toNat % 4 = 0 → s.me.res ≤ 1 → areaPtr s.me.wsp = s.me.floor →
      exec (.ret p) s = .next (s.takeTrap .windowSpillLimit 3)) ∧
    (∀ c v, target.toNat % 4 = 0 → s.me.res ≤ 1 → areaPtr s.me.wsp ≠ s.me.floor →
      s.tcmCheck s.cur (areaPtr s.me.wsp - 192) 192 = .error (.trap c v) → exec (.ret p) s = .next (s.takeTrap c v)) ∧
    (target.toNat % 4 = 0 → (1 < s.me.res ∨
        (areaPtr s.me.wsp ≠ s.me.floor ∧ s.tcmCheck s.cur (areaPtr s.me.wsp - 192) 192 = .ok ())) →
      ∃ t, exec (.ret p) s = .next t ∧ t.me.pc = target ∧ t.me.latch = none ∧
        t.me.cwp = (s.me.cwp + 5) % 6 ∧ (∀ k, k < 8 → t.me.s (24 + k) = s.me.s (8 + k)) ∧
        (∀ k, k < 8 → t.me.s k = s.me.s k) ∧ t.me.p = s.me.p ∧
        (1 < s.me.res → t.me.res = s.me.res - 1 ∧ t.me.wsp = s.me.wsp ∧
          ∀ k, k < 16 → t.me.s (8 + k) = vget (s.me.frame ((s.me.cwp + 5) % 6)) k 0) ∧
        (s.me.res ≤ 1 → t.me.res = 1 ∧ (192 ≤ areaPtr s.me.wsp → areaPtr t.me.wsp = areaPtr s.me.wsp - 192) ∧
          ∀ k, k < 16 → t.me.s (8 + k) =
            w64 (s.read (tcmBase s.cur + (areaPtr s.me.wsp - 192) + 8 * k) 8)) ∧
        ∀ k, t.byte k = s.byte k))

/-- The frame of the instructions that write one scalar register (spec/10 R295 to R306). -/
def Obligations.ScalarFormsChangeOneRegister : Prop :=
  ∀ (i : Instr) (rd : BitVec 5) (s : State), scalarDest i = some rd → Issues i s → scalarOperandsOk i s = true →
    ∃ t, exec i s = .next t ∧ (∀ k, k < 32 → k ≠ rd.toNat → t.me.s k = s.me.s k) ∧ t.me.s 0 = 0 ∧
      t.me.settled.noScalars = s.me.settled.noScalars ∧ s.SameElsewhere t ∧ t.me.latch = none ∧
      (s.me.replaying = false → t.me.pc = s.me.pc + BitVec.ofNat 32 (4 * i.size))

/-- LocalCheck of spec/01 R27, first failing step first. The place of BERM_FENCED is the model's reading (DEDUCED, log
entry 30). `code` is the number of R28 for the unit. -/
def Obligations.LocalAccessChecks : Prop :=
  ∀ (s : State) (a : Nat) (x : Ctx) (lvl : Nat) (ea : W64) (size : Nat) (k : Access),
    size ∈ [1, 2, 4, 8, 16, 32] → k ≠ .fetch →
    let off := (ea.extractLsb' 0 28).toNat
    let cov := [x.wins.w0, x.wins.w1].filter fun w => windowCovers w off size
    let reads := k = .load ∨ k = .atomic
    let writes := k = .store ∨ k = .atomic ∨ k = .engine
    let got := s.localCheck a x lvl ea size k
    (ea.extractLsb' 32 32 ≠ 0 → got = trap .polderAccess 7) ∧
    (ea.extractLsb' 32 32 = 0 → off % size ≠ 0 → got = trap .align size) ∧
    (ea.extractLsb' 32 32 = 0 → off % size = 0 →
      (regionOf a off = none → got = trap .polderAccess 0) ∧
      (∀ r, regionOf a off = some r → (r = .event ∨ r = .control) → got = .ok ⟨r, off, 0⟩) ∧
      (∀ r, regionOf a off = some r → r ≠ .event → r ≠ .control →
        let fenced := r = .shelf ∧ (s.die (dieOf a)).affected (shelfWay (off - 0x8000000)) = true
        let beyond := r = .shelf ∧ s.shelfBytes (dieOf a) < off - 0x8000000 + size
        let own := s.ownerAt a off r = some x.pol
        let code := match r with | .bay _ => 1 | .tcm _ => 2 | _ => 3
        let free := own ∨ (cov ≠ [] ∧ (reads → ∃ w ∈ cov, w.getLsbD 61 = true) ∧ (writes → ∃ w ∈ cov, w.getLsbD 62 = true))
        let codeBay := (∃ b, r = .bay b ∧ s.bayFormat (clusterOf a) b = 1) ∧ (k = .store ∨ k = .atomic) ∧ lvl = 0
        let tag := (ea.extractLsb' 28 4).toNat
        let held := (s.tag (keyOf a off / 32)).toNat
        (fenced → got = trap .bermFenced (shelfWay (off - 0x8000000))) ∧
        (¬fenced → beyond → got = trap .polderAccess 4) ∧
        (¬fenced → ¬beyond → ¬own → cov = [] → got = trap .polderAccess code) ∧
        (¬fenced → ¬beyond → ¬own → cov ≠ [] → reads → (∀ w ∈ cov, w.getLsbD 61 = false) → got = trap .polderAccess 5) ∧
        (¬fenced → ¬beyond → ¬own → cov ≠ [] → (reads → ∃ w ∈ cov, w.getLsbD 61 = true) → writes →
          (∀ w ∈ cov, w.getLsbD 62 = false) → got = trap .writeProtect 2) ∧
        (¬fenced → ¬beyond → free → codeBay → got = trap .writeProtect 1) ∧
        (¬fenced → ¬beyond → free → ¬codeBay → (tag = 15 ∨ held ≠ tag) → got = trap .tagMismatch (held + 16 * tag)) ∧
        (¬fenced → ¬beyond → free → ¬codeBay → tag ≠ 15 → held = tag → got = .ok ⟨r, off, keyOf a off⟩)))

/-- Loads from memory (spec/11 R313 to R315), and their frame. The address is the one that R313 and R81 compute. -/
def Obligations.LoadsReadMemory : Prop :=
  (∀ (i : Instr) (s : State) (sg : Bool) (n : Nat) (ea : W64) (rd : BitVec 5) (l : Loc), Issues i s →
    s.me.loadOf i = some (sg, n, ea, rd) → s.Reaches ea n .load true l → s.me.isOrd = false →
    ∃ t, exec i s = .next t ∧ s.OnlyScalar t i rd.toNat ∧ s.SameMemory t ∧
      t.me.s rd.toNat = if rd = 0 then 0 else loaded sg n (s.read l.key n)) ∧
  (∀ (s : State) (k : Nat), s.read k 1 = (s.byte k).toNat ∧
    ∀ n, s.read k (n + 1) = (s.byte k).toNat + 256 * s.read (k + 1) n) ∧
  (∀ (i : Instr) (s : State) (sg : Bool) (n : Nat) (ea : W64) (rd : BitVec 5) (c : Cause) (v : W64), Issues i s →
    s.me.loadOf i = some (sg, n, ea, rd) → s.localCheck s.cur s.me.ctx s.me.level ea n .load = .error (.trap c v) →
    exec i s = .next (s.takeTrap c v)) ∧
  (∀ (x : BitVec 1) (n : BitVec 3) (r d : BitVec 5) (p : BitVec 1) (s : State), Issues (.ldx x n r d p) s →
    let b := vget s.me.bd n.toNat 0
    let out := b.getLsbD 63 = false ∨ (b.extractLsb' 32 24).toNat ≤ (s.me.s r.toNat).toNat
    (out → exec (.ldx x n r d p) s = .next (s.takeTrap .bounds (BitVec.ofNat 64 n.toNat))) ∧
    (¬out → 3 < (b.extractLsb' 56 3).toNat →
      exec (.ldx x n r d p) s = .next (s.takeTrap .bounds (BitVec.ofNat 64 (0x10 + n.toNat)))))

/-- Stores to memory (spec/11 R313 to R315), and their frame: the stored bytes are those at the key of the checked address. -/
def Obligations.StoresWriteOnlyTheirBytes : Prop :=
  (∀ (i : Instr) (s : State) (n : Nat) (ea v : W64) (l : Loc), Issues i s → s.me.storeOf i = some (n, ea, v) →
    s.Reaches ea n .store false l → s.me.isOrd = false →
    ∃ t, exec i s = .next t ∧ s.OnlyScalar t i 0 ∧ s.OnlyBytes t l.key n ∧
      (∀ j, j < n → t.byte (l.key + j) = v.extractLsb' (8 * j) 8) ∧
      ∀ c b, b < 16 → vget (t.cluster c).wgen b 0 =
        if l.region = .bay b ∧ c = clusterOf s.cur then ((vget (s.cluster c).wgen b 0).setWidth 32 + 1 : W32).setWidth 64
        else vget (s.cluster c).wgen b 0) ∧
  (∀ (i : Instr) (s : State) (n : Nat) (ea v : W64) (c : Cause) (x : W64), Issues i s → s.me.storeOf i = some (n, ea, v) →
    s.localCheck s.cur s.me.ctx s.me.level ea n .store = .error (.trap c x) → exec i s = .next (s.takeTrap c x)) ∧
  (∀ (n : BitVec 3) (r d : BitVec 5) (p : BitVec 1) (s : State), Issues (.stx n r d p) s →
    let b := vget s.me.bd n.toNat 0
    let out := b.getLsbD 63 = false ∨ (b.extractLsb' 32 24).toNat ≤ (s.me.s r.toNat).toNat
    (out → exec (.stx n r d p) s = .next (s.takeTrap .bounds (BitVec.ofNat 64 n.toNat))) ∧
    (¬out → 3 < (b.extractLsb' 56 3).toNat →
      exec (.stx n r d p) s = .next (s.takeTrap .bounds (BitVec.ofNat 64 (0x10 + n.toNat)))))

/-- Buffered loads and stores (spec/05 R172). `Ordered.byte` is a byte as the task sees it. -/
def Obligations.OrderedTasksBufferTheirAccesses : Prop :=
  (∀ (i : Instr) (s : State) (o : Ordered) (n : Nat) (ea v : W64) (l : Loc), Issues i s →
    s.me.storeOf i = some (n, ea, v) → s.Reaches ea n .store false l → s.me.buffered = true → s.me.ordered = some o →
    l.buffers = true → o.lines.length < 64 →
    ∃ t o', exec i s = .next t ∧ s.SameMemory t ∧ (∀ k, t.me.s k = s.me.s k) ∧ t.me.ordered = some o' ∧
      o'.reads = o.reads ∧ o'.spawns = o.spawns ∧
      (∀ j, j < n → o'.byte t (l.key + j) = v.extractLsb' (8 * j) 8) ∧
      ∀ j, (j < l.key ∨ l.key + n ≤ j) → o'.byte t j = o.byte s j) ∧
  (∀ (i : Instr) (s : State) (o : Ordered) (sg : Bool) (n : Nat) (ea : W64) (rd : BitVec 5) (l : Loc), Issues i s →
    s.me.loadOf i = some (sg, n, ea, rd) → s.Reaches ea n .load true l → s.me.buffered = true → s.me.ordered = some o →
    l.buffers = true → o.reads.length < 64 →
    ∃ t o', exec i s = .next t ∧ s.SameMemory t ∧ t.me.ordered = some o' ∧ o'.lines = o.lines ∧ o'.spawns = o.spawns ∧
      (∀ k, k < 32 → k ≠ rd.toNat → t.me.s k = s.me.s k) ∧
      t.me.s rd.toNat = (if rd = 0 then 0 else loaded sg n (o.read s l.key n)) ∧
      ∀ g, g ∈ o'.reads ↔ g ∈ o.reads ∨ (l.inScratch = true ∧ g = l.key / 32 ∧ o.readsMemory g l.key n = true))

/-- TAGS, TAGR, TAGP and PROBE on local pointers (spec/11 R316, R317). -/
def Obligations.TagInstructions : Prop :=
  (∀ (rs2 rs1 : BitVec 5) (p : BitVec 1) (s : State), Issues (.tags 0 rs2 rs1 p) s → s.me.isOrd = false →
    let ptr := s.me.s rs1.toNat
    let n := (s.me.s rs2.toNat).toNat
    let g (i : Nat) := keyOf s.cur (field (ptr + BitVec.ofNat 64 (32 * i)) 0 28) / 32
    (ptr.extractLsb' 0 5 ≠ 0 → exec (.tags 0 rs2 rs1 p) s = .next (s.takeTrap .align 32)) ∧
    (ptr.extractLsb' 0 5 = 0 → 1024 < n → exec (.tags 0 rs2 rs1 p) s = .next (s.takeTrap .bounds 0x23)) ∧
    (ptr.extractLsb' 0 5 = 0 → n ≤ 1024 → ptr.extractLsb' 28 4 = 15 →
      exec (.tags 0 rs2 rs1 p) s = .next (s.takeTrap .tagMismatch 0xFF)) ∧
    (∀ ls, ptr.extractLsb' 0 5 = 0 → n ≤ 1024 → ptr.extractLsb' 28 4 ≠ 15 →
      s.checkGranules s.cur s.me.ctx s.me.level ptr .store false (s.me.level = 2 && s.me.pol = 0) 8 n = .ok ls →
      ∃ t, exec (.tags 0 rs2 rs1 p) s = .next t ∧ s.OnlyScalar t (.tags 0 rs2 rs1 p) 0 ∧ (∀ k, t.byte k = s.byte k) ∧
        (∀ w, t.isFull w = s.isFull w) ∧ (∀ i, i < n → t.tag (g i) = ptr.extractLsb' 28 4) ∧
        ∀ k, (∀ i, i < n → k ≠ g i) → t.tag k = s.tag k)) ∧
  (∀ (rs1 rd : BitVec 5) (p : BitVec 1) (s : State) (l : Loc), Issues (.tagr 0 rs1 rd p) s → s.me.isOrd = false →
    s.checkReach s.cur s.me.ctx s.me.level (s.me.s rs1.toNat) 1 .load = .ok l → l.tagged = true →
    let g : Loc := ⟨l.region, l.off / 32 * 32, l.key / 32 * 32⟩
    (s.eccCheck s.cur g 32 false = .ok () → ∃ t, exec (.tagr 0 rs1 rd p) s = .next t ∧
      s.OnlyScalar t (.tagr 0 rs1 rd p) rd.toNat ∧ s.SameMemory t ∧
      t.me.s rd.toNat = if rd = 0 then 0 else (s.tag (l.key / 32)).setWidth 64) ∧
    (∀ c v, s.eccCheck s.cur g 32 false = .error (.trap c v) → exec (.tagr 0 rs1 rd p) s = .next (s.takeTrap c v))) ∧
  (∀ (rs2 rs1 rd : BitVec 5) (p : BitVec 1) (s : State), s.me.isOrd = false →
    let x := s.me.s rs1.toNat
    let t : BitVec 4 := (s.me.s rs2.toNat).setWidth 4
    (Issues (.tagp 0 rs2 rs1 rd p) s →
      exec (.tagp 0 rs2 rs1 rd p) s = .next (s.after (.tagp 0 rs2 rs1 rd p) fun k =>
        k.setS rd.toNat (x.extractLsb' 32 32 ++ t ++ x.extractLsb' 0 28))) ∧
    (Issues (.tagp 1 rs2 rs1 rd p) s →
      exec (.tagp 1 rs2 rs1 rd p) s = if isOrdinary s.cur then .next (s.takeTrap .illegal 3) else
        .next (s.after (.tagp 1 rs2 rs1 rd p) fun k => k.setS rd.toNat (t ++ x.extractLsb' 0 60)))) ∧
  (∀ (m : BitVec 8) (k : BitVec 1) (rs1 : BitVec 5) (z : BitVec 2) (rd : BitVec 3) (p : BitVec 1) (s : State),
    Issues (.probe m k 0 rs1 z rd p) s →
    let ea := s.me.s rs1.toNat + m.signExtend 64
    let n := 2 ^ z.toNat
    let kind : Access := if k = 1 then .store else .load
    let off := (ea.extractLsb' 0 28).toNat
    ∃ b : Bool,
      exec (.probe m k 0 rs1 z rd p) s = .next (s.after (.probe m k 0 rs1 z rd p) fun c => c.setP rd.toNat b) ∧
      (b = true ↔ ∃ l, s.localCheck s.cur s.me.ctx s.me.level ea n kind = .ok l ∧
        s.controlCheck s.cur s.me.ctx s.me.level l n kind = .ok ()) ∧
      (k = 1 → regionOf s.cur off = some .control → (n ≠ 8 ∨ (off < 0x110400 ∧ off % 0x40 = 8 ∧ s.me.level ≠ 2)) →
        b = false)) ∧
  (∀ (rs2 rs1 rd : BitVec 5) (m : BitVec 8) (k : BitVec 1) (z : BitVec 2) (q : BitVec 3) (p : BitVec 1) (s : State),
    isOrdinary s.cur = true →
    (Issues (.tags 1 rs2 rs1 p) s → exec (.tags 1 rs2 rs1 p) s = .next (s.takeTrap .illegal 3)) ∧
    (Issues (.tagr 1 rs1 rd p) s → exec (.tagr 1 rs1 rd p) s = .next (s.takeTrap .illegal 3)) ∧
    (Issues (.probe m k 1 rs1 z q p) s → exec (.probe m k 1 rs1 z q p) s = .next (s.takeTrap .illegal 3)))

/-- LDF, LDFC, STF, FEC, FEQ (spec/11 R318, R319). The words of an access of n bytes at key k are k/4 to k/4 + n/4 - 1. -/
def Obligations.FullEmptyInstructions : Prop :=
  (∀ (clr : Bool) (imm : BitVec 10) (z : BitVec 1) (rs1 rd : BitVec 5) (p : BitVec 1) (s : State) (l : Loc),
    let i : Instr := if clr then .ldfc imm z rs1 rd p else .ldf imm z rs1 rd p
    let n := if z = 1 then 8 else 4
    Issues i s → s.me.isOrd = false → s.Reaches (s.me.s rs1.toNat + 4 * imm.signExtend 64) n .load true l →
    l.buffers = true →
    ((∀ w, l.key / 4 ≤ w → w < l.key / 4 + n / 4 → s.isFull w = true) →
      ∃ t, exec i s = .next t ∧ s.OnlyScalar t i rd.toNat ∧
        t.me.s rd.toNat = (if rd = 0 then 0 else BitVec.ofNat 64 (s.read l.key n)) ∧ (∀ k, t.byte k = s.byte k) ∧
        (∀ g, t.tag g = s.tag g) ∧
        ∀ w, t.isFull w = if clr = true ∧ l.key / 4 ≤ w ∧ w < l.key / 4 + n / 4 then false else s.isFull w) ∧
    ((∃ w, l.key / 4 ≤ w ∧ w < l.key / 4 + n / 4 ∧ s.isFull w = false) →
      ∃ t ws, exec i s = .next t ∧ t.me.sleep = .full ws ∧ t.me.pc = s.me.pc ∧ (∀ k, t.me.s k = s.me.s k) ∧
        (∀ w, w ∈ ws ↔ l.key / 4 ≤ w ∧ w < l.key / 4 + n / 4) ∧ s.SameMemory t ∧ ∀ b, b ≠ s.cur → t.core b = s.core b)) ∧
  (∀ (imm : BitVec 10) (z : BitVec 1) (rs1 rd : BitVec 5) (p : BitVec 1) (s : State) (l : Loc),
    let n := if z = 1 then 8 else 4
    Issues (.stf imm z rs1 rd p) s → s.me.isOrd = false →
    s.Reaches (s.me.s rs1.toNat + 4 * imm.signExtend 64) n .store false l → l.buffers = true →
    ∃ t, exec (.stf imm z rs1 rd p) s = .next t ∧ s.OnlyScalar t (.stf imm z rs1 rd p) 0 ∧ (∀ g, t.tag g = s.tag g) ∧
      (∀ j, j < n → t.byte (l.key + j) = (s.me.s rd.toNat).extractLsb' (8 * j) 8) ∧
      (∀ j, (j < l.key ∨ l.key + n ≤ j) → t.byte j = s.byte j) ∧
      ∀ w, t.isFull w = if l.key / 4 ≤ w ∧ w < l.key / 4 + n / 4 then true else s.isFull w) ∧
  (∀ (rs2 rs1 : BitVec 5) (p : BitVec 1) (s : State), Issues (.fec rs2 rs1 p) s → s.me.isOrd = false →
    let ptr := s.me.s rs1.toNat
    let n := (s.me.s rs2.toNat).toNat
    let k := keyOf s.cur (field ptr 0 28)
    (ptr.extractLsb' 0 2 ≠ 0 → exec (.fec rs2 rs1 p) s = .next (s.takeTrap .align 4)) ∧
    (ptr.extractLsb' 0 2 = 0 → 8192 < n → exec (.fec rs2 rs1 p) s = .next (s.takeTrap .bounds 0x22)) ∧
    (∀ ls, ptr.extractLsb' 0 2 = 0 → n ≤ 8192 →
      s.checkGranules s.cur s.me.ctx s.me.level (ptr - (ptr.extractLsb' 0 5).setWidth 64) .store true false 10
        (if n = 0 then 0 else granules (field ptr 0 28) (4 * n)) = .ok ls →
      ∃ t, exec (.fec rs2 rs1 p) s = .next t ∧ s.OnlyScalar t (.fec rs2 rs1 p) 0 ∧ (∀ j, t.byte j = s.byte j) ∧
        (∀ g, t.tag g = s.tag g) ∧ ∀ w, t.isFull w = if k / 4 ≤ w ∧ w < k / 4 + n then false else s.isFull w)) ∧
  (∀ (rs1 : BitVec 5) (rd : BitVec 3) (p : BitVec 1) (s : State) (l : Loc), Issues (.feq rs1 rd p) s → s.me.isOrd = false →
    s.Reaches (s.me.s rs1.toNat) 4 .load true l → l.buffers = true →
    (s.softErrors l.key 4 = [] →
      exec (.feq rs1 rd p) s = .next (s.after (.feq rs1 rd p) fun c => c.setP rd.toNat (s.isFull (l.key / 4)))) ∧
    ∃ t, exec (.feq rs1 rd p) s = .next t ∧ s.OnlyScalar { t with cores := sset t.cores s.cur { t.me with p := s.me.p } } (.feq rs1 rd p) 0 ∧
      s.SameMemory t ∧ ∀ k, k < 8 → t.me.pr k = if k = rd.toNat ∧ k ≠ 0 then s.isFull (l.key / 4) else s.me.pr k)

/-- AMO and CAS on local pointers (spec/11 R325). D is s24, s26, s28 or s30, and E the register after it. -/
def Obligations.LocalAtomics : Prop :=
  (∀ (op : AtOp) (g : BitVec 3) (st r : BitVec 5) (o : BitVec 2) (w : BitVec 1) (q : BitVec 2) (p : BitVec 1) (s : State) (l : Loc),
    let i := atomicInstr op g st r o w q p
    let d := 24 + 2 * q.toNat
    let n := if w = 1 then 4 else 8
    Issues i s → isOrdinary s.cur = true → s.me.isOrd = false → g.toNat ≤ 5 → st ≠ 0 →
    (2 ≤ o.toNat → g = 5 → s.owesPosted = false) → s.Reaches (s.me.s r.toNat) n .atomic true l →
    ∃ t, exec i s = .next t ∧ s.OnlyScalar t i d ∧ s.OnlyBytes t l.key n ∧
      (w = 0 → t.me.s d = atomicOld op (BitVec.ofNat 64 (s.read l.key 8)) ∧
        t.read l.key 8 = (atomicValue op (BitVec.ofNat 64 (s.read l.key 8)) (s.me.s d) (s.me.s (d + 1))).toNat) ∧
      (w = 1 → t.me.s d = atomicOld op (BitVec.ofNat 32 (s.read l.key 4)) ∧
        t.read l.key 4 = (atomicValue op (BitVec.ofNat 32 (s.read l.key 4)) ((s.me.s d).setWidth 32)
          ((s.me.s (d + 1)).setWidth 32)).toNat)) ∧
  (∀ (op : AtOp) (g : BitVec 3) (st r : BitVec 5) (o : BitVec 2) (w : BitVec 1) (q : BitVec 2) (p : BitVec 1) (s : State),
    let i := atomicInstr op g st r o w q p
    Issues i s → (5 < g.toNat ∨ st = 0) → exec i s = .next (s.takeTrap .illegal 5)) ∧
  (∀ (op : AtOp) (g : BitVec 3) (st r : BitVec 5) (o : BitVec 2) (w : BitVec 1) (q : BitVec 2) (p : BitVec 1) (s : State)
    (c : Cause) (v : W64),
    let i := atomicInstr op g st r o w q p
    Issues i s → isOrdinary s.cur = true → g.toNat ≤ 5 → st ≠ 0 → (2 ≤ o.toNat → g = 5 → s.owesPosted = false) →
    s.localCheck s.cur s.me.ctx s.me.level (s.me.s r.toNat) (if w = 1 then 4 else 8) .atomic = .error (.trap c v) →
    exec i s = .next (s.takeTrap c v))

/-- QINIT, QENQ, QDEQ, QCNT (spec/11 R328 to R330). `QDesc.entry` is the pointer of an entry. -/
def Obligations.HardwareQueues : Prop :=
  (∀ (q rs2 rs1 : BitVec 5) (rd : BitVec 3) (p : BitVec 1) (s : State) (ls : List Loc), Issues (.qinit q rs2 rs1 rd p) s →
    s.me.isOrd = false →
    let cfg := s.me.s rs2.toNat
    let ptr := s.me.s rs1.toNat
    let k := (cfg.extractLsb' 0 4).toNat
    let e := (cfg.extractLsb' 4 3).toNat
    let off := (ptr.extractLsb' 0 28).toNat
    let fits := 1 ≤ k ∧ k ≤ 12 ∧ 2 ≤ e ∧ e ≤ 6 ∧ cfg.extractLsb' 7 57 = 0 ∧
      ¬((s.queue q).valid = true ∧ (s.queue q).pol ≠ s.me.pol)
    (¬fits → exec (.qinit q rs2 rs1 rd p) s = .next (s.after (.qinit q rs2 rs1 rd p) fun c => c.setP rd.toNat false)) ∧
    (fits → off % 2 ^ e ≠ 0 → exec (.qinit q rs2 rs1 rd p) s = .next (s.takeTrap .align (BitVec.ofNat 64 (2 ^ e)))) ∧
    (∀ b, fits → off % 2 ^ e = 0 → regionOf s.cur off = some (.bay b) → off % 0x8000 + 2 ^ (k + e) ≤ 0x8000 →
      s.checkGranules s.cur s.me.ctx s.me.level (ptr - (ptr.extractLsb' 0 5).setWidth 64) .store true false 10
        (granules off (2 ^ (k + e))) = .ok ls →
      ∃ t, exec (.qinit q rs2 rs1 rd p) s = .next t ∧ (t.queue q).valid = true ∧ (t.queue q).pol = s.me.pol ∧
        (t.queue q).cap = 2 ^ k ∧ (t.queue q).size = 2 ^ e ∧ (t.queue q).head = 0 ∧ (t.queue q).tail = 0 ∧
        (t.queue q).entry 0 = BitVec.ofNat 64 ((ptr.extractLsb' 28 4).toNat * 2 ^ 28 + off) ∧
        (∀ r, r ≠ q → t.queue r = s.queue r) ∧ (∀ j, t.me.s j = s.me.s j) ∧ s.SameMemory t ∧
        t.me.pr rd.toNat = true)) ∧
  (∀ (q rs1 : BitVec 5) (rd : BitVec 3) (p : BitVec 1) (s : State) (l : Loc), Issues (.qenq q rs1 0 rd p) s →
    s.me.isOrd = false →
    let d := s.queue q
    (((d.valid = false ∨ d.pol ≠ s.me.pol) ∨ (d.size < 16 ∧ d.cap ≤ d.count)) →
      exec (.qenq q rs1 0 rd p) s = .next (s.after (.qenq q rs1 0 rd p) fun c => c.setP rd.toNat false)) ∧
    (d.valid = true → d.pol = s.me.pol → 16 ≤ d.size → exec (.qenq q rs1 0 rd p) s = .next (s.takeTrap .illegal 16)) ∧
    (d.valid = true → d.pol = s.me.pol → d.size < 16 → d.count < d.cap →
      s.Reaches (d.entry d.tail) d.size .store false l → isOrdinary s.cur = true →
      ∃ t, exec (.qenq q rs1 0 rd p) s = .next t ∧ t.queue q = { d with tail := d.tail + 1 } ∧
        (∀ r, r ≠ q → t.queue r = s.queue r) ∧ s.OnlyBytes t l.key d.size ∧
        t.read l.key d.size = (s.me.s rs1.toNat).toNat % 2 ^ (8 * d.size) ∧ (∀ j, t.me.s j = s.me.s j) ∧
        t.me.pr rd.toNat = true ∧ ∀ j, j ≠ rd.toNat → t.me.pr j = s.me.pr j)) ∧
  (∀ (q : BitVec 5) (c : BitVec 3) (rd : BitVec 5) (p : BitVec 1) (s : State) (l : Loc), Issues (.qdeq q 0 c rd p) s →
    s.me.isOrd = false →
    let d := s.queue q
    (d.valid = true → d.pol = s.me.pol → d.size < 16 → d.count ≠ 0 → s.Reaches (d.entry d.head) d.size .load true l →
      ∃ t, exec (.qdeq q 0 c rd p) s = .next t ∧ t.queue q = { d with head := d.head + 1 } ∧
        (∀ r, r ≠ q → t.queue r = s.queue r) ∧ s.SameMemory t ∧
        t.me.s rd.toNat = (if rd = 0 then 0 else BitVec.ofNat 64 (s.read l.key d.size)) ∧
        (∀ j, j < 32 → j ≠ rd.toNat → t.me.s j = s.me.s j) ∧ t.me.pr c.toNat = true ∧
        (∀ j, j ≠ c.toNat → t.me.pr j = s.me.pr j) ∧ vget t.me.qfail s.me.taskId 0 = 0)) ∧
  (∀ (q rs1 : BitVec 5) (rd : BitVec 3) (p : BitVec 1) (s : State) (l : Loc), Issues (.qenq q rs1 1 rd p) s →
    s.me.isOrd = false →
    let d := s.queue q
    (((d.valid = false ∨ d.pol ≠ s.me.pol) ∨ (16 ≤ d.size ∧ d.cap ≤ d.count)) →
      exec (.qenq q rs1 1 rd p) s = .next (s.after (.qenq q rs1 1 rd p) fun c => c.setP rd.toNat false)) ∧
    (d.valid = true → d.pol = s.me.pol → d.size < 16 → exec (.qenq q rs1 1 rd p) s = .next (s.takeTrap .illegal 16)) ∧
    (d.valid = true → d.pol = s.me.pol → 16 ≤ d.size → d.count < d.cap → s.me.portAt rs1 = none →
      s.Reaches (d.entry d.tail) d.size .store false l → isOrdinary s.cur = true →
      ∃ t, exec (.qenq q rs1 1 rd p) s = .next t ∧ t.queue q = { d with tail := d.tail + 1 } ∧
        (∀ r, r ≠ q → t.queue r = s.queue r) ∧ s.OnlyBytes t l.key d.size ∧
        t.read l.key d.size = (s.me.vr rs1).toNat % 2 ^ (8 * d.size) ∧ (∀ j, t.me.s j = s.me.s j) ∧ t.me.v = s.me.v ∧
        t.me.pr rd.toNat = true ∧ ∀ j, j ≠ rd.toNat → t.me.pr j = s.me.pr j)) ∧
  (∀ (q : BitVec 5) (c : BitVec 3) (rd : BitVec 5) (p : BitVec 1) (s : State) (l : Loc), Issues (.qdeq q 1 c rd p) s →
    s.me.isOrd = false →
    let d := s.queue q
    d.valid = true → d.pol = s.me.pol → 16 ≤ d.size → d.count ≠ 0 → s.Reaches (d.entry d.head) d.size .load true l →
    s.Registers [] rd →
    ∃ t, exec (.qdeq q 1 c rd p) s = .next t ∧ t.queue q = { d with head := d.head + 1 } ∧
      (∀ r, r ≠ q → t.queue r = s.queue r) ∧ s.SameMemory t ∧
      vget t.me.v rd.toNat 0 = BitVec.ofNat 512 (s.read l.key d.size) ∧
      (∀ j, j < 16 → j ≠ rd.toNat → vget t.me.v j 0 = vget s.me.v j 0) ∧ (∀ j, t.me.s j = s.me.s j) ∧ t.me.pr c.toNat = true ∧
      (∀ j, j ≠ c.toNat → t.me.pr j = s.me.pr j) ∧ vget t.me.qfail s.me.taskId 0 = 0) ∧
  (∀ (q : BitVec 5) (v : BitVec 1) (c : BitVec 3) (rd : BitVec 5) (p : BitVec 1) (s : State), Issues (.qdeq q v c rd p) s →
    s.me.isOrd = false →
    let d := s.queue q
    let k := s.me.taskId
    let n := vget s.me.qfail k 0
    let block := areaPtr s.me.wsp + 192 * s.me.res + 1280
    let yields : Prop := 15 ≤ n ∧ s.me.ex = false ∧ s.me.act = .task ∧ s.me.isGang = false ∧ s.me.depth = 0 ∧
      block ≤ areaLimit s.me.wsp
    (d.valid = true → d.pol = s.me.pol → ¬(v = 1 ↔ 16 ≤ d.size) →
      exec (.qdeq q v c rd p) s = .next (s.takeTrap .illegal 16)) ∧
    ((d.valid = false ∨ d.pol ≠ s.me.pol ∨ ((v = 1 ↔ 16 ≤ d.size) ∧ d.count = 0)) →
      (¬yields → ∃ t, exec (.qdeq q v c rd p) s = .next t ∧ t.queue q = d ∧ s.SameMemory t ∧ (∀ j, t.me.s j = s.me.s j) ∧
        t.me.v = s.me.v ∧ (c ≠ 0 → t.me.pr c.toNat = false) ∧ t.me.act = s.me.act ∧
        (s.me.ex = false → s.me.act = .task → vget t.me.qfail k 0 = min 16 (n + 1))) ∧
      (yields → s.me.res ≤ 6 →
        let w := ((s.modMe fun x => x.setP c.toNat false).modMe fun x => { x with qfail := vset x.qfail k 16 }).modMe fun x =>
          { x.count 2 1 with qfail := vset x.qfail k 0 }
        ∃ t, exec (.qdeq q v c rd p) s = .next t ∧ t = w.yieldTask s.cur (s.me.nextPc (.qdeq q v c rd p)) ∧
          ((w.closePorts s.cur).me.act ≠ .stopped →
            t.me.act = .idle ∧ (t.me.entry k).state = 4 ∧ t.me.latch = none ∧ t.me.ports = Vector.replicate 4 Port.reset ∧
            areaPtr t.me.wsp = block % 2 ^ 16 ∧ t.me.yields.head? = some (k, block) ∧ vget t.me.qfail k 0 = 0 ∧
            (block ≤ 0x4000 → t.read (tcmBase s.cur + (block - 1280) + 104) 4 = (s.me.nextPc (.qdeq q v c rd p)).toNat))))) ∧
  (∀ (q rd : BitVec 5) (p : BitVec 1) (s : State), Issues (.qcnt q rd p) s → s.me.isOrd = false →
    let d := s.queue q
    exec (.qcnt q rd p) s = .next (s.after (.qcnt q rd p) fun c => c.setS rd.toNat
      (if d.valid = true ∧ d.pol = s.me.pol then (d.tail - d.head).setWidth 64 else BitVec.allOnes 64))) ∧
  (∀ (q rs2 rs1 rd : BitVec 5) (v p : BitVec 1) (c : BitVec 3) (s : State), s.me.isOrd = true →
    (Issues (.qinit q rs2 rs1 c p) s → exec (.qinit q rs2 rs1 c p) s = .next (s.takeTrap .orderViolation 1)) ∧
    (Issues (.qenq q rs1 v c p) s → exec (.qenq q rs1 v c p) s = .next (s.takeTrap .orderViolation 1)) ∧
    (Issues (.qdeq q v c rd p) s → exec (.qdeq q v c rd p) s = .next (s.takeTrap .orderViolation 1)) ∧
    (Issues (.qcnt q rd p) s → exec (.qcnt q rd p) s = .next (s.takeTrap .orderViolation 1)))

/-- The state after reset. The model's choices: unwritten memory reads 0 (log entry 2); registers without a reset value are 0 and every
core but hub core 0 is idle, hub cores 1 to 3 too (log entry 3); hub core 0 runs at pc 0 of an empty TCM, where spec/18 R464 starts a hub
core on its firmware section only (log entries 21 and 36). -/
def Obligations.ResetState : Prop :=
  let s := State.reset
  s.cur = 0x200000 ∧ s.me.act = .task ∧ s.me.level = 2 ∧ s.me.pol = 0 ∧ s.me.depth = 0 ∧ s.me.pc = 0 ∧ s.me.tvec = 0 ∧
  s.me.trapc = 0 ∧ s.me.latch = none ∧ (∀ k, k < 32 → s.me.s k = 0) ∧ s.me.pr 0 = true ∧
  (∀ k, 1 ≤ k → k < 8 → s.me.pr k = false) ∧ (∀ k, k < 16 → vget s.me.v k 0 = 0) ∧ (∀ k, s.me.qr k = 0) ∧
  (∀ a, a ≠ 0x200000 → (s.core a).act = .idle) ∧ (∀ p, descV (s.desc p) = false) ∧
  s.hub.faults = [] ∧ s.hub.seq = 0 ∧ s.hub.lvslope = 100 ∧ s.hub.jobs = [] ∧
  (∀ f, field (s.func f).vfctl 16 16 = 20000 ∧ field (s.func f).vfctl 32 8 = 1 ∧ s.vfState f = 0 ∧ s.vfGen f = 0) ∧
  (∀ d, (s.die d).cways = 8 ∧ field (s.die d).waymask 8 5 = 8 ∧ bit (s.die d).waymask 63 = true ∧
    (∀ f, f < 64 → vget (s.die d).quota f 0 = 16) ∧ (s.die d).lines = [] ∧ (s.die d).tlb = []) ∧
  (∀ c b, s.bayFormat c b = 0 ∧ s.bayOwner c b = none ∧ ∀ n, n < 8 → (vget (s.cluster c).barriers n Barrier.reset).count = 1) ∧
  (∀ k, s.byte k = 0) ∧ (∀ g, s.tag g = 0) ∧ (∀ w, s.isFull w = false) ∧ Memory.wf s.mem = true

/-- TrapEntry (spec/06 R219). Table entries go to the physical function's window region, and nowhere else. -/
def Obligations.TakingATrap : Prop :=
  ∀ (s : State) (a : Nat) (cause : Cause) (v : W64) (pc : W32),
    (s.core a).trapc.getLsbD 30 = false → (s.core a).tvec ≠ 0 →
    let c := s.core a
    let t := s.trapEntry a cause v pc
    let d := t.core a
    d.trappc = pc.setWidth 64 ∧ d.trapv = v ∧ (d.trapc.extractLsb' 0 8).toNat = cause.code ∧ d.trapc.extractLsb' 8 20 = 0 ∧
    (d.trapc.extractLsb' 28 2).toNat = c.level ∧ d.trapc.getLsbD 30 = true ∧ d.trapc.getLsbD 31 = c.latch.isSome ∧
    (∀ w, c.latch = some w → d.trapc.extractLsb' 32 32 = w) ∧
    d.level = (if c.level = 0 then 1 else c.level) ∧ d.pc = c.tvec.setWidth 32 &&& 0xFFFFFFFC#32 ∧ d.latch = none ∧
    (c.repCount ≠ 0 → d.repSusp = true ∧ d.repc = c.repc) ∧
    (∀ k, d.s k = c.s k) ∧ d.p = c.p ∧ d.v = c.v ∧ d.q = c.q ∧ d.curpol = c.curpol ∧ d.dom = c.dom ∧ d.aw0 = c.aw0 ∧
    d.aw1 = c.aw1 ∧ d.tvec = c.tvec ∧ (c.rev = none → d.fcsr = c.fcsr) ∧
    (∀ b, b ≠ a → t.core b = s.core b) ∧ t.clusters = s.clusters ∧ t.dies = s.dies ∧
    (t.hub.causeTail = s.hub.causeTail + 1 ∧ t.hub.causeLost = s.hub.causeLost ∨
      t.hub.causeTail = s.hub.causeTail ∧ t.hub.causeLost = s.hub.causeLost + 1) ∧
    ∀ k, (k < windowBase ∨ windowBase + 0x400000 ≤ k) → t.byte k = s.byte k

/-- A double trap (spec/06 R221). -/
def Obligations.DoubleTrapStops : Prop :=
  ∀ (s : State) (a : Nat) (cause : Cause) (v : W64) (pc : W32),
    ((s.core a).trapc.getLsbD 30 = true ∨ (s.core a).tvec = 0) →
    let t := s.trapEntry a cause v pc
    (isHub a = false → s.jobOf a = none → t.core a = { s.core a with act := .stopped, sleep := .none } ∧
      (∀ b, b ≠ a → t.core b = s.core b) ∧
      (t.hub.causeTail = s.hub.causeTail + 1 ∧ t.hub.causeLost = s.hub.causeLost ∨
        t.hub.causeTail = s.hub.causeTail ∧ t.hub.causeLost = s.hub.causeLost + 1)) ∧
    (∀ j, isHub a = false → s.jobOf a = some j → (∀ k, k ∈ t.hub.jobs → k.same j = false) ∧
      let f := j.fn.toNat
      let x := s.func f
      let r := complBytes .trapped j.cookie j.jobid (s.jobSsn j) j.slotLo.toNat j.slotHi.toNat a cause.code
      ((t.func f).owed = x.owed ++ [r] ∨
        (∃ b, s.region f = some b ∧ (t.func f).irqPend = true ∧ (t.func f).owed = x.owed ∧
          (t.func f).compl.hub = x.compl.hub + 1 ∧ t.read (b + 0xE800 + 32 * (x.compl.hub.toNat % 64)) 32 = r.toNat) ∨
        (s.region f = none ∧ (t.func f).owed = x.owed ∧ (t.func f).compl = x.compl))) ∧
    (isHub a = true → (t.core a).act = .stopped ∧ t.failed 2 a = true)

/-- TRAP, BRK and ERET (spec/15 R432, R433), DEFERRED_TRAP (spec/11 R323). -/
def Obligations.TrapsAndReturns : Prop :=
  (∀ (n : BitVec 12) (s : State), Issues (.trap n) s → s.me.trapc.getLsbD 30 = false → s.me.tvec ≠ 0 →
    ∃ t, exec (.trap n) s = .next t ∧ t.me.trappc = (s.me.pc + 4).setWidth 64 ∧ t.me.trapv = 0x10000 + n.setWidth 64 ∧
      t.me.trapc.extractLsb' 0 8 = 0x21 ∧ t.me.trapc.getLsbD 30 = true ∧
      t.me.pc = s.me.tvec.setWidth 32 &&& 0xFFFFFFFC#32 ∧ (∀ k, t.me.s k = s.me.s k) ∧ t.me.p = s.me.p) ∧
  (∀ (n : BitVec 12) (s : State), Issues (.brk n) s →
    (¬(s.haltAtHit s.cur = true ∧ s.brkHalts n.toNat = true) →
      ∃ t, exec (.brk n) s = .next t ∧ s.OnlyScalar t (.brk n) 0 ∧ s.SameMemory t) ∧
    (s.haltAtHit s.cur = true → s.brkHalts n.toNat = true → (s.jobOf s.cur).isSome = true →
      ∃ t, exec (.brk n) s = .next t ∧ t.me.act = .halted ∧ t.me.pc = s.me.pc ∧ t.me.trappc = s.me.pc.setWidth 64 ∧
        t.me.trapc = s.me.trapc ∧ t.me.trapv = s.me.trapv ∧ (∀ k, t.me.s k = s.me.s k) ∧
        (t.hub.causeTail = s.hub.causeTail + 1 ∧ t.hub.causeLost = s.hub.causeLost ∨
          t.hub.causeTail = s.hub.causeTail ∧ t.hub.causeLost = s.hub.causeLost + 1) ∧
        ∀ k, (k < windowBase ∨ windowBase + 0x400000 ≤ k) → t.byte k = s.byte k)) ∧
  (∀ s : State, Issues .eret s →
    let plv := (s.me.trapc.extractLsb' 28 2).toNat
    (s.me.level = 0 → exec .eret s = .next (s.takeTrap .privilege 1)) ∧
    (1 ≤ s.me.level → plv = 3 → exec .eret s = .next (s.takeTrap .illegal 7)) ∧
    (1 ≤ s.me.level → plv ≠ 3 → s.me.level < plv → exec .eret s = .next (s.takeTrap .privilege 2)) ∧
    (1 ≤ s.me.level → plv ≠ 3 → plv ≤ s.me.level → s.me.trappc.extractLsb' 0 2 ≠ 0 →
      exec .eret s = .next (s.takeTrap .align 0x100)) ∧
    (1 ≤ s.me.level → plv ≠ 3 → plv ≤ s.me.level → s.me.trappc.extractLsb' 0 2 = 0 →
      ∃ t, exec .eret s = .next t ∧ t.me.pc = s.me.trappc.setWidth 32 ∧ t.me.level = plv ∧
        t.me.trapc = s.me.trapc &&& ~~~0x40000000#64 ∧
        t.me.latch = (if s.me.trapc.getLsbD 31 = true then some (s.me.trapc.extractLsb' 32 32) else none) ∧
        t.me.repSusp = false ∧ t.me.repc = s.me.repc ∧ t.me.trappc = s.me.trappc ∧ t.me.trapv = s.me.trapv ∧
        t.me.curpol = s.me.curpol ∧ t.me.dom = s.me.dom ∧ (∀ k, t.me.s k = s.me.s k) ∧ t.me.p = s.me.p ∧
        t.me.v = s.me.v ∧ t.me.q = s.me.q ∧ t.me.act = (if s.me.visit = true then .idle else s.me.act) ∧ (∀ b, b ≠ s.cur → t.core b = s.core b) ∧ s.SameMemory t)) ∧
  (∀ (a : BitVec 22) (s : State),
    let c := s.core a.toNat
    (∀ d, (c.act = .task ∨ c.act = .exchange ∨ c.act = .idle) →
      c.deferred.find? (fun d => d.depth = c.depth && d.pol == c.pol) = some d → s.sleepDone a.toNat = false →
      (∀ j, c.join = some j → j.result ≠ some 0) → c.trapc.getLsbD 30 = false → c.tvec ≠ 0 →
      ∃ t, exec (.deferredTrap a) s = .next t ∧ t.cur = s.cur ∧ (t.core a.toNat).trapv = d.value ∧
        ((t.core a.toNat).trapc.extractLsb' 0 8).toNat = d.cause.code ∧ (t.core a.toNat).trappc = c.pc.setWidth 64 ∧
        (t.core a.toNat).pc = c.tvec.setWidth 32 &&& 0xFFFFFFFC#32 ∧ (t.core a.toNat).deferred = c.deferred.erase d ∧
        ∀ k, (t.core a.toNat).s k = c.s k) ∧
    (c.deferred.find? (fun d => d.depth = c.depth && d.pol == c.pol) = none → exec (.deferredTrap a) s = .next s))

/-- RDS (spec/15 R412, R413). -/
def Obligations.SpecialRegistersRead : Prop :=
  ∀ (n : BitVec 12) (rd : BitVec 5) (p : BitVec 1) (s : State), Issues (.rds n rd p) s →
    let assigned : List Nat := [0, 1, 2, 3, 4, 5, 6, 7, 8, 0x10, 0x11, 0x12, 0x13, 0x18, 0x19, 0x1A, 0x1B, 0x20, 0x21, 0x28,
      0x29, 0x2A, 0x2B, 0x30, 0x31, 0x32, 0x33, 0x40]
    let absent := (isOrdinary s.cur = false ∧ n.toNat ∈ [0x19, 0x1A, 0x1B, 0x20, 0x21, 0x28, 0x29, 0x2A, 0x2B]) ∨
      (isHub s.cur = false ∧ n.toNat = 0x40)
    let closed := (n.toNat ∈ [0x30, 0x31, 0x32, 0x33] ∧ s.me.level = 0) ∨ (n.toNat = 0x40 ∧ s.me.level < 2)
    let c := s.me
    let table : List (Nat × W64) := [(0, c.fcsr), (1, c.srseed), (2, c.tsk), (3, c.tstamp),
      (4, (if isOrdinary s.cur then (s.cluster (clusterOf s.cur)).stage.setWidth 32 else 0) ++ c.ssn.setWidth 32), (5, c.xt),
      (6, c.xpc), (7, c.syncm), (8, c.vote), (0x10, c.wptr), (0x11, c.wsp), (0x12, c.dsd), (0x13, c.repc), (0x18, c.curpol),
      (0x19, c.gst), (0x1A, c.aw0), (0x1B, c.aw1), (0x20, c.atp), (0x21, c.gcfg), (0x28, c.recm), (0x29, c.logb),
      (0x2A, c.logl), (0x2B, c.logp), (0x30, c.trapc), (0x31, c.trappc), (0x32, c.trapv), (0x33, c.tvec), (0x40, s.hub.lvslope)]
    (n.toNat ∉ assigned → exec (.rds n rd p) s = .next (s.takeTrap .illegal 1)) ∧
    (n.toNat ∈ assigned → absent → exec (.rds n rd p) s = .next (s.takeTrap .illegal 3)) ∧
    (n.toNat ∈ assigned → ¬absent → closed → exec (.rds n rd p) s = .next (s.takeTrap .privilege 2)) ∧
    (∀ x, ¬absent → ¬closed → (n.toNat, x) ∈ table →
      exec (.rds n rd p) s = .next (s.after (.rds n rd p) fun k => k.setS rd.toNat x))

/-- WRS (spec/15 R412): for each register the values it takes, the trap of the others, and what is written. -/
def Obligations.SpecialRegistersWritten : Prop :=
  (∀ (n : BitVec 12) (rs1 : BitVec 5) (p : BitVec 1) (s : State), Issues (.wrs n rs1 p) s →
    (specKnown n.toNat = false → exec (.wrs n rs1 p) s = .next (s.takeTrap .illegal 1)) ∧
    (specKnown n.toNat = true → specPresent s.cur n.toNat = false → exec (.wrs n rs1 p) s = .next (s.takeTrap .illegal 3)) ∧
    (specKnown n.toNat = true → specPresent s.cur n.toNat = true → specWritable s.me.level n.toNat = false →
      exec (.wrs n rs1 p) s = .next (s.takeTrap .privilege 1))) ∧
  (∀ (l n : Nat), specWritable l n = true ↔ n ∈ [0, 1, 6, 0x28, 0x29, 0x2A, 0x2B] ∨
    (1 ≤ l ∧ n ∈ [7, 0x10, 0x11, 0x12, 0x13, 0x20, 0x21, 0x30, 0x31, 0x32, 0x33]) ∨ (2 ≤ l ∧ n = 0x40)) ∧
  (∀ (n : BitVec 12) (rs1 : BitVec 5) (p : BitVec 1) (s : State), Issues (.wrs n rs1 p) s → s.me.isOrd = false →
    specPresent s.cur n.toNat = true → specWritable s.me.level n.toNat = true →
    let x := s.me.s rs1.toNat
    let c := s.me
    let low (n : Nat) : Nat := (x.extractLsb' 0 n).toNat
    let at' (lo n : Nat) : Nat := (x.extractLsb' lo n).toNat
    let gives (f : Core → Core) := exec (.wrs n rs1 p) s = .next (s.after (.wrs n rs1 p) f)
    let traps (k : Cause) (v : W64) := exec (.wrs n rs1 p) s = .next (s.takeTrap k v)
    let len := if at' 32 4 = 0 then 16 else at' 32 4
    let log (f : W64 → Core → Core) := if 0 < c.depth then traps .privilege 1 else if low 5 ≠ 0 then traps .illegal 1
      else gives (f (x &&& 0xFFFFFFE0#64))
    (n = 0x00 → if at' 11 53 = 0 ∧ at' 5 3 = 0 ∧ at' 8 3 < 6 then gives fun k => { k with fcsr := x } else traps .illegal 15) ∧
    (n = 0x01 → gives fun k => { k with srseed := x }) ∧
    (n = 0x06 → gives fun k => { k with xpc := x &&& 0xFFFFFFFF#64 }) ∧
    (n = 0x07 → gives fun k => { k with syncm := x &&& 0xFFFF#64 }) ∧
    (n = 0x10 → if at' 3 4 < 1 ∨ 6 < at' 3 4 ∨ 5 < low 3 ∨ at' 16 16 % 64 ≠ 0 ∨ at' 16 16 < areaBase c.wsp ∨
        areaPtr c.wsp < at' 16 16 then traps .illegal 1 else gives fun k => { k with wptr := x &&& 0xFFFF007F#64 }) ∧
    (n = 0x13 → if at' 52 12 = 0 ∨ (at' 40 12 < at' 52 12 ∧ at' 36 4 < len) then
        gives fun k => { k with repc := x, repSusp := decide (at' 52 12 ≠ 0), repBuf := [] }
      else traps .illegal 1) ∧
    (n = 0x20 → if 8 < at' 32 4 then traps .illegal 1 else gives fun k => { k with atp := x &&& 0xC000000F00000000#64 }) ∧
    (n = 0x21 → if at' 32 2 = 3 ∨ low 32 < 0x1000 ∨ c.tileq ≠ [] then traps .illegal 1
      else gives fun k => { k with gcfg := x &&& 0x3FFFFFFFF#64 }) ∧
    (n = 0x28 → if 0 < c.depth then traps .privilege 1 else gives fun k => { k with recm := x &&& 0xFFFF0003#64 }) ∧
    (n = 0x29 → log fun y k => { k with logb := y }) ∧ (n = 0x2A → log fun y k => { k with logl := y }) ∧
    (n = 0x2B → log fun y k => { k with logp := y }) ∧
    (n = 0x30 → gives fun k => { k with trapc := x &&& 0xFFFFFFFFF00000FF#64 }) ∧
    (n = 0x31 → gives fun k => { k with trappc := x }) ∧ (n = 0x32 → gives fun k => { k with trapv := x }) ∧
    (n = 0x33 → gives fun k => { k with tvec := x }) ∧
    (n = 0x40 → if low 10 < 25 ∨ 800 < low 10 then traps .illegal 1 else
      ∃ t, exec (.wrs n rs1 p) s = .next t ∧ t.hub.lvslope = x &&& 0x3FF#64 ∧ s.OnlyScalar t (.wrs n rs1 p) 0 ∧ s.SameMemory t))

/-- WSP_WRITE and DSD_WRITE, and the same writes by WRS (spec/02 R55), in a task that is not ordered. -/
def Obligations.AreaRegisters : Prop :=
  (∀ (x : W64) (s : State), s.me.act = .task ∨ s.me.act = .exchange → s.me.isOrd = false →
    (1 ≤ s.me.level → s.me.areaFits false x → s.areaOwned false x → ∃ t, exec (.wspWrite x) s = .next t ∧ s.AreaMoved false x t) ∧
    (1 ≤ s.me.level → s.me.areaFits true x → s.areaOwned true x → ∃ t, exec (.dsdWrite x) s = .next t ∧ s.AreaMoved true x t) ∧
    (s.me.level = 0 → exec (.wspWrite x) s = .next (s.takeTrap .privilege 1) ∧
      exec (.dsdWrite x) s = .next (s.takeTrap .privilege 1)) ∧
    (1 ≤ s.me.level → ¬s.me.areaFits false x → exec (.wspWrite x) s = .next (s.takeTrap .illegal 4)) ∧
    (1 ≤ s.me.level → ¬s.me.areaFits true x → exec (.dsdWrite x) s = .next (s.takeTrap .illegal 4)) ∧
    (1 ≤ s.me.level → s.me.areaFits false x → ¬s.areaOwned false x →
      exec (.wspWrite x) s = .next (s.takeTrap .polderAccess 2)) ∧
    (1 ≤ s.me.level → s.me.areaFits true x → ¬s.areaOwned true x →
      exec (.dsdWrite x) s = .next (s.takeTrap .polderAccess 2))) ∧
  ∀ (dsd : Bool) (rs1 : BitVec 5) (p : BitVec 1) (s : State),
    let n : BitVec 12 := if dsd then 0x12 else 0x11
    let x := s.me.s rs1.toNat
    Issues (.wrs n rs1 p) s → s.me.isOrd = false →
    (s.me.level = 0 → exec (.wrs n rs1 p) s = .next (s.takeTrap .privilege 1)) ∧
    (1 ≤ s.me.level → ¬s.me.areaFits dsd x → exec (.wrs n rs1 p) s = .next (s.takeTrap .illegal 4)) ∧
    (1 ≤ s.me.level → s.me.areaFits dsd x → ¬s.areaOwned dsd x → exec (.wrs n rs1 p) s = .next (s.takeTrap .polderAccess 2)) ∧
    (1 ≤ s.me.level → s.me.areaFits dsd x → s.areaOwned dsd x → ∃ t, exec (.wrs n rs1 p) s = .next t ∧ s.AreaMoved dsd x t)

/-- TEND, YIELD, TSPAWN (spec/15 R433) outside ordered tasks. That TSPAWN takes the lowest FREE entry is the model's reading (log entry
39). -/
def Obligations.TasksEnd : Prop :=
  (∀ s : State, Issues .tend s →
    let u := s.closePorts s.cur
    let i := s.me.taskId
    (s.me.depth ≠ 0 → exec .tend s = .next (s.takeTrap .taskEndInGate (BitVec.ofNat 64 s.me.depth))) ∧
    (s.me.depth = 0 → s.me.ex = true → exec .tend s = .next (s.takeTrap .illegal 19)) ∧
    (s.me.depth = 0 → s.me.ex = false → u.me.act ≠ .stopped → u.me.due = none → s.me.isOrd = false → s.me.isGang = false →
      s.me.visit = false → ∃ t, exec .tend s = .next t ∧ t.me.act = .idle ∧ t.me.latch = none ∧ t.me.ports = Vector.replicate 4 Port.reset ∧
        t.me.trapc.getLsbD 30 = false ∧ areaPtr t.me.wsp = t.me.floor ∧ t.me.repc = 0 ∧ t.me.ordered = none ∧
        ((s.me.entry i).kept = false → t.me.entry i = 0) ∧
        ((s.me.entry i).kept = true → (t.me.entry i).state =
          if (s.me.entry i).thresh ≤ (vget s.me.mc (s.me.entry i).mcid 0).toNat then 2 else 1) ∧
        (∀ b, b ≠ s.cur → t.core b = u.core b) ∧ ∀ k, t.byte k = u.byte k)) ∧
  (∀ s : State, Issues .yield s → s.me.isOrd = false →
    let i := s.me.taskId
    ((s.me.isGang = true ∨ s.me.ex = true ∨ s.me.depth ≠ 0) → exec .yield s = .next (s.after .yield id)) ∧
    (s.me.isGang = false → s.me.ex = false → s.me.depth = 0 → areaLimit s.me.wsp < areaPtr s.me.wsp + 192 * s.me.res + 1280 →
      exec .yield s = .next (s.takeTrap .windowSpillLimit 5)) ∧
    (s.me.isGang = false → s.me.ex = false → s.me.depth = 0 → s.me.res ≤ 6 →
      areaPtr s.me.wsp + 192 * s.me.res + 1280 ≤ areaLimit s.me.wsp → (s.closePorts s.cur).me.act ≠ .stopped →
      ∃ t, exec .yield s = .next t ∧ t.me.act = .idle ∧ (t.me.entry i).state = 4 ∧ t.me.latch = none ∧
        t.me.ports = Vector.replicate 4 Port.reset ∧ areaPtr t.me.wsp = (areaPtr s.me.wsp + 192 * s.me.res + 1280) % 2 ^ 16 ∧
        t.me.yields.head? = some (i, areaPtr s.me.wsp + 192 * s.me.res + 1280))) ∧
  (∀ (rs2 rs1 : BitVec 5) (rd : BitVec 3) (s : State), Issues (.tspawn rs2 rs1 rd) s → s.me.isOrd = false →
    s.me.ordered = none →
    let y := s.me.s rs2.toNat
    let e : Entry := s.me.s rs1.toNat ++ y
    (y.extractLsb' 0 6 ≠ 0 → exec (.tspawn rs2 rs1 rd) s = .next (s.takeTrap .illegal 2)) ∧
    (y.extractLsb' 0 6 = 0 → e.refused s.cur = true → exec (.tspawn rs2 rs1 rd) s = .next (s.takeTrap .illegal 6)) ∧
    (y.extractLsb' 0 6 = 0 → e.refused s.cur = false → (∀ k, k < 64 → (s.me.entry k).state ≠ 0) →
      exec (.tspawn rs2 rs1 rd) s = .next (s.after (.tspawn rs2 rs1 rd) fun c => c.setP rd.toNat false)) ∧
    (y.extractLsb' 0 6 = 0 → e.refused s.cur = false → ∀ k, k < 64 → (s.me.entry k).state = 0 →
      (∀ j, j < k → (s.me.entry j).state ≠ 0) →
      ∃ t, exec (.tspawn rs2 rs1 rd) s = .next t ∧ (rd ≠ 0 → t.me.pr rd.toNat = true) ∧
        (∀ j, j < 64 → j ≠ k → if (s.me.entry j).state = 1 ∧ (s.me.entry j).thresh ≤ (vget s.me.mc (s.me.entry j).mcid 0).toNat then
            (t.me.entry j).state = 2 ∧ (t.me.entry j).extractLsb' 3 125 = (s.me.entry j).extractLsb' 3 125
          else t.me.entry j = s.me.entry j) ∧
        (t.me.entry k).state = (if e.thresh ≤ (vget s.me.mc e.mcid 0).toNat then 2 else 1) ∧
        (t.me.entry k).extractLsb' 3 125 = e.extractLsb' 3 125 ∧ (∀ r, t.me.s r = s.me.s r) ∧ s.SameElsewhere t))

/-- FENCE, OLDEST, NOP, HINT (spec/11 R327, R331; spec/08 R267); TRC, CNT, CNT.sel (spec/15 R432, spec/17 R462). The order of
memory is the model's own (log entry 10). -/
def Obligations.OrderingAndObservation : Prop :=
  (∀ (g : BitVec 3) (st : BitVec 5) (o : BitVec 2) (s : State), Issues (.fence g st o) s →
    ((5 < g.toNat ∨ st = 0 ∨ o = 0) → exec (.fence g st o) s = .next (s.takeTrap .illegal 5)) ∧
    (g.toNat ≤ 5 → st ≠ 0 → o ≠ 0 → isOrdinary s.cur = true → s.me.isOrd = false → (g = 5 → s.owesPosted = false) →
      exec (.fence g st o) s = .next (s.after (.fence g st o) id))) ∧
  (∀ s : State, Issues .oldest s → s.me.isOrd = false → exec .oldest s = .next (s.after .oldest id)) ∧
  (∀ s : State, Issues .nop s → exec .nop s = .next (s.after .nop id)) ∧
  (∀ (h : BitVec 22) (p : BitVec 1) (tail : Option (BitVec 30)) (s : State), Issues (.hint h p tail) s →
    exec (.hint h p tail) s = .next (s.after (.hint h p tail) id)) ∧
  (∀ (ty : BitVec 7) (rs2 rs1 : BitVec 5) (p : BitVec 1) (s : State), Issues (.trc ty rs2 rs1 p) s →
    let own := (s.unit (unitOf s.cur)).1
    let ctl := (s.unit (unitOf s.cur)).2.1
    let on := ctl.getLsbD 0 = true ∧ ctl.getLsbD 1 = true ∧ (ctl.getLsbD 16 = true → ctl.extractLsb' 4 12 = s.me.pol) ∧
      (own.extractLsb' 62 2 = 2 ∨ (own.extractLsb' 62 2 = 1 ∧ (own.extractLsb' 0 6).toNat = s.baseFn s.cur))
    ∃ t, exec (.trc ty rs2 rs1 p) s = .next t ∧ s.OnlyScalar t (.trc ty rs2 rs1 p) 0 ∧ s.SameMemory t ∧
      (¬on → t.hub = s.hub) ∧
      (on → ∃ r, t.hub.traces = s.hub.traces ++ [r] ∧ (r.bytes.extractLsb' 128 8) = ty.setWidth 8 ∧
        r.bytes.extractLsb' 160 96 = (s.me.s rs2.toNat).extractLsb' 0 32 ++ s.me.s rs1.toNat)) ∧
  (∀ (c : BitVec 2) (rd : BitVec 5) (p : BitVec 1) (s : State), Issues (.cnt c rd p) s →
    exec (.cnt c rd p) s = .next (s.after (.cnt c rd p) fun k => k.setS rd.toNat (vget s.me.ctr c.toNat 0))) ∧
  (∀ (c : BitVec 2) (rs1 : BitVec 5) (p : BitVec 1) (s : State), Issues (.cntSel c rs1 p) s →
    let n := (s.me.s rs1.toNat).extractLsb' 0 16
    (s.me.level = 0 → exec (.cntSel c rs1 p) s = .next (s.takeTrap .privilege 1)) ∧
    (1 ≤ s.me.level → s.me.buffered = false → ∃ t, exec (.cntSel c rs1 p) s = .next t ∧ s.OnlyScalar { t with cores := sset t.cores s.cur { t.me with ctrSel := s.me.ctrSel } } (.cntSel c rs1 p) 0 ∧
      vget t.me.ctrSel c.toNat 0 = n.setWidth 64 ∧
      vget t.me.ctr c.toNat 0 = (if n ∈ [0, 1, 2, 3, 4, 10, 16] then 0 else 0x8000000000000000#64) ∧
      (∀ k, k < 4 → k ≠ c.toNat → vget t.me.ctrSel k 0 = vget s.me.ctrSel k 0) ∧
      (∀ k, k < 4 → k ≠ c.toNat → vget t.me.ctr k 0 = vget (s.after (.cntSel c rs1 p) id).me.ctr k 0)))

/-- BCOPY and the copy engine (spec/11 R320 to R323). -/
def Obligations.BlockCopies : Prop :=
  (∀ (rs2 rs1 rd : BitVec 5) (p : BitVec 1) (s : State), Issues (.bcopy rs2 rs1 rd p) s → s.me.isOrd = false →
    let dst := s.me.s rd.toNat
    let src := s.me.s rs1.toNat
    let n := (s.me.s rs2.toNat).toNat
    let place (x : W64) : Bool := match regionOf s.cur (x.extractLsb' 0 28).toNat with
      | some (.tcm _) => true | some (.bay _) => true | _ => false
    let conv := 2 ≤ s.endFormat s.cur src ∧ 2 ≤ s.endFormat s.cur dst
    let traps (k : Cause) (v : W64) := exec (.bcopy rs2 rs1 rd p) s = .next (s.takeTrap k v)
    let so := (src.extractLsb' 0 28).toNat
    let d := (dst.extractLsb' 0 28).toNat
    (¬(place dst = true ∧ place src = true) → traps .polderAccess 10) ∧
    (place dst = true → place src = true → ¬conv → (so % 4 ≠ 0 ∨ d % 4 ≠ 0 ∨ n % 4 ≠ 0) → traps .align 4) ∧
    (place dst = true → place src = true → ¬conv → so % 4 = 0 → d % 4 = 0 → n % 4 = 0 →
      (n = 0 → exec (.bcopy rs2 rs1 rd p) s = .next (s.after (.bcopy rs2 rs1 rd p) id)) ∧
      (n ≠ 0 → ¬(s.inOneUnit s.cur src n = true ∧ s.inOneUnit s.cur dst n = true) → traps .bounds 0x20) ∧
      (n ≠ 0 → s.inOneUnit s.cur src n = true → s.inOneUnit s.cur dst n = true → so < d + n → d < so + n → traps .bounds 0x21) ∧
      (∀ ls ms, n ≠ 0 → s.inOneUnit s.cur src n = true → s.inOneUnit s.cur dst n = true → ¬(so < d + n ∧ d < so + n) →
        s.checkGranules s.cur s.me.ctx s.me.level (src - (src.extractLsb' 0 5).setWidth 64) .load true false 10
          (granules so n) = .ok ls →
        s.checkGranules s.cur s.me.ctx s.me.level (dst - (dst.extractLsb' 0 5).setWidth 64) .engine true false 10
          (granules d n) = .ok ms →
        (s.endFormat s.cur dst = 1 → s.me.level = 0 → traps .writeProtect 1) ∧
        (¬(s.endFormat s.cur dst = 1 ∧ s.me.level = 0) → s.copiesOf s.cur < 4 → s.myCluster.copies.length < 32 →
          ∃ t x, exec (.bcopy rs2 rs1 rd p) s = .next t ∧ s.OnlyScalar t (.bcopy rs2 rs1 rd p) 0 ∧ s.SameMemory t ∧
            t.myCluster.copies = s.myCluster.copies ++ [x] ∧ x.agent = s.cur ∧ x.dst = dst.setWidth 32 ∧
            x.src = src.setWidth 32 ∧ x.count = n ∧ x.conv = false ∧ x.ctx = s.me.ctx ∧ x.begun = false)))) ∧
  (∀ (c : BitVec 15) (s : State) (x : Copy) (q : List Copy), (s.cluster c.toNat).copies = x :: q → x.begun = false →
    ∃ t, exec (.copyStart c) s = .next t ∧ (t.cluster c.toNat).copies = { x with begun := true } :: q ∧ t.cores = s.cores ∧
      s.SameMemory t) ∧
  (∀ (c : BitVec 15) (s : State) (x : Copy) (q : List Copy) (e : CopyEnd), (s.cluster c.toNat).copies = x :: q →
    x.begun = true → s.copyOutcome c.toNat = some (x, e) →
    (e.stop = none → x.conv = false → x.count % 4 = 0 → x.dst.toNat % 4 = 0 → x.src.toNat % 4 = 0 →
      s.inOneUnit x.agent (x.src.setWidth 64) x.count = true → s.inOneUnit x.agent (x.dst.setWidth 64) x.count = true →
      clusterOf x.agent = c.toNat →
      let so := (x.src.extractLsb' 0 28).toNat
      let d := (x.dst.extractLsb' 0 28).toNat
      let k := keyOf x.agent d
      ¬(so < d + x.count ∧ d < so + x.count) →
      ∃ t, exec (.copyComplete c) s = .next t ∧ (t.cluster c.toNat).copies = q ∧
        (∀ j, j < x.count → t.byte (k + j) = s.byte (keyOf x.agent so + j) ∧ t.isFull ((k + j) / 4) = true) ∧
        (∀ j, (j < k ∨ k + x.count ≤ j) → t.byte j = s.byte j) ∧ ∀ g, t.tag g = s.tag g) ∧
    (∀ cause v m, e.stop = some (cause, v, m) → m < 2 ^ 16 →
      (cause = .uncorrectable → v.extractLsb' 0 4 ≠ 1 ∧ v.extractLsb' 0 4 ≠ 7) →
      ∃ t, exec (.copyStop c) s = .next t ∧ (t.cluster c.toNat).copies = q ∧
        (t.core x.agent).deferred = (e.state.core x.agent).deferred ++ [{ cause := cause, value := (1 : BitVec 1) ++ (0 : BitVec 15) ++ BitVec.ofNat 16 m ++ v.setWidth 32, depth := x.ctx.depth, pol := x.ctx.pol }]))

/-- VARI, VFMA and VSCL (spec/12 R339 to R341), each of a type that it accepts. `Fmt.round` rounds an exact value once
(spec/03). -/
def Obligations.VectorArithmeticByLanes : Prop :=
  ∀ (t : BitVec 4) (rs2 rs1 rd : BitVec 5) (p : BitVec 1) (s : State),
    let x := s.me.mods
    let ewBad (i : Instr) : Prop := i.wellFormed = true → Issues i s → x.ew ≠ 0 → ewWidth x.ew ≠ (vty t).width →
      exec i s = .next (s.takeTrap .illegal 14)
    let vari (i : Instr) (op : VOp) (rb : BitVec 5) (srcs : List (BitVec 5)) : Prop :=
      i.wellFormed = true → Issues i s → s.Registers srcs rd → (vty t).takes x op.takesSat →
      ∃ y g, exec i s = .next (s.vectorAfter i rd y g) ∧
        (∀ sg w, vty t = .int sg w → g = FFlags.none ∧ ∀ k, k < 512 / w →
          let a := lane (s.me.vr rs1) w k
          let b := lane (s.me.vr rb) w k
          (x.sat = 0 → BitVec.ofNat w (lane y w k) = variBits op sg (BitVec.ofNat w a) (BitVec.ofNat w b)) ∧
          (x.sat ≠ 0 → lane y w k = intResult sg w x.sat (op.exact (intLane sg w a) (intLane sg w b)))) ∧
        ∀ f, vty t = .fp f →
          let res (k : Nat) : Nat × FFlags :=
            let r := s.me.rndOf x false k
            (op.float (r.mode = 3) (f.operand x.ftz (lane (s.me.vr rs1) f.bits k))
              (f.operand x.ftz (lane (s.me.vr rb) f.bits k))).round f r
          g = laneFlags ((List.range (512 / f.bits)).map res) ∧
            ∀ k, k < 512 / f.bits → lane y f.bits k = (res k).1 % 2 ^ f.bits
    let rounded (i : Instr) (value : Fmt → Rnd → Nat → FRes) : Prop :=
      i.wellFormed = true → Issues i s → s.Registers [rs2, rs1] rd → (vty t).takes x false →
      ∃ f y, vty t = .fp f ∧
        let res (k : Nat) : Nat × FFlags := (value f (s.me.rndOf x false k) k).round f (s.me.rndOf x false k)
        exec i s = .next (s.vectorAfter i rd y (laneFlags ((List.range (512 / f.bits)).map res))) ∧
          ∀ k, k < 512 / f.bits → lane y f.bits k = (res k).1 % 2 ^ f.bits
    let v (f : Fmt) (q : BitVec 5) (k : Nat) : Val := f.operand x.ftz (lane (s.me.vr q) f.bits k)
    vari (.vadd t rs2 rs1 rd p) .add rs2 [rs2, rs1] ∧ ewBad (.vadd t rs2 rs1 rd p) ∧
    vari (.vsub t rs2 rs1 rd p) .sub rs2 [rs2, rs1] ∧ ewBad (.vsub t rs2 rs1 rd p) ∧
    vari (.vmul t rs2 rs1 rd p) .mul rs2 [rs2, rs1] ∧ ewBad (.vmul t rs2 rs1 rd p) ∧
    vari (.vmin t rs2 rs1 rd p) .min rs2 [rs2, rs1] ∧ ewBad (.vmin t rs2 rs1 rd p) ∧
    vari (.vmax t rs2 rs1 rd p) .max rs2 [rs2, rs1] ∧ ewBad (.vmax t rs2 rs1 rd p) ∧
    vari (.vabs t rs1 rd p) .abs rs1 [rs1] ∧ ewBad (.vabs t rs1 rd p) ∧
    vari (.vneg t rs1 rd p) .neg rs1 [rs1] ∧ ewBad (.vneg t rs1 rd p) ∧
    rounded (.vfma t rs2 rs1 rd p) (fun f r k => ffma (r.mode = 3) (v f rs1 k) (v f rs2 k) (v f rd k)) ∧
    rounded (.vfms t rs2 rs1 rd p) (fun f r k => ffma (r.mode = 3) (v f rs1 k) (v f rs2 k) (v f rd k).neg) ∧
    rounded (.vfnma t rs2 rs1 rd p) (fun f r k => ffma (r.mode = 3) (v f rs1 k).neg (v f rs2 k) (v f rd k)) ∧
    rounded (.vscl t rs2 rs1 rd p) (fun f _ k =>
      { val := scaleBy (v f rs1 k) (scaleExp (toSigned f.bits (lane (s.me.vr rs2) f.bits k))), invalid := false }) ∧
    ewBad (.vfma t rs2 rs1 rd p) ∧ ewBad (.vfms t rs2 rs1 rd p) ∧ ewBad (.vfnma t rs2 rs1 rd p) ∧ ewBad (.vscl t rs2 rs1 rd p)

/-- VLOG, VSEL, VMOV, VBCST, VEXT, VPERM, VIDX (spec/12 R345), VCMP (R343) and VMSK (R346). -/
def Obligations.VectorMovesAndMasks : Prop :=
  (∀ (rs2 rs1 rd : BitVec 5) (p : BitVec 1) (s : State), s.Registers [rs2, rs1] rd →
    let a := s.me.vr rs1
    let b := s.me.vr rs2
    let goes (i : Instr) (y : Vec) := Issues i s →
      (s.me.mods.ew = 0 → exec i s = .next (s.vectorAfter i rd y FFlags.none)) ∧
      (s.me.mods.ew ≠ 0 → exec i s = .next (s.takeTrap .illegal 14))
    goes (.vand rs2 rs1 rd p) (a &&& b) ∧ goes (.vor rs2 rs1 rd p) (a ||| b) ∧ goes (.vxor rs2 rs1 rd p) (a ^^^ b) ∧
    goes (.vandn rs2 rs1 rd p) (a &&& ~~~b) ∧
    (Issues (.vmov rs1 rd p) s → exec (.vmov rs1 rd p) s = .next (s.vectorAfter (.vmov rs1 rd p) rd a FFlags.none))) ∧
  (∀ (m : BitVec 3) (rs2 rs1 rd : BitVec 5) (p : BitVec 1) (s : State), s.Registers [rs2, rs1] rd →
    let w := ewWidth s.me.mods.ew
    let a := lane (s.me.vr rs1) w
    let b := lane (s.me.vr rs2) w
    let goes (i : Instr) (f : Nat → Nat) := Issues i s →
      ∃ y, exec i s = .next (s.vectorAfter i rd y FFlags.none) ∧ ∀ k, k < 512 / w → lane y w k = f k
    goes (.vsel m rs2 rs1 rd p) (fun k => if (s.me.qr m.toNat).getLsbD k = true then a k else b k) ∧
    goes (.vperm rs2 rs1 rd p) (fun k => a (b k % (512 / w))) ∧
    goes (.vbcst rs1 rd p) (fun _ => (s.me.s rs1.toNat).toNat % 2 ^ w) ∧
    goes (.vidx rs2 rs1 rd p) (fun k => (s.me.s rs1.toNat + BitVec.ofNat 64 k * s.me.s rs2.toNat).toNat % 2 ^ w)) ∧
  (∀ (e : BitVec 1) (rs2 rs1 rd : BitVec 5) (p : BitVec 1) (s : State), Issues (.vext e rs2 rs1 rd p) s →
    s.me.portAt rs1 = none →
    let w := ewWidth s.me.mods.ew
    let x := lane (s.me.vr rs1) w ((s.me.s rs2.toNat).toNat % (512 / w))
    exec (.vext e rs2 rs1 rd p) s = .next (s.after (.vext e rs2 rs1 rd p) fun c => c.setS rd.toNat
      (if e = 1 then (BitVec.ofNat w x).signExtend 64 else BitVec.ofNat 64 x))) ∧
  (∀ (t : BitVec 4) (c : BitVec 3) (rs2 rs1 : BitVec 5) (rd : BitVec 3) (p : BitVec 1) (s : State),
    let i : Instr := .vcmp t c rs2 rs1 rd p
    let w := (vty t).width
    Issues i s → s.me.portAt rs1 = none → s.me.portAt rs2 = none → c.toNat < 4 → (vty t).takes s.me.mods false →
    ∃ y : W64, exec i s = .next (s.after i fun k => k.setQ rd.toNat y) ∧ (∀ k, 512 / w ≤ k → y.getLsbD k = false) ∧
      ∀ k, k < 512 / w →
        let a := lane (s.me.vr rs1) w k
        let b := lane (s.me.vr rs2) w k
        (∀ g v, vty t = .int g v →
          let u := intLane g v a
          let r := intLane g v b
          (y.getLsbD k = true ↔ (c = 0 ∧ u = r) ∨ (c = 1 ∧ u ≠ r) ∨ (c = 2 ∧ u < r) ∨ (c = 3 ∧ r ≤ u))) ∧
        (∀ f, vty t = .fp f →
          (y.getLsbD k = true ↔
            match (f.operand s.me.mods.ftz a).cmp (f.operand s.me.mods.ftz b) with
            | none => c = 1
            | some d => (c = 0 ∧ d = 0) ∨ (c = 1 ∧ d ≠ 0) ∨ (c = 2 ∧ d = -1) ∨ (c = 3 ∧ d ≠ -1)))) ∧
  (∀ (m2 m1 md : BitVec 3) (r : BitVec 5) (p : BitVec 1) (s : State),
    let a := s.me.qr m1.toNat
    let b := s.me.qr m2.toNat
    let mask (i : Instr) (y : W64) := Issues i s → exec i s = .next (s.after i fun c => c.setQ md.toNat y)
    let scal (i : Instr) (y : W64) := Issues i s → exec i s = .next (s.after i fun c => c.setS r.toNat y)
    mask (.vmskAnd m2 m1 md p) (a &&& b) ∧ mask (.vmskOr m2 m1 md p) (a ||| b) ∧ mask (.vmskXor m2 m1 md p) (a ^^^ b) ∧
    mask (.vmskAndn m2 m1 md p) (a &&& ~~~b) ∧ mask (.vmskFroms r md p) (s.me.s r.toNat) ∧ scal (.vmskTos m1 r p) a ∧
    scal (.vmskPopc m1 r p) (BitVec.ofNat 64 ((List.range 64).countP fun k => a.getLsbD k)) ∧
    scal (.vmskFirst m1 r p) (BitVec.ofNat 64 (((List.range 64).takeWhile fun k => !a.getLsbD k).length)))

/-- VRED (spec/12 R347), VDOT (R344), VCVT (R348), VTRN (R342), each of types that it accepts. The element index of VCVT under sto
(log entry 90), SAT between identical types (log entry 89) and the computation of VTRN's values (log entry 6) are the model's. -/
def Obligations.ReductionsConversionsAndFunctions : Prop :=
  (∀ (t : BitVec 4) (q : BitVec 3) (rs1 rd : BitVec 5) (p : BitVec 1) (s : State),
    let reduces (i : Instr) (op : VOp) : Prop :=
      i.wellFormed = true → Issues i s → s.me.portAt rs1 = none → (vty t).takes s.me.mods false →
      ∃ (y : W64) (g : FFlags), exec i s = .next (s.after i fun c => (c.raise g).setS rd.toNat y) ∧
        (∀ sg w, vty t = .int sg w →
          let on := (List.range (512 / w)).filter fun k => (s.me.qr q.toNat).getLsbD k
          let vs := on.map fun k => intLane sg w (lane (s.me.vr rs1) w k)
          g = FFlags.none ∧
          (vs = [] → y = if op = .add then 0 else if op = .max then (if sg then (BitVec.intMin w).signExtend 64 else 0)
            else BitVec.ofNat 64 (if sg then 2 ^ (w - 1) - 1 else 2 ^ w - 1)) ∧
          (vs ≠ [] → op = .add → y = BitVec.ofInt 64 vs.sum) ∧
          (vs ≠ [] → op ≠ .add → ∃ m ∈ vs, y = BitVec.ofInt 64 m ∧ ∀ v ∈ vs, if op = .max then v ≤ m else m ≤ v)) ∧
        (∀ f, vty t = .fp f →
          let on := (List.range (512 / f.bits)).filter fun k => (s.me.qr q.toNat).getLsbD k
          (on = [] → g = FFlags.none ∧
            y = if op = .add then 0x80000000#64 else if op = .max then 0xFF800000#64 else 0x7F800000#64) ∧
          ∀ k, on = [k] → g = FFlags.none ∧
            y = BitVec.ofNat 64 (Fmt.f32.round Rnd.rne (f.operand s.me.mods.ftz (lane (s.me.vr rs1) f.bits k))).1) ∧
        ∀ f v h, vty t = .fp f → s.redNode op f q rs1 (Nat.log2 (512 / f.bits)) 0 = (some v, h) →
          g = h ∧ y = BitVec.ofNat 64 (Fmt.f32.round Rnd.rne v).1
    reduces (.vredAdd t q rs1 rd p) .add ∧ reduces (.vredMax t q rs1 rd p) .max ∧ reduces (.vredMin t q rs1 rd p) .min) ∧
  (∀ (m : BitVec 2) (rs2 rs1 rd : BitVec 5) (p : BitVec 1) (s : State),
    Issues (.vdot m rs2 rs1 rd p) s → s.Registers [rs2, rs1] rd → m.toNat < 3 →
    ∃ y, exec (.vdot m rs2 rs1 rd p) s = .next (s.vectorAfter (.vdot m rs2 rs1 rd p) rd y FFlags.none) ∧ ∀ k, k < 16 →
      let a (j : Nat) := intLane (m ≠ 2) 8 (lane (s.me.vr rs1) 8 (4 * k + j))
      let b (j : Nat) := intLane (m = 0) 8 (lane (s.me.vr rs2) 8 (4 * k + j))
      lane y 32 k = intResult true 32 s.me.mods.sat
        (toSigned 32 (lane (s.me.vr rd) 32 k) + (a 0 * b 0 + a 1 * b 1 + a 2 * b 2 + a 3 * b 3))) ∧
  (∀ (st t : BitVec 4) (part : BitVec 2) (rs1 rd : BitVec 5) (p : BitVec 1) (s : State),
    let x := s.me.mods
    let a := (vty st).width
    let b := (vty t).width
    let n := 512 / max a b
    let part' := part.toNat * n
    let source (k : Nat) := lane (s.me.vr rs1) a ((if a < b then part' else 0) + k)
    (Instr.vcvt st part t rs1 rd p).wellFormed = true → Issues (.vcvt st part t rs1 rd p) s → s.Registers [rs1] rd →
    (x.ew = 0 ∨ ewWidth x.ew = a) →
    (∀ g w h v, vty st = .int g w → vty t = .int h v → x.rm = 6 ∧ x.ftz = false) →
    ∃ y g, exec (.vcvt st part t rs1 rd p) s = .next (s.vectorAfter (.vcvt st part t rs1 rd p) rd y g) ∧
      (∀ k, k < n →
        let out := lane y b ((if b < a then part' else 0) + k)
        out = (cvtElem (vty st) (vty t) x (s.me.rndOf x true k) (source k)).1 % 2 ^ b ∧
        (∀ e w, vty st = .fp e → vty t = .fp w →
          (e.decode (source k) = .nan → out = w.nanCode % 2 ^ b) ∧
          (e = w → x.ftz = false → (e.decode (source k)).isNan = false → (e.decode (source k)).isInf = false ∨ x.sat = 0 →
            out = source k) ∧
          (∀ sg, x.sat ≠ 0 → e.decode (source k) = .inf sg → out = w.signed sg w.maxCode % 2 ^ b))) ∧
      (b < a → ∀ j, j < 512 / b → (j < part' ∨ part' + n ≤ j) → lane y b j = lane (s.me.vr rd) b j)) ∧
  (∀ (t : BitVec 4) (rs1 rd : BitVec 5) (p : BitVec 1) (s : State),
    let one : Nat × Nat × Nat → Nat := fun c => c.1
    let inf : Nat × Nat × Nat → Nat := fun c => c.2.1
    let nan : Nat × Nat × Nat → Nat := fun c => c.2.2
    let zero : Nat × Nat × Nat → Nat := fun _ => 0
    let gives (i : Instr) (fn : Trn) (root : Bool) (table : List ((Nat × Nat × Nat → Nat) × Bool × Nat)) : Prop :=
      i.wellFormed = true → Issues i s → s.Registers [rs1] rd → (vty t).takes s.me.mods false →
      ∃ y g, exec i s = .next (s.vectorAfter i rd y g) ∧ ∀ f, vty t = .fp f → ∀ k, k < 512 / f.bits →
        let a := lane (s.me.vr rs1) f.bits k
        let v := f.operand s.me.mods.ftz a
        lane y f.bits k = (f.round (s.me.rndOf s.me.mods false k) (fn.eval v).1).1 % 2 ^ f.bits ∧
        (∀ b d, (a, b, d) ∈ trnTable f table → lane y f.bits k = b ∧ (d = 1 → g.dz = true) ∧ (d = 2 → g.nv = true)) ∧
        (v = .nan → lane y f.bits k = nan (trnCodes f)) ∧
        (∀ n d, root = true → v = .fin true n d → n ≠ 0 → lane y f.bits k = nan (trnCodes f) ∧ g.nv = true)
    gives (.vexp2 t rs1 rd p) .exp2 false [(one, false, 0), (one, false, 0), (inf, false, 0), (zero, false, 0)] ∧
    gives (.vlog2 t rs1 rd p) .log2 true [(inf, true, 1), (inf, true, 1), (inf, false, 0), (nan, false, 2)] ∧
    gives (.vrcp t rs1 rd p) .rcp false [(inf, false, 1), (inf, true, 1), (zero, false, 0), (zero, true, 0)] ∧
    gives (.vrsq t rs1 rd p) .rsq true [(inf, false, 1), (inf, true, 1), (zero, false, 0), (nan, false, 2)] ∧
    gives (.vtanh t rs1 rd p) .tanh false [(zero, false, 0), (zero, true, 0), (one, false, 0), (one, true, 0)])

/-- VLD, VLD.dec, VST, VST.cnv (spec/12 R349 to R352), VLDS, VSTS, VGATH, VSCAT (R353, R354). -/
def Obligations.VectorMemory : Prop :=
  (∀ (dec : Bool) (imm : BitVec 10) (rs1 rd : BitVec 5) (p : BitVec 1) (s : State) (l : Loc),
    let i : Instr := if dec then .vldDec imm rs1 rd p else .vld imm rs1 rd p
    let ea := s.me.s rs1.toNat + 8 * imm.signExtend 64
    let f := s.endFormat s.cur ea
    let converts := dec = true ∧ 3 ≤ f ∧ f ≤ 8
    Issues i s → s.Registers [] rd → s.me.isOrd = false → s.Reaches ea (itemBytes dec f) .load true l →
    (∀ b, l.region = .bay b → converts →
      s.eccAreas s.cur b (s.itemScales (clusterOf s.cur) b (l.off % 0x8000) (itemBytes dec f) true) = .ok ()) →
    (converts → f = 7 → 0x6000 < l.off % 0x8000 + 8 → exec i s = .next (s.takeTrap .bounds 0x24)) ∧
    ((converts → f = 7 → l.off % 0x8000 + 8 ≤ 0x6000) → ∃ t, exec i s = .next t ∧ s.OnlyVector t i rd.toNat ∧ s.SameMemory t ∧
      (¬converts → vget t.me.v rd.toNat 0 = BitVec.ofNat 512 (s.read l.key 64) ∧ t.me.fcsr = s.me.fcsr) ∧
      (converts → ∀ b k, l.region = .bay b → k < 16 → lane (vget t.me.v rd.toNat 0) 32 k =
        (laneOf (s.bayElem (clusterOf s.cur) b (l.off % 0x8000 * 8 / bayBits f + k))).1 % 2 ^ 32))) ∧
  (∀ (cnv : Bool) (imm : BitVec 10) (rs1 rd : BitVec 5) (p : BitVec 1) (s : State) (l : Loc),
    let i : Instr := if cnv then .vstCnv imm rs1 rd p else .vst imm rs1 rd p
    let ea := s.me.s rs1.toNat + 8 * imm.signExtend 64
    let f := s.endFormat s.cur ea
    let n := itemBytes cnv f
    let converts := cnv = true ∧ 3 ≤ f ∧ f ≤ 8
    Issues i s → s.me.portAt rd = none → s.me.isOrd = false → s.Reaches ea n .store false l →
    (∀ b, l.region = .bay b → converts →
      s.eccAreas s.cur b (s.itemSlots (clusterOf s.cur) b (l.off % 0x8000)) = .ok () ∧
      s.eccWrites s.cur b (s.encodeItem (clusterOf s.cur) b (l.off % 0x8000) (s.me.vr rd) (field s.me.srseed 0 32)
        (field s.me.tstamp 0 32)) = .ok ()) →
    (converts → f = 7 → 0x6000 < l.off % 0x8000 + 8 → exec i s = .next (s.takeTrap .bounds 0x24)) ∧
    ((converts → f = 7 → l.off % 0x8000 + 8 ≤ 0x6000) → ∃ t, exec i s = .next t ∧ s.OnlyVector t i 16 ∧ (∀ g, t.tag g = s.tag g) ∧
      (∀ w, t.isFull w = s.isFull w) ∧
      (¬converts → t.read l.key 64 = (s.me.vr rd).toNat ∧ s.OnlyBytes t l.key 64) ∧
      (converts → f ≠ 7 → s.OnlyBytes t l.key n) ∧
      (converts → f ≠ 7 → ∀ b w, l.region = .bay b →
        w ∈ s.encodeItem (clusterOf s.cur) b (l.off % 0x8000) (s.me.vr rd) (field s.me.srseed 0 32) (field s.me.tstamp 0 32) →
        t.read (bayBase (clusterOf s.cur) b + w.off) w.size = w.data % 2 ^ (8 * w.size)) ∧
      (converts → ∀ b, l.region = .bay b → s.OnlyBytes t (bayBase (clusterOf s.cur) b) 0x8000))) ∧
  (∀ (i : Instr) (rd : BitVec 5) (p : BitVec 1) (rs2 rs1 : BitVec 5) (m : BitVec 12) (s : State) (l : Nat → Loc) (srcs : List (BitVec 5)),
    (i = .vlds m rs1 rd p ∧ srcs = [] ∨ i = .vgath rs2 rs1 rd p ∧ srcs = [rs2]) → Issues i s → s.Registers srcs rd →
    s.me.isOrd = false →
    let n := ewBytes s.me.mods
    (∀ k, k < 64 / n → ∃ ea, s.elementOf i k = some (ea, srcs) ∧ s.Reaches ea n .load true (l k)) →
    ∃ t, exec i s = .next t ∧ s.OnlyVector t i rd.toNat ∧ s.SameMemory t ∧ t.me.fcsr = s.me.fcsr ∧
      ∀ k, k < 64 / n → lane (vget t.me.v rd.toNat 0) (8 * n) k = s.read (l k).key n) ∧
  (∀ (i : Instr) (rd : BitVec 5) (p : BitVec 1) (rs2 rs1 : BitVec 5) (m : BitVec 12) (s : State) (l : Nat → Loc) (srcs : List (BitVec 5)),
    (i = .vsts m rs1 rd p ∧ srcs = [] ∨ i = .vscat rs2 rs1 rd p ∧ srcs = [rs2]) → Issues i s → (∀ r ∈ srcs, s.me.portAt r = none) →
    s.me.portAt rd = none → s.me.isOrd = false →
    let n := ewBytes s.me.mods
    (∀ k, k < 64 / n → ∃ ea, s.elementOf i k = some (ea, srcs) ∧ s.Reaches ea n .store false (l k)) →
    ∃ t, exec i s = .next t ∧ s.OnlyVector t i 16 ∧ (∀ g, t.tag g = s.tag g) ∧ (∀ w, t.isFull w = s.isFull w) ∧
      (∀ k, k < 64 / n → (∀ j, k < j → j < 64 / n → (l j).key ≠ (l k).key) → t.read (l k).key n = lane (s.me.vr rd) (8 * n) k) ∧
      ∀ b, (∀ k, k < 64 / n → b < (l k).key ∨ (l k).key + n ≤ b) → t.byte b = s.byte b)

/-- SBIND, SUNB, SSTAT, ports as operands, the port engines (spec/12 R355 to R359); LRD, LWR, LSTAT (R361). That an item with a failing
beat does not count as written is the model's choice (log entry 120). -/
def Obligations.StreamPortsAndLinks : Prop :=
  (∀ (mode : BitVec 2) (dir : BitVec 1) (q : BitVec 2) (rs2 rs1 : BitVec 5) (stride : BitVec 26) (s : State),
    let i : Instr := .sbind mode dir q rs2 rs1 stride
    Issues i s → s.me.isOrd = false →
    let t := s.unbind q.toNat
    let base := s.me.s rs1.toNat
    let w := s.me.s rs2.toNat
    let c0 := w.extractLsb' 0 16
    let c1 := w.extractLsb' 16 16
    let f := t.endFormat t.cur (base.setWidth 32 |>.setWidth 64)
    let n := itemBytes (mode = 1) f
    let off (x y : Nat) : Int := ((base.extractLsb' 0 28).toNat : Int) + x * (w.extractLsb' 32 32).toInt + y * stride.toInt
    let fits (u : Nat × Nat) := ∀ x y, (x = 0 ∨ x = c0.toNat - 1) → (y = 0 ∨ y = c1.toNat - 1) →
      off x y % (n : Int) = 0 ∧ (u.1 : Int) ≤ off x y ∧ off x y + n ≤ ((u.1 + u.2 : Nat) : Int)
    t.me.port q.toNat = Port.reset ∧
    ((c0 = 0 ∨ c1 = 0) → exec i s = .next (t.takeTrap .streamFault 5)) ∧
    (c0 ≠ 0 → c1 ≠ 0 → (base.extractLsb' 32 32 ≠ 0 ∨ t.portUnit t.cur (base.setWidth 32) = none) →
      exec i s = .next (t.takeTrap .streamFault 1)) ∧
    (∀ u, c0 ≠ 0 → c1 ≠ 0 → base.extractLsb' 32 32 = 0 → t.portUnit t.cur (base.setWidth 32) = some u →
      (¬fits u → exec i s = .next (t.takeTrap .streamFault 1)) ∧
      (fits u → ∃ p, exec i s = .next (t.after i fun c => c.setPort q.toNat p) ∧ p.bound = true ∧ p.out = (dir = 1 : Bool) ∧
        p.mode = mode ∧ p.done = 0 ∧ p.items = [] ∧ p.pend = none ∧ p.item 0 = (base.setWidth 32 : W32).setWidth 64 ∧
        p.total = c0.toNat * c1.toNat))) ∧
  (∀ (q : BitVec 2) (s : State), Issues (.sunb q) s →
    let p := s.me.port q.toNat
    (∃ t, exec (.sunb q) s = .next t ∧ t.me.port q.toNat = Port.reset ∧ (t.me.act = .stopped ∨ ∀ k, t.me.s k = s.me.s k)) ∧
    ((p.bound = false ∨ p.out = false) →
      exec (.sunb q) s = .next (s.after (.sunb q) fun c => c.setPort q.toNat Port.reset))) ∧
  (∀ (q : BitVec 2) (rd : BitVec 5) (z : BitVec 1) (s : State), Issues (.sstat q rd z) s →
    let p := s.me.port q.toNat
    ∃ y : W64, exec (.sstat q rd z) s = .next (s.after (.sstat q rd z) fun c => c.setS rd.toNat y) ∧
      (p.bound = false → y = 0) ∧
      (p.bound = true → y.getLsbD 63 = true ∧ y.getLsbD 62 = p.out ∧ y.extractLsb' 60 2 = p.mode ∧ y.getLsbD 59 = p.pend.isSome ∧
        (y.extractLsb' 32 3).toNat = p.items.length % 8 ∧ (y.extractLsb' 0 32).toNat = p.done % 2 ^ 32)) ∧
  (∀ (rs1 rd : BitVec 5) (z : BitVec 1) (s : State) (q : Nat) (p : Port), Issues (.vmov rs1 rd z) s → s.me.mods.ew = 0 →
    s.me.portAt rs1 = some (q, p) →
    (p.out = true → exec (.vmov rs1 rd z) s = .next (s.takeTrap .streamFault 4)) ∧
    (p.out = false → p.items = [] → p.total ≤ p.done → exec (.vmov rs1 rd z) s = .next (s.takeTrap .streamFault 2)) ∧
    (∀ v rest, p.out = false → p.items = v :: rest → s.Registers [] rd →
      exec (.vmov rs1 rd z) s = .next (s.after (.vmov rs1 rd z) fun c =>
        { c with v := vset c.v rd.toNat v.value }.setPort q { p with items := rest, done := p.done + 1 }))) ∧
  (∀ (rs1 rd : BitVec 5) (z : BitVec 1) (s : State) (q : Nat) (p : Port), Issues (.vmov rs1 rd z) s → s.me.mods.ew = 0 →
    s.me.portAt rs1 = none → s.me.portAt rd = some (q, p) →
    (p.out = false → exec (.vmov rs1 rd z) s = .next (s.takeTrap .streamFault 4)) ∧
    (p.out = true → p.total ≤ p.done → exec (.vmov rs1 rd z) s = .next (s.takeTrap .streamFault 3)) ∧
    (∀ l, p.out = true → p.done < p.total → p.items.length < 4 → s.keepVector rd.toNat = .ok s →
      s.localCheck s.cur s.me.ctx s.me.level (p.item p.done) (s.portBytes s.cur p) .store = .ok l →
      exec (.vmov rs1 rd z) s = .next (s.after (.vmov rs1 rd z) fun c =>
        { c with v := vset c.v rd.toNat (s.me.vr rs1) }.setPort q
          { p with
            items := p.items ++
              [({ value := s.me.vr rs1, seed := s.me.srseed.setWidth 32, ts := s.me.tstamp.setWidth 32 } : PortItem)]
            done := p.done + 1 }))) ∧
  (∀ (i : Instr) (s t : State),
    let srcs := vectorSources i
    let regs := s.asRegisters srcs
    srcs ≠ [] → (∀ r ∈ srcs, ∀ q p, s.me.portAt r = some (q, p) →
      p.out = false ∧ ∃ v rest, p.items = v :: rest ∧ regs.me.vr r = v.value) →
    (∀ d, vectorDest i = some d → s.me.portAt d = none) → exec i regs = .next t → regs.Completes t →
    exec i s = .next (t.modMe fun c => c.tookItems s.me srcs)) ∧
  (∀ (i : Instr) (s t : State) (d : BitVec 5) (q : Nat) (p : Port) (l : Loc),
    let regs := s.modMe fun c => c.setPort q Port.reset
    vectorDest i = some d → s.me.portAt d = some (q, p) → p.out = true → p.done < p.total → p.items.length < 4 →
    (∀ r ∈ vectorSources i, r ≠ d) →
    s.localCheck s.cur s.me.ctx s.me.level (p.item p.done) (s.portBytes s.cur p) .store = .ok l →
    exec i regs = .next t → regs.Completes t →
    exec i s = .next (t.modMe fun c => c.setPort q
      { p with
        items := p.items ++
          [({ value := vget c.v d.toNat 0, seed := s.me.srseed.setWidth 32, ts := s.me.tstamp.setWidth 32 } : PortItem)]
        done := p.done + 1 })) ∧
  (∀ (a : BitVec 22) (q : BitVec 2) (s : State),
    let c := s.core a.toNat
    let p := c.port q.toNat
    (p.fetches = true → ∀ u v g, s.portItem a.toNat p (p.item (p.done + p.items.length)) = .ok (u, v, g) →
      ∃ t, exec (.streamFetch a q) s = .next t ∧
        (t.core a.toNat).port q.toNat = { p with items := p.items ++ [PortItem.fetched v] } ∧
        s.SameMemory t ∧ ∀ b, b ≠ a.toNat → t.core b = s.core b) ∧
    (p.fetches = true → ∀ k v, s.portItem a.toNat p (p.item (p.done + p.items.length)) = .error (.trap k v) →
      ∃ t, exec (.streamFetch a q) s = .next t ∧ (t.core a.toNat).port q.toNat = { p with pend := some (k, v) } ∧ s.SameMemory t) ∧
    (∀ v rest, p.bound = true → p.out = true → p.items = v :: rest → c.isOrd = false →
      let ea := p.item (p.done - p.items.length)
      let f := s.endFormat a.toNat ea
      let n := itemBytes (p.mode = 1) f
      let converts := p.mode = 1 ∧ 3 ≤ f ∧ f ≤ 8
      let cl := clusterOf a.toNat
      let written : Port := { p with items := rest, written := p.written + 1 }
      let pass (l : Loc) : Prop := l.tagged = true ∧ ∀ k, k < n → k % 16 = 0 →
        let x : Loc := { l with off := l.off + k, key := l.key + k }
        s.localCheck a.toNat c.ctx c.level (ea + BitVec.ofNat 64 k) (min 16 (n - k)) .engine = .ok x ∧
        s.eccCheck a.toNat x (min 16 (n - k)) false = .ok ()
      (∀ l, ¬converts → pass l → ∃ t, exec (.streamWrite a q) s = .next t ∧ (t.core a.toNat).port q.toNat = written ∧
        t.read l.key 64 = v.value.toNat ∧ s.OnlyBytes t l.key 64) ∧
      (∀ l b, converts → pass l → l.region = .bay b → l.key = bayBase cl b + l.off % 0x8000 → l.off % 0x8000 + n ≤ 0x8000 →
        l.off % n = 0 → s.badWords = [] → s.badTags = [] →
        let ws := s.encodeItem cl b (l.off % 0x8000) v.value v.seed.toNat v.ts.toNat
        ∃ t, exec (.streamWrite a q) s = .next t ∧ (t.core a.toNat).port q.toNat = written ∧
          (f ≠ 7 → s.OnlyBytes t l.key n ∧
            ∀ w ∈ ws, t.read (bayBase cl b + w.off) w.size = w.data % 2 ^ (8 * w.size)) ∧
          s.OnlyBytes t (bayBase cl b) 0x8000) ∧
      (∀ k x, n ≤ 16 → s.localCheck a.toNat c.ctx c.level ea n .engine = .error (.trap k x) → k ≠ .uncorrectable →
        ∃ t d, exec (.streamWrite a q) s = .next t ∧ (t.core a.toNat).port q.toNat = { p with items := rest } ∧ s.SameMemory t ∧
          (t.core a.toNat).deferred = c.deferred ++ [d] ∧ d.cause = k ∧ d.value.setWidth 32 = x.setWidth 32 ∧
          d.value.getLsbD 63 = true ∧ (d.value.extractLsb' 32 16).toNat = p.written % 2 ^ 16 ∧ d.depth = c.depth ∧ d.pol = c.pol))) ∧
  (∀ (f : BitVec 1) (rd : BitVec 5) (z : BitVec 1) (s : State), Issues (.lrd f rd z) s → s.Registers [] rd → s.me.isOrd = false →
    let room := (s.core (eastOf s.cur)).lw.length < 4
    (s.me.lw = [] → ∃ t, exec (.lrd f rd z) s = .next t ∧ t.me.sleep = .link true ∧ t.me.pc = s.me.pc) ∧
    (∀ v rest, s.me.lw = v :: rest → f = 0 →
      exec (.lrd f rd z) s = .next (s.after (.lrd f rd z) fun c => { c with lw := rest, v := vset c.v rd.toNat v })) ∧
    (∀ v rest, s.me.lw = v :: rest → f = 1 → room → ∃ t, exec (.lrd f rd z) s = .next t ∧ t.me.lw = rest ∧
      vget t.me.v rd.toNat 0 = v ∧ (t.core (eastOf s.cur)).lw = (s.core (eastOf s.cur)).lw ++ [v] ∧ s.SameMemory t)) ∧
  (∀ (rs1 : BitVec 5) (z : BitVec 1) (s : State), Issues (.lwr rs1 z) s → s.me.portAt rs1 = none → s.me.isOrd = false →
    let e := s.core (eastOf s.cur)
    (e.lw.length < 4 → ∃ t, exec (.lwr rs1 z) s = .next t ∧ (t.core (eastOf s.cur)).lw = e.lw ++ [s.me.vr rs1] ∧
      s.OnlyScalar { t with cores := sset t.cores (eastOf s.cur) e } (.lwr rs1 z) 0 ∧ s.SameMemory t) ∧
    (4 ≤ e.lw.length → ∃ t, exec (.lwr rs1 z) s = .next t ∧ t.me.sleep = .link false ∧ t.me.pc = s.me.pc)) ∧
  (∀ (rd : BitVec 5) (z : BitVec 1) (s : State), Issues (.lstat rd z) s →
    exec (.lstat rd z) s = .next (s.after (.lstat rd z) fun c => c.setS rd.toNat
      (BitVec.ofNat 64 (s.me.lw.length + 16 * (s.core (eastOf s.cur)).lw.length))))

/-- Tile instructions and the array (spec/13 R365 to R385). That a TMMA carries and decodes by the formats at issue (log entry 113), and
which columns GANG_TIMEOUT names (log entry 43), are the model's readings. -/
def Obligations.TileInstructions : Prop :=
  (∀ (f : BitVec 1) (rs1 : BitVec 5) (c : BitVec 2) (s : State) (i : Instr) (w : TileWork) (plen : Nat),
    let p := s.me.s rs1.toNat
    (i = .tzero c ∧ w = .tzero c ∧ plen = 0 ∨
      i = .tld rs1 c ∧ w = .tld c (p.setWidth 32) ∧ plen = 0 ∧ s.sliceChecks p .load = .ok () ∨
      i = .tst rs1 c ∧ w = .tst c (p.setWidth 32) ∧ plen = 0 ∧ s.sliceChecks p .store = .ok () ∨
      i = .tactRelu f c ∧ w = .tact c 0 (f = 1) ∧ plen = 512 * f.toNat ∨
      i = .tactGelu f c ∧ w = .tact c 1 (f = 1) ∧ plen = 512 * f.toNat ∨
      i = .tactSilu f c ∧ w = .tact c 2 (f = 1) ∧ plen = 512 * f.toNat) →
    Issues i s → s.me.isOrd = false → s.me.depth = 0 → s.me.tileq.length < 4 →
    let op (e : Option (W32 × Nat)) : TileOp := { work := w, fa := 0, fb := 0, ctx := s.me.ctx, seed := s.me.srseed.setWidth 32
                                                  ts := s.me.tstamp.setWidth 32, entry := e, key := none }
    let bare := (∃ n b, w = .tact c n b) ∧ f = 0
    (s.me.records = false → exec i s = .next (s.after i fun k => { k with tileq := k.tileq ++ [op none] })) ∧
    (s.me.records = true → bare → exec i s = .next (s.takeTrap .adjState 7)) ∧
    (s.me.records = true → ¬bare → s.logValid s.cur = false → exec i s = .next (s.takeTrap .adjState 1)) ∧
    (s.me.records = true → ¬bare → s.logValid s.cur = true →
      (field s.me.logl 0 28 < field s.me.logp 0 28 + 32 + plen →
        exec i s = .next (s.takeTrap .adjLogFull (BitVec.ofNat 64 (32 + plen)))) ∧
      (field s.me.logp 0 28 + 32 + plen ≤ field s.me.logl 0 28 →
        exec i s = .next (s.after i fun k =>
          { k with
            logp := k.logp + BitVec.ofNat 64 (32 + plen)
            tileq := k.tileq ++ [op (some (s.me.logp.setWidth 32, plen))] })))) ∧
  (∀ (rs2 rs1 : BitVec 5) (kc : BitVec 2) (tb ta : BitVec 1) (acc : BitVec 2) (z : BitVec 1) (rb ra : BitVec 2) (s : State),
    let i : Instr := .tmma rs2 rs1 kc tb ta acc z rb ra
    let key := tmmaKey s.me kc.toNat ta.toNat tb.toNat z.toNat ra.toNat rb.toNat
    let g := tileGroup s.cur s.me.tileWidth
    let fmtA : BitVec 4 := (s.bfmtOf s.cur ((s.me.s rs1.toNat).setWidth 32)).extractLsb' 0 4
    let fmtB : BitVec 4 := (s.bfmtOf s.cur ((s.me.s rs2.toNat).setWidth 32)).extractLsb' 0 4
    Issues i s → s.me.isOrd = false → s.me.depth = 0 → s.me.join = none → s.me.rev = none →
    (2 ≤ ra.toNat ∨ 2 ≤ rb.toNat → exec i s = .next (s.takeTrap .illegal 1)) ∧
    (ra.toNat < 2 → rb.toNat < 2 → s.tmmaChecks kc.toNat (ta = 1) (tb = 1) (s.me.s rs1.toNat) (s.me.s rs2.toNat) = .ok () →
      s.me.tileq.length < 4 → s.me.records = false → (∀ b, b ∈ tileGroup s.cur 8 → b ∉ g → s.waitsAt b 1 = false) →
      ((∀ b, b ∈ g → b ≠ s.cur → ∃ j, (s.core b).join = some j ∧ j.kind = 1 ∧ j.result = none ∧ j.key = key ∧ j.fail = none) →
        ∃ t op, exec i s = .next t ∧ t.me.tileq = s.me.tileq ++ [op] ∧
          op.work = .tmma ((s.me.s rs1.toNat).setWidth 32) ((s.me.s rs2.toNat).setWidth 32) kc (tb = 1) (ta = 1) acc (z = 1)
            (ra = 1) (rb = 1) ∧ op.fa = fmtA ∧ op.fb = fmtB ∧ op.entry = none ∧ t.me.join = none ∧ t.me.latch = none ∧ s.SameMemory t ∧
          ∀ b, b ∈ g → b ≠ s.cur → ∃ j, (t.core b).join = some j ∧ j.result = some 0) ∧
      ((∃ b, b ∈ g ∧ b ≠ s.cur ∧ s.waitsAt b 1 = false) → (∀ b, b ∈ g → (s.core b).tileWidth = s.me.tileWidth) →
        ∃ t j, exec i s = .next t ∧ t.me.join = some j ∧ j.kind = 1 ∧ j.key = key ∧ j.result = none ∧ j.fmts = (fmtA, fmtB) ∧ t.me.pc = s.me.pc ∧
          t.me.tileq = s.me.tileq ∧ t.me.sleep = .join ∧ s.SameMemory t))) ∧
  (∀ (rd : BitVec 5) (s : State), Issues (.tstat rd) s → s.me.buffered = false →
    ∃ y : W64, exec (.tstat rd) s = .next (s.after (.tstat rd) fun c => { c.setS rd.toNat y with tnan := false, tof := false }) ∧
      y.getLsbD 63 = (s.me.tileq ≠ [] : Bool) ∧ (y.extractLsb' 60 3).toNat = s.me.tileq.length % 8 ∧
      y.extractLsb' 32 4 = s.me.atp.extractLsb' 32 4 ∧ y.getLsbD 31 = s.me.atp.getLsbD 63 ∧ y.getLsbD 30 = s.me.atp.getLsbD 62 ∧
      y.getLsbD 1 = s.me.tnan ∧ y.getLsbD 0 = s.me.tof) ∧
  (∀ s : State, Issues .twait s → s.me.tileq = [] → exec .twait s = .next (s.after .twait id)) ∧
  (∀ (a : BitVec 22) (s : State) (op : TileOp) (q : List TileOp),
    let c := s.core a.toNat
    c.tileq = op :: q → c.reissue = [] → op.entry = none → s.tileFails a.toNat = false →
    (∀ n, op.work = .tzero n → ∃ t, exec (.tileComplete a) s = .next t ∧ (t.core a.toNat).tileq = q ∧ s.SameMemory t ∧
      ∀ m r k, m < 4 → r < 32 → k < 4 → (t.core a.toNat).accElem m r k = if m = n.toNat then 0 else c.accElem m r k) ∧
    (∀ n fn b, op.work = .tact n fn b → ∃ t, exec (.tileComplete a) s = .next t ∧ (t.core a.toNat).tileq = q ∧ s.SameMemory t ∧
      ∀ m r k, m < 4 → r < 32 → k < 4 → (t.core a.toNat).accElem m r k = if m = n.toNat then
        f32Code (actFn fn.toNat (Fmt.f32.decode (c.accElem m r k).toNat)) else c.accElem m r k) ∧
    (∀ n p x, op.work = .tld n p → s.sliceOf a.toNat p = some x →
      ∃ t, exec (.tileComplete a) s = .next t ∧ (t.core a.toNat).tileq = q ∧ s.SameMemory t ∧
      ∀ m r k, m < 4 → r < 32 → k < 4 → (t.core a.toNat).accElem m r k = if m = n.toNat then
        s.sliceLoad a.toNat x (4 * r + k) else c.accElem m r k) ∧
    (∀ n p x, op.work = .tld n p → s.sliceOf a.toNat p = some x →
      ∃ t, exec (.tileComplete a) s = .next t ∧ (t.core a.toNat).fcsr = c.fcsr ||| BitVec.ofNat 64 (s.sliceFlags a.toNat x 32).bits) ∧
    (∀ n p x, op.work = .tst n p → s.sliceOf a.toNat p = some x → x.bay = none →
      let key := keyOf a.toNat (field x.base 0 28) + 4 * x.e0
      ∃ t, exec (.tileComplete a) s = .next t ∧ (t.core a.toNat).tileq = q ∧ s.OnlyBytes t key 512 ∧
        ∀ r k, r < 32 → k < 4 → t.read (key + 16 * r + 4 * k) 4 = (c.accElem n.toNat r k).toNat)) ∧
  (∀ (a : BitVec 22) (s : State) (hs : List TmmaHead), (s.core a.toNat).reissue = [] →
    s.tmmaHeads a.toNat = some hs → s.tmmaFailure hs = none →
    (∀ h, h ∈ hs → h.op.entry = none) →
    let rows := s.groupRows hs
    ∃ t, exec (.tileComplete a) s = .next t ∧ s.SameMemory t ∧ ∀ h, h ∈ hs →
      (t.core h.agent).tileq = (s.core h.agent).tileq.tail ∧
      (bit (s.core h.agent).atp 63 = false → ∀ r k ar br, r < 32 → k < 4 → rows[r]? = some ar →
        (s.operandRows (s.bfmtB h) h.agent h.pb h.tb h.kc)[k]? = some br →
        (t.core h.agent).accElem h.acc r k = f32Code (jointElem
          (Fmt.f32.decode (if h.z then 0 else ((s.core h.agent).accElem h.acc r k).toNat)) ar br 0 (tileK h.kc / 8)).1)) ∧
  (∀ (a : BitVec 22) (s : State) (op : TileOp) (q : List TileOp) (n : BitVec 2) (p : W32) (x : Slice) (r : Nat) (k : Cause) (v : W64),
    (s.core a.toNat).tileq = op :: q → s.sliceOf a.toNat p = some x →
    (op.work = .tld n p ∧ s.sliceFailure a.toNat op x .load = some (r, k, v) ∨
      op.work = .tst n p ∧ s.sliceFailure a.toNat op x .engine = some (r, k, v)) →
    (k = .uncorrectable → v.extractLsb' 0 4 ≠ 1 ∧ v.extractLsb' 0 4 ≠ 7) →
    ∃ t d, exec (.tileFaultStop a) s = .next t ∧ (t.core a.toNat).tileq = [] ∧
      (t.core a.toNat).deferred = (s.core a.toNat).deferred ++ [d] ∧ d.cause = k ∧ d.value.getLsbD 63 = true ∧
      d.value.setWidth 32 = v.setWidth 32 ∧ (d.value.extractLsb' 32 31).toNat = r) ∧
  (∀ (a : BitVec 22) (s : State), s.joinExpired a.toNat = true → (s.core a.toNat).trapc.getLsbD 30 = false →
    (s.core a.toNat).tvec ≠ 0 →
    ∃ t, exec (.tileJoinTimeout a) s = .next t ∧ t.cur = s.cur ∧ ((t.core a.toNat).trapc.extractLsb' 0 8).toNat = Cause.gangTimeout.code ∧
      (t.core a.toNat).trapv = BitVec.ofNat 64 (columnMask (s.missing a.toNat)) ∧ (t.core a.toNat).join = none)

/-- REC (spec/14 R393 to R398) and REVERSE (R406 to R408). -/
def Obligations.RecordAndReverse : Prop :=
  (∀ (chain : Bool) (rs2 rs1 : BitVec 5) (s : State),
    let i : Instr := if chain then .recordOnChain rs2 rs1 else .recordOn rs2 rs1
    let base := s.me.s rs1.toNat
    let len := s.me.s rs2.toNat
    Issues i s → s.me.isOrd = false → s.me.tileq = [] →
    (s.me.depth ≠ 0 → exec i s = .next (s.takeTrap .adjState 2)) ∧
    (s.me.depth = 0 → s.segmentChecks base len = .ok () →
      (chain = false → s.me.recm.getLsbD 1 = true → exec i s = .next (s.takeTrap .adjState 3)) ∧
      (chain = false → s.me.recm.getLsbD 1 = false →
        exec i s = .next (s.after i fun c => { c with logb := base, logp := base, logl := base + len, recm := 1 })) ∧
      (chain = true → s.me.recm.getLsbD 0 = false → exec i s = .next (s.takeTrap .adjState 3)) ∧
      (chain = true → s.me.recm.getLsbD 0 = true → s.logValid s.cur = true → ∀ l,
        s.engineCheck s.cur s.me.ctx ((base.setWidth 32 : W32).setWidth 64) 32 = .ok l →
        ∃ t, exec i s = .next t ∧ t.me.logb = base ∧ t.me.logp = base + 32 ∧ t.me.logl = base + len ∧ t.me.recm = s.me.recm ∧
          (∀ r, t.me.s r = s.me.s r) ∧ t.me.latch = none ∧ s.OnlyBytes t l.key 32 ∧
          (let w : BitVec 256 := BitVec.ofNat 256 (t.read l.key 32)
           w.extractLsb' 28 4 = 6 ∧ w.extractLsb' 32 32 = s.me.logl.setWidth 32 ∧ w.extractLsb' 96 32 = s.me.logb.setWidth 32 ∧
             w.extractLsb' 128 32 = s.me.logp.setWidth 32)))) ∧
  (∀ s : State, Issues .recordOff s → s.me.isOrd = false → s.me.tileq = [] →
    (s.me.depth ≠ 0 → exec .recordOff s = .next (s.takeTrap .adjState 2)) ∧
    (s.me.depth = 0 → exec .recordOff s = .next (s.after .recordOff fun c => { c with recm := c.recm &&& ~~~1#64 }))) ∧
  (∀ (rs1 : BitVec 5) (s : State), Issues (.recordMark rs1) s → s.me.isOrd = false → s.me.tileq = [] →
    (s.me.depth ≠ 0 → exec (.recordMark rs1) s = .next (s.takeTrap .adjState 2)) ∧
    (s.me.depth = 0 → s.me.recm.getLsbD 0 = false →
      exec (.recordMark rs1) s = .next (s.after (.recordMark rs1) id)) ∧
    (s.me.depth = 0 → s.me.recm.getLsbD 0 = true → s.logValid s.cur = true →
      (field s.me.logl 0 28 < field s.me.logp 0 28 + 32 → exec (.recordMark rs1) s = .next (s.takeTrap .adjLogFull 32)) ∧
      (field s.me.logp 0 28 + 32 ≤ field s.me.logl 0 28 → ∀ l,
        s.engineCheck s.cur s.me.ctx ((s.me.logp.setWidth 32 : W32).setWidth 64) 32 = .ok l →
        ∃ t, exec (.recordMark rs1) s = .next t ∧ t.me.logp = s.me.logp + 32 ∧ t.me.logb = s.me.logb ∧
          t.me.recm.extractLsb' 16 16 = s.me.recm.extractLsb' 16 16 + 1 ∧ s.OnlyBytes t l.key 32 ∧
          (let w : BitVec 256 := BitVec.ofNat 256 (t.read l.key 32)
           w.extractLsb' 28 4 = 5 ∧ w.extractLsb' 0 12 = (s.me.s rs1.toNat).setWidth 12 ∧
             w.extractLsb' 80 16 = s.me.recm.extractLsb' 16 16)))) ∧
  (∀ (m : BitVec 1) (mv : BitVec 12) (z : BitVec 1) (s : State),
    let i : Instr := .reverse m mv z
    let g := tileGroup s.cur s.me.tileWidth
    let key := [z.toNat, m.toNat, mv.toNat, field s.me.recm 1 1, field s.me.gcfg 32 2]
    Issues i s →
    (∀ r, s.me.rev = some r → r.ended = true → exec i s = .next (s.after i Core.leaveJoin)) ∧
    (s.me.rev = none → s.me.join = none →
      (s.me.depth ≠ 0 → exec i s = .next (s.takeTrap .adjState 2)) ∧
      (s.me.depth = 0 → s.me.recm.getLsbD 0 = true → exec i s = .next (s.takeTrap .adjState 3)) ∧
      (s.me.depth = 0 → s.me.recm.getLsbD 0 = false → s.logValid s.cur = false → exec i s = .next (s.takeTrap .adjState 1)) ∧
      (s.me.depth = 0 → s.me.recm.getLsbD 0 = false → s.logValid s.cur = true → s.me.isOrd = false → s.me.tileq = [] →
        (∀ b, b ∈ tileGroup s.cur 8 → b ∉ g → s.waitsAt b 2 = false) →
        (∀ b, b ∈ g → b ≠ s.cur → ∃ j, (s.core b).join = some j ∧ j.kind = 2 ∧ j.result = none ∧ j.key = key ∧ j.fail = none) →
        ∃ t r, exec i s = .next t ∧ t.me.rev = some r ∧ r.mark = (m = 1 : Bool) ∧ r.value = mv ∧ r.ended = false ∧
          t.me.recm.getLsbD 1 = true ∧ t.me.pc = s.me.pc ∧ t.me.logp = s.me.logp ∧ s.SameMemory t ∧
          ∀ n e k, t.me.accElem n e k = if s.me.recm.getLsbD 1 = false ∧ z = 1 then 0 else s.me.accElem n e k))) ∧
  (∀ (a : BitVec 22) (s : State) (r : Rev), (s.core a.toNat).rev = some r → r.ended = false → (s.core a.toNat).join = none →
    let c := s.core a.toNat
    (field c.logp 0 28 = field c.logb 0 28 → ∃ t x, exec (.adjointStepDone a) s = .next t ∧ (t.core a.toNat).recm.getLsbD 1 = false ∧
      (t.core a.toNat).rev = some x ∧ x.ended = true ∧ (t.core a.toNat).logp = c.logp ∧ s.SameMemory t) ∧
    (∀ e, field c.logp 0 28 ≠ field c.logb 0 28 → s.logEntry a.toNat = .ok e → e.rec_.x = 0 →
      field c.logb 0 28 ≤ field c.logp 0 28 - 32 → 32 ≤ field c.logp 0 28 → e.rec_.wellFormed e.raw = true →
      (e.rec_.kind = 1 ∨ e.rec_.kind = 5) → ∃ t, exec (.adjointStepDone a) s = .next t ∧
        field (t.core a.toNat).logp 0 28 = field c.logp 0 28 - 32 ∧ s.SameMemory t ∧
        (∀ n k q, n < 4 → k < 32 → q < 4 → (t.core a.toNat).accElem n k q =
          if e.rec_.kind = 1 ∧ n = e.rec_.acc then 0 else c.accElem n k q) ∧
        (e.rec_.kind = 5 → r.mark = true → r.value.toNat = e.rec_.mark → ∃ x, (t.core a.toNat).rev = some x ∧ x.ended = true)))

/-- SEND (spec/15 R414, R415), RSEL (R417), SYNC and SYNCV (R418). -/
def Obligations.ExchangeInstructions : Prop :=
  (∀ (a : BitVec 22) (slot : BitVec 11) (km1 : BitVec 4) (vs : BitVec 5) (route : BitVec 29) (s : State),
    let i : Instr := .send slot km1 vs route
    let k := km1.toNat + 1
    let sym (n : Nat) : Nat := (route.extractLsb' (24 - 3 * n) 3).toNat
    let ejects : Prop := ∃ n, n < 9 ∧ sym n = 6 ∧ ∀ m, m < n → sym m ≠ 6 ∧ sym m ≠ 7
    let xt (c : Core) : Nat := (c.xt.extractLsb' 0 16).toNat
    let sends (c : Core) (b : Nat) (fs : List Flit) : Prop := fs.length = k ∧ ∀ n f, fs[n]? = some f →
      f.src = b ∧ f.idx = n ∧ f.data = (c.vr (if n < 8 then vs else vs + 1)).extractLsb' (64 * (n % 8)) 64 ∧
      (sym 0 = 6 → f.cluster = clusterOf b ∧ f.link = 4 ∧ f.cycle = slot.toNat + n + 4 ∧
        f.drop = (s.ejectCore (clusterOf b) 4 (slot.toNat + n + 4)).isNone) ∧
      (sym 0 = 0 → sym 1 = 6 → route.extractLsb' 27 2 = 1 → clusterX (clusterOf b) + 1 < 160 →
        let d := clusterAt (clusterX (clusterOf b) + 1) (clusterY (clusterOf b))
        f.cluster = d ∧ f.link = 3 ∧ f.cycle = slot.toNat + n + 4 + (if clusterOf b / 2048 = d / 2048 then 1 else 6))
    (Issues i s → s.me.portAt vs = none →
      (8 ≤ km1.toNat → vs = 15 → exec i s = .next (s.takeTrap .illegal 8)) ∧
      ((8 ≤ km1.toNat → vs ≠ 15) →
        (¬ejects → exec i s = .next (s.takeTrap .illegal 1)) ∧
        (ejects → s.me.isOrd = true → exec i s = .next (s.takeTrap .orderViolation 2)) ∧
        (ejects → s.me.isOrd = false → s.me.ex = false → exec i s = .next (s.takeTrap .slotViolation 4)) ∧
        (ejects → s.me.isOrd = false → s.me.ex = true →
          (s.me.sleep ≠ .engine → slot.toNat < xt s.me → exec i s = .next (s.takeTrap .slotViolation 1)) ∧
          (xt s.me < slot.toNat →
            ∃ t, exec i s = .next t ∧ t.me.sleep = .engine ∧ t.me.pc = s.me.pc ∧ t.flits = s.flits ∧ s.SameMemory t) ∧
          (xt s.me = slot.toNat ∨ (s.me.sleep = .engine ∧ slot.toNat < xt s.me) →
            ∃ fs, sends s.me s.cur fs ∧ exec i s = .next ({ s with flits := s.flits ++ fs }.after i fun c =>
              { c with xt := BitVec.ofNat 64 (min 0xFFFF (max (xt c) (slot.toNat + k - 1))) }))))) ∧
    (let t : State := { s with cur := a.toNat }
     ∀ w x, t.fetchInstr = .ok (i, w, x) → t.me.act = .exchange → t.me.sleep = .engine → (8 ≤ km1.toNat → vs ≠ 15) → ejects →
      t.me.isOrd = false → t.me.ex = true → t.me.portAt vs = none →
      ∃ fs u, exec (.sendInject a) s = .next u ∧ sends t.me a.toNat fs ∧ u.flits = s.flits ++ fs ∧ u.cur = s.cur ∧
        (u.core a.toNat).sleep = .none ∧ xt (u.core a.toNat) = min 0xFFFF (max (xt t.me) (slot.toNat + k - 1)) ∧ s.SameMemory u)) ∧
  (∀ (slot : BitVec 11) (km1 : BitVec 4) (rs1 mcid : BitVec 5) (ce : BitVec 1) (link : BitVec 4) (s : State),
    let i : Instr := .rsel slot km1 rs1 mcid ce link
    let k := km1.toNat + 1
    let ptr := s.me.s rs1.toNat
    Issues i s →
    (8 < link.toNat → exec i s = .next (s.takeTrap .illegal 1)) ∧
    (link.toNat ≤ 8 → s.me.isOrd = true → exec i s = .next (s.takeTrap .orderViolation 2)) ∧
    (link.toNat ≤ 8 → s.me.isOrd = false → s.me.ex = false → exec i s = .next (s.takeTrap .slotViolation 4)) ∧
    (link.toNat ≤ 8 → s.me.isOrd = false → s.me.ex = true → s.me.sleep ≠ .engine →
      slot.toNat ≤ (s.me.xt.extractLsb' 0 16).toNat → exec i s = .next (s.takeTrap .slotViolation 2)) ∧
    (link.toNat ≤ 8 → s.me.isOrd = false → s.me.ex = true → (s.me.xt.extractLsb' 0 16).toNat < slot.toNat →
      (ptr.extractLsb' 32 32 = 0 → copyable s.cur ptr = true → ptr.extractLsb' 0 3 ≠ 0 →
        exec i s = .next (s.takeTrap .align 8)) ∧
      (rselPlace s ptr k = .ok () →
        ((∃ x ∈ s.me.sels, x.link = link ∧ x.slot < slot.toNat + k ∧ slot.toNat < x.slot + x.k) →
          exec i s = .next (s.takeTrap .slotViolation 5)) ∧
        ((∀ x ∈ s.me.sels, x.link = link → slot.toNat + k ≤ x.slot ∨ x.slot + x.k ≤ slot.toNat) →
          (8 ≤ s.me.armed.length → ∃ t, exec i s = .next t ∧ t.me.sleep = .engine ∧ t.me.pc = s.me.pc ∧ t.me.sels = s.me.sels ∧
            s.SameMemory t) ∧
          (s.me.armed.length < 8 → exec i s = .next (s.after i fun c =>
            { c with
              sels := c.sels ++ [{ ptr := ptr.setWidth 32, k := k, slot := slot.toNat, link := link, ctx := s.me.ctx
                                   failed := false, count := if ce = 1 then some mcid else none }] })))))) ∧
  (∀ (o : BitVec 1) (rs1 rd : BitVec 3) (b : Bool) (s : State),
    let i : Instr := if b then .syncv o rs1 rd else .sync
    Issues i s →
    (s.me.ex = false → exec i s = .next (s.takeTrap .slotViolation 4)) ∧
    (s.me.ex = true → s.copiesOf s.cur = 0 →
      ((∀ f ∈ s.flits, f.src ≠ s.cur) → (∀ x ∈ s.me.sels, s.me.passed x = true) → s.me.pushes = [] →
        exec i s = .next (s.modMe fun c =>
          { c.count 2 1 with
            syncv := if b then some ((o = 1 : Bool), s.me.pr rs1.toNat, rd) else none
            sleep := .barrier, arrived := s.tick })) ∧
      ((∃ f ∈ s.flits, f.src = s.cur) ∨ (∃ x ∈ s.me.sels, s.me.passed x = false) ∨ s.me.pushes ≠ [] →
        ∃ t, exec i s = .next t ∧ t.me.sleep = .engine ∧ t.me.pc = s.me.pc ∧ t.me.syncv = s.me.syncv ∧ s.SameMemory t)))

/-- FLIT_DROP (spec/15 R416), RSEL_DELIVERY and FLIT_EJECT_UNSELECTED (R417), FLIT_CHECK_ERROR (spec/07 R246). -/
def Obligations.FlumeDelivers : Prop :=
  (∀ (f : Flit) (rest : List Flit) (s : State), s.flits = f :: rest →
    let left (t : State) (b : Nat) (x : Ctx) (k : Cause) (low high : Nat) : Prop :=
      ∃ d, (t.core b).deferred = (s.core b).deferred ++ [d] ∧ d.cause = k ∧ (d.value.extractLsb' 0 32).toNat = low ∧
        (d.value.extractLsb' 32 31).toNat = high ∧ d.value.getLsbD 63 = true ∧ d.depth = x.depth ∧ d.pol = x.pol
    (f.drop = true ∨ s.ejectCore f.cluster f.link.toNat f.cycle = none →
      ∃ t, exec .flitDrop s = .next t ∧ t.flits = rest ∧ t.cur = s.cur ∧ s.SameMemory t ∧
        left t f.src (s.core f.src).ctx .slotViolation (3 + f.idx % 256 * 256) 0) ∧
    (∀ e, f.drop = false → s.ejectCore f.cluster f.link.toNat f.cycle = some e →
      let b := agentIn f.cluster e
      f.cycle ≤ ((s.core b).xt.extractLsb' 0 16).toNat →
      ((∀ x ∈ (s.core b).sels, x.link = f.link → f.cycle < x.slot ∨ x.slot + x.k ≤ f.cycle) →
        ∃ t, exec .flitEjectUnselected s = .next t ∧ t.flits = rest ∧ t.cur = s.cur ∧ s.SameMemory t ∧
          left t b (s.core b).ctx .slotViolation 6 0) ∧
      (∀ x, (s.core b).selFor f = some x →
        let n := f.cycle - x.slot
        let at' : M Loc := ({ s with flits := rest } : State).engineCheck b x.ctx (x.ptr.setWidth 64 + BitVec.ofNat 64 (8 * n)) 8
        (∀ l, at' = .ok l → (∀ m, x.count = some m → vget (s.core b).mc m.toNat 0 ≠ 0xFFFF) →
          ∃ t, exec .rselDelivery s = .next t ∧ t.flits = rest ∧ t.cur = s.cur ∧ t.read l.key 8 = f.data.toNat ∧
            (∀ j, (j < l.key ∨ l.key + 8 ≤ j) → t.byte j = s.byte j) ∧ (∀ g, t.tag g = s.tag g) ∧
            (∀ w, l.key / 4 ≤ w → w ≤ (l.key + 7) / 4 → t.isFull w = true) ∧
            ∀ m, vget (t.core b).mc m.toNat 0 =
              vget (s.core b).mc m.toNat 0 + if x.count = some m ∧ n + 1 = x.k then 1 else 0) ∧
        (∀ k v, at' = .error (.trap k v) → k ≠ .uncorrectable → x.failed = false →
          ∃ t, exec .rselDelivery s = .next t ∧ t.flits = rest ∧ t.cur = s.cur ∧ s.SameMemory t ∧
            left t b x.ctx k (v.toNat % 2 ^ 32) (n % 2 ^ 31) ∧
            (t.core b).sels = (s.core b).sels.map fun y => if y = x then { y with failed := true } else y) ∧
        (∀ v, at' = .error (.trap .uncorrectable v) → x.failed = false → v.extractLsb' 0 4 = 2 →
          ∃ t, exec .rselDelivery s = .next t ∧ t.flits = rest ∧ left t b x.ctx .uncorrectable (v.toNat % 2 ^ 32) (n % 2 ^ 31) ∧
            (v.getLsbD 5 = false → t.failed 1 (clusterOf b * 16 + (v.extractLsb' 8 24).toNat / 0x8000) = true))))) ∧
  (∀ (l : BitVec 20) (s : State),
    (∃ t, exec (.flitCheckError l) s = .next t ∧ t.failed 4 l.toNat = true) ∧
    (s.failed 4 l.toNat = true → exec (.flitCheckError l) s = .next s))

/-- GCALL (spec/15 R421), GRET (R423) and AWSET (R420). The model's choices: GCALL ignores bits [63:32] of s[rs1] (log entry 51), and GRET
restores CURPOL.GEN from CGEN of the entry (52). An error in the gate's entry traps as UNCORRECTABLE (spec/04 R138). -/
def Obligations.GatesCallAndReturn : Prop :=
  (∀ (rs1 : BitVec 5) (s : State),
    let i : Instr := .gcall rs1
    let c := s.me
    let h : W32 := (c.s rs1.toNat).setWidth 32
    let p : BitVec 12 := h.extractLsb' 20 12
    let n := (h.extractLsb' 0 12).toNat
    let d := s.desc p
    let g := s.gate p n
    let opens (w : W64) : Prop := w.getLsbD 63 = true →
      (w.extractLsb' 32 17).toNat ≤ g.awmax ∧ (w.getLsbD 61 = true → g.rok = true) ∧ (w.getLsbD 62 = true → g.wok = true)
    let ported : Prop := ∃ q, q < 4 ∧ (c.port q).bound = true
    let ptr := (c.wsp.extractLsb' 0 16).toNat + 192 * c.res
    let sav := (c.dsd.extractLsb' 0 16).toNat
    let more := if g.tile then 2048 else 0
    let fits : Prop := ptr + 64 ≤ (c.wsp.extractLsb' 32 16).toNat ∧ sav + 64 + more ≤ (c.dsd.extractLsb' 32 16).toNat
    Issues i s →
    (c.join = none →
      (c.depth = 32 → exec i s = .next (s.takeTrap .gateDepth 1)) ∧
      (c.depth ≠ 32 → 8 ≤ c.depth → c.dsd.getLsbD 55 = false → exec i s = .next (s.takeTrap .gateDepth 2)) ∧
      (c.depth ≠ 32 → (c.depth < 8 ∨ c.dsd.getLsbD 55 = true) →
        (h.extractLsb' 12 8 ≠ 0 → exec i s = .next (s.takeTrap .gateDenied 1)) ∧
        (h.extractLsb' 12 8 = 0 →
          (descV d = false ∨ descDead d = true → exec i s = .next (s.takeTrap .gateDenied 2)) ∧
          (descV d = true → descDead d = false →
            (descSlcnt d ≤ n → exec i s = .next (s.takeTrap .gateDenied 3)) ∧
            (n < descSlcnt d →
              (∀ k v, s.gateEcc p n = .error (.trap k v) → exec i s = .next (s.takeTrap k v)) ∧
              (s.gateEcc p n = .ok () → g.isOpen = false ∨ g.revoked = true → exec i s = .next (s.takeTrap .gateDenied 4)) ∧
              (s.gateEcc p n = .ok () → g.isOpen = true → g.revoked = false →
                (g.allow.getLsbD c.vf.toNat = false → exec i s = .next (s.takeTrap .gateDenied 5)) ∧
                (g.allow.getLsbD c.vf.toNat = true →
                  (¬(opens c.aw0 ∧ opens c.aw1) → exec i s = .next (s.takeTrap .gateDenied 6)) ∧
                  (opens c.aw0 → opens c.aw1 →
                    (c.isOrd = true → g.abortable = false → exec i s = .next (s.takeTrap .orderViolation 3)) ∧
                    ((c.isOrd = false ∨ g.abortable = true) →
                      (ported → exec i s = .next (s.takeTrap .gateState 2)) ∧
                      (¬ported → g.tile = false →
                        (c.tileq ≠ [] ∨ c.atp.getLsbD 63 = true → exec i s = .next (s.takeTrap .gateState 1)) ∧
                        (c.tileq = [] → c.atp.getLsbD 63 = false →
                          ((c.wsp.extractLsb' 32 16).toNat < ptr + 64 →
                            exec i s = .next (s.takeTrap .windowSpillLimit 1)) ∧
                          (fits → g.entry.extractLsb' 0 2 ≠ 0 → exec i s = .next (s.takeTrap .align 0x100))))))))))))) ∧
    (let joined : Prop :=
       (g.tile = false ∧ c.join = none) ∨ (g.tile = true ∧ ∃ j, c.join = some j ∧ j.kind = 4 ∧ j.result = some 0)
     let passes : Prop := c.depth ≠ 32 ∧ (c.depth < 8 ∨ c.dsd.getLsbD 55 = true) ∧
       h.extractLsb' 12 8 = 0 ∧ descV d = true ∧ descDead d = false ∧ n < descSlcnt d ∧ s.gateEcc p n = .ok () ∧ g.isOpen = true ∧ g.revoked = false ∧
       g.allow.getLsbD c.vf.toNat = true ∧ opens c.aw0 ∧ opens c.aw1 ∧ (c.isOrd = false ∨ g.abortable = true) ∧ ¬ported
     joined → passes → c.depth < 32 → c.tileq = [] → c.atp.getLsbD 63 = false → fits → g.entry.extractLsb' 0 2 = 0 →
     ∃ t e, exec i s = .next t ∧ t.cur = s.cur ∧ t.me.pc = g.entry ∧ t.me.latch = none ∧ t.me.pol = p ∧
       t.me.depth = c.depth + 1 ∧ t.me.vf.toNat = descVf d ∧ t.me.tvec = BitVec.ofNat 64 (descTvec d) ∧
       t.me.dom = e :: c.dom.take 7 ∧ e.caller = c.pol ∧ e.callee = p ∧ e.gate.toNat = n ∧ e.rpc = c.pc + 4 ∧ e.tile = g.tile ∧
       e.abort = g.abortable ∧ e.savep.toNat = sav ∧ e.aw0 = c.aw0 ∧ e.aw1 = c.aw1 ∧ t.me.aw0 = 0 ∧ t.me.aw1 = 0 ∧
       (∀ k, k < 8 → t.me.s k = 0) ∧ (∀ k, 8 ≤ k → k < 16 → t.me.s k = c.s (k + 16)) ∧
       (∀ k, 16 ≤ k → k < 32 → t.me.s k = 0) ∧ t.me.res = 1 ∧ t.me.cwp = (c.cwp + 1) % 6 ∧ t.me.floor = ptr + 64 ∧
       (t.me.wsp.extractLsb' 0 16).toNat = ptr + 64 ∧ (t.me.dsd.extractLsb' 0 16).toNat = sav + 64 + more ∧
       (∀ m r k, m < 4 → r < 32 → k < 4 → t.me.accElem m r k = if g.tile then 0 else c.accElem m r k) ∧
       t.me.p = c.p ∧ t.me.q = c.q ∧ t.me.v = c.v ∧ t.inflight p n = (s.inflight p n + 1) % 2 ^ 32 ∧
       (c.dom.length < 8 → t.read (tcmBase s.cur + ptr) 8 = c.wptr.toNat ∧
         (sav + 64 + more ≤ (c.wsp.extractLsb' 0 16).toNat ∨ ptr + 64 ≤ sav → ∀ k, 1 ≤ k → k < 8 →
           t.read (tcmBase s.cur + sav + 8 * (k - 1)) 8 = (c.s k).toNat)))) ∧
  (∀ s : State,
    let c := s.me
    Issues .gret s →
    (c.depth = 0 → exec .gret s = .next (s.takeTrap .gateUnderflow 1)) ∧
    (∀ (e : DomEntry) rest, c.depth ≠ 0 → c.dom = e :: rest →
      let ported : Prop := ∃ q, q < 4 ∧ (c.port q).bound = true
      let ptr := (c.wsp.extractLsb' 0 16).toNat
      (ported → exec .gret s = .next (s.takeTrap .gateState 2)) ∧
      (∀ x, ¬ported → c.due = some x →
        exec .gret s = .next ((s.modMe fun k => { k with deferred := k.deferred.erase x }).trapEntry s.cur x.cause x.value c.pc)) ∧
      (¬ported → c.due = none → (c.res ≠ 1 ∨ ptr ≠ c.floor) → exec .gret s = .next (s.takeTrap .windowSpillLimit 4)) ∧
      (¬ported → c.due = none → c.res = 1 → ptr = c.floor →
        (e.tile = false ∨ (∃ j, c.join = some j ∧ j.kind = 5 ∧ j.result = some 0) ∧ c.tileq = []) →
        s.tcmChecks s.cur (c.gretReads e) = .ok () → s.gateEcc e.callee e.gate.toNat = .ok () →
        let w : W64 := BitVec.ofNat 64 (s.read (tcmBase s.cur + (ptr - 64)) 8)
        let n := (s.inflight e.callee e.gate.toNat + (2 ^ 32 - 1)) % 2 ^ 32
        ∃ t, exec .gret s = .next t ∧ t.cur = s.cur ∧ t.me.pc = e.rpc ∧ t.me.latch = none ∧ t.me.pol = e.caller ∧
          t.me.depth = c.depth - 1 ∧ (t.me.curpol.extractLsb' 24 8).toNat = e.cgen.toNat ∧
          t.me.tvec = BitVec.ofNat 64 (descTvec (s.desc e.caller)) ∧ t.me.aw0 = e.aw0 ∧ t.me.aw1 = e.aw1 ∧ t.me.gst = 0 ∧
          (t.me.dsd.extractLsb' 0 16).toNat = e.savep.toNat ∧ (t.me.wsp.extractLsb' 0 16).toNat = ptr - 256 ∧
          t.me.res = 1 ∧ t.me.cwp = (w.extractLsb' 0 3).toNat % 6 ∧ t.me.floor = (w.extractLsb' 16 16).toNat ∧
          (∀ k, 1 ≤ k → k < 8 →
            t.me.s k = BitVec.ofNat 64 (s.read (tcmBase s.cur + e.savep.toNat + 8 * (k - 1)) 8)) ∧
          (∀ k, 8 ≤ k → k < 24 → t.me.s k = BitVec.ofNat 64 (s.read (tcmBase s.cur + (ptr - 256) + 8 * (k - 8)) 8)) ∧
          (∀ k, 24 ≤ k → k < 32 → t.me.s k = c.s (k - 16)) ∧
          (e.tile = false → t.me.acc = c.acc) ∧
          (e.tile = true → ∀ m r k, m < 4 → r < 32 → k < 4 → t.me.accElem m r k =
            BitVec.ofNat 32 (s.read (tcmBase s.cur + e.savep.toNat + 64 + 512 * m + 4 * (4 * r + k)) 4)) ∧
          (∀ k, k < 16 → k ∉ c.vsaved.headD [] → vget t.me.v k 0 = vget c.v k 0) ∧
          t.me.p = c.p ∧ t.me.q = c.q ∧ t.inflight e.callee e.gate.toNat = n ∧
          (t.gate e.callee e.gate.toNat).revoked = ((s.gate e.callee e.gate.toNat).revoked && n ≠ 0)))) ∧
  (∀ (lr n clr w r : BitVec 1) (rs2 rs1 : BitVec 5) (leni : BitVec 17) (s : State),
    let i : Instr := .awset lr n clr w r rs2 rs1 leni
    let len := if lr = 1 then (s.me.s rs2.toNat).toNat else leni.toNat
    let base := s.me.s rs1.toNat
    let off := (base.extractLsb' 0 28).toNat
    Issues i s →
    (clr = 1 → ¬(lr = 0 ∧ w = 0 ∧ r = 0 ∧ rs2 = 0 ∧ rs1 = 0 ∧ leni = 0) → exec i s = .next (s.takeTrap .illegal 2)) ∧
    (clr = 1 → lr = 0 → w = 0 → r = 0 → rs2 = 0 → rs1 = 0 → leni = 0 →
      exec i s = .next (s.after i fun c => if n = 0 then { c with aw0 := 0 } else { c with aw1 := 0 })) ∧
    (clr = 0 →
      (r = 0 → w = 0 → exec i s = .next (s.takeTrap .illegal 1)) ∧
      (r = 1 ∨ w = 1 →
        (base.extractLsb' 32 32 ≠ 0 → exec i s = .next (s.takeTrap .polderAccess 7)) ∧
        (base.extractLsb' 32 32 = 0 →
          (base.extractLsb' 0 5 ≠ 0 → exec i s = .next (s.takeTrap .align 32)) ∧
          (base.extractLsb' 0 5 = 0 →
            (len % 32 ≠ 0 ∨ len < 32 ∨ 65536 < len → exec i s = .next (s.takeTrap .bounds 0x27)) ∧
            (len % 32 = 0 → 32 ≤ len → len ≤ 65536 →
              let good : Prop := s.awPlaced s.cur off len = true ∧
                ∀ k, k < len / 32 → s.reachable s.cur (off + 32 * k) (r = 1) (w = 1) = true
              (¬good → exec i s = .next (s.takeTrap .polderAccess 12)) ∧
              (good → ∃ y : W64,
                exec i s = .next (s.after i fun c => if n = 0 then { c with aw0 := y } else { c with aw1 := y }) ∧
                y.getLsbD 63 = true ∧ y.getLsbD 62 = (w = 1 : Bool) ∧ y.getLsbD 61 = (r = 1 : Bool) ∧
                y.extractLsb' 0 32 = base.setWidth 32 ∧ (y.extractLsb' 32 17).toNat = len)))))))

/-- UNWIND and BUDGET_EXHAUSTED (spec/15 R421, R425), REVOKE_WRITE (R426), POLDER_DEATH (R427). -/
def Obligations.FramesAreDiscarded : Prop :=
  let firstAt (s : State) (b d : Nat) (q : DomEntry → Prop) : Prop :=
    (∃ e, s.domAt b d = some e ∧ q e) ∧ ∀ k e, k < d → s.domAt b k = some e → ¬q e
  (∀ (val : BitVec 64) (s : State),
    let p : BitVec 12 := val.extractLsb' 20 12
    let g := (val.extractLsb' 0 12).toNat
    let live : Prop := descV (s.desc p) = true ∧ g < descSlcnt (s.desc p) ∧ (s.gate p g).revoked = true
    (¬live → exec (.revokeWrite val) s = .next s) ∧
    (live → s.inflight p g = 0 → ∃ t, exec (.revokeWrite val) s = .next t ∧ t.cores = s.cores ∧
      (t.gate p g).revoked = false ∧ (t.gate p g).isOpen = (s.gate p g).isOpen ∧ (t.gate p g).allow = (s.gate p g).allow) ∧
    (live → s.inflight p g ≠ 0 → ∃ t, exec (.revokeWrite val) s = .next t ∧ s.SameMemory t ∧
      ∀ b c d, sget s.cores b = some c → c.unwindTo = none →
        firstAt s b d (fun e => e.callee = p ∧ e.gate.toNat = g) → (t.core b).unwindTo = some (d, 1))) ∧
  (∀ (pol : BitVec 12) (s : State),
    (descV (s.desc pol) = false ∨ descDead (s.desc pol) = true → exec (.polderDeath pol) s = .next s) ∧
    (descV (s.desc pol) = true → descDead (s.desc pol) = false →
      ∃ t, exec (.polderDeath pol) s = .next t ∧ descDead (t.desc pol) = true ∧ descV (t.desc pol) = true ∧
        (∀ q, q ≠ pol → t.desc q = s.desc q) ∧
        ((∀ j ∈ s.hub.jobs, s.basedIn j pol = false) → s.SameMemory t ∧ t.hub.jobs = s.hub.jobs ∧
          ∀ b c d, sget s.cores b = some c → c.unwindTo = none → firstAt s b d (fun e => e.callee = pol) →
            (t.core b).unwindTo = some (d, 2)) ∧
        ∀ pre j post, s.hub.jobs = pre ++ j :: post → (∀ k ∈ pre, s.basedIn k pol = false) → s.basedIn j pol = true →
          (∀ k ∈ t.hub.jobs, k.same j = false) ∧
          (∀ b c d, sget s.cores b = some c → c.unwindTo = none → c.depth ≤ c.dom.length → (∀ k ∈ j :: post, b ∉ k.agents) →
            firstAt s b d (fun e => e.callee = pol) → (t.core b).unwindTo = some (d, 2)) ∧
          (post = [] → s.jobFrames j = [] → ∀ r, s.region j.fn.toNat = some r →
            let x := s.func j.fn.toNat
            let done := complBytes .polderDead j.cookie j.jobid (s.jobSsn j) j.slotLo.toNat j.slotHi.toNat 0 0
            if x.owed ≠ [] ∨ x.compl.stopped = true ∨ 64 ≤ countDiff x.compl.hub.toNat (s.winGet j.fn.toNat 0xF830)
            then (t.func j.fn.toNat).owed = x.owed ++ [done]
            else (t.func j.fn.toNat).irqPend = true ∧ t.read (r + 0xE800 + 32 * (x.compl.hub.toNat % 64)) 32 = done.toNat))) ∧
  (∀ (a : BitVec 22) (s : State),
    let c := s.core a.toNat
    let spent (d : Nat) : Prop := ∃ e, s.domAt a.toNat d = some e ∧
      let b := (s.gate e.callee e.gate.toNat).budget
      b ≠ 0 ∧ b < c.budget[c.depth - d]?.getD 0
    (∀ d, spent d → (∀ k, k < d → ¬spent k) → c.unwindTo = none →
      ∃ t, exec (.budgetExhausted a) s = .next t ∧ (t.core a.toNat).unwindTo = some (d, 3) ∧ s.SameMemory t ∧ t.cur = s.cur ∧
        ∀ b, b ≠ a.toNat → t.core b = s.core b) ∧
    ((∀ d, ¬spent d) → exec (.budgetExhausted a) s = .next s)) ∧
  (∀ (a : BitVec 22) (s : State) (d reason : Nat) (e : DomEntry),
    let c := s.core a.toNat
    c.unwindTo = some (d, reason) → s.domAt a.toNat d = some e →
    (∀ k v, s.tcmChecks a.toNat (s.unwindReads a.toNat d) = .error (.trap k v) →
      exec (.unwind a) s = .next (s.detect a.toNat k v)) ∧
    (s.tcmChecks a.toNat (s.unwindReads a.toNat d) = .ok () →
    ∃ t, exec (.unwind a) s = .next t ∧ t.cur = s.cur ∧ (t.core a.toNat).pc = e.rpc ∧ (t.core a.toNat).pol = e.caller ∧
      (t.core a.toNat).depth = d - 1 ∧ (t.core a.toNat).gst = BitVec.ofNat 64 (reason + 256 * d) ∧
      (t.core a.toNat).s 24 = 0 - BitVec.ofNat 64 reason ∧ (t.core a.toNat).unwindTo = none ∧
      (t.core a.toNat).aw0 = e.aw0 ∧ (t.core a.toNat).aw1 = e.aw1 ∧ (t.core a.toNat).latch = none ∧
      (t.core a.toNat).trapc.getLsbD 30 = false ∧ ((t.core a.toNat).dsd.extractLsb' 0 16).toNat = e.savep.toNat ∧
      (t.core a.toNat).sleep = .none ∧ (t.core a.toNat).repc = 0))

/-- FLD and FST (spec/15 R429), far AMO and CAS (spec/11 R325), TAGR and PROBE on far pointers (R316, R317). -/
def Obligations.FarLoadsAndStores : Prop :=
  let ready (s : State) (va acc : Nat) (t : Tlb) : Prop :=
    s.me.l1Find s.me.pol va = none ∧ s.me.walked = none ∧ s.tlbFind s.cur s.me.pol va = some t ∧ leafAllows t.leaf acc = true
  let via (s : State) (ptr : W64) (t : Tlb) : Via :=
    { vf := descVf (s.desc s.me.pol), key := leafKey t.leaf, cache := leafCa t.leaf ≠ 0 && ptr.extractLsb' 44 4 ≠ 0xF#4 }
  let lands (s : State) (va : Nat) (t : Tlb) (pa : Nat) : Prop :=
    s.remote t.leaf = false ∧ pa = leafPa t.leaf t.large va ∧ isDevFrame (pa / 0x10000) = false ∧ s.bridged s.cur pa = true
  let agrees (ptr : W64) (g : BitVec 4) : Prop := ptr.extractLsb' 60 4 ≠ 15 ∧ ptr.extractLsb' 60 4 = g
  let differs (ptr : W64) (g : BitVec 4) : W64 := ((ptr.extractLsb' 60 4) ++ g : BitVec 8).setWidth 64
  (∀ (x : BitVec 1) (z : BitVec 2) (rs2 rs1 rd : BitVec 5) (p : BitVec 1) (ld : Bool) (s : State),
    let i : Instr := if ld then .fld x z rs2 rs1 rd p else .fst z rs2 rs1 rd p
    let n := 2 ^ z.toNat
    let ptr := s.me.s rs1.toNat + s.me.s rs2.toNat
    let va := (ptr.extractLsb' 0 48).toNat
    let y := (s.me.s rd.toNat).toNat
    let acc := if ld then 0 else 1
    Issues i s →
    (ld = true → x = 1 → z = 3 → exec i s = .next (s.takeTrap .illegal 1)) ∧
    ((ld = true → x = 1 → z ≠ 3) →
      (ptr.extractLsb' 48 12 ≠ 0 → exec i s = .next (s.takeTrap .xlate 8)) ∧
      (ptr.extractLsb' 48 12 = 0 → va % n ≠ 0 → exec i s = .next (s.takeTrap .align (BitVec.ofNat 64 n))) ∧
      (ptr.extractLsb' 48 12 = 0 → va % n = 0 →
        (∀ l, ptr.extractLsb' 44 4 ≠ 0xF → s.me.l1Find s.me.pol va = some l → l.bad = 0 → (if ld then l.r else l.w) = true →
          (¬agrees ptr (l.tag va) → exec i s = .next (s.takeTrap .tagMismatch (differs ptr (l.tag va)))) ∧
          (agrees ptr (l.tag va) → ld = true → exec i s = .next (s.after i fun k =>
            (k.l1Put l).setS rd.toNat (loaded (x = 1) n (l.data.extractLsb' (8 * (va % 128)) (8 * n)).toNat))) ∧
          (agrees ptr (l.tag va) → ld = false → ∃ m, exec i s = .next (s.after i fun k => (k.l1Put l).l1Put m) ∧
            m.pa = l.pa ∧ (m.data.extractLsb' (8 * (va % 128)) (8 * n)).toNat = y % 2 ^ (8 * n) ∧
            (∀ j, j < 128 → (j < va % 128 ∨ va % 128 + n ≤ j) → m.data.extractLsb' (8 * j) 8 = l.data.extractLsb' (8 * j) 8) ∧
            ∀ j, j < 128 → m.dirty.getLsbD j = (l.dirty.getLsbD j || (va % 128 ≤ j && j < va % 128 + n)))) ∧
        (∀ t pa, ready s va acc t → lands s va t pa → (leafCa t.leaf ≠ 2 ∨ ptr.extractLsb' 44 4 = 0xF) →
          (¬agrees ptr (s.physTag pa) → exec i s = .next (s.takeTrap .tagMismatch (differs ptr (s.physTag pa)))) ∧
          (agrees ptr (s.physTag pa) → s.physEcc pa n ld (via s ptr t) = .ok () →
            (ld = true → exec i s = .next ((s.physRead pa n (via s ptr t)).1.after i fun k =>
                k.setS rd.toNat (loaded (x = 1) n (s.physRead pa n (via s ptr t)).2)) ∧
              ((via s ptr t).cache = false → hbmEnd ≤ pa ∨ s.bermFind pa = none → s.physRead pa n (via s ptr t) =
                if hbmEnd ≤ pa then (s, s.read pa n) else (s.hbmSoft pa (via s ptr t).vf, s.hbmRead pa (leafKey t.leaf) n))) ∧
            (ld = false → exec i s = .next ((s.physWrite pa n y (2 ^ n - 1) (via s ptr t)).after i id)))) ∧
        (∀ t pa, ready s va acc t → lands s va t pa → leafCa t.leaf = 2 → ptr.extractLsb' 44 4 ≠ 0xF → s.lineEcc pa (via s ptr t) = .ok () →
          (s.me.l1.filter fun l => l.set == va / 128 % 128).length < 4 →
          let f := s.l1Fill s.cur s.me.pol va t.leaf t.large
          f.2.pa = pa / 128 * 128 ∧ f.2.dirty = 0 ∧
          (agrees ptr (f.2.tag va) → ld = true → exec i s = .next (f.1.after i fun k =>
            k.setS rd.toNat (loaded (x = 1) n (f.2.data.extractLsb' (8 * (va % 128)) (8 * n)).toNat))) ∧
          (agrees ptr (f.2.tag va) → ld = false →
            exec i s = .next (f.1.after i fun k => k.l1Put (f.2.set' va n y)))) ∧
        (∀ t, ready s va acc t → s.remote t.leaf = true → s.hub.fabric ≠ none →
          (ld = true → exec i s = .next ({ s with free := s.free + 1 }.after i fun k =>
            k.setS rd.toNat (loaded (x = 1) n ((Config.remoteAnswer s.free).toNat % 2 ^ (8 * n))))) ∧
          (ld = false → exec i s = .next ((s.modHub fun h => { h with sent := h.sent ++
            [{ home := BitVec.ofNat 12 (leafHome t.leaf), pa := leafPa t.leaf t.large va, size := n,
               key := BitVec.ofNat 6 (leafKey t.leaf), op := none, value := BitVec.ofNat 64 (y % 2 ^ (8 * n)), other := 0 }] }).after i id))) ∧
        (∀ t u w, ready s va acc t → s.remote t.leaf = false → isDevFrame (leafPa t.leaf t.large va / 0x10000) = true →
          (ld = true → s.devRead (leafPa t.leaf t.large va) n = .ok (u, w) →
            exec i s = .next (u.after i fun k => k.setS rd.toNat (loaded (x = 1) n w.toNat))) ∧
          (ld = false → s.devWrite (leafPa t.leaf t.large va) n (s.me.s rd.toNat) = .ok u → exec i s = .next (u.after i id))) ∧
        (s.me.l1Find s.me.pol va = none →
          (∀ v, s.me.walked = some v → exec i s = .next (s.takeTrap .xlate (v.setWidth 64))) ∧
          (s.me.walked = none → s.me.sleep = .none →
            (s.tlbFind s.cur s.me.pol va = none ∨ ∃ t, s.tlbFind s.cur s.me.pol va = some t ∧
              (leafAllows t.leaf acc = false ∨ (s.remote t.leaf = true ∧ s.hub.fabric = none))) →
            ∃ t r, exec i s = .next t ∧ t.me.sleep = .walk ∧ t.me.farReq = some r ∧ r.agent = s.cur ∧ r.push = none ∧
              r.ptr = ptr ∧ r.acc = acc ∧ r.pol = s.me.pol ∧ t.me.pc = s.me.pc ∧ (∀ k, t.me.s k = s.me.s k) ∧ s.SameMemory t))))) ∧
  (∀ (op : AtOp) (g : BitVec 3) (st rs1 : BitVec 5) (w : BitVec 1) (q : BitVec 2) (p : BitVec 1) (s : State) (t : Tlb) (pa : Nat),
    let i := atomicInstr op g st rs1 0 w q p
    let n := if w = 1 then 4 else 8
    let ptr := s.me.s rs1.toNat
    let va := (ptr.extractLsb' 0 48).toNat
    let d := s.me.s (24 + 2 * q.toNat)
    let e := s.me.s (24 + 2 * q.toNat + 1)
    Issues i s → isOrdinary s.cur = false → g.toNat ≤ 5 → st ≠ 0 → ptr.extractLsb' 48 12 = 0 → va % n = 0 →
    ready s va 3 t → lands s va t pa → agrees ptr (s.physTag pa) → s.physEcc pa n true (via s ptr t) = .ok () →
    let r := s.physRead pa n (via s ptr t)
    let old := BitVec.ofNat (8 * n) r.2
    let posts : Prop := ptr.extractLsb' 44 4 = 0xF ∧ op ≠ .swap ∧ op ≠ .cas
    (posts → exec i s = .next ((r.1.physWrite pa n (atomicValue op old (d.setWidth (8 * n)) (e.setWidth (8 * n))).toNat
        (2 ^ n - 1) (via s ptr t)).after i fun c => c.setS (24 + 2 * q.toNat) 0)) ∧
    (¬posts → exec i s = .next (State.after
      (if op = .cas ∧ old ≠ d.setWidth (8 * n) then r.1 else
        r.1.physWrite pa n (atomicValue op old (d.setWidth (8 * n)) (e.setWidth (8 * n))).toNat (2 ^ n - 1) (via s ptr t))
      i fun c => c.setS (24 + 2 * q.toNat) (atomicOld op old)))) ∧
  (∀ (rs1 rd : BitVec 5) (p : BitVec 1) (s : State) (t : Tlb) (pa : Nat),
    let ptr := s.me.s rs1.toNat
    let va := (ptr.extractLsb' 0 48).toNat
    Issues (.tagr 1 rs1 rd p) s → isOrdinary s.cur = false → ptr.extractLsb' 48 12 = 0 → ready s va 0 t → lands s va t pa →
    (leafCa t.leaf ≠ 2 ∨ ptr.extractLsb' 44 4 = 0xF) → s.physEcc pa 1 true (via s ptr t) = .ok () →
    exec (.tagr 1 rs1 rd p) s = .next ((s.hbmSoft pa (descVf (s.desc s.me.pol))).after (.tagr 1 rs1 rd p) fun k => k.setS rd.toNat ((s.physTag pa).setWidth 64))) ∧
  (∀ (m : BitVec 8) (k : BitVec 1) (rs1 : BitVec 5) (z : BitVec 2) (rd : BitVec 3) (p : BitVec 1) (s : State),
    Issues (.probe m k 1 rs1 z rd p) s → isOrdinary s.cur = false →
    ∃ b, exec (.probe m k 1 rs1 z rd p) s = .next (s.after (.probe m k 1 rs1 z rd p) fun c => c.setP rd.toNat b))

/-- FFLUSH, FPF, PGINV (spec/15 R429), FPUSH, FPUSH_SLOT and PUSH_COMPLETE (R430). -/
def Obligations.FarUpkeepAndPushes : Prop :=
  let touched (l : L1Line) (pol : BitVec 12) (va len : Nat) : Prop :=
    len = 0 ∨ (l.pol = pol ∧ l.vtag * 2 ^ 14 + l.set * 128 < va + len ∧ va < l.vtag * 2 ^ 14 + l.set * 128 + 128)
  let page (large : Bool) : Nat := if large then 2 ^ 26 else 2 ^ 16
  (∀ (inv : BitVec 1) (g : BitVec 3) (rs2 rs1 : BitVec 5) (p : BitVec 1) (s : State),
    let i : Instr := .fflush inv g rs2 rs1 p
    let ptr := s.me.s rs1.toNat
    let va := (ptr.extractLsb' 0 48).toNat
    let len := (s.me.s rs2.toNat).toNat
    Issues i s →
    (5 < g.toNat → exec i s = .next (s.takeTrap .illegal 5)) ∧
    (g.toNat ≤ 5 → ptr.extractLsb' 48 12 ≠ 0 → exec i s = .next (s.takeTrap .xlate 8)) ∧
    (g.toNat < 3 → ptr.extractLsb' 48 12 = 0 → exec i s = .next (s.after i id)) ∧
    (3 ≤ g.toNat → g.toNat ≤ 5 → ptr.extractLsb' 48 12 = 0 → (g = 5 → s.owesPosted = false) →
      s.Sound →
      ∃ t, exec i s = .next t ∧ t.cur = s.cur ∧ (∀ k, t.me.s k = s.me.s k) ∧ t.me.latch = none ∧
        (∀ l ∈ t.me.l1, touched l s.me.pol va len → l.dirty = 0 ∧ inv = 0) ∧ ∀ b, b ≠ s.cur → t.core b = s.core b)) ∧
  (∀ (rs2 rs1 : BitVec 5) (p : BitVec 1) (s : State), Issues (.fpf rs2 rs1 p) s →
    (∃ t, exec (.fpf rs2 rs1 p) s = .next t ∧ t.cur = s.cur) ∧
    (s.Sound → ∃ t, exec (.fpf rs2 rs1 p) s = .next t ∧ t.cur = s.cur ∧ (∀ k, t.me.s k = s.me.s k) ∧ t.me.latch = none ∧
      (s.me.replaying = false → t.me.pc = s.me.pc + 4) ∧ ∀ b, b ≠ s.cur → t.core b = s.core b) ∧
    (s.me.s rs2.toNat = 0 ∨ (s.me.s rs1.toNat).extractLsb' 48 12 ≠ 0 →
      exec (.fpf rs2 rs1 p) s = .next (s.after (.fpf rs2 rs1 p) id))) ∧
  (∀ (g : BitVec 3) (rs2 rs1 : BitVec 5) (p : BitVec 1) (s : State),
    let i : Instr := .pginv g rs2 rs1 p
    let ptr := s.me.s rs1.toNat
    let va := (ptr.extractLsb' 0 48).toNat
    let pol : BitVec 12 := (s.me.s rs2.toNat).setWidth 12
    let off (x : Tlb) : Prop := ¬(x.pol = pol ∧ x.page = va / page x.large)
    Issues i s →
    (5 < g.toNat → exec i s = .next (s.takeTrap .illegal 5)) ∧
    (g.toNat ≤ 5 → s.me.level = 0 → exec i s = .next (s.takeTrap .privilege 1)) ∧
    (g.toNat ≤ 5 → s.me.level ≠ 0 → ptr.extractLsb' 48 12 ≠ 0 → exec i s = .next (s.takeTrap .xlate 8)) ∧
    (g.toNat ≤ 5 → s.me.level ≠ 0 → ptr.extractLsb' 48 12 = 0 → isOrdinary s.cur = false → s.Sound →
      ∃ t, exec i s = .next t ∧ t.cur = s.cur ∧ (∀ k, t.me.s k = s.me.s k) ∧ t.me.latch = none ∧
        ((sget s.cores s.cur).isSome = true → ∀ l ∈ t.me.l1,
          ¬(l.pol = pol ∧ (l.vtag * 2 ^ 14 + l.set * 128) / page l.large = va / page l.large)) ∧
        (3 ≤ g.toNat → ∀ x ∈ t.tlbOf s.cur, off x) ∧
        (4 ≤ g.toNat ∨ (g = 3 ∧ isHub s.cur = true) → (∀ x ∈ t.hub.tlb, off x) ∧ ∀ d, ∀ x ∈ (t.die d).tlb, off x))) ∧
  (∀ (sh rem : BitVec 1) (rs2 rs1 rd : BitVec 5) (p : BitVec 1) (s : State),
    let i : Instr := .fpush sh rem rs2 rs1 rd p
    let src := s.me.s rs1.toNat
    let dst := s.me.s rs2.toNat
    let slot := s.me.s rd.toNat
    let len := (dst.extractLsb' 16 13).toNat
    let off := (dst.extractLsb' 29 15).toNat
    let tcm := dst.getLsbD 59
    let xt := (s.me.xt.extractLsb' 0 16).toNat
    let at' := (slot.extractLsb' 0 11).toNat
    let checks : List (Bool × Cause × W64) :=
      [(!isHub s.cur, .illegal, 3), (!(sh = 1 && rem = 1), .illegal, 1), (slot.extractLsb' 12 52 = 0, .illegal, 2),
       if sh = 1 then ((src.extractLsb' 32 32 = 0 && 0x8000000 ≤ (src.extractLsb' 0 28).toNat &&
           (src.extractLsb' 0 28).toNat + len ≤ 0x10000000 : Bool), .polderAccess, 14)
       else ((src.extractLsb' 48 12 = 0 : Bool), .xlate, 8),
       (dst.extractLsb' 0 5 = 0 && !(tcm && dst.extractLsb' 44 4 ≠ 0) && off % 8 = 0 && len % 8 = 0 && 8 ≤ len && len ≤ 4096 &&
         off + len ≤ (if tcm then 0x4000 else 0x8000), .bounds, 0x28),
       ((dst.extractLsb' 48 11).toNat ≤ 1279, .writeProtect, 4),
       ((match s.jobOf s.cur with
          | some j => j.clusters.contains (dieOf s.cur * 2048 + (dst.extractLsb' 48 11).toNat)
          | none => false), .polderAccess, 9),
       (slot.getLsbD 11 || s.me.ex, .slotViolation, 4),
       (slot.getLsbD 11 || s.me.sleep = .engine || xt ≤ at', .slotViolation, 1)]
    let pushes (k : Core) (q : Push) : Prop := q.src = src ∧ q.shelf = (sh = 1 : Bool) ∧ q.rem = (rem = 1 : Bool) ∧
      q.cluster = dst.extractLsb' 48 11 ∧ q.tcm = tcm ∧ q.bay = dst.extractLsb' 44 4 ∧ q.core = dst.extractLsb' 5 5 ∧
      q.off = off ∧ q.len = len ∧ q.tag = dst.extractLsb' 60 4 ∧ q.progress = 0 ∧ q.seq = none ∧ q.ctx = k.ctx ∧
      q.count = if dst.getLsbD 15 then some (dst.extractLsb' 10 5) else none
    Issues i s →
    (∀ (k : Nat) (e : Bool × Cause × W64), checks[k]? = some e → e.1 = false →
      (∀ (j : Nat) (f : Bool × Cause × W64), j < k → checks[j]? = some f → f.1 = true) →
      exec i s = .next (s.takeTrap e.2.1 e.2.2)) ∧
    ((∀ e ∈ checks, e.1 = true) →
      (slot.getLsbD 11 = false → xt < at' →
        ∃ t, exec i s = .next t ∧ t.me.sleep = .engine ∧ t.me.pc = s.me.pc ∧ t.me.pushes = s.me.pushes) ∧
      ((slot.getLsbD 11 = true ∨ at' ≤ xt) → s.me.pushes.length < 8 → ∃ q, pushes s.me q ∧
        exec i s = .next (s.after i fun c => { c with pushes := c.pushes ++ [q] })))) ∧
  (∀ (a : BitVec 22) (sh rem : BitVec 1) (rs2 rs1 rd : BitVec 5) (p : BitVec 1) (s : State),
    let t : State := { s with cur := a.toNat }
    ∀ w x q, t.fetchInstr = .ok (.fpush sh rem rs2 rs1 rd p, w, x) → t.me.act = .exchange → t.me.sleep = .engine →
      t.me.pushes.length < 8 →
      fpushChecks (sh = 1) (rem = 1) (t.me.s rs1.toNat) (t.me.s rs2.toNat) (t.me.s rd.toNat) t = .ok q →
      ∃ u, exec (.fpushSlot a) s = .next u ∧ u.cur = s.cur ∧ (u.core a.toNat).pushes = t.me.pushes ++ [q] ∧
        (u.core a.toNat).sleep = .none ∧ (u.core a.toNat).latch = none ∧ s.SameMemory u ∧
        ∀ b, b ≠ a.toNat → u.core b = s.core b) ∧
  (∀ (a : BitVec 22) (s : State) (q : Push) (rest : List Push) (l m : Loc),
    let b := q.place a.toNat 0
    let dst' := agentIn (q.target a.toNat) q.core.toNat
    (s.core a.toNat).pushes = q :: rest → q.seq = none → s.hub.waitRecs = [] → q.shelf = true → q.progress = 0 → 0 < q.len →
    q.chunk a.toNat 0 = q.len → (q.task = true → s.pushesCode a.toNat q = false) →
    s.localCheck a.toNat q.ctx 1 q.src 1 .load = .ok l → l.tagged = true → s.eccCheck a.toNat l q.len true = .ok () →
    s.localCheck b.1 q.ctx 1 b.2 1 .engine = .ok m → s.eccCheck b.1 m q.len false = .ok () →
    (∀ x ∈ rest, x.id ≠ q.id) → (∀ n, q.count = some n → vget (s.core dst').mc n.toNat 0 ≠ 0xFFFF) →
    ∃ t, exec (.pushComplete a) s = .next t ∧ t.cur = s.cur ∧ (t.core a.toNat).pushes = rest ∧
      t.read m.key q.len = s.read l.key q.len ∧ (∀ j, (j < m.key ∨ m.key + q.len ≤ j) → t.byte j = s.byte j) ∧
      (∀ g, t.tag g = s.tag g) ∧ (∀ w, m.key / 4 ≤ w → w ≤ (m.key + q.len - 1) / 4 → t.isFull w = true) ∧
      (dst' ≠ a.toNat → ∀ n : BitVec 5, vget (t.core dst').mc n.toNat 0 =
        vget (s.core dst').mc n.toNat 0 + if q.count = some n then 1 else 0))

/-- Walks (spec/01 R43 to R47), fault records (R49 to R51), FQDEQ, REPLAY and TERM (spec/15 R431). -/
def Obligations.WalksAndTheFaultQueue : Prop :=
  let page (r : FarReq) : Nat := (r.ptr.extractLsb' 16 32).toNat
  let va (r : FarReq) : Nat := (r.ptr.extractLsb' 0 48).toNat
  (∀ (a : BitVec 22) (s : State) (r : FarReq), (s.core a.toNat).farReq = some r → (s.core a.toNat).sleep = .walk →
    r.agent = a.toNat → s.walkOf a.toNat = none →
    ((r.own = true ∨ ∀ w ∈ s.walksOf a.toNat, ¬(w.pol = r.pol ∧ w.page = page r ∧ w.shut = false)) →
      (s.walksOf a.toNat).length < walkSlots a.toNat →
      ∃ t k, exec (.walkStart a) s = .next t ∧ s.SameMemory t ∧ t.cores = s.cores ∧ (∀ w ∈ s.walksOf a.toNat, w.no < k) ∧
        t.walksOf a.toNat = s.walksOf a.toNat ++ [{ no := k, pol := r.pol, page := page r, reqs := [r], read := none, shut := false }]) ∧
    (∀ w, s.walksOf a.toNat = [w] → r.own = false → w.shut = false → w.pol = r.pol → w.page = page r →
      ∃ t, exec (.walkStart a) s = .next t ∧ s.SameMemory t ∧ t.cores = s.cores ∧
        t.walksOf a.toNat = [{ w with reqs := w.reqs ++ [r] }])) ∧
  (∀ (a : BitVec 22) (s : State) (w : Walk) (r : FarReq), s.walkOf a.toNat = some w → w.reqs = [r] → r.agent = a.toNat →
    r.push = none → (s.core a.toNat).farReq = some r → w.pol = r.pol → w.page = page r → w.read = none →
    s.walkable a.toNat w = true → s.tablesBad (s.readsOf w.pol w.page) = none →
    (∀ e large entry, s.walk r.pol (va r) r.acc (s.travels r) = .leaf e large entry →
      ∃ t y, exec (.walkComplete a) s = .next t ∧ t.cur = s.cur ∧ (t.core a.toNat).sleep = .engine ∧
        t.tlbFind a.toNat r.pol (va r) = some y ∧ y.large = large ∧ y.leaf = e ||| 0x8000000000000000 ∧
        t.hub.faults = s.hub.faults ∧ t.hubRead entry 8 / 2 ^ 63 % 2 = 1 ∧
        (s.hub.waitRecs = [] → ∀ x ∈ t.walksOf a.toNat, x.no ≠ w.no)) ∧
    (∀ kind lvl e far, s.walk r.pol (va r) r.acc (s.travels r) = .fault kind lvl e far →
      (isHub a.toNat = true → ∃ t, exec (.walkComplete a) s = .next t ∧ t.cur = s.cur ∧ (t.core a.toNat).sleep = .engine ∧
        (t.core a.toNat).walked = some (BitVec.ofNat 8 (kind + 16 * lvl + 64 * r.acc)) ∧ s.SameMemory t) ∧
      (isHub a.toNat = false → (s.hub.faults.filter fun x => x.inRing).length < 1024 → s.hub.waitRecs = [] →
        ∃ t x, exec (.walkComplete a) s = .next t ∧ t.cur = s.cur ∧ (t.core a.toNat).sleep = .record s.hub.seq ∧
          t.hub.faults = s.hub.faults ++ [x] ∧ x.req = r ∧ x.inRing = true ∧ x.voided = false ∧ t.hub.seq = s.hub.seq + 1 ∧
          x.bytes.extractLsb' 96 16 = s.hub.seq ∧ x.bytes.extractLsb' 0 64 = r.ptr ∧ x.bytes.extractLsb' 128 12 = r.pol ∧
          (r.acc < 4 → kind < 16 → lvl < 4 → (x.bytes.extractLsb' 160 8).toNat = kind + 16 * lvl + 64 * r.acc ∧
            x.bytes.extractLsb' 192 64 = e) ∧ s.SameMemory t) ∧
      (isHub a.toNat = false → 1024 ≤ (s.hub.faults.filter fun x => x.inRing).length →
        ∃ t x, exec (.walkComplete a) s = .next t ∧ (t.core a.toNat).sleep = .ring ∧ t.hub.faults = s.hub.faults ∧
          t.hub.waitRecs = s.hub.waitRecs ++ [x] ∧ x.req = r ∧
          ∃ y ∈ t.walksOf a.toNat, y.pol = w.pol ∧ y.page = w.page ∧ y.reqs = []))) ∧
  (∀ (a : BitVec 22) (s : State) (r : FaultRec) (rest : List FaultRec), s.hub.waitRecs = r :: rest → r.req.agent = a.toNat →
    (s.hub.faults.filter fun x => x.inRing).length < 1024 →
    ∃ t x, exec (.faultInsertRetry a) s = .next t ∧ t.hub.waitRecs = rest ∧ t.hub.faults = s.hub.faults ++ [x] ∧
      x.req = r.req ∧ x.inRing = true ∧ x.bytes.extractLsb' 96 16 = s.hub.seq ∧ x.bytes.extractLsb' 0 96 = r.bytes.extractLsb' 0 96 ∧
      t.hub.seq = s.hub.seq + 1 ∧ s.SameMemory t) ∧
  (∀ (c : BitVec 3) (rd : BitVec 5) (p : BitVec 1) (s : State), Issues (.fqdeq c rd p) s →
    ((∀ r ∈ s.hub.faults, r.inRing = false) →
      exec (.fqdeq c rd p) s = .next (s.after (.fqdeq c rd p) fun k => k.setP c.toNat false)) ∧
    (∀ r, s.hub.faults.find? (fun x => x.inRing) = some r →
      exec (.fqdeq c rd p) s = .next ((s.modHub fun h => { h with
        faults := h.faults.map fun x => if x = r then { x with inRing := false } else x }).after (.fqdeq c rd p) fun k =>
          { k with v := vset k.v rd.toNat (r.bytes.setWidth 512) }.setP c.toNat true))) ∧
  (∀ (term : Bool) (rs1 : BitVec 5) (rd : BitVec 3) (p : BitVec 1) (s : State),
    let i : Instr := if term then .term rs1 rd p else .replay rs1 rd p
    let n : BitVec 16 := (s.me.s rs1.toNat).setWidth 16
    Issues i s →
    ((∀ r ∈ s.hub.faults, r.bytes.extractLsb' 96 16 ≠ n) → exec i s = .next (s.after i fun k => k.setP rd.toNat false)) ∧
    (∀ r, s.hub.faults.find? (fun x => x.bytes.extractLsb' 96 16 == n) = some r → r.later = none →
      let u := s.modHub fun h => { h with faults := h.faults.erase r }
      let live : Prop := r.voided = false ∧ (r.bytes.extractLsb' 152 8).toNat = s.vfGen r.fn.toNat
      (¬live → exec i s = .next (u.after i fun k => k.setP rd.toNat false)) ∧
      (live → term = true → s.recJob r = none → exec i s = .next (u.after i fun k => k.setP rd.toNat true)) ∧
      (∀ j, live → s.recJob r = some j → (j.stand.away = true ∨ j.stand.evicted = true) →
        exec i s = .next ((s.modHub fun h => { h with faults := h.faults.map fun x =>
          if x = r then { x with later := some term, inRing := false } else x }).after i fun k => k.setP rd.toNat true)) ∧
      (∀ j, live → term = true → s.recJob r = some j → j.stand.away = false → j.stand.evicted = false →
        ∃ t, exec i s = .next t ∧ ∀ k ∈ t.hub.jobs, k.same j = false) ∧
      (∀ e large entry, live → term = false → (∀ j, s.recJob r = some j → j.stand.away = false ∧ j.stand.evicted = false) →
        r.req.push = none → s.walksOf r.req.agent = [] → s.tablesBad (s.readsOf r.req.pol (page r.req)) = none →
        (∀ x ∈ s.readsOf r.req.pol (page r.req), s.bridged r.req.agent x.1 = true) →
        (s.core r.req.agent).farReq = some r.req →
        u.walk r.req.pol (va r.req) r.req.acc (u.travels r.req) = .leaf e large entry →
        ∃ t, exec i s = .next t ∧ t.cur = s.cur ∧ t.hub.faults = s.hub.faults.erase r ∧ (rd ≠ 0 → t.me.pr rd.toNat = true) ∧
          (t.core r.req.agent).sleep = .engine)))

/-- The event unit (spec/02 R83 to R90), full wakes (spec/11 R318), corrected words (spec/02 R96). The model's choices: CFG looks at
bits [5:0] only (log entry 105), and REMOTE of a core without a job reaches its own cluster only (106). -/
def Obligations.EventUnit : Prop :=
  let runs (s : State) : Prop := (s.me.act = .task ∨ s.me.act = .exchange) ∧ isOrdinary s.cur = true ∧ s.me.isOrd = false ∧
    s.haltAtHit s.cur = false ∧ s.me.sleep = .none
  let done (s t : State) (rd : Nat) : Prop := t.cur = s.cur ∧ t.me.pc = s.me.pc + 4 ∧ t.me.latch = none ∧ t.me.sleep = .none ∧
    s.SameMemory t ∧ ∀ k, k < 32 → k ≠ rd → t.me.s k = s.me.s k
  let gets (s t : State) (rd : BitVec 5) (v : Nat) : Prop := done s t rd.toNat ∧ (rd ≠ 0 → t.me.s rd.toNat = BitVec.ofNat 64 v)
  let waits (s t : State) (w : Sleep) : Prop :=
    t.cur = s.cur ∧ t.me.sleep = w ∧ t.me.pc = s.me.pc ∧ (∀ k, t.me.s k = s.me.s k) ∧ s.SameMemory t
  let sets (s t : State) (c e : Nat) : Prop := ∀ x, x = (s.cluster c).event e →
    (x.sleepers = [] → ((t.cluster c).event e).set = true ∧ ((t.cluster c).event e).sleepers = []) ∧
    ∀ k r, x.sleepers = k :: r → ((t.cluster c).event e).set = false ∧ ((t.cluster c).event e).sleepers = r ∧
      (agentIn c k.toNat ≠ s.cur → (t.core (agentIn c k.toNat)).sleep = .event e true)
  (∀ (n : BitVec 3) (rd : BitVec 5) (s : State), runs s →
    let c := clusterOf s.cur
    let b := (s.cluster c).barrier n.toNat
    let full : Prop := b.count.toNat ≤ b.arrived + 1
    let next : Barrier := { b with arrived := if full then 0 else b.arrived + 1, phase := if full then b.phase + 1 else b.phase }
    (full → ∃ t, exec (.arrive n rd) s = .next t ∧ gets s t rd (b.phase + 1).toNat ∧ (t.cluster c).barrier n.toNat = next) ∧
    (¬full → ∃ t, exec (.arrive n rd) s = .next t ∧ waits s t (.arrive n.toNat b.phase) ∧
      (t.cluster c).barrier n.toNat = next) ∧
    (∃ t, exec (.arriveNb n rd) s = .next t ∧ gets s t rd b.phase.toNat ∧ (t.cluster c).barrier n.toNat = next) ∧
    (∃ t, exec (.waitLatch n rd) s = .next t ∧ done s t 0 ∧ (t.cluster c).barrier n.toNat =
      { b with tokens := vset b.tokens (coreIn s.cur) ((s.me.s rd.toNat).setWidth 32) }) ∧
    (let d := b.phase - (vget b.tokens (coreIn s.cur) 0).setWidth 31
     (d = 0 → ∃ t, exec (.wait n rd) s = .next t ∧ waits s t (.wait n.toNat b.phase)) ∧
     (d ≠ 0 → ∃ t, exec (.wait n rd) s = .next t ∧
       gets s t rd (b.phase.toNat + if d = 1 then 0 else 2 ^ 31) ∧ (t.cluster c).barrier n.toNat = b)) ∧
    (let k := ((s.me.s rd.toNat).extractLsb' 0 6).toNat
     (s.me.level = 0 → exec (.barrierCfgWrite n rd) s = .next (s.takeTrap .privilege 1)) ∧
     (s.me.level ≠ 0 → (k = 0 ∨ 32 < k) → exec (.barrierCfgWrite n rd) s = .next (s.takeTrap .writeProtect 4)) ∧
     (s.me.level ≠ 0 → 1 ≤ k → k ≤ 32 → ∃ t, exec (.barrierCfgWrite n rd) s = .next t ∧ done s t 0 ∧
       (t.cluster c).barrier n.toNat = { b with count := BitVec.ofNat 6 k }))) ∧
  (∀ (n : BitVec 3) (rd : BitVec 5) (s : State) (ph : BitVec 31), (s.me.act = .task ∨ s.me.act = .exchange) →
    isOrdinary s.cur = true → s.me.isOrd = false → s.haltAtHit s.cur = false → s.me.sleep = .arrive n.toNat ph →
    ((s.cluster (clusterOf s.cur)).barrier n.toNat).phase ≠ ph →
    ∃ t, exec (.arrive n rd) s = .next t ∧ gets s t rd (ph + 1).toNat ∧
      (t.cluster (clusterOf s.cur)).barrier n.toNat = (s.cluster (clusterOf s.cur)).barrier n.toNat) ∧
  (∀ (n : BitVec 3) (rd : BitVec 5) (s : State) (ph : BitVec 31), (s.me.act = .task ∨ s.me.act = .exchange) →
    isOrdinary s.cur = true → s.me.isOrd = false → s.haltAtHit s.cur = false → s.me.sleep = .wait n.toNat ph →
    ((s.cluster (clusterOf s.cur)).barrier n.toNat).phase ≠ ph →
    ∃ t, exec (.wait n rd) s = .next t ∧ gets s t rd (ph + 1).toNat ∧
      (t.cluster (clusterOf s.cur)).barrier n.toNat = (s.cluster (clusterOf s.cur)).barrier n.toNat) ∧
  (∀ (c : BitVec 15) (n : BitVec 3) (s : State),
    let b := (s.cluster c.toNat).barrier n.toNat
    ∃ t, exec (.barrierRelease c n) s = .next t ∧ t.cores = s.cores ∧ s.SameMemory t ∧ (t.cluster c.toNat).barrier n.toNat =
      if b.count.toNat ≤ b.arrived then { b with arrived := 0, phase := b.phase + 1 } else b) ∧
  (∀ (m : BitVec 4) (rd : BitVec 5) (s : State), runs s →
    let c := clusterOf s.cur
    let x := (s.cluster c).mutex m.toNat
    let me : BitVec 5 × BitVec 6 × BitVec 12 := (BitVec.ofNat 5 (coreIn s.cur), BitVec.ofNat 6 s.me.depth, s.me.pol)
    (x.holder = none → x.waiters = [] → ∃ t, exec (.mutexLock m rd) s = .next t ∧ gets s t rd 1 ∧
      (t.cluster c).mutex m.toNat = { holder := some me, waiters := [] }) ∧
    (∀ h, x.holder = some h → h.1.toNat = coreIn s.cur → ∃ t, exec (.mutexLock m rd) s = .next t ∧ gets s t rd 2 ∧
      (t.cluster c).mutex m.toNat = x) ∧
    ((x.waiters ≠ [] ∨ x.holder ≠ none) → (∀ h, x.holder = some h → h.1.toNat ≠ coreIn s.cur) →
      ∃ t, exec (.mutexLock m rd) s = .next t ∧ waits s t (.mutex m.toNat) ∧
        (t.cluster c).mutex m.toNat = { x with waiters := x.waiters ++ [me] }) ∧
    (∀ h, x.holder = some h → h.1.toNat = coreIn s.cur → h.2.1.toNat = s.me.depth →
      ∃ t, exec (.mutexUnlock m) s = .next t ∧ done s t 0 ∧ (t.cluster c).mutex m.toNat = { x with holder := none }) ∧
    ((∀ h, x.holder = some h → ¬(h.1.toNat = coreIn s.cur ∧ h.2.1.toNat = s.me.depth)) →
      exec (.mutexUnlock m) s = .next (s.takeTrap .writeProtect 5))) ∧
  (∀ (c : BitVec 15) (m : BitVec 4) (s : State),
    let x := (s.cluster c.toNat).mutex m.toNat
    ∃ t, exec (.mutexHandoff c m) s = .next t ∧ t.cores = s.cores ∧ s.SameMemory t ∧
      (∀ w r, x.holder = none → x.waiters = w :: r → (t.cluster c.toNat).mutex m.toNat = { holder := some w, waiters := r }) ∧
      (x.holder ≠ none ∨ x.waiters = [] → (t.cluster c.toNat).mutex m.toNat = x)) ∧
  (∀ (e rd : BitVec 5) (s : State), runs s →
    let c := clusterOf s.cur
    let x := (s.cluster c).event e.toNat
    (x.set = true → ∃ t, exec (.eventWait e rd) s = .next t ∧ gets s t rd 1 ∧
      (t.cluster c).event e.toNat = { x with set := false }) ∧
    (x.set = false → ∃ t, exec (.eventWait e rd) s = .next t ∧ waits s t (.event e.toNat false) ∧
      (t.cluster c).event e.toNat = { x with sleepers := x.sleepers ++ [BitVec.ofNat 5 (coreIn s.cur)] }) ∧
    (∃ t, exec (.eventSet e) s = .next t ∧ done s t 0 ∧ sets s t c e.toNat)) ∧
  (∀ (rs : BitVec 5) (s : State), runs s →
    let v := s.me.s rs.toNat
    let c := (v.extractLsb' 5 15).toNat
    let good : Prop := v.extractLsb' 20 12 = 0 ∧ (v.extractLsb' 5 11).toNat ≤ 1279
    let inside : Prop := (∃ j, s.jobOf s.cur = some j ∧ c ∈ j.clusters) ∨ (s.jobOf s.cur = none ∧ c = clusterOf s.cur)
    (¬good → exec (.remoteEventSend rs) s = .next (s.takeTrap .writeProtect 4)) ∧
    (good → ¬inside → exec (.remoteEventSend rs) s = .next (s.takeTrap .polderAccess 9)) ∧
    (good → inside → ∃ t, exec (.remoteEventSend rs) s = .next t ∧ done s t 0 ∧
      t.messages = s.messages ++ [(c, v.extractLsb' 0 5)])) ∧
  (∀ (c : Nat) (e : BitVec 5) (rest : List (Nat × BitVec 5)) (s : State), s.messages = (c, e) :: rest →
    ∃ t, exec .remoteEventArrival s = .next t ∧ t.messages = rest ∧ sets s t c e.toNat ∧ s.SameMemory t) ∧
  (∀ (a : BitVec 22) (ws : List Nat) (s : State), (s.core a.toNat).sleep = .full ws → (∀ w ∈ ws, s.isFull w = true) →
    exec (.fullWake a) s = .next (s.setCore a.toNat { s.core a.toNat with sleep := .engine })) ∧
  (∀ (key : BitVec 48) (s : State), ∃ t, exec (.eccWriteback key) s = .next t ∧ t.cores = s.cores ∧ s.SameMemory t ∧
    (key.toNat % 4 ≠ 1 → t.softTags = s.softTags ∧ ∀ w, w ∈ t.softWords ↔ w ∈ s.softWords ∧ w ≠ key.toNat / 4) ∧
    (key.toNat % 4 = 1 → t.softWords = s.softWords ∧ ∀ g, g ∈ t.softTags ↔ g ∈ s.softTags ∧ g ≠ key.toNat / 32))

/-- Ownership and BFMT (spec/01 R22, spec/02 R69 to R75), the device-control space (spec/07 R233), way conversions (spec/04
R134, R135), key slots (R141, R144), HFTINV (R153), self-tests (spec/07 R245). The model's choices: WAYMASK out of range while BUSY gives 4 and
not 6 (log entry 99), CONVERSION_DRAINED waits for every partly moved push of the die (100), and SCRUB stays until SCRUB_END (57). -/
def Obligations.OwnershipAndDeviceRegisters : Prop :=
  let may (s : State) : Prop := isHub s.cur = true → s.me.act = .task ∨ s.me.act = .exchange
  let ok (s u : State) : Host.Outcome State Fault Refusal := .next (if isHub s.cur then u.modMe Core.oneWord else u)
  let no (s : State) (c : Cause) (v : W64) : Host.Outcome State Fault Refusal :=
    .next (if isHub s.cur then s.takeTrap c v else s)
  let scrubbed (s u : State) (k n : Nat) : Prop := (∀ j, u.byte j = if k ≤ j ∧ j < k + n then 0 else s.byte j) ∧
    (∀ g, u.tag g = if k / 32 ≤ g ∧ g < k / 32 + n / 32 then 0 else s.tag g) ∧
    ∀ w, u.isFull w = if k / 4 ≤ w ∧ w < k / 4 + n / 4 then false else s.isFull w
  let halves (s u : State) (a : Nat) (old new : W64) : Prop := ∀ j, u.byte j =
    if (tcmBase a ≤ j ∧ j < tcmBase a + 0x2000 ∧ old.extractLsb' 0 32 ≠ new.extractLsb' 0 32) ∨
      (tcmBase a + 0x2000 ≤ j ∧ j < tcmBase a + 0x4000 ∧ old.extractLsb' 32 32 ≠ new.extractLsb' 32 32) then 0 else s.byte j
  (∀ (c : BitVec 15) (b : BitVec 4) (val : BitVec 64) (s : State),
    let k := s.cluster c.toNat
    let f := (val.extractLsb' 0 4).toNat
    let scale := (val.extractLsb' 16 16).toNat
    let bad : Prop := 10 ≤ f ∨ 6 ≤ (val.extractLsb' 8 3).toNat ∨ (f = 7 ∧ (scale = 0 ∨ scale % 8 ≠ 0))
    (bad → exec (.bfmtWrite c b val) s = .next s) ∧
    (¬bad → ∃ t, exec (.bfmtWrite c b val) s = .next t ∧ s.SameMemory t ∧ t.cores = s.cores ∧
      vget (t.cluster c.toNat).bfmt b.toNat 0 = val &&& 0xFFFF0003FFFF070F ∧ vget (t.cluster c.toNat).wgen b.toNat 0 =
        BitVec.ofNat 64 (((vget k.wgen b.toNat 0).extractLsb' 0 32).toNat + 1) &&& 0xFFFFFFFF) ∧
    (let new := val &&& 0x8000000000000FFF
     (new = vget k.bown b.toNat 0 → exec (.bownWrite c b val) s = .next s) ∧
     (new ≠ vget k.bown b.toNat 0 → ∃ t, exec (.bownWrite c b val) s = .next t ∧ t.cores = s.cores ∧
       scrubbed s t (scratchBase c.toNat + b.toNat * 0x8000) 0x8000 ∧ vget (t.cluster c.toNat).bown b.toNat 0 = new ∧
       (vget (t.cluster c.toNat).bstat b.toNat 0).getLsbD 30 = true ∧
       ∀ q, q < 32 → vget (t.cluster c.toNat).queues q QDesc.empty =
         if (vget k.queues q QDesc.empty).valid = true ∧ (vget k.queues q QDesc.empty).bay = b.toNat then QDesc.empty
         else vget k.queues q QDesc.empty))) ∧
  (∀ (c : BitVec 15) (k : BitVec 5) (val : BitVec 64) (s : State),
    let old := vget (s.cluster c.toNat).town k.toNat 0
    let new := val &&& 0x80000FFF80000FFF
    ∃ t, exec (.townWrite c k val) s = .next t ∧ vget (t.cluster c.toNat).town k.toNat 0 = new ∧
      halves s t (agentIn c.toNat k.toNat) old new) ∧
  (∀ (l : BitVec 10) (val : BitVec 64) (s : State), may s →
    let old := vget (s.die (l.toNat / 64)).ltown (l.toNat % 64) 0
    let new := val &&& 0x80000FFF80000FFF
    ∃ u, exec (.ltownWrite l val) s = ok s u ∧ vget (u.die (l.toNat / 64)).ltown (l.toNat % 64) 0 = new ∧
      halves s u (landingAgent l.toNat) old new) ∧
  (∀ (d : BitVec 4) (k : BitVec 11) (val : BitVec 64) (s : State), may s →
    let new := val &&& 0x8000000000000FFF
    let old := (sget (s.die d.toNat).segs k.toNat).getD 0
    (new = old → exec (.segmentOwnerWrite d k val) s = ok s s) ∧
    (new ≠ old → ∃ u, exec (.segmentOwnerWrite d k val) s = ok s u ∧ (sget (u.die d.toNat).segs k.toNat).getD 0 = new ∧
      scrubbed s u (shelfBase d.toNat + k.toNat * 0x10000) 0x10000)) ∧
  (∀ (d : BitVec 4) (val : BitVec 64) (s : State), may s →
    let x := s.die d.toNat
    let n := (val.extractLsb' 0 5).toNat
    (n < 8 ∨ 16 < n → exec (.waymaskWrite d val) s = no s .writeProtect 4) ∧
    (8 ≤ n → n ≤ 16 → x.waymask.getLsbD 62 = true → exec (.waymaskWrite d val) s = no s .writeProtect 6) ∧
    (8 ≤ n → n ≤ 16 → x.waymask.getLsbD 62 = false →
      (n = x.cways → exec (.waymaskWrite d val) s = ok s s) ∧
      (n ≠ x.cways → ∃ u y, exec (.waymaskWrite d val) s = ok s u ∧ (u.die d.toNat).convert = some y ∧ s.SameMemory u ∧
        y.lo = min x.cways n ∧ y.hi = max x.cways n ∧ y.next = y.lo ∧ y.drained = false ∧
        (u.die d.toNat).waymask.getLsbD 62 = true ∧ (u.die d.toNat).waymask.getLsbD 63 = false ∧
        ((u.die d.toNat).waymask.extractLsb' 8 5).toNat = n ∧ (u.die d.toNat).cways = x.cways)) ∧
    (∀ y, x.convert = some y →
      ((∀ e ∈ s.cores, isLanding e.1 = true → dieOf e.1 = d.toNat → ∀ q ∈ e.2.pushes, q.progress = 0) →
        ∃ t, exec (.conversionDrained d) s = .next t ∧ (t.die d.toNat).convert = some { y with drained := true } ∧ s.SameMemory t) ∧
      (∀ e ∈ s.cores, isLanding e.1 = true → dieOf e.1 = d.toNat → (∃ q ∈ e.2.pushes, q.progress ≠ 0) →
        exec (.conversionDrained d) s = .next s) ∧
      (y.drained = true → y.next < 16 → ∃ t, exec (.conversionWayDone d) s = .next t ∧
        (∀ l ∈ (t.die d.toNat).lines, l.way ≠ y.next) ∧
        (∀ j, j < 2 ^ 24 → t.byte (shelfBase d.toNat + (15 - y.next) * 2 ^ 24 + j) = 0) ∧
        (∀ k, k / 256 = 15 - y.next → sget (t.die d.toNat).segs k = none) ∧
        (y.next + 1 < y.hi → (t.die d.toNat).convert = some { y with next := y.next + 1 }) ∧
        (y.hi ≤ y.next + 1 → (t.die d.toNat).convert = none ∧ (t.die d.toNat).waymask.getLsbD 63 = true ∧
          (t.die d.toNat).waymask.getLsbD 62 = false ∧ (t.die d.toNat).cways = (x.waymask.extractLsb' 8 5).toNat)))) ∧
  (∀ (k : BitVec 6) (val : BitVec 64) (s : State), may s →
    let x := s.keySlot k.toNat
    let owner := x.kslot.extractLsb' 0 6
    (k = 0 → exec (.kslotClear k val) s = no s .writeProtect 4) ∧
    (k ≠ 0 → x.kslot.getLsbD 63 = true ∨ x.kslot.getLsbD 62 = true → val.extractLsb' 0 6 ≠ owner →
      exec (.kslotClear k val) s = no s .writeProtect 6) ∧
    (k ≠ 0 → x.kslot.getLsbD 63 = true → val.extractLsb' 0 6 = owner → ∃ u, exec (.kslotClear k val) s = ok s u ∧
      (u.keySlot k.toNat).kslot.getLsbD 63 = false ∧ (u.keySlot k.toNat).kslot.getLsbD 62 = true ∧
      (u.keySlot k.toNat).words = x.words ∧ (∀ t ∈ u.hub.tlb, leafKey t.leaf ≠ k.toNat) ∧
      (∀ d, ∀ t ∈ (u.die d).tlb, leafKey t.leaf ≠ k.toNat) ∧
      ∀ a, ∀ l ∈ (u.core a).l1, l.key ≠ k) ∧
    (x.kslot.getLsbD 62 = true → ∃ t, exec (.purgeDone k) s = .next t ∧ (t.keySlot k.toNat).kslot.getLsbD 62 = false ∧
      (t.keySlot k.toNat).words = x.words ∧ t.cores = s.cores ∧ s.SameMemory t)) ∧
  (∀ (val : BitVec 64) (s : State), may s → ∃ u, exec (.hftinvWrite val) s = ok s u ∧ s.SameMemory u ∧
    ∀ n, sget u.hub.hftCache n = if n = val.toNat then none else sget s.hub.hftCache n) ∧
  (∀ (addr : BitVec 41) (val : BitVec 64) (s : State), may s →
    let o := addr.toNat - 0x1E100000000
    (devReg addr.toNat = none → exec (.registerWrite addr val) s = no s .polderAccess 13) ∧
    (∀ d f, d < 16 → f < 64 → addr.toNat = 0x1E000000000 + d * 0x10000000 + 8 * f →
      (16 < (val.extractLsb' 0 5).toNat → exec (.registerWrite addr val) s = no s .writeProtect 4) ∧
      ((val.extractLsb' 0 5).toNat ≤ 16 → ∃ u, exec (.registerWrite addr val) s = ok s u ∧
        vget (u.die d).quota f 0 = val &&& 0x1F)) ∧
    (0x1E100000000 ≤ addr.toNat →
      (∀ k, k < 64 → o = 0x2000 + 8 * k → ∃ u, exec (.registerWrite addr val) s = ok s u ∧
        vget u.hub.wreg k 0 = val &&& 0x800000000000003F) ∧
      (∀ f, f < 64 → o = 0x2400 + 8 * f → ∃ u, exec (.registerWrite addr val) s = ok s u ∧
        (u.func f).ltab = val &&& 0x800000000FFF0FFF) ∧
      (∀ f, f < 64 → o = 0x2E00 + 8 * f → ∃ u, exec (.registerWrite addr val) s = ok s u ∧
        (u.func f).vfsave = val &&& 0x0000FFFF01FFFFFF) ∧
      (o = 0x3000 → ∃ u, exec (.registerWrite addr val) s = ok s u ∧ u.hub.hftbase = val &&& 0x8000000001FFFFFF))) ∧
  (∀ (kind : BitVec 2) (n : BitVec 32) (s : State), ∃ t, exec (.scrubEnd kind n) s = .next t ∧ s.SameMemory t ∧
    (kind ≠ 0 → t = s) ∧
    (kind = 0 → (∃ u ∈ s.hub.units, u.kind = 1 ∧ u.number = n.toNat ∧ u.retired = false) → t = s) ∧
    (kind = 0 → (∀ u ∈ s.hub.units, u.kind = 1 → u.number = n.toNat → u.retired = true) → (vget (t.cluster (n.toNat / 16)).bstat (n.toNat % 16) 0).getLsbD 30 = false)) ∧
  (∀ (kind : BitVec 3) (n : BitVec 32) (pass : BitVec 1) (s : State) (u : FailedUnit),
    s.hub.units.find? (fun u => u.kind == kind.toNat && u.number == n.toNat && !u.retired) = some u →
    (pass = 1 → ∃ t, exec (.selfTestDone kind n pass) s = .next t ∧ 
      t.hub.units = (s.hub.units.filter fun v => !(v.kind == kind.toNat && v.number == n.toNat)) ∧
      (kind = 1 → (∀ j, j < 0x8000 → t.byte (scratchBase (n.toNat / 16) + n.toNat % 16 * 0x8000 + j) = 0) ∧
        (vget (t.cluster (n.toNat / 16)).bstat (n.toNat % 16) 0).extractLsb' 30 2 = 0 ∧
        vget (t.cluster (n.toNat / 16)).wgen (n.toNat % 16) 0 = BitVec.ofNat 64
          (((vget (s.cluster (n.toNat / 16)).wgen (n.toNat % 16) 0).extractLsb' 0 32).toNat + 1) &&& 0xFFFFFFFF) ∧
      (kind = 2 → t.core n.toNat = Core.reset)) ∧
    (pass = 0 → ∃ t, exec (.selfTestDone kind n pass) s = .next t ∧
      (∀ e, e ∈ t.hub.history ↔ e ∈ s.hub.history ∨ e = (kind.toNat, n.toNat)) ∧
      t.failed kind.toNat n.toNat = true ∧ { u with retired := true } ∈ t.hub.units ∧
      (kind = 1 → (vget (t.cluster (n.toNat / 16)).bstat (n.toNat % 16) 0).extractLsb' 29 2 = 1)))

/-- The host's accesses (spec/04 R150 to R154), launches and KILL (spec/07 R223 to R230), interrupts (R242), the debug aperture of
function 0 (spec/16 R453). The model's choices: that the counter aperture lies at 0x800000 of the BAR and the debug aperture at 0x400000
of function 0's (log entry 22), that the answer of a read stands in Hub.answer (19), the MALFORMED cases beyond R225 (23), the acts of a
launch (25), the code of the set-up task (35) and what its end undoes (133), and that a KILL passes a launch that waits and ends every job
of its JOBID (74, 103). -/
def Obligations.HostAndLaunches : Prop :=
  let judged (u v : State) (f : Nat) : Prop :=
    let x := u.func f
    let y := v.func f
    v.cores = u.cores ∧ y.launch.hub = x.launch.hub ∧ y.flush.hub = x.flush.hub ∧
    y.launch.stopped = decide (32 < countDiff (u.winGet f 0xF818) x.launch.hub.toNat) ∧
    y.compl.stopped = decide (64 < countDiff x.compl.hub.toNat (u.winGet f 0xF830)) ∧
    y.flush.stopped = decide (64 < countDiff (u.winGet f 0xF800) x.flush.hub.toNat) ∧
    v.winGet f 0xF800 = u.winGet f 0xF800 ∧ (x.fabric = [] → v.winGet f 0xF818 = u.winGet f 0xF818) ∧
    v.winGet f 0xF830 = u.winGet f 0xF830 ∧
    (u.region f = none ∨ y.fabric = [] ∨ y.launch.stopped = true ∨ 32 ≤ countDiff (v.winGet f 0xF818) x.launch.hub.toNat) ∧
    (y.owed = [] ∨ y.compl.stopped = true ∨ 64 ≤ countDiff y.compl.hub.toNat (u.winGet f 0xF830)) ∧
    ∀ k, (k < windowBase ∨ windowBase + 0x400000 ≤ k) → v.byte k = u.byte k
  let counted (s t : State) (f off : Nat) (val : BitVec 64) : Prop :=
    (s.region f = none → t = s) ∧ (s.region f ≠ none → judged (s.winPut f off 8 val.toNat) t f)
  let told (s t : State) (f : Nat) (st : Status) (r : BitVec 512) : Prop := ∀ b, s.region f = some b →
    let x := s.func f
    let rec' := complBytes st (recCookie r) (recJobid r) 0 0 0 0 0
    let wait : Prop := x.owed ≠ [] ∨ x.compl.stopped = true ∨ 64 ≤ countDiff x.compl.hub.toNat (s.winGet f 0xF830)
    t.hub.jobs = s.hub.jobs ∧ t.cores = s.cores ∧
    (wait → (t.func f).owed = x.owed ++ [rec'] ∧ (t.func f).irqPend = x.irqPend) ∧
    (¬wait → (t.func f).irqPend = true ∧ t.read (b + 0xE800 + 32 * (x.compl.hub.toNat % 64)) 32 = rec'.toNat ∧ (t.func f).compl.hub = x.compl.hub + 1)
  let taken (s t : State) (f : Nat) : Prop := (s.func f).taken = [] → (t.func f).launch.hub = (s.func f).launch.hub + 1
  let waits (s t : State) (f : Nat) (r : BitVec 512) (l : Option Loading) : Prop := (t.func f).waiting = some r ∧
    (t.func f).loading = l ∧ (t.func f).launch.hub = (s.func f).launch.hub ∧ t.hub.jobs = s.hub.jobs ∧ t.cores = s.cores
  let tried (s t : State) (f : BitVec 6) (r : BitVec 512) : Prop :=
    match s.launchNow f.toNat r with
    | .refuse st => taken s t f.toNat ∧ told s t f.toNat st r ∧ (t.func f.toNat).waiting = none
    | .wait => waits s t f.toNat r none
    | .go l => waits s t f.toNat r (some l) ∧ l.clusters.length = recClus r ∧
        ∀ c ∈ l.clusters, c ∈ s.partitionClusters f.toNat ∧ s.usable c = true
  let started (t : State) (f : BitVec 6) (r : BitVec 512) (l : Loading) : Prop := ∃ j, j ∈ t.hub.jobs ∧ j.fn = f ∧
    j.jobid = recJobid r ∧ j.cookie = recCookie r ∧ j.pol = recPol r ∧ j.clusters = l.clusters ∧
    ∀ a ∈ j.agents, (t.core a).act = .idle ∧ (t.core a).ssn.extractLsb' 0 32 = 0
  (∀ (f : BitVec 6) (off : BitVec 24) (wr : BitVec 1) (sz : BitVec 2) (data : BitVec 64) (s : State),
    let n := 2 ^ sz.toNat
    let debug : Prop := f = 0 ∧ 0x400000 ≤ off.toNat ∧ off.toNat < 0x500000
    let failed (t : State) : Prop := s.SameMemory t ∧ t.cores = s.cores ∧ t.hub.hostErrs = s.hub.hostErrs + 1 ∧
      (wr = 0 → t.hub.answer = BitVec.allOnes 64)
    (¬debug → off.toNat < 0x800000 → ∀ k, (s.regions f.toNat)[off.toNat / 0x10000]? = some k →
      let pa := windowBase + k * 0x10000 + off.toNat % 0x10000
      (wr = 0 → ∃ t, exec (.hostWindowAccess f off wr sz data) s = .next t ∧ t.hub.answer = BitVec.ofNat 64 (s.read pa n) ∧
        s.SameMemory t ∧ t.cores = s.cores) ∧
      (wr = 1 → ∃ t, exec (.hostWindowAccess f off wr sz data) s = .next t ∧ judged (s.write pa n data.toNat) t f.toNat)) ∧
    (¬debug → off.toNat < 0x800000 → (s.regions f.toNat)[off.toNat / 0x10000]? = none →
      ∃ t, exec (.hostWindowAccess f off wr sz data) s = .next t ∧ failed t) ∧
    (debug → sz = 3 → debugReg (off.toNat - 0x400000) = true →
      (wr = 0 → ∃ t, exec (.hostWindowAccess f off wr sz data) s = .next t ∧ s.SameMemory t ∧ t.cores = s.cores ∧
        t.hub.answer = (s.debugRead (off.toNat - 0x400000)).2) ∧
      (wr = 1 → exec (.hostWindowAccess f off wr sz data) s = .next (s.debugWrite (off.toNat - 0x400000) data))) ∧
    (debug → (sz ≠ 3 ∨ debugReg (off.toNat - 0x400000) = false) →
      ∃ t, exec (.hostWindowAccess f off wr sz data) s = .next t ∧ failed t) ∧
    (∀ r, 0x800000 ≤ off.toNat → sz = 3 → apReg (off.toNat - 0x800000) = some r →
      (wr = 0 → ∃ t, exec (.hostWindowAccess f off wr sz data) s = .next t ∧ t.hub.answer = s.apRead f.toNat r ∧
        s.SameMemory t ∧ t.cores = s.cores) ∧
      (wr = 1 → exec (.hostWindowAccess f off wr sz data) s = .next (s.apWrite f.toNat data r)))) ∧
  (∀ (f : BitVec 6) (val : BitVec 64) (s : State),
    (∃ t, exec (.flushTailWrite f val) s = .next t ∧ counted s t f.toNat 0xF800 val) ∧
    (∃ t, exec (.launchTailWrite f val) s = .next t ∧ counted s t f.toNat 0xF818 val) ∧
    (∃ t, exec (.completionHeadWrite f val) s = .next t ∧ counted s t f.toNat 0xF830 val)) ∧
  (∀ (f : BitVec 6) (pa : BitVec 41) (wr : BitVec 1) (sz : BitVec 2) (data : BitVec 64) (s : State),
    let n := 2 ^ sz.toNat
    (s.rangeGranted f.toNat pa.toNat n = false → ∃ t, exec (.hostApertureAccess f pa wr sz data) s = .next t ∧
      s.SameMemory t ∧ t.cores = s.cores ∧ (wr = 0 → t.hub.answer = BitVec.allOnes 64)) ∧
    (s.rangeGranted f.toNat pa.toNat n = true →
      (wr = 0 → ∃ t, exec (.hostApertureAccess f pa wr sz data) s = .next t ∧ s.SameMemory t ∧ t.cores = s.cores ∧
        t.hub.answer = BitVec.ofNat 64 (s.hbmRead pa.toNat 0 n)) ∧
      (wr = 1 → ∃ t, exec (.hostApertureAccess f pa wr sz data) s = .next t ∧ t.cores = s.cores ∧
        t.hbmRead pa.toNat 0 n = data.toNat % 256 ^ n ∧
        ∀ k, (k / 32 < pa.toNat / 32 ∨ (pa.toNat + n - 1) / 32 < k / 32) → t.byte k = s.byte k))) ∧
  (∀ (f : BitVec 6) (c : BitVec 256) (b : Nat) (s : State), s.nextFlush f.toNat = some c → s.region f.toNat = some b →
    (∀ d, ∀ l ∈ (s.die d).lines, stackOf l.pa = d ∧ l.set < 2 ^ 17) →
    let pa := (c.extractLsb' 192 64).toNat
    let len := (c.extractLsb' 128 64).toNat
    let ok := s.flushOk f.toNat c
    let status (t : State) : Prop := (t.func f.toNat).flushing = some (c, ok) ∧
      t.read (b + 0xF007 + 32 * ((s.func f.toNat).flush.hub.toNat % 64)) 1 = if ok then 0 else 1
    (c.extractLsb' 0 8 ≠ 2 → ∃ t, exec (.flush f) s = .next t ∧ status t ∧ t.cores = s.cores ∧
      (ok = true → ∀ d, ∀ l ∈ (t.die d).lines, ∀ i, i < 4 → pa < l.pa + 32 * i + 32 → l.pa + 32 * i < pa + len →
        l.dirty.getLsbD i = true → l.bad.getLsbD i = true)) ∧
    (c.extractLsb' 0 8 = 2 → ∃ t, exec (.flushInval f) s = .next t ∧ status t ∧
      ((∀ e ∈ s.cores, e.2.l1 = []) → (∀ d, ∀ l ∈ (s.die d).lines, l.bad = 0) → ok = true →
        ∀ d l, l ∈ (t.die d).lines ↔ l ∈ (s.die d).lines ∧ ¬(pa < l.pa + 128 ∧ l.pa < pa + len)))) ∧
  (∀ (f : BitVec 6) (c : BitVec 256) (ok : Bool) (b : Nat) (s : State), (s.func f.toNat).flushing = some (c, ok) →
    s.region f.toNat = some b → ((s.func f.toNat).flush.stopped = true → exec (.flushComplete f) s = .next s) ∧
    ((s.func f.toNat).flush.stopped = false → ∃ t, exec (.flushComplete f) s = .next t ∧ t.cores = s.cores ∧
      (t.func f.toNat).flushing = none ∧ (t.func f.toNat).flush.hub = (s.func f.toNat).flush.hub + 1 ∧
      t.read (b + 0xF810) 8 = (c.extractLsb' 64 64).toNat ∧ t.read (b + 0xF808) 8 = ((s.func f.toNat).flush.hub + 1).toNat)) ∧
  (∀ (s : State), s.hub.causeIrqPend = true → ∃ t, exec .causeInterrupt s = .next t ∧ t.hub.causeIrqPend = false ∧
    t.hub.causeIrqSent = s.hub.causeIrqSent + 1 ∧ t.cores = s.cores ∧ s.SameMemory t) ∧
  (∀ (f : BitVec 6) (s : State), (s.func f.toNat).irqPend = true → ∃ t, exec (.completionInterrupt f) s = .next t ∧
    (t.func f.toNat).irqPend = false ∧ (t.func f.toNat).irqSent = (s.func f.toNat).irqSent + 1 ∧ t.cores = s.cores ∧
    s.SameMemory t) ∧
  (∀ (f : BitVec 6) (r : BitVec 512) (s : State), s.nextRecord f.toNat = some r → s.takesRecords f.toNat = true →
    let bad := recBad (s.placedAt f.toNat (s.func f.toNat).launch.hub.toNat) r
    s.hub.plant.accepting = true → (s.func f.toNat).waiting = none → (s.func f.toNat).loading = none → (recOp r ≠ 2 ∨ bad = true) →
      (s.vfState f.toNat = 4 → ∃ t, exec (.launch f) s = .next t ∧ taken s t f.toNat ∧ told s t f.toNat .vfreset r) ∧
      (s.vfState f.toNat ≠ 4 → bad = true → ∃ t, exec (.launch f) s = .next t ∧ taken s t f.toNat ∧
        told s t f.toNat .malformed r) ∧
      (s.vfState f.toNat ≠ 4 → bad = false → s.polderOf f.toNat (recPol r) = false →
        ∃ t, exec (.launch f) s = .next t ∧ taken s t f.toNat ∧ told s t f.toNat .polder r) ∧
      (s.vfState f.toNat ≠ 4 → bad = false → s.polderOf f.toNat (recPol r) = true →
        ∃ t, exec (.launch f) s = .next t ∧ tried s t f r)) ∧
  (∀ (f : BitVec 6) (n : Nat) (r : BitVec 512) (s : State), s.nextKill f.toNat = some (n, r) → s.takesRecords f.toNat = true →
    (s.vfState f.toNat = 4 → ∃ t, exec (.kill f) s = .next t ∧ told s t f.toNat .vfreset r) ∧
    (s.vfState f.toNat ≠ 4 → ∃ t, exec (.kill f) s = .next t ∧ ((s.func f.toNat).waiting = none → taken s t f.toNat) ∧
      (∀ j, j ∈ t.hub.jobs ↔ j ∈ s.hub.jobs ∧ ¬(j.fn = f ∧ j.jobid = recJobid r)) ∧
      (∀ w, (t.func f.toNat).waiting = some w → recJobid w ≠ recJobid r) ∧
      ∀ w ∈ (t.func f.toNat).fabric, recJobid w ≠ recJobid r)) ∧
  (∀ (f : BitVec 6) (r : BitVec 512) (s : State), (s.func f.toNat).waiting = some r → s.hub.plant.accepting = true →
    s.takesRecords f.toNat = true →
    ((s.func f.toNat).loading = none → ∃ t, exec (.launchResumed f) s = .next t ∧ tried s t f r) ∧
    ∀ l, (s.func f.toNat).loading = some l →
      let turn := s.launchTurn f.toNat (r.getLsbD 129)
      let lost : Prop := ∃ u ∈ l.units, s.failed u.1 u.2 = true
      let undone := s.undoLoad f.toNat
      let ended (st : Status) : Prop := ∃ t, exec (.launchResumed f) s = .next t ∧ taken undone t f.toNat ∧
        told undone t f.toNat st r ∧ (t.func f.toNat).waiting = none ∧ (t.func f.toNat).loading = none
      (lost → (s.func f.toNat).again = true → ended .image) ∧
      (lost → (s.func f.toNat).again = false → ∃ t, exec (.launchResumed f) s = .next t ∧
        tried (undone.modFunc f.toNat fun x => { x with again := true }) t f r ∧
        ((t.func f.toNat).waiting = some r → (t.func f.toNat).again = true)) ∧
      (¬lost → turn = false → ∃ t, exec (.launchResumed f) s = .next t ∧ waits undone t f.toNat r none) ∧
      (¬lost → turn = true → s.parsed r = none → ended .image) ∧
      ∀ p, ¬lost → turn = true → s.parsed r = some p →
        (l.before = none →
          (∀ c, (l.clusters.find? fun c => (s.cluster c).ctlBad) = some c →
            exec (.launchResumed f) s = .next (s.fenceCluster c)) ∧
          ((∀ c ∈ l.clusters, (s.cluster c).ctlBad = false) →
            (s.giveOut r p l = none → ended .image) ∧
            (s.giveOut r p l ≠ none → ∃ t m, exec (.launchResumed f) s = .next t ∧ waits s { t with cores := s.cores } f.toNat r (some m) ∧
              m.placed = l.placed ∧ m.clusters = l.clusters ∧ m.units = l.units ∧ m.before.isSome = true ∧
              (∀ x ∈ m.tagging, ∃ i ∈ (t.core (agentIn x.cluster 0)).setup, ((t.core (agentIn x.cluster 0)).entry i).state = 2) ∧
              ((l.placed.cl.map (·.2.1)).Nodup → ∀ e ∈ l.placed.cl, (e.2.2.map (·.2)).Nodup → ∀ n b q, (n, b) ∈ e.2.2 → b < 16 →
                p.places[n]? = some q → q.resident = false →
                vget (t.cluster e.2.1).bown b 0 = BitVec.ofNat 64 (2 ^ 63 + (q.polder (recPol r)).toNat))))) ∧
        (l.before.isSome = true →
          (l.tagging ≠ [] → exec (.launchResumed f) s = .next s) ∧
          (l.tagging = [] → s.load f.toNat r p l.placed = none → ended .image) ∧
          (l.tagging = [] → s.load f.toNat r p l.placed ≠ none → l.placed.cl.map (·.2.1) = l.clusters →
            ∃ t, exec (.launchResumed f) s = .next t ∧ taken s t f.toNat ∧ started t f r l ∧
              (t.func f.toNat).waiting = none ∧ (t.func f.toNat).loading = none))) ∧
  (∀ (a f : Nat) (l : Loading) (x : Tagging) (rest : List Tagging) (s : State), f < 64 → (s.func f).loading = some l →
    l.tagging = x :: rest → x.cluster = clusterOf a → (∀ g, g ≠ f → (s.func g).loading = none) →
    ((s.setupStep a).func f).loading = some { l with tagging := rest } ∧
      ∀ g, (s.setupStep a).tag g = if x.key / 32 ≤ g ∧ g < x.key / 32 + x.count then BitVec.ofNat 4 x.tag else s.tag g) ∧
  (∀ (a : Nat) (s : State), (∀ g, (s.func g).loading = none) → s.setupStep a = s.endTask a) ∧
  (∀ (f : BitVec 6) (src : BitVec 12) (rec' : BitVec 512) (s : State),
    let l := (s.func f.toNat).ltab
    let good : Prop := l.getLsbD 63 = true ∧ (l.extractLsb' 0 12).toNat ≤ src.toNat ∧ src.toNat ≤ (l.extractLsb' 16 12).toNat
    let tail := s.winGet f.toNat 0xF818
    let full : Prop := (s.func f.toNat).launch.stopped = true ∨ 32 ≤ countDiff tail (s.func f.toNat).launch.hub.toNat
    (¬good → ∃ t, exec (.fabricLaunch f src rec') s = .next t ∧ told s t f.toNat .source rec') ∧
    (good → s.vfState f.toNat = 4 → ∃ t, exec (.fabricLaunch f src rec') s = .next t ∧ told s t f.toNat .vfreset rec') ∧
    (good → s.vfState f.toNat ≠ 4 → full → ∃ t, exec (.fabricLaunch f src rec') s = .next t ∧ s.SameMemory t ∧
      (t.func f.toNat).fabric = (s.func f.toNat).fabric ++ [rec']) ∧
    (good → s.vfState f.toNat ≠ 4 → ¬full → (s.func f.toNat).fabric = [] → ∀ b, s.region f.toNat = some b →
      ∃ t, exec (.fabricLaunch f src rec') s = .next t ∧ (t.func f.toNat).fabric = [] ∧
        t.read (b + 0xE000 + 64 * (tail % 32)) 64 = (setBit rec' 130 true).toNat ∧
        t.winGet f.toNat 0xF818 = (tail + 1) % 2 ^ 64 ∧
        (t.func f.toNat).placed = (s.func f.toNat).placed ++ [tail]))

/-- Slices and switches (spec/07 R234 to R236), forced eviction (R237 to R240), pauses (R239), resets (R243, R244). The model's choices:
the size of an image is that of its memory (State.imageBytes, log entry 44); images stand in the save area one after another, and the saved
registers and tables in Hub.saves (98). -/
def Obligations.FunctionsShareTheModule : Prop :=
  (∀ (f : BitVec 6) (s : State), (∃ j ∈ s.jobsOf f.toNat, j.stand.away = false) → (s.vfState f.toNat = 1 ∨ s.vfState f.toNat = 3) →
    (s.func f.toNat).ending = false → s.sliceOver f.toNat = true →
    let x := s.func f.toNat
    let alone : Prop := s.shared f.toNat = false ∨ s.exclusive f.toNat = true
    let last : Prop := (x.vfctl.extractLsb' 32 8).toNat ≤ x.slice + 1
    (alone → exec (.sliceEnd f) s = .next (s.modFunc f.toNat fun y => { y with debt := 0, sliceFrom := s.tick })) ∧
    (¬alone → ¬last → exec (.sliceEnd f) s =
      .next (s.modFunc f.toNat fun y => { y with debt := 0, slice := y.slice + 1, sliceFrom := s.tick })) ∧
    (¬alone → last → exec (.sliceEnd f) s =
      .next (s.modFunc f.toNat fun y => { y with debt := 0, slice := y.slice + 1, sliceEnd := s.tick, ending := true }))) ∧
  (∀ (f g : BitVec 6) (s : State), (s.func f.toNat).ending = true → s.allHeld f.toNat = true →
    (s.vfState f.toNat = 1 ∨ s.vfState f.toNat = 3) → s.partOf f.toNat = s.partOf g.toNat → s.hasWork g.toNat = true →
    s.vfState g.toNat ≠ 4 → s.nextTurn f.toNat = some g.toNat →
    (s.sliceTicks g.toNat ≤ (s.func g.toNat).debt → exec (.switch f g) s =
      .next ((s.modFunc g.toNat fun y => { y with debt := y.debt - s.sliceTicks g.toNat }).modFunc f.toNat fun y =>
        { y with skipped := some g.toNat })) ∧
    ((s.func g.toNat).debt < s.sliceTicks g.toNat → f = g → ∃ t, exec (.switch f g) s = .next t ∧
      (t.func f.toNat).ending = false ∧ (t.func f.toNat).slice = 0 ∧ (t.func f.toNat).sliceFrom = s.tick ∧
      (t.func f.toNat).debt = (s.func f.toNat).debt) ∧
    ((s.func g.toNat).debt < s.sliceTicks g.toNat → f ≠ g → ∃ t, exec (.switch f g) s = .next t ∧
      (t.func f.toNat).ending = false ∧ (t.func f.toNat).slice = 0 ∧ (t.func f.toNat).debt = (s.func f.toNat).debt ∧
      (∀ j ∈ t.hub.jobs, j.fn = f → j.stand.away = true) ∧
      t.vfState f.toNat = (if t.jobsOf f.toNat = [] then 0 else if s.vfState f.toNat = 3 then 3 else 2) ∧
      ∀ j, s.jobsOf f.toNat = [j] → j.stand.away = false → s.messages = [] → (s.func f.toNat).loading = none →
        (s.areaEnd f.toNat + s.imageBytes j ≤ s.saveFrames f.toNat * 0x10000 → (∀ a ∈ j.agents, (t.core a).act = .idle) ∧
          ∃ x, x ∈ t.hub.saves ∧ x.ofJob j = true ∧ x.cores = (j.agents.map fun a => (a, s.core a)) ∧
            x.clusters = (j.clusters.map fun c => (c, s.cluster c)) ∧ x.off = s.areaEnd f.toNat ∧ x.size = s.imageBytes j) ∧
        (s.saveFrames f.toNat * 0x10000 < s.areaEnd f.toNat + s.imageBytes j → t.jobsOf f.toNat = []))) ∧
  (∀ (f g : BitVec 6) (s : State), (∀ j ∈ s.jobsOf f.toNat, j.stand.away = true) → s.partOf f.toNat = s.partOf g.toNat →
    (s.vfState g.toNat = 2 → ∀ j x, s.jobsOf g.toNat = [j] → j.stand.away = true →
      s.hub.saves.find? (fun y => y.ofJob j) = some x → (x.cores.map (·.1)).Nodup → (∀ r ∈ s.hub.faults, r.later = none) →
      ∃ t, exec (.switchDone f g) s = .next t ∧ (t.func g.toNat).sliceFrom = s.tick ∧ (t.func g.toNat).slice = 0 ∧
        (∀ k ∈ t.hub.jobs, k.fn = g → k.stand.away = false) ∧ (∀ y ∈ t.hub.saves, y.ofJob j = false) ∧
        ∀ e ∈ x.cores, (t.core e.1).pc = e.2.pc ∧ (t.core e.1).act = e.2.act ∧ (∀ k, (t.core e.1).s k = e.2.s k) ∧
          (t.core e.1).v = e.2.v ∧ (t.core e.1).tasks = e.2.tasks ∧ (t.core e.1).mc = e.2.mc) ∧
    (s.jobsOf g.toNat = [] → s.waitsTurn g.toNat = true → ∃ t, exec (.switchDone f g) s = .next t ∧
      (t.func g.toNat).sliceFrom = s.tick ∧ (t.func g.toNat).slice = 0 ∧ t.agenda = s.agenda ++ [.launchResumed g])) ∧
  (∀ (f : BitVec 6) (jid : BitVec 32) (j : Job) (s : State),
    s.hub.jobs.find? (fun k => k.fn == f && k.jobid == jid && !k.stand.held && !k.stand.away) = some j →
    ((s.func f.toNat).ending = true ∨ (s.func f.toNat).vfctl.getLsbD 62 = true) → s.evictable j = true →
    (∀ a ∈ j.agents, (s.core a).tileq = [] ∧ ∀ i, i < 4 → ((s.core a).port i).out = true → ((s.core a).port i).items = []) →
    ∃ t k, exec (.forcedEviction f jid) s = .next t ∧ k ∈ t.hub.jobs ∧ k.same j = true ∧ k.stand.held = true ∧
      k.stand.evicted = true) ∧
  (∀ (c : BitVec 15) (j : Job) (s : State), s.jobOf (agentIn c.toNat 0) = some j → c.toNat ∈ j.clusters → s.holdsStands j.fn.toNat = true →
    j.stand.held = false → ∃ t, exec (.evictionOverrun c) s = .next t ∧ t.failed 3 c.toNat = true ∧
      (∀ k, k < 32 → (t.core (agentIn c.toNat k)).act = .stopped) ∧
      (s.failed 3 c.toNat = false → ∀ k ∈ t.hub.jobs, k.same j = false)) ∧
  (∀ (f : BitVec 6) (s : State),
    let stopped : Prop := ∀ j ∈ s.hub.jobs, j.fn = f → j.stand.held = true ∨ j.stand.away = true
    (s.vfState f.toNat ≠ 4 → ∃ t, exec (.vfPause f) s = .next t ∧ t.hub.jobs = s.hub.jobs ∧ t.cores = s.cores ∧
      s.SameMemory t ∧ (t.func f.toNat).vfctl.getLsbD 62 = true ∧ (stopped → t.vfState f.toNat = 3) ∧
      (¬stopped → t.vfState f.toNat = s.vfState f.toNat)) ∧
    (s.vfState f.toNat = 4 → ∃ t, exec (.vfPause f) s = .next t ∧ t.hub.jobs = s.hub.jobs ∧ t.cores = s.cores ∧
      s.SameMemory t ∧ (t.func f.toNat).vfctl.getLsbD 62 = true ∧ t.vfState f.toNat = 4) ∧
    ((∀ r ∈ s.hub.faults, r.later = none) → ∃ t, exec (.vfUnpause f) s = .next t ∧ (t.func f.toNat).vfctl.getLsbD 62 = false ∧
      (s.vfState f.toNat ≠ 3 → t.vfState f.toNat = s.vfState f.toNat) ∧
      (s.vfState f.toNat = 3 → t.vfState f.toNat = if s.jobsOf f.toNat = [] then 0
        else if ∀ j ∈ s.jobsOf f.toNat, j.stand.away = true then 2 else 1) ∧
      (t.holdsStands f.toNat = false → ∀ k ∈ t.hub.jobs, k.fn = f → k.stand.away = false → k.stand.stopReq = false →
        k.stand.held = false))) ∧
  (∀ (f : BitVec 6) (s : State),
    (s.vfState f.toNat = 4 → exec (.vfReset f) s = .next s) ∧
    (s.vfState f.toNat ≠ 4 → ∃ t, exec (.vfReset f) s = .next t ∧ t.vfState f.toNat = 4 ∧
      (t.func f.toNat).waiting = none ∧ (t.func f.toNat).fabric = [] ∧ (t.func f.toNat).ending = false ∧
      (∀ j ∈ t.hub.jobs, j.fn = f → j.stand.held = false ∧ j.stand.away = false) ∧
      (∀ j ∈ t.hub.jobs, j ∈ s.hub.jobs) ∧
      ((s.func f.toNat).launch.stopped = false → s.region f.toNat ≠ none → (s.func f.toNat).taken = [] →
        countDiff ((s.undoLoad f.toNat).winGet f.toNat 0xF818) (s.func f.toNat).launch.hub.toNat ≤ 32 →
        (t.func f.toNat).launch.hub.toNat = (s.undoLoad f.toNat).winGet f.toNat 0xF818)) ∧
    (s.vfState f.toNat = 4 → ∃ t, exec (.vfResetStandStop f) s = .next t ∧ (∀ j ∈ t.hub.jobs, j.fn ≠ f) ∧
      ∀ j, j.fn ≠ f → (j ∈ t.hub.jobs ↔ j ∈ s.hub.jobs)) ∧
    (s.vfState f.toNat = 4 → s.jobsOf f.toNat = [] → ∃ t, exec (.vfResetDone f) s = .next t ∧ t.vfState f.toNat = 0 ∧
      t.vfGen f.toNat = (s.vfGen f.toNat + 1) % 256 ∧ t.hub.jobs = s.hub.jobs ∧ t.cores = s.cores ∧ s.SameMemory t ∧
      t.hub.withdrawn = s.hub.withdrawn ++ ((s.func f.toNat).opened.map fun d => (f, d)) ∧
      let clean (k : Cluster) : Prop := ∀ q, q < 32 → (vget k.queues q QDesc.empty).valid = true →
        ¬(descV (s.desc ((vget k.queues q QDesc.empty).w0.extractLsb' 40 12)) = true ∧
          descVf (s.desc ((vget k.queues q QDesc.empty).w0.extractLsb' 40 12)) = f.toNat)
      (∀ c, clean (t.cluster c)) ∧ ∀ x ∈ t.hub.saves, ∀ e ∈ x.clusters, clean e.2)) ∧
  (∀ (f : BitVec 6) (d : BitVec 4) (j : Job) (s : State), j ∈ s.hub.jobs → j.fn = f → j.xdom.getLsbD d.toNat = true →
    ∃ t, exec (.peerWithdrawReceived f d) s = .next t ∧ t.cores = s.cores ∧ t.hub.jobs = s.hub.jobs ∧
      t.hub.gone = s.hub.gone ++ [(f, d.toNat)] ∧ t.hub.broken = s.hub.broken ++ [(f, d.toNat)])

/-- The plant (spec/00 R5 to R8), starts (spec/07 R247 to R249, spec/18 R464), the governor (spec/16 R457 to R460), and scale
links (spec/04 R143, R157, R158, spec/01 R41). Unwritten memory reads 0 by log entry 2; the berm caches are lost at a warm
start by log entry 28. -/
def Obligations.PlantAndLinks : Prop :=
  let out (t : State) : Prop := t.hub.jobs = [] ∧ t.hub.plant.accepting = false ∧ ∀ d, d < 16 → (t.die d).released = false
  let back (t : State) : Prop := t.hub.plant.accepting = true ∧ ∀ d, d < 16 → (t.die d).released = true
  let early (s t : State) : Prop := (∀ d, d < 16 → (t.die d).released = ((s.die d).released || (s.die d).served)) ∧
    (t.hub.plant.accepting = true ↔ ∃ d, d < 16 ∧ (t.die d).released = true)
  let clocks (t : State) (b : Bool) : Prop := ∀ j ∈ t.hub.jobs, j.stand.halfNext = b
  let fresh (t : State) : Prop := ∀ c, { t.cluster c with bstat := Cluster.reset.bstat } = Cluster.reset
  (∀ (s : State),
    let p := s.hub.plant
    (p.supplyBad = false → ∃ t, exec .supplyOutOfRange s = .next t ∧ out t ∧ t.hub.plant.supplyBad = true) ∧
    (p.supplyBad = true → ∃ t, exec .supplyRestored s = .next t ∧ t.hub.plant.supplyBad = false ∧
      (p.inletOver = false → p.verified = true → p.starting = false → back t) ∧
      (p.inletOver = false → p.verified = true → p.starting = true → early s t)) ∧
    (∃ t, exec .supplyShutdown s = .next t ∧ t.hub.plant.powerOff = true ∧ t.hub.jobs = [] ∧ t.cores = [] ∧
      (∀ k, t.byte k = 0) ∧ t.hub.history = s.hub.history ∧ t.hub.firmware = s.hub.firmware) ∧
    (p.inletHot = false → ∃ t, exec .inletOver40 s = .next t ∧ t.hub.plant.inletHot = true ∧ clocks t true ∧
      t.cores = s.cores ∧ t.hub.jobs.length = s.hub.jobs.length) ∧
    (p.inletOver = false → ∃ t, exec .inletOver45 s = .next t ∧ out t ∧ t.hub.plant.inletOver = true) ∧
    (p.inletHot = true ∨ p.inletOver = true → ∃ t, exec .inletRestored s = .next t ∧ t.hub.plant.inletHot = false ∧
      t.hub.plant.inletOver = false ∧ clocks t (p.ceiling || p.starting) ∧
      (p.inletOver = true → p.supplyBad = false → p.verified = true → p.starting = false → back t) ∧
      (p.inletOver = true → p.supplyBad = false → p.verified = true → p.starting = true → early s t)) ∧
    (p.ceiling = false → ∃ t, exec .powerCeilingEngage s = .next t ∧ t.hub.plant.ceiling = true ∧ clocks t true ∧
      t.cores = s.cores) ∧
    (p.ceiling = true → ∃ t, exec .powerCeilingRelease s = .next t ∧ t.hub.plant.ceiling = false ∧
      clocks t (p.inletHot || p.starting) ∧ t.cores = s.cores) ∧
    (∃ t, exec .coldStart s = .next t ∧ t.cores = [] ∧ fresh t ∧ t.hub.jobs = [] ∧ (∀ k, t.byte k = 0) ∧
      (∀ d, d < 16 → (t.die d).released = false) ∧ t.hub.plant.starting = true ∧ t.hub.plant.accepting = false ∧
      t.hub.plant.powerOff = false ∧ t.hub.plant.verified = p.signed ∧ t.hub.plant.report = !p.signed ∧
      (∀ u ∈ s.hub.history, u ∈ t.hub.history) ∧ (∀ u ∈ t.hub.units, u.retired = true ∧ (u.kind, u.number) ∈ t.hub.history) ∧
      t.hub.firmware = s.hub.firmware ∧ t.hub.fabric = none ∧ t.tick = 0) ∧
    (p.powerOff = false → s.hub.history.Nodup → ∃ t, exec .warmStart s = .next t ∧ (∀ k, t.byte k = s.byte k) ∧
      (∀ g, t.tag g = s.tag g) ∧ (∀ w, t.isFull w = true → s.isFull w = true) ∧
      (∀ w, (∀ u ∈ s.hub.history, unitHolds u.1 u.2 (4 * w) = false) → t.isFull w = s.isFull w) ∧ t.keyed = s.keyed ∧ t.tick = s.tick ∧
      t.cores = [] ∧ fresh t ∧ t.hub.jobs = [] ∧ t.hub.fabric = s.hub.fabric ∧ t.hub.plant.starting = true ∧
      t.hub.plant.accepting = false ∧ (∀ u ∈ s.hub.units, u.retired = true → u ∈ t.hub.units) ∧
      (∀ u ∈ t.hub.units, u.retired = true) ∧ (∀ u ∈ s.hub.history, u ∈ t.hub.history) ∧
      (∀ d, d < 16 → (t.die d).released = false ∧ (t.die d).lines = [])) ∧
    (∀ d : BitVec 4, p.starting = true → p.verified = true → p.supplyBad = false → p.inletOver = false →
      ∃ t, exec (.dieEarlyRelease d) s = .next t ∧ (t.die d.toNat).released = true ∧ t.hub.plant.accepting = true ∧
        t.cores = s.cores ∧ s.SameMemory t) ∧
    (∀ d : BitVec 4, p.verified = false → exec (.dieEarlyRelease d) s = .next s ∧ exec .startComplete s = .next s) ∧
    (p.starting = true → p.verified = true → ∃ t, exec .startComplete s = .next t ∧ t.hub.plant.starting = false ∧
      (p.supplyBad = false → p.inletOver = false → back t) ∧ clocks t (p.inletHot || p.ceiling) ∧
      (parseImage (bytesReader s.hub.firmware) 1 = none → t.cores = s.cores) ∧
      (∀ q u, parseImage (bytesReader s.hub.firmware) 1 = some q → (q.places.map (·.mask)).Nodup →
        (List.range q.places.length).foldlM (fun (w : State) n => w.loadHub q.image q.places n)
          (s.modPlant fun x => { x with starting := false }).reaccept.reclock = some u → t = u ∧ ∀ y ∈ q.places,
        let a := hubCore0 + y.mask
        (t.core a).act = .task ∧ (t.core a).pc = 0 ∧ (t.core a).level = 2 ∧
          ∀ g, g < 0x200 → t.tag (tcmBase a / 32 + g) = BitVec.ofNat 4 y.tag))) ∧
  (∀ (est : BitVec 32) (s : State),
    let rows := s.eligibleRows
    let total (n : Nat) : Nat := est.toNat + if n = 0 then 0 else Config.ballastPower n
    ∃ t n, exec (.governorWindow est) s = .next t ∧ n ≤ rows.length ∧ t.hub.ballast = rows.take n ∧
      (∀ m, m < n → total m < s.hub.nextFloor) ∧ (s.hub.nextFloor ≤ total n ∨ n = rows.length) ∧
      t.hub.floor = BitVec.ofNat 32 s.hub.nextFloor ∧ t.hub.estimate = BitVec.ofNat 32 (total n) ∧ t.cores = s.cores ∧
      s.SameMemory t) ∧
  (∀ (f : BitVec 6) (jid rise : BitVec 32) (j : Job) (s : State),
    s.hub.jobs.find? (fun k => k.fn == f && k.jobid == jid && k.pin) = some j →
    (j.pstep.toNat * 11 < rise.toNat * 10 → ∃ t k, exec (.rampCheck f jid rise) s = .next t ∧ t.cores = s.cores ∧
      k ∈ t.hub.jobs ∧ k.same j = true ∧ k.stand.ramped = true ∧ k.stand.halfClock = true) ∧
    (rise.toNat * 10 ≤ j.pstep.toNat * 11 → ∃ t, exec (.rampCheck f jid rise) s = .next t ∧ t.cores = s.cores ∧
      t.hub.jobs = s.hub.jobs ∧ t.hub.causeTail = s.hub.causeTail ∧ s.SameMemory t)) ∧
  (∀ (l : BitVec 20) (wd : BitVec 2) (s : State),
    ((wd = 1 ∨ wd = 2) → s.linkIdle l.toNat = true → s.failed 4 l.toNat = false → ∃ t, exec (.linkNarrow l wd) s = .next t ∧
      (∀ k, sget t.hub.narrow k = if k = l.toNat then some wd else sget s.hub.narrow k) ∧ t.cores = s.cores ∧
      s.SameMemory t) ∧
    (s.widthDue l.toNat = false → exec (.linkWidthRestore l) s = .next s) ∧
    (s.widthDue l.toNat = true → ∃ t, exec (.linkWidthRestore l) s = .next t ∧
      (∀ k, sget t.hub.narrow k = if k = l.toNat then none else sget s.hub.narrow k) ∧ t.cores = s.cores ∧
      s.SameMemory t)) ∧
  (∀ (p q : Posted) (s : State), s.hub.posted = [p, q] → p.done = false → p.joins q = true → p.op = AtOp.add.code →
    ∃ t, exec .scaleAtomicCombine s = .next t ∧ t.cores = s.cores ∧ s.SameMemory t ∧ t.hub.posted =
      [{ p with value := BitVec.ofNat 64 ((p.value.toNat + q.value.toNat) % 2 ^ (8 * p.size)) }, { q with done := true }]) ∧
  (∀ (p : Posted) (rest : List Posted) (s : State), s.hub.posted = p :: rest →
    ∃ t, exec .windowAtomicAck s = .next t ∧ t.cores = s.cores ∧ s.SameMemory t ∧
      t.hub.sent = s.hub.sent ++ [{ home := p.home, pa := p.pa, size := p.size, key := p.key, op := some p.op, value := p.value
                                    other := 0 }] ∧ (∀ q ∈ t.hub.posted, q ∈ rest) ∧
      ∀ q ∈ rest, q.done = false → q ∈ t.hub.posted) ∧
  (∀ (pa : BitVec 41) (op : BitVec 4) (sz : BitVec 2) (key : BitVec 6) (data : BitVec 128) (s : State),
    let n := 2 ^ sz.toNat
    ((hbmEnd < pa.toNat + n ∨ pa.toNat % n ≠ 0) → exec (.remoteAccessArrival pa op sz key data) s = .next s) ∧
    (pa.toNat + n ≤ hbmEnd → pa.toNat % n = 0 → s.bermFind pa.toNat = none →
      (op = 0 → ∃ t, exec (.remoteAccessArrival pa op sz key data) s = .next t ∧ t.cores = s.cores ∧ s.SameMemory t ∧
        t.hub.answer = BitVec.ofNat 64 (s.hbmRead pa.toNat key.toNat n)) ∧
      (op = 1 → ∃ t, exec (.remoteAccessArrival pa op sz key data) s = .next t ∧ t.cores = s.cores ∧
        t.hbmRead pa.toNat key.toNat n = data.toNat % 256 ^ n ∧
        ∀ k, k / 32 ≠ pa.toNat / 32 → t.byte k = s.byte k) ∧
      (∀ x : AtOp, op.toNat = x.code + 2 → ∃ t, exec (.remoteAccessArrival pa op sz key data) s = .next t ∧ t.cores = s.cores ∧
        let old := s.hbmRead pa.toNat key.toNat n
        t.hub.answer = BitVec.ofNat 64 old ∧ t.hbmRead pa.toNat key.toNat n = (atomicValue x (BitVec.ofNat (8 * n) old)
          ((data.extractLsb' 0 64).setWidth (8 * n)) ((data.extractLsb' 64 64).setWidth (8 * n))).toNat ∧
        ∀ k, k / 32 ≠ pa.toNat / 32 → t.byte k = s.byte k))) ∧
  (∀ (id : BitVec 12) (s : State), ∃ t, exec (.fabricIdAssign id) s = .next t ∧ t.cores = s.cores ∧ s.SameMemory t ∧
    t.hub.fabric = some (s.hub.fabric.getD id))

/-- The start of tasks and gangs (spec/06 R202 to R208), commits (spec/05 R173, R175), barriers and phases (spec/06 R210 to R215),
watchdogs (R213, R217), ramp slots (spec/16 R456). The model's choices: an exchange routine finds SSN bits [31:0] alone in s8 (log entry 32)
and starts at XPC with bits [1:0] cleared (33); a task that yielded in a handler starts at task level (129). -/
def Obligations.TasksAndSupersteps : Prop :=
  let holds' (o : Ordered) (s t : State) : Prop :=
    (o.lines.map CommitLine.granule).Nodup → ∀ k, 2 ^ 44 ≤ k → t.byte k = o.byte s k
  let trapped (s t : State) (a : Nat) (cause : Cause) (v : Nat) : Prop :=
    (s.core a).tvec ≠ 0 → (s.core a).trapc.getLsbD 30 = false → t.cur = s.cur ∧
      (t.core a).trappc = (s.core a).pc.setWidth 64 ∧ (t.core a).trapv = BitVec.ofNat 64 v ∧
      ((t.core a).trapc.extractLsb' 0 8).toNat = cause.code ∧ (t.core a).trapc.getLsbD 30 = true ∧
      (t.core a).pc = (s.core a).tvec.setWidth 32 &&& 0xFFFFFFFC#32
  (∀ (a : BitVec 22) (i : Nat) (s : State), s.taskReady a.toNat = some i →
    let c := s.core a.toNat
    let e := c.entry i
    (e.state = 2 → ∃ t, exec (.taskStart a) s = .next t ∧ s.SameMemory t ∧ (∀ b, b ≠ a.toNat → t.core b = s.core b) ∧
      let d := t.core a.toNat
      d.act = .task ∧ d.taskId = i ∧ d.pc = e.pc ∧ d.s 8 = BitVec.ofNat 64 e.arg ∧ (∀ k, 9 ≤ k → k < 32 → d.s k = 0) ∧
      (∀ k, k < 8 → d.s k = 0) ∧ d.latch = none ∧ (d.entry i).state = 3 ∧ (∀ j, j < 64 → j ≠ i → d.entry j = c.entry j) ∧
      (i ∉ c.again → vget d.mc e.mcid 0 = BitVec.ofNat 16 ((vget c.mc e.mcid 0).toNat - e.thresh)) ∧
      (isHub a.toNat = false → i ∉ c.setup → d.level = 0)) ∧
    (e.state = 4 → s.tcmChecks a.toNat (yieldReads c.spillBase) = .ok () → c.spillBase < 2 ^ 16 → ∃ t, exec (.taskStart a) s = .next t ∧ (∀ b, b ≠ a.toNat → t.core b = s.core b) ∧
      let d := t.core a.toNat
      let w (k n : Nat) : Nat := s.read (tcmBase a.toNat + (c.spillBase - 1280) + k) n
      d.act = .task ∧ (d.entry i).state = 3 ∧ (∀ k, 1 ≤ k → k < 8 → d.s k = BitVec.ofNat 64 (w (8 * (k - 1)) 8)) ∧
      (∀ k, 8 ≤ k → k < 32 →
        d.s k = BitVec.ofNat 64 (s.read (tcmBase a.toNat + (c.spillBase - 1472) + 8 * (k - 8)) 8)) ∧
      (∀ k, 1 ≤ k → k < 8 → d.pr k = (w 108 1).testBit k) ∧ (∀ k, k < 8 → d.qr k = BitVec.ofNat 64 (w (192 + 8 * k) 8)) ∧
      (∀ k, k < 16 → vget d.v k 0 = BitVec.ofNat 512 (w (256 + 64 * k) 64)) ∧ d.pc = BitVec.ofNat 32 (w 104 4) ∧
      d.repc = BitVec.ofNat 64 (w 64 8) ∧ d.trapc = BitVec.ofNat 64 (w 72 8) ∧ d.trappc = BitVec.ofNat 64 (w 80 8) ∧
      d.trapv = BitVec.ofNat 64 (w 88 8) ∧ d.tvec = BitVec.ofNat 64 (w 96 8) ∧ d.cwp = w 56 8 % 8 % 6 ∧ d.res = 1 ∧
      d.floor = w 56 8 / 2 ^ 16 % 2 ^ 16 ∧ d.latch = none ∧ (isHub a.toNat = false → i ∉ c.setup → d.level = 0))) ∧
  (∀ (a : BitVec 22) (i : Nat) (s : State), s.gangReady a.toNat = some i →
    let e := (s.core a.toNat).entry i
    let g := tileGroup a.toNat e.width
    (∀ b ∈ g, s.failed 2 b = false) → ∃ t, exec (.gangStart a) s = .next t ∧ s.SameMemory t ∧
      ((t.core a.toNat).entry i).state = 3 ∧ (∀ b, b ∉ g → t.core b = s.core b) ∧ ∀ b ∈ g,
        (t.core b).act = .task ∧ (t.core b).taskId = i ∧ (t.core b).pc = e.pc ∧ (t.core b).s 8 = BitVec.ofNat 64 e.arg ∧
        (t.core b).s 9 = BitVec.ofNat 64 (b - a.toNat) ∧ (t.core b).gang = if b = a.toNat then none else some (a.toNat, 0)) ∧
  (∀ (a : BitVec 22) (o : Ordered) (s u : State), (s.core a.toNat).sleep = .oldest → (s.core a.toNat).buffered = true →
    s.isOldest a.toNat = true → (s.core a.toNat).ordered = some o → ({ s with cur := a.toNat } : State).commit a.toNat = .ok u →
    ∃ t, exec (.writeThrough a) s = .next t ∧ t.cur = s.cur ∧ (t.core a.toNat).wt = true ∧
      (t.core a.toNat).sleep = .engine ∧ (t.core a.toNat).ordered = none ∧ (t.core a.toNat).pc = (s.core a.toNat).pc ∧
      holds' o s t) ∧
  (∀ (a : BitVec 22) (o : Ordered) (w : W32) (v : Option W32) (s u : State),
    let r : State := { s with cur := a.toNat }
    let c := s.core a.toNat
    r.fetchInstr = .ok (.tend, w, v) → Issues .tend r → c.sleep = .oldest → c.buffered = true → r.isOldest a.toNat = true →
    c.ordered = some o → c.depth = 0 → c.ex = false → c.isGang = false → c.due = none → (∀ k, k < 4 → (c.port k).items = []) →
    (r.closePorts a.toNat).commit a.toNat = .ok u →
    ∃ t, exec (.orderedCommit a) s = .next t ∧ t.cur = s.cur ∧ (t.core a.toNat).act = .idle ∧
      (t.core a.toNat).ordered = none ∧ holds' o s t) ∧
  (∀ (a : BitVec 22) (s : State), s.mayArrive a.toNat = true → ∃ t, exec (.coreArrive a) s = .next t ∧
    ((s.core a.toNat).l1 = [] → t.core a.toNat = { s.core a.toNat with act := .atWork, arrived := s.tick } ∧
      (∀ b, b ≠ a.toNat → t.core b = s.core b) ∧ s.SameMemory t ∧ t.hub = s.hub) ∧
    (s.Sound → isLanding a.toNat = true → (t.core a.toNat).act = .atWork ∧ ∀ l ∈ (t.core a.toNat).l1, l.dirty = 0)) ∧
  (∀ (a : BitVec 22) (j : Job) (s : State), s.jobOf a.toNat = some j → s.runs a.toNat = true →
    let g := s.groupOf j a.toNat
    let ends : Prop := (∃ b ∈ g, (s.core b).act = .atWork ∧ (s.maskOf b).getLsbD 0 = true) ∧ s.allFree j = true
    s.releasable j g = true →
    (ends → ∃ t, exec (.barrierGroupRelease a) s = .next t ∧ ∀ k ∈ t.hub.jobs, k.same j = false) ∧
    (¬ends → s.Sound → (∀ b ∈ g, (s.core b).act = .atWork) → ∃ t, exec (.barrierGroupRelease a) s = .next t ∧ ∀ b ∈ g,
      (t.core b).xt = 0 ∧ (t.core b).member = (s.core b).syncm.extractLsb' 0 16 ∧
      ((s.core b).xpc.extractLsb' 0 32 = 0 → (t.core b).act = .atExchange) ∧
      ((s.core b).xpc.extractLsb' 0 32 ≠ 0 → (t.core b).act = .exchange ∧ (t.core b).ex = true ∧
        (t.core b).pc = (s.core b).xpc.setWidth 32 &&& 0xFFFFFFFC#32 ∧
        (t.core b).s 8 = ((s.core b).ssn.extractLsb' 0 32).setWidth 64 ∧ (t.core b).tstamp = 0)) ∧
    ((∀ b ∈ g, (s.core b).atExchangeEnd = true) → g.Nodup → s.vfState j.fn.toNat ≠ 4 → s.hub.broken = [] → s.Sound →
      (∀ b ∈ g, ∀ k, k < 4 → ((s.core b).port k).items = []) →
      ∃ t, exec (.barrierGroupRelease a) s = .next t ∧ ∀ b ∈ g,
        (t.core b).ssn.extractLsb' 0 32 = (s.core b).ssn.extractLsb' 0 32 + 1 ∧ (t.core b).act = .idle ∧
        (t.core b).ex = false ∧ (t.core b).trapc.getLsbD 30 = false ∧ (t.core b).latch = none ∧ (t.core b).repc = 0 ∧
        ((s.core b).syncv = none → (t.core b).vote = 0) ∧
        ∀ v, (s.core b).syncv = some v → v.2.2 ≠ 0 →
          ((∀ x ∈ g, ∀ y, (s.core x).syncv = some y → y.1 = true) →
            ((t.core b).pr v.2.2.toNat = true ↔ ∃ x ∈ g, ∃ y, (s.core x).syncv = some y ∧ y.2.1 = true)) ∧
          ((∀ x ∈ g, ∀ y, (s.core x).syncv = some y → y.1 = false) →
            ((t.core b).pr v.2.2.toNat = true ↔ ∀ x ∈ g, ∀ y, (s.core x).syncv = some y → y.2.1 = true)))) ∧
  (∀ (j : Job) (d : BitVec 4) (b : Nat) (s : State), s.hub.jobs = [j] → s.roundsDone j.fn d.toNat < s.roundsDue j d.toNat →
    j.agents.find? (fun x => bit (s.maskOf x) d.toNat) = some b → s.gathered j (s.groupOf j b) = true →
    ∃ t, exec (.disseminationRound j.fn d) s = .next t ∧ t.cores = s.cores ∧ s.SameMemory t ∧
      t.roundsDone j.fn d.toNat = s.roundsDone j.fn d.toNat + 1) ∧
  (∀ (c : BitVec 15) (s : State), ∃ t, exec (.rampSlotBegin c) s = .next t ∧ s.SameMemory t ∧ t.hub = s.hub ∧ ∀ k, k < 32 →
    let b := agentIn c.toNat k
    let begins : Prop := (s.core b).gated = true ∧ s.runs b = true ∧
      (s.core b).since.toNat + (s.cluster c.toNat).slot * 1152 ≤ s.tick.toNat
    (begins → (t.core b).gated = false ∧ (t.core b).act = (s.core b).act ∧ (t.core b).pc = (s.core b).pc) ∧
    (¬begins → t.core b = s.core b)) ∧
  (∀ (a : BitVec 22) (s : State), (s.core a.toNat).act = .exchange → (s.core a.toNat).sleep ≠ .barrier →
    ((s.core a.toNat).xt.extractLsb' 0 16).toNat < 0xFFFF → ∃ t, exec (.exchangeWatchdog a) s = .next t ∧
      trapped s t a.toNat .watchdog 1 ∧ ((s.core a.toNat).tvec ≠ 0 → (s.core a.toNat).trapc.getLsbD 30 = false →
        (t.core a.toNat).xt = 0xFFFF)) ∧
  (∀ (j : Job) (d : BitVec 4) (b v : Nat) (s : State), s.hub.jobs = [j] → s.stuckMembers j d.toNat = some [b] →
    (∃ k, sget j.stuck d.toNat = some k ∧ 4096 ≤ (s.tick - k).toNat) → s.blocked b = some v → ∃ t, exec (.noProgress j.fn d) s = .next t ∧ trapped s t b .noProgress v)

/-- Ownership of counter banks and trace units (spec/16 R440, R441), CSTAT (R442), selects (R443, R445), trace buffers (R436,
R439). -/
def Obligations.CounterBanksAndTraceBuffers : Prop :=
  let zeroed (s t : State) (u n : Nat) : Prop := t.own u n ≠ s.own u n →
    (u ≤ 1 → (∀ i : Nat, (t.bankAt u n).ctr[i]?.getD 0 = 0) ∧ ∀ i : Nat, (t.bankAt u n).sel[i]?.getD 0 = 0) ∧
    (u = 2 → (t.unit n).2.1 = 0)
  let quiet (s t : State) : Prop := t.cores = s.cores ∧ s.SameMemory t
  (∀ (f : BitVec 6) (u : BitVec 2) (n : BitVec 16) (s : State), n.toNat < unitCount u.toNat →
    let old := s.own u.toNat n.toNat
    let mine : Prop := (old.extractLsb' 62 2 = 1 ∧ f ≠ 0 ∧ old.extractLsb' 0 6 = f) ∨ (old.extractLsb' 62 2 = 2 ∧ f = 0)
    let may : Prop := (old.extractLsb' 62 2 = 0 ∨ mine) ∧ s.mayClaim f.toNat u.toNat n.toNat = true
    (f ≠ 0 → may → ∃ t, exec (.ownGuestClaim f u n) s = .next t ∧ quiet s t ∧
      t.own u.toNat n.toNat = BitVec.ofNat 64 (2 ^ 62 + f.toNat) ∧ zeroed s t u.toNat n.toNat) ∧
    (f ≠ 0 → ¬may → exec (.ownGuestClaim f u n) s = .next s) ∧
    (∃ t, exec (.ownHostClaim u n) s = .next t ∧ quiet s t ∧ t.own u.toNat n.toNat = BitVec.ofNat 64 (2 ^ 63) ∧
      zeroed s t u.toNat n.toNat ∧ (old.extractLsb' 62 2 = 1 →
        let g := (old.extractLsb' 0 6).toNat
        (u = 0 → (t.func g).lostd.getLsbD n.toNat = true ∧
          ∀ b, b ≠ n.toNat → (t.func g).lostd.getLsbD b = (s.func g).lostd.getLsbD b) ∧
        (u ≠ 0 → (t.func g).lostc.toNat = min ((s.func g).lostc.toNat + 1) (2 ^ 63 - 1)))) ∧
    ((f = 0 ∨ mine) → ∃ t, exec (.ownRelease f u n) s = .next t ∧ quiet s t ∧ t.own u.toNat n.toNat = 0 ∧
      zeroed s t u.toNat n.toNat) ∧
    (f ≠ 0 → ¬mine → exec (.ownRelease f u n) s = .next s)) ∧
  (∀ (f : BitVec 6) (hi : BitVec 1) (val : BitVec 64) (s : State), ∃ t, exec (.cstatClear f hi val) s = .next t ∧ quiet s t ∧
    (hi = 0 → (t.func f.toNat).lostd = (s.func f.toNat).lostd &&& ~~~val ∧
      (t.func f.toNat).lostc = (s.func f.toNat).lostc) ∧
    (hi = 1 → (t.func f.toNat).lostd = (s.func f.toNat).lostd ∧
      (t.func f.toNat).lostc = if val = 0 then 0 else (s.func f.toNat).lostc)) ∧
  (∀ (f : BitVec 6) (u : BitVec 2) (n : BitVec 16) (i : BitVec 4) (val : BitVec 64) (s : State), u.toNat ≤ 1 →
    n.toNat < unitCount u.toNat →
    let b := s.bankAt u.toNat n.toNat
    (holds b.own f.toNat = false → exec (.counterSelectWrite f u n i val) s = .next s) ∧
    (holds b.own f.toNat = true → i.toNat < b.sel.length → i.toNat < b.ctr.length →
      ∃ t, exec (.counterSelectWrite f u n i val) s = .next t ∧ quiet s t ∧
        (t.bankAt u.toNat n.toNat).sel[i.toNat]? = some val ∧ (t.bankAt u.toNat n.toNat).own = b.own ∧
        (t.bankAt u.toNat n.toNat).ctr[i.toNat]? =
          some (if bankEvent u.toNat val.toNat then 0 else 0x8000000000000000) ∧
        ∀ k, k ≠ i.toNat → (t.bankAt u.toNat n.toNat).ctr[k]? = b.ctr[k]? ∧
          (t.bankAt u.toNat n.toNat).sel[k]? = b.sel[k]?)) ∧
  (∀ (r : TraceRec) (s : State), s.traceNext = some r → ∃ t, exec .traceRecordWrite s = .next t ∧ t.cores = s.cores ∧
    t.hub.traces = s.hub.traces.erase r ∧
    (s.tracePlace r = none → s.SameMemory t ∧ t.unitLost r = true ∧
      (t.func r.fn.toNat).tbtail = (s.func r.fn.toNat).tbtail) ∧
    ∀ l large entry va p, s.tracePlace r = some (l, large, entry, va, p) →
      let x := setBit r.bytes 159 (s.unitLost r)
      let pa := leafPa l large va
      let via := s.viaOf p (leafKey l) (leafCa l ≠ 0)
      t.unitLost r = false ∧ (t.func r.fn.toNat).tbtail = (s.func r.fn.toNat).tbtail + 1 ∧
      (s.remote l = true → (s.hubRead entry 8).testBit 63 = true → s.SameMemory t ∧ t.hub.sent = s.hub.sent ++
        (List.range 4).map fun i => { home := BitVec.ofNat 12 (leafHome l), pa := pa + 8 * i, size := 8
                                      key := BitVec.ofNat 6 (leafKey l), op := none, value := x.extractLsb' (64 * i) 64, other := 0 }) ∧
      (s.remote l = false → let u := (s.setAccessed entry).physWrite pa 32 x.toNat (2 ^ 32 - 1) via
        (∀ k, t.byte k = u.byte k) ∧ ∀ d, (t.die d).lines = (u.die d).lines) ∧
      (s.remote l = false → (s.hubRead entry 8).testBit 63 = true →
        (hbmEnd ≤ pa → t.read pa 32 = x.toNat ∧ s.OnlyBytes t pa 32) ∧
        (pa < hbmEnd → leafCa l = 0 → s.bermFind pa = none → t.hbmRead pa (leafKey l) 32 = x.toNat ∧
          ∀ k, k / 32 ≠ pa / 32 → t.byte k = s.byte k)))

/-- Debugger commands (spec/16 R450 to R453), snapshots (R451), DSTAT and the state window (R453, R449). That STOP is refused on a
halted stand is the model's choice (log entry 42), as is where in the save area an image lies and that its bytes are free values (98). -/
def Obligations.Debugger : Prop :=
  let same (s t : State) : Prop := t.cores = s.cores ∧ t.hub.jobs = s.hub.jobs ∧ s.SameMemory t
  let erred (s t : State) : Prop := same s t ∧ t.hub.derr = true
  let all (t : State) (j : Job) (p : Stand → Prop) : Prop := ∀ k ∈ t.hub.jobs, k.same j = true → p k.stand
  (∀ (s : State) (ssn : BitVec 32), s.debugged = none →
    (∃ t, exec .debugStop s = .next t ∧ erred s t) ∧ (∃ t, exec .debugResume s = .next t ∧ erred s t) ∧
    (∃ t, exec .snapOn s = .next t ∧ erred s t) ∧ (∃ t, exec .snapOff s = .next t ∧ erred s t) ∧
    (∃ t, exec (.debugReplay ssn) s = .next t ∧ erred s t) ∧ (∃ t, exec .haltAll s = .next t ∧ erred s t)) ∧
  (∀ (s : State) (j : Job), s.debugged = some j →
    (j.stand.halted = none → ∃ t, exec .debugStop s = .next t ∧ t.cores = s.cores ∧ s.SameMemory t ∧
      all t j fun x => x.stopReq = true) ∧
    (j.stand.halted ≠ none → ∃ t, exec .debugStop s = .next t ∧ erred s t) ∧
    ((j.stand.stopReq = true ∨ j.stand.halted ≠ none ∨ j.stand.haltAll = true) → (∀ r ∈ s.hub.faults, r.later = none) → ∃ t, exec .debugResume s = .next t ∧
      s.SameMemory t ∧ (all t j fun x => x.stopReq = false ∧ x.halted = none ∧ x.haltAll = false) ∧
      (s.holdsStands j.fn.toNat = false → s.jobNow j = j → j.stand.held = true → all t j fun x => x.held = false) ∧
      ∀ a, j.stand.halted = some a → (s.core a).act = .halted → (t.core a).passHit = true ∧
        (t.core a).act = (if (s.core a).ex then .exchange else .task) ∧ (t.core a).pc = (s.core a).pc) ∧
    (j.stand.stopReq = false → j.stand.halted = none → j.stand.haltAll = false →
      ∃ t, exec .debugResume s = .next t ∧ erred s t) ∧
    (∃ t, exec .snapOn s = .next t ∧ t.cores = s.cores ∧ s.SameMemory t ∧ all t j fun x => x.snapMode = true) ∧
    (∃ t, exec .snapOff s = .next t ∧ t.cores = s.cores ∧ s.SameMemory t ∧ all t j fun x => x.snapMode = false) ∧
    (∃ t, exec .haltAll s = .next t ∧ t.cores = s.cores ∧ s.SameMemory t ∧ all t j fun x => x.haltAll = true) ∧
    (∀ ssn : BitVec 32,
      let found := s.hub.snaps.find? fun x => x.ofJob j && x.ssn.toNat == ssn.toNat
      ((found = none ∨ j.stand.held = false ∨ j.stand.stopReq = false) →
        ∃ t, exec (.debugReplay ssn) s = .next t ∧ erred s t) ∧
      (∀ x, found = some x → j.stand.held = true → j.stand.stopReq = true → (x.image.cores.map (·.1)).Nodup →
        ∃ t, exec (.debugReplay ssn) s = .next t ∧
          (all t j fun y => y.replaying = true ∧ y.diverged = false ∧ y.stopReq = false ∧ y.held = false) ∧
          ∀ e ∈ x.image.cores, (t.core e.1).pc = e.2.pc ∧ (t.core e.1).act = e.2.act ∧ (t.core e.1).ssn = e.2.ssn ∧
            (t.core e.1).v = e.2.v ∧ (t.core e.1).tasks = e.2.tasks ∧ ∀ k, (t.core e.1).s k = e.2.s k)) ∧
    (j.stand.halted.getD 0 < 2 ^ 22 →
      (s.dstat.extractLsb' 0 32).toNat = s.jobSsn j ∧ s.dstat.getLsbD 58 = s.hub.derr ∧
      s.dstat.getLsbD 59 = j.stand.diverged ∧ s.dstat.getLsbD 60 = j.stand.halted.isSome ∧
      s.dstat.getLsbD 61 = j.stand.replaying ∧ s.dstat.getLsbD 62 = j.stand.snapMode ∧
      s.dstat.getLsbD 63 = (j.stand.held && j.stand.stopReq) ∧
      (s.dstat.extractLsb' 32 22).toNat = j.stand.halted.getD 0)) ∧
  (∀ s : State, ∃ t, exec .dstatRead s = .next t ∧ same s t ∧ t.hub.answer = s.dstat ∧ t.hub.derr = false) ∧
  (∀ (f : BitVec 6) (jid : BitVec 32) (j : Job) (s : State),
    s.hub.jobs.find? (fun k => k.fn == f && k.jobid == jid && k.stand.snapMode && k.stand.held) = some j →
    let x := s.snapOf j
    ∃ t off, exec (.snapshot f jid) s = .next t ∧ t.cores = s.cores ∧ t.hub.jobs = s.hub.jobs ∧
      (off = s.areaEnd f.toNat ∨ ∃ y ∈ s.hub.snaps, y.ofJob j = true ∧ off = y.image.off) ∧
      t.hub.snaps.getLast? = some { x with image := { x.image with off := off } } ∧
      (t.hub.snaps.filter fun y => y.ofJob j).length ≤ 2 ∧
      (∀ y ∈ t.hub.snaps, y ∈ s.hub.snaps ∨ y = { x with image := { x.image with off := off } }) ∧
      ∀ k, t.byte k =
        let p := s.saveBase f.toNat + off
        if p ≤ k ∧ k < p + min (s.imageBytes j) (s.saveFrames f.toNat * 0x10000 - off) then Config.imageByte (s.free + (k - p))
        else s.byte k) ∧
  (∀ (off : BitVec 16) (val : BitVec 64) (s : State),
    let a := (s.hub.dsel.extractLsb' 0 22).toNat
    let o := off.toNat
    (s.shows a = false → exec (.stateWindowWrite off val) s = .next s) ∧
    (s.shows a = true → o % 8 = 0 →
      (o < 0x100 → ∃ t, exec (.stateWindowWrite off val) s = .next t ∧ (∀ b, b ≠ a → t.core b = s.core b) ∧ s.SameMemory t ∧
        ∀ k, k < 32 → (t.core a).s k = if k = o / 8 ∧ k ≠ 0 then val else (s.core a).s k) ∧
      (o = 0x100 → ∃ t, exec (.stateWindowWrite off val) s = .next t ∧ (∀ b, b ≠ a → t.core b = s.core b) ∧
        s.SameMemory t ∧ ∀ k, 1 ≤ k → k < 8 → (t.core a).pr k = val.getLsbD k) ∧
      (∀ n, n < 8 → o = 0x140 + 8 * n → ∃ t, exec (.stateWindowWrite off val) s = .next t ∧
        (∀ b, b ≠ a → t.core b = s.core b) ∧ s.SameMemory t ∧ ∀ m, (t.core a).qr m = if m = n then val else (s.core a).qr m) ∧
      (∀ n, n < 256 → o = 0x800 + 8 * n →
        (∀ u, specKnown n = true → specPresent a n = true → specWritable 2 n = true → s.writeSpec a n val = .ok u →
          exec (.stateWindowWrite off val) s = .next u) ∧
        ((specKnown n = false ∨ specPresent a n = false ∨ specWritable 2 n = false) →
          ∃ t, exec (.stateWindowWrite off val) s = .next t ∧ erred s t)) ∧
      (∀ n m, n < 16 → m < 8 → o = 0x1000 + 64 * n + 8 * m → ∃ t, exec (.stateWindowWrite off val) s = .next t ∧
        (∀ b, b ≠ a → t.core b = s.core b) ∧ s.SameMemory t ∧ ∀ i j, i < 16 → j < 8 →
          (vget (t.core a).v i 0).extractLsb' (64 * j) 64 =
            if i = n ∧ j = m then val else (vget (s.core a).v i 0).extractLsb' (64 * j) 64) ∧
      (0x8000 ≤ o → o < 0xC000 → ∃ t, exec (.stateWindowWrite off val) s = .next t ∧ t.cores = s.cores ∧
        t.read (tcmBase a + (o - 0x8000)) 8 = val.toNat ∧ s.OnlyBytes t (tcmBase a + (o - 0x8000)) 8)))

/-- The canonical form of memory (the model's own, over the memories of spec/01 R40, spec/02 R53 and R60, spec/04 R128 and R150)
is kept by every instruction, every hardware event and every step. -/
def Obligations.MemoryStaysCanonical : Prop :=
  (∀ (i : Instr) (s t : State), Memory.wf s.mem = true → exec i s = .next t → Memory.wf t.mem = true) ∧
  ∀ (s t : State), Memory.wf s.mem = true → step s = .next t → Memory.wf t.mem = true
end

