-- ==== Sys2Proof/Laws/Exec.lean ====
section
/-! SUPPORT. Every instruction with words but a prefix has the shared shape of Machine/Ops.lean: its checks, its guard, then its
effect. -/

namespace Sys2Proof.Machine

/-! ## The arms -/

theorem exec_pfx (f : BitVec 1) (e : BitVec 2) (n : BitVec 1) (g : BitVec 3) (s : BitVec 2) (r : BitVec 3) (st : State) : exec (.pfx f e n g s r) st = execPfx f e n g s r st := rfl
theorem exec_add (w : BitVec 1) (rs2 : BitVec 5) (rs1 : BitVec 5) (rd : BitVec 5) (p : BitVec 1) (st : State) : exec (.add w rs2 rs1 rd p) st = execAdd w rs2 rs1 rd p st := rfl
theorem exec_sub (w : BitVec 1) (rs2 : BitVec 5) (rs1 : BitVec 5) (rd : BitVec 5) (p : BitVec 1) (st : State) : exec (.sub w rs2 rs1 rd p) st = execSub w rs2 rs1 rd p st := rfl
theorem exec_and (w : BitVec 1) (rs2 : BitVec 5) (rs1 : BitVec 5) (rd : BitVec 5) (p : BitVec 1) (st : State) : exec (.and w rs2 rs1 rd p) st = execAnd w rs2 rs1 rd p st := rfl
theorem exec_or (w : BitVec 1) (rs2 : BitVec 5) (rs1 : BitVec 5) (rd : BitVec 5) (p : BitVec 1) (st : State) : exec (.or w rs2 rs1 rd p) st = execOr w rs2 rs1 rd p st := rfl
theorem exec_xor (w : BitVec 1) (rs2 : BitVec 5) (rs1 : BitVec 5) (rd : BitVec 5) (p : BitVec 1) (st : State) : exec (.xor w rs2 rs1 rd p) st = execXor w rs2 rs1 rd p st := rfl
theorem exec_shl (w : BitVec 1) (rs2 : BitVec 5) (rs1 : BitVec 5) (rd : BitVec 5) (p : BitVec 1) (st : State) : exec (.shl w rs2 rs1 rd p) st = execShl w rs2 rs1 rd p st := rfl
theorem exec_shr (w : BitVec 1) (rs2 : BitVec 5) (rs1 : BitVec 5) (rd : BitVec 5) (p : BitVec 1) (st : State) : exec (.shr w rs2 rs1 rd p) st = execShr w rs2 rs1 rd p st := rfl
theorem exec_sha (w : BitVec 1) (rs2 : BitVec 5) (rs1 : BitVec 5) (rd : BitVec 5) (p : BitVec 1) (st : State) : exec (.sha w rs2 rs1 rd p) st = execSha w rs2 rs1 rd p st := rfl
theorem exec_min (w : BitVec 1) (rs2 : BitVec 5) (rs1 : BitVec 5) (rd : BitVec 5) (p : BitVec 1) (st : State) : exec (.min w rs2 rs1 rd p) st = execMin w rs2 rs1 rd p st := rfl
theorem exec_max (w : BitVec 1) (rs2 : BitVec 5) (rs1 : BitVec 5) (rd : BitVec 5) (p : BitVec 1) (st : State) : exec (.max w rs2 rs1 rd p) st = execMax w rs2 rs1 rd p st := rfl
theorem exec_minn (w : BitVec 1) (rs2 : BitVec 5) (rs1 : BitVec 5) (rd : BitVec 5) (p : BitVec 1) (st : State) : exec (.minn w rs2 rs1 rd p) st = execMinn w rs2 rs1 rd p st := rfl
theorem exec_maxn (w : BitVec 1) (rs2 : BitVec 5) (rs1 : BitVec 5) (rd : BitVec 5) (p : BitVec 1) (st : State) : exec (.maxn w rs2 rs1 rd p) st = execMaxn w rs2 rs1 rd p st := rfl
theorem exec_mul (w : BitVec 1) (rs2 : BitVec 5) (rs1 : BitVec 5) (rd : BitVec 5) (p : BitVec 1) (st : State) : exec (.mul w rs2 rs1 rd p) st = execMul w rs2 rs1 rd p st := rfl
theorem exec_mulh (w : BitVec 1) (rs2 : BitVec 5) (rs1 : BitVec 5) (rd : BitVec 5) (p : BitVec 1) (st : State) : exec (.mulh w rs2 rs1 rd p) st = execMulh w rs2 rs1 rd p st := rfl
theorem exec_mulhn (w : BitVec 1) (rs2 : BitVec 5) (rs1 : BitVec 5) (rd : BitVec 5) (p : BitVec 1) (st : State) : exec (.mulhn w rs2 rs1 rd p) st = execMulhn w rs2 rs1 rd p st := rfl
theorem exec_div (w : BitVec 1) (rs2 : BitVec 5) (rs1 : BitVec 5) (rd : BitVec 5) (p : BitVec 1) (st : State) : exec (.div w rs2 rs1 rd p) st = execDiv w rs2 rs1 rd p st := rfl
theorem exec_divn (w : BitVec 1) (rs2 : BitVec 5) (rs1 : BitVec 5) (rd : BitVec 5) (p : BitVec 1) (st : State) : exec (.divn w rs2 rs1 rd p) st = execDivn w rs2 rs1 rd p st := rfl
theorem exec_rem (w : BitVec 1) (rs2 : BitVec 5) (rs1 : BitVec 5) (rd : BitVec 5) (p : BitVec 1) (st : State) : exec (.rem w rs2 rs1 rd p) st = execRem w rs2 rs1 rd p st := rfl
theorem exec_remn (w : BitVec 1) (rs2 : BitVec 5) (rs1 : BitVec 5) (rd : BitVec 5) (p : BitVec 1) (st : State) : exec (.remn w rs2 rs1 rd p) st = execRemn w rs2 rs1 rd p st := rfl
theorem exec_clz (w : BitVec 1) (rs1 : BitVec 5) (rd : BitVec 5) (p : BitVec 1) (st : State) : exec (.clz w rs1 rd p) st = execClz w rs1 rd p st := rfl
theorem exec_ctz (w : BitVec 1) (rs1 : BitVec 5) (rd : BitVec 5) (p : BitVec 1) (st : State) : exec (.ctz w rs1 rd p) st = execCtz w rs1 rd p st := rfl
theorem exec_popc (w : BitVec 1) (rs1 : BitVec 5) (rd : BitVec 5) (p : BitVec 1) (st : State) : exec (.popc w rs1 rd p) st = execPopc w rs1 rd p st := rfl
theorem exec_andn (w : BitVec 1) (rs2 : BitVec 5) (rs1 : BitVec 5) (rd : BitVec 5) (p : BitVec 1) (st : State) : exec (.andn w rs2 rs1 rd p) st = execAndn w rs2 rs1 rd p st := rfl
theorem exec_orn (w : BitVec 1) (rs2 : BitVec 5) (rs1 : BitVec 5) (rd : BitVec 5) (p : BitVec 1) (st : State) : exec (.orn w rs2 rs1 rd p) st = execOrn w rs2 rs1 rd p st := rfl
theorem exec_addi (imm : BitVec 12) (rs1 : BitVec 5) (rd : BitVec 5) (p : BitVec 1) (st : State) : exec (.addi imm rs1 rd p) st = execAddi imm rs1 rd p st := rfl
theorem exec_andi (imm : BitVec 12) (rs1 : BitVec 5) (rd : BitVec 5) (p : BitVec 1) (st : State) : exec (.andi imm rs1 rd p) st = execAndi imm rs1 rd p st := rfl
theorem exec_ori (imm : BitVec 12) (rs1 : BitVec 5) (rd : BitVec 5) (p : BitVec 1) (st : State) : exec (.ori imm rs1 rd p) st = execOri imm rs1 rd p st := rfl
theorem exec_xori (imm : BitVec 12) (rs1 : BitVec 5) (rd : BitVec 5) (p : BitVec 1) (st : State) : exec (.xori imm rs1 rd p) st = execXori imm rs1 rd p st := rfl
theorem exec_shli (w : BitVec 1) (h : BitVec 6) (rs1 : BitVec 5) (rd : BitVec 5) (p : BitVec 1) (st : State) : exec (.shli w h rs1 rd p) st = execShli w h rs1 rd p st := rfl
theorem exec_shri (w : BitVec 1) (h : BitVec 6) (rs1 : BitVec 5) (rd : BitVec 5) (p : BitVec 1) (st : State) : exec (.shri w h rs1 rd p) st = execShri w h rs1 rd p st := rfl
theorem exec_shai (w : BitVec 1) (h : BitVec 6) (rs1 : BitVec 5) (rd : BitVec 5) (p : BitVec 1) (st : State) : exec (.shai w h rs1 rd p) st = execShai w h rs1 rd p st := rfl
theorem exec_lea (imm : BitVec 10) (c : BitVec 2) (rs1 : BitVec 5) (rd : BitVec 5) (p : BitVec 1) (st : State) : exec (.lea imm c rs1 rd p) st = execLea imm c rs1 rd p st := rfl
theorem exec_ldi (x : BitVec 1) (imm : BitVec 32) (rd : BitVec 5) (p : BitVec 1) (st : State) : exec (.ldi x imm rd p) st = execLdi x imm rd p st := rfl
theorem exec_ldih (imm : BitVec 32) (rd : BitVec 5) (p : BitVec 1) (st : State) : exec (.ldih imm rd p) st = execLdih imm rd p st := rfl
theorem exec_bnd (rs2 : BitVec 5) (rs1 : BitVec 5) (rd : BitVec 5) (p : BitVec 1) (st : State) : exec (.bnd rs2 rs1 rd p) st = execBnd rs2 rs1 rd p st := rfl
theorem exec_bndi (imm : BitVec 12) (rs1 : BitVec 5) (rd : BitVec 5) (p : BitVec 1) (st : State) : exec (.bndi imm rs1 rd p) st = execBndi imm rs1 rd p st := rfl
theorem exec_muli (imm : BitVec 12) (rs1 : BitVec 5) (rd : BitVec 5) (p : BitVec 1) (st : State) : exec (.muli imm rs1 rd p) st = execMuli imm rs1 rd p st := rfl
theorem exec_addiW (imm : BitVec 12) (rs1 : BitVec 5) (rd : BitVec 5) (p : BitVec 1) (st : State) : exec (.addiW imm rs1 rd p) st = execAddiW imm rs1 rd p st := rfl
theorem exec_bdset (lr : BitVec 1) (esz : BitVec 3) (rs2 : BitVec 5) (rs1 : BitVec 5) (clr : BitVec 1) (n : BitVec 3) (leni : BitVec 24) (p : BitVec 1) (st : State) : exec (.bdset lr esz rs2 rs1 clr n leni p) st = execBdset lr esz rs2 rs1 clr n leni p st := rfl
theorem exec_cmp (w : BitVec 1) (c : BitVec 3) (rs2 : BitVec 5) (rs1 : BitVec 5) (rd : BitVec 3) (p : BitVec 1) (st : State) : exec (.cmp w c rs2 rs1 rd p) st = execCmp w c rs2 rs1 rd p st := rfl
theorem exec_cmpi (imm : BitVec 9) (c : BitVec 3) (rs1 : BitVec 5) (rd : BitVec 3) (p : BitVec 1) (st : State) : exec (.cmpi imm c rs1 rd p) st = execCmpi imm c rs1 rd p st := rfl
theorem exec_plog (l : BitVec 4) (rs2 : BitVec 3) (rs1 : BitVec 3) (rd : BitVec 3) (p : BitVec 1) (st : State) : exec (.plog l rs2 rs1 rd p) st = execPlog l rs2 rs1 rd p st := rfl
theorem exec_sel (n : BitVec 1) (c : BitVec 3) (rs2 : BitVec 5) (rs1 : BitVec 5) (rd : BitVec 5) (p : BitVec 1) (st : State) : exec (.sel n c rs2 rs1 rd p) st = execSel n c rs2 rs1 rd p st := rfl
theorem exec_pmovToScalar (rd : BitVec 5) (p : BitVec 1) (st : State) : exec (.pmovToScalar rd p) st = execPmovToScalar rd p st := rfl
theorem exec_pmovFromScalar (rs1 : BitVec 5) (p : BitVec 1) (st : State) : exec (.pmovFromScalar rs1 p) st = execPmovFromScalar rs1 p st := rfl
theorem exec_br (imm : BitVec 18) (n : BitVec 1) (c : BitVec 3) (st : State) : exec (.br imm n c) st = execBr imm n c st := rfl
theorem exec_j (imm : BitVec 22) (st : State) : exec (.j imm) st = execJ imm st := rfl
theorem exec_jr (rs1 : BitVec 5) (p : BitVec 1) (st : State) : exec (.jr rs1 p) st = execJr rs1 p st := rfl
theorem exec_call (imm : BitVec 22) (st : State) : exec (.call imm) st = execCall imm st := rfl
theorem exec_callr (rs1 : BitVec 5) (p : BitVec 1) (st : State) : exec (.callr rs1 p) st = execCallr rs1 p st := rfl
theorem exec_ret (p : BitVec 1) (st : State) : exec (.ret p) st = execRet p st := rfl
theorem exec_loop (imm : BitVec 18) (c : BitVec 3) (st : State) : exec (.loop imm c) st = execLoop imm c st := rfl
theorem exec_repf (n : BitVec 12) (rs1 : BitVec 2) (v : BitVec 4) (l : BitVec 4) (st : State) : exec (.repf n rs1 v l) st = execRepf n rs1 v l st := rfl
theorem exec_ldb (imm : BitVec 12) (rs1 : BitVec 5) (rd : BitVec 5) (p : BitVec 1) (st : State) : exec (.ldb imm rs1 rd p) st = execLdb imm rs1 rd p st := rfl
theorem exec_ldbn (imm : BitVec 12) (rs1 : BitVec 5) (rd : BitVec 5) (p : BitVec 1) (st : State) : exec (.ldbn imm rs1 rd p) st = execLdbn imm rs1 rd p st := rfl
theorem exec_ldh (imm : BitVec 12) (rs1 : BitVec 5) (rd : BitVec 5) (p : BitVec 1) (st : State) : exec (.ldh imm rs1 rd p) st = execLdh imm rs1 rd p st := rfl
theorem exec_ldhn (imm : BitVec 12) (rs1 : BitVec 5) (rd : BitVec 5) (p : BitVec 1) (st : State) : exec (.ldhn imm rs1 rd p) st = execLdhn imm rs1 rd p st := rfl
theorem exec_ldw (imm : BitVec 12) (rs1 : BitVec 5) (rd : BitVec 5) (p : BitVec 1) (st : State) : exec (.ldw imm rs1 rd p) st = execLdw imm rs1 rd p st := rfl
theorem exec_ldwn (imm : BitVec 12) (rs1 : BitVec 5) (rd : BitVec 5) (p : BitVec 1) (st : State) : exec (.ldwn imm rs1 rd p) st = execLdwn imm rs1 rd p st := rfl
theorem exec_ldd (imm : BitVec 12) (rs1 : BitVec 5) (rd : BitVec 5) (p : BitVec 1) (st : State) : exec (.ldd imm rs1 rd p) st = execLdd imm rs1 rd p st := rfl
theorem exec_stb (imm : BitVec 12) (rs1 : BitVec 5) (rd : BitVec 5) (p : BitVec 1) (st : State) : exec (.stb imm rs1 rd p) st = execStb imm rs1 rd p st := rfl
theorem exec_sth (imm : BitVec 12) (rs1 : BitVec 5) (rd : BitVec 5) (p : BitVec 1) (st : State) : exec (.sth imm rs1 rd p) st = execSth imm rs1 rd p st := rfl
theorem exec_stw (imm : BitVec 12) (rs1 : BitVec 5) (rd : BitVec 5) (p : BitVec 1) (st : State) : exec (.stw imm rs1 rd p) st = execStw imm rs1 rd p st := rfl
theorem exec_std (imm : BitVec 12) (rs1 : BitVec 5) (rd : BitVec 5) (p : BitVec 1) (st : State) : exec (.std imm rs1 rd p) st = execStd imm rs1 rd p st := rfl
theorem exec_ldx (x : BitVec 1) (n : BitVec 3) (rs1 : BitVec 5) (rd : BitVec 5) (p : BitVec 1) (st : State) : exec (.ldx x n rs1 rd p) st = execLdx x n rs1 rd p st := rfl
theorem exec_stx (n : BitVec 3) (rs1 : BitVec 5) (rd : BitVec 5) (p : BitVec 1) (st : State) : exec (.stx n rs1 rd p) st = execStx n rs1 rd p st := rfl
theorem exec_tags (f : BitVec 1) (rs2 : BitVec 5) (rs1 : BitVec 5) (p : BitVec 1) (st : State) : exec (.tags f rs2 rs1 p) st = execTags f rs2 rs1 p st := rfl
theorem exec_tagr (f : BitVec 1) (rs1 : BitVec 5) (rd : BitVec 5) (p : BitVec 1) (st : State) : exec (.tagr f rs1 rd p) st = execTagr f rs1 rd p st := rfl
theorem exec_tagp (f : BitVec 1) (rs2 : BitVec 5) (rs1 : BitVec 5) (rd : BitVec 5) (p : BitVec 1) (st : State) : exec (.tagp f rs2 rs1 rd p) st = execTagp f rs2 rs1 rd p st := rfl
theorem exec_probe (imm : BitVec 8) (k : BitVec 1) (f : BitVec 1) (rs1 : BitVec 5) (s : BitVec 2) (rd : BitVec 3) (p : BitVec 1) (st : State) : exec (.probe imm k f rs1 s rd p) st = execProbe imm k f rs1 s rd p st := rfl
theorem exec_bcopy (rs2 : BitVec 5) (rs1 : BitVec 5) (rd : BitVec 5) (p : BitVec 1) (st : State) : exec (.bcopy rs2 rs1 rd p) st = execBcopy rs2 rs1 rd p st := rfl
theorem exec_ldf (imm : BitVec 10) (z : BitVec 1) (rs1 : BitVec 5) (rd : BitVec 5) (p : BitVec 1) (st : State) : exec (.ldf imm z rs1 rd p) st = execLdf imm z rs1 rd p st := rfl
theorem exec_ldfc (imm : BitVec 10) (z : BitVec 1) (rs1 : BitVec 5) (rd : BitVec 5) (p : BitVec 1) (st : State) : exec (.ldfc imm z rs1 rd p) st = execLdfc imm z rs1 rd p st := rfl
theorem exec_stf (imm : BitVec 10) (z : BitVec 1) (rs1 : BitVec 5) (rd : BitVec 5) (p : BitVec 1) (st : State) : exec (.stf imm z rs1 rd p) st = execStf imm z rs1 rd p st := rfl
theorem exec_fec (rs2 : BitVec 5) (rs1 : BitVec 5) (p : BitVec 1) (st : State) : exec (.fec rs2 rs1 p) st = execFec rs2 rs1 p st := rfl
theorem exec_feq (rs1 : BitVec 5) (rd : BitVec 3) (p : BitVec 1) (st : State) : exec (.feq rs1 rd p) st = execFeq rs1 rd p st := rfl
theorem exec_amoAdd (g : BitVec 3) (s : BitVec 5) (rs1 : BitVec 5) (o : BitVec 2) (w : BitVec 1) (r : BitVec 2) (p : BitVec 1) (st : State) : exec (.amoAdd g s rs1 o w r p) st = execAmoAdd g s rs1 o w r p st := rfl
theorem exec_amoAnd (g : BitVec 3) (s : BitVec 5) (rs1 : BitVec 5) (o : BitVec 2) (w : BitVec 1) (r : BitVec 2) (p : BitVec 1) (st : State) : exec (.amoAnd g s rs1 o w r p) st = execAmoAnd g s rs1 o w r p st := rfl
theorem exec_amoOr (g : BitVec 3) (s : BitVec 5) (rs1 : BitVec 5) (o : BitVec 2) (w : BitVec 1) (r : BitVec 2) (p : BitVec 1) (st : State) : exec (.amoOr g s rs1 o w r p) st = execAmoOr g s rs1 o w r p st := rfl
theorem exec_amoXor (g : BitVec 3) (s : BitVec 5) (rs1 : BitVec 5) (o : BitVec 2) (w : BitVec 1) (r : BitVec 2) (p : BitVec 1) (st : State) : exec (.amoXor g s rs1 o w r p) st = execAmoXor g s rs1 o w r p st := rfl
theorem exec_amoMin (g : BitVec 3) (s : BitVec 5) (rs1 : BitVec 5) (o : BitVec 2) (w : BitVec 1) (r : BitVec 2) (p : BitVec 1) (st : State) : exec (.amoMin g s rs1 o w r p) st = execAmoMin g s rs1 o w r p st := rfl
theorem exec_amoMax (g : BitVec 3) (s : BitVec 5) (rs1 : BitVec 5) (o : BitVec 2) (w : BitVec 1) (r : BitVec 2) (p : BitVec 1) (st : State) : exec (.amoMax g s rs1 o w r p) st = execAmoMax g s rs1 o w r p st := rfl
theorem exec_amoMinn (g : BitVec 3) (s : BitVec 5) (rs1 : BitVec 5) (o : BitVec 2) (w : BitVec 1) (r : BitVec 2) (p : BitVec 1) (st : State) : exec (.amoMinn g s rs1 o w r p) st = execAmoMinn g s rs1 o w r p st := rfl
theorem exec_amoMaxn (g : BitVec 3) (s : BitVec 5) (rs1 : BitVec 5) (o : BitVec 2) (w : BitVec 1) (r : BitVec 2) (p : BitVec 1) (st : State) : exec (.amoMaxn g s rs1 o w r p) st = execAmoMaxn g s rs1 o w r p st := rfl
theorem exec_amoSwap (g : BitVec 3) (s : BitVec 5) (rs1 : BitVec 5) (o : BitVec 2) (w : BitVec 1) (r : BitVec 2) (p : BitVec 1) (st : State) : exec (.amoSwap g s rs1 o w r p) st = execAmoSwap g s rs1 o w r p st := rfl
theorem exec_cas (g : BitVec 3) (s : BitVec 5) (rs1 : BitVec 5) (o : BitVec 2) (w : BitVec 1) (r : BitVec 2) (p : BitVec 1) (st : State) : exec (.cas g s rs1 o w r p) st = execCas g s rs1 o w r p st := rfl
theorem exec_fence (g : BitVec 3) (s : BitVec 5) (o : BitVec 2) (st : State) : exec (.fence g s o) st = execFence g s o st := rfl
theorem exec_qinit (q : BitVec 5) (rs2 : BitVec 5) (rs1 : BitVec 5) (rd : BitVec 3) (p : BitVec 1) (st : State) : exec (.qinit q rs2 rs1 rd p) st = execQinit q rs2 rs1 rd p st := rfl
theorem exec_qenq (q : BitVec 5) (rs1 : BitVec 5) (v : BitVec 1) (rd : BitVec 3) (p : BitVec 1) (st : State) : exec (.qenq q rs1 v rd p) st = execQenq q rs1 v rd p st := rfl
theorem exec_qdeq (q : BitVec 5) (v : BitVec 1) (c : BitVec 3) (rd : BitVec 5) (p : BitVec 1) (st : State) : exec (.qdeq q v c rd p) st = execQdeq q v c rd p st := rfl
theorem exec_qcnt (q : BitVec 5) (rd : BitVec 5) (p : BitVec 1) (st : State) : exec (.qcnt q rd p) st = execQcnt q rd p st := rfl
theorem exec_oldest (st : State) : exec .oldest st = execOldest st := rfl
theorem exec_rds (n : BitVec 12) (rd : BitVec 5) (p : BitVec 1) (st : State) : exec (.rds n rd p) st = execRds n rd p st := rfl
theorem exec_wrs (n : BitVec 12) (rs1 : BitVec 5) (p : BitVec 1) (st : State) : exec (.wrs n rs1 p) st = execWrs n rs1 p st := rfl
theorem exec_trap (c : BitVec 12) (st : State) : exec (.trap c) st = execTrap c st := rfl
theorem exec_eret (st : State) : exec .eret st = execEret st := rfl
theorem exec_tend (st : State) : exec .tend st = execTend st := rfl
theorem exec_yield (st : State) : exec .yield st = execYield st := rfl
theorem exec_tspawn (rs2 : BitVec 5) (rs1 : BitVec 5) (rd : BitVec 3) (st : State) : exec (.tspawn rs2 rs1 rd) st = execTspawn rs2 rs1 rd st := rfl
theorem exec_brk (c : BitVec 12) (st : State) : exec (.brk c) st = execBrk c st := rfl
theorem exec_trc (t : BitVec 7) (rs2 : BitVec 5) (rs1 : BitVec 5) (p : BitVec 1) (st : State) : exec (.trc t rs2 rs1 p) st = execTrc t rs2 rs1 p st := rfl
theorem exec_cnt (c : BitVec 2) (rd : BitVec 5) (p : BitVec 1) (st : State) : exec (.cnt c rd p) st = execCnt c rd p st := rfl
theorem exec_cntSel (c : BitVec 2) (rs1 : BitVec 5) (p : BitVec 1) (st : State) : exec (.cntSel c rs1 p) st = execCntSel c rs1 p st := rfl
theorem exec_vld (imm : BitVec 10) (rs1 : BitVec 5) (rd : BitVec 5) (p : BitVec 1) (st : State) : exec (.vld imm rs1 rd p) st = execVld imm rs1 rd p st := rfl
theorem exec_vldDec (imm : BitVec 10) (rs1 : BitVec 5) (rd : BitVec 5) (p : BitVec 1) (st : State) : exec (.vldDec imm rs1 rd p) st = execVldDec imm rs1 rd p st := rfl
theorem exec_vst (imm : BitVec 10) (rs1 : BitVec 5) (rd : BitVec 5) (p : BitVec 1) (st : State) : exec (.vst imm rs1 rd p) st = execVst imm rs1 rd p st := rfl
theorem exec_vstCnv (imm : BitVec 10) (rs1 : BitVec 5) (rd : BitVec 5) (p : BitVec 1) (st : State) : exec (.vstCnv imm rs1 rd p) st = execVstCnv imm rs1 rd p st := rfl
theorem exec_vlds (imm : BitVec 12) (rs1 : BitVec 5) (rd : BitVec 5) (p : BitVec 1) (st : State) : exec (.vlds imm rs1 rd p) st = execVlds imm rs1 rd p st := rfl
theorem exec_vsts (imm : BitVec 12) (rs1 : BitVec 5) (rd : BitVec 5) (p : BitVec 1) (st : State) : exec (.vsts imm rs1 rd p) st = execVsts imm rs1 rd p st := rfl
theorem exec_vgath (rs2 : BitVec 5) (rs1 : BitVec 5) (rd : BitVec 5) (p : BitVec 1) (st : State) : exec (.vgath rs2 rs1 rd p) st = execVgath rs2 rs1 rd p st := rfl
theorem exec_vscat (rs2 : BitVec 5) (rs1 : BitVec 5) (rd : BitVec 5) (p : BitVec 1) (st : State) : exec (.vscat rs2 rs1 rd p) st = execVscat rs2 rs1 rd p st := rfl
theorem exec_vadd (t : BitVec 4) (rs2 : BitVec 5) (rs1 : BitVec 5) (rd : BitVec 5) (p : BitVec 1) (st : State) : exec (.vadd t rs2 rs1 rd p) st = execVadd t rs2 rs1 rd p st := rfl
theorem exec_vsub (t : BitVec 4) (rs2 : BitVec 5) (rs1 : BitVec 5) (rd : BitVec 5) (p : BitVec 1) (st : State) : exec (.vsub t rs2 rs1 rd p) st = execVsub t rs2 rs1 rd p st := rfl
theorem exec_vmul (t : BitVec 4) (rs2 : BitVec 5) (rs1 : BitVec 5) (rd : BitVec 5) (p : BitVec 1) (st : State) : exec (.vmul t rs2 rs1 rd p) st = execVmul t rs2 rs1 rd p st := rfl
theorem exec_vmin (t : BitVec 4) (rs2 : BitVec 5) (rs1 : BitVec 5) (rd : BitVec 5) (p : BitVec 1) (st : State) : exec (.vmin t rs2 rs1 rd p) st = execVmin t rs2 rs1 rd p st := rfl
theorem exec_vmax (t : BitVec 4) (rs2 : BitVec 5) (rs1 : BitVec 5) (rd : BitVec 5) (p : BitVec 1) (st : State) : exec (.vmax t rs2 rs1 rd p) st = execVmax t rs2 rs1 rd p st := rfl
theorem exec_vabs (t : BitVec 4) (rs1 : BitVec 5) (rd : BitVec 5) (p : BitVec 1) (st : State) : exec (.vabs t rs1 rd p) st = execVabs t rs1 rd p st := rfl
theorem exec_vneg (t : BitVec 4) (rs1 : BitVec 5) (rd : BitVec 5) (p : BitVec 1) (st : State) : exec (.vneg t rs1 rd p) st = execVneg t rs1 rd p st := rfl
theorem exec_vfma (t : BitVec 4) (rs2 : BitVec 5) (rs1 : BitVec 5) (rd : BitVec 5) (p : BitVec 1) (st : State) : exec (.vfma t rs2 rs1 rd p) st = execVfma t rs2 rs1 rd p st := rfl
theorem exec_vfms (t : BitVec 4) (rs2 : BitVec 5) (rs1 : BitVec 5) (rd : BitVec 5) (p : BitVec 1) (st : State) : exec (.vfms t rs2 rs1 rd p) st = execVfms t rs2 rs1 rd p st := rfl
theorem exec_vfnma (t : BitVec 4) (rs2 : BitVec 5) (rs1 : BitVec 5) (rd : BitVec 5) (p : BitVec 1) (st : State) : exec (.vfnma t rs2 rs1 rd p) st = execVfnma t rs2 rs1 rd p st := rfl
theorem exec_vand (rs2 : BitVec 5) (rs1 : BitVec 5) (rd : BitVec 5) (p : BitVec 1) (st : State) : exec (.vand rs2 rs1 rd p) st = execVand rs2 rs1 rd p st := rfl
theorem exec_vor (rs2 : BitVec 5) (rs1 : BitVec 5) (rd : BitVec 5) (p : BitVec 1) (st : State) : exec (.vor rs2 rs1 rd p) st = execVor rs2 rs1 rd p st := rfl
theorem exec_vxor (rs2 : BitVec 5) (rs1 : BitVec 5) (rd : BitVec 5) (p : BitVec 1) (st : State) : exec (.vxor rs2 rs1 rd p) st = execVxor rs2 rs1 rd p st := rfl
theorem exec_vandn (rs2 : BitVec 5) (rs1 : BitVec 5) (rd : BitVec 5) (p : BitVec 1) (st : State) : exec (.vandn rs2 rs1 rd p) st = execVandn rs2 rs1 rd p st := rfl
theorem exec_vcmp (t : BitVec 4) (c : BitVec 3) (rs2 : BitVec 5) (rs1 : BitVec 5) (rd : BitVec 3) (p : BitVec 1) (st : State) : exec (.vcmp t c rs2 rs1 rd p) st = execVcmp t c rs2 rs1 rd p st := rfl
theorem exec_vsel (m : BitVec 3) (rs2 : BitVec 5) (rs1 : BitVec 5) (rd : BitVec 5) (p : BitVec 1) (st : State) : exec (.vsel m rs2 rs1 rd p) st = execVsel m rs2 rs1 rd p st := rfl
theorem exec_vredAdd (t : BitVec 4) (q : BitVec 3) (rs1 : BitVec 5) (rd : BitVec 5) (p : BitVec 1) (st : State) : exec (.vredAdd t q rs1 rd p) st = execVredAdd t q rs1 rd p st := rfl
theorem exec_vredMax (t : BitVec 4) (q : BitVec 3) (rs1 : BitVec 5) (rd : BitVec 5) (p : BitVec 1) (st : State) : exec (.vredMax t q rs1 rd p) st = execVredMax t q rs1 rd p st := rfl
theorem exec_vredMin (t : BitVec 4) (q : BitVec 3) (rs1 : BitVec 5) (rd : BitVec 5) (p : BitVec 1) (st : State) : exec (.vredMin t q rs1 rd p) st = execVredMin t q rs1 rd p st := rfl
theorem exec_vcvt (s : BitVec 4) (p : BitVec 2) (t : BitVec 4) (rs1 : BitVec 5) (rd : BitVec 5) (p_part2 : BitVec 1) (st : State) : exec (.vcvt s p t rs1 rd p_part2) st = execVcvt s p t rs1 rd p_part2 st := rfl
theorem exec_vbcst (rs1 : BitVec 5) (rd : BitVec 5) (p : BitVec 1) (st : State) : exec (.vbcst rs1 rd p) st = execVbcst rs1 rd p st := rfl
theorem exec_vext (x : BitVec 1) (rs2 : BitVec 5) (rs1 : BitVec 5) (rd : BitVec 5) (p : BitVec 1) (st : State) : exec (.vext x rs2 rs1 rd p) st = execVext x rs2 rs1 rd p st := rfl
theorem exec_vperm (rs2 : BitVec 5) (rs1 : BitVec 5) (rd : BitVec 5) (p : BitVec 1) (st : State) : exec (.vperm rs2 rs1 rd p) st = execVperm rs2 rs1 rd p st := rfl
theorem exec_vmskAnd (rs2 : BitVec 3) (rs1 : BitVec 3) (rd : BitVec 3) (p : BitVec 1) (st : State) : exec (.vmskAnd rs2 rs1 rd p) st = execVmskAnd rs2 rs1 rd p st := rfl
theorem exec_vmskOr (rs2 : BitVec 3) (rs1 : BitVec 3) (rd : BitVec 3) (p : BitVec 1) (st : State) : exec (.vmskOr rs2 rs1 rd p) st = execVmskOr rs2 rs1 rd p st := rfl
theorem exec_vmskXor (rs2 : BitVec 3) (rs1 : BitVec 3) (rd : BitVec 3) (p : BitVec 1) (st : State) : exec (.vmskXor rs2 rs1 rd p) st = execVmskXor rs2 rs1 rd p st := rfl
theorem exec_vmskAndn (rs2 : BitVec 3) (rs1 : BitVec 3) (rd : BitVec 3) (p : BitVec 1) (st : State) : exec (.vmskAndn rs2 rs1 rd p) st = execVmskAndn rs2 rs1 rd p st := rfl
theorem exec_vmskTos (rs1 : BitVec 3) (rd : BitVec 5) (p : BitVec 1) (st : State) : exec (.vmskTos rs1 rd p) st = execVmskTos rs1 rd p st := rfl
theorem exec_vmskFroms (rs1 : BitVec 5) (rd : BitVec 3) (p : BitVec 1) (st : State) : exec (.vmskFroms rs1 rd p) st = execVmskFroms rs1 rd p st := rfl
theorem exec_vmskPopc (rs1 : BitVec 3) (rd : BitVec 5) (p : BitVec 1) (st : State) : exec (.vmskPopc rs1 rd p) st = execVmskPopc rs1 rd p st := rfl
theorem exec_vmskFirst (rs1 : BitVec 3) (rd : BitVec 5) (p : BitVec 1) (st : State) : exec (.vmskFirst rs1 rd p) st = execVmskFirst rs1 rd p st := rfl
theorem exec_vexp2 (t : BitVec 4) (rs1 : BitVec 5) (rd : BitVec 5) (p : BitVec 1) (st : State) : exec (.vexp2 t rs1 rd p) st = execVexp2 t rs1 rd p st := rfl
theorem exec_vlog2 (t : BitVec 4) (rs1 : BitVec 5) (rd : BitVec 5) (p : BitVec 1) (st : State) : exec (.vlog2 t rs1 rd p) st = execVlog2 t rs1 rd p st := rfl
theorem exec_vrcp (t : BitVec 4) (rs1 : BitVec 5) (rd : BitVec 5) (p : BitVec 1) (st : State) : exec (.vrcp t rs1 rd p) st = execVrcp t rs1 rd p st := rfl
theorem exec_vrsq (t : BitVec 4) (rs1 : BitVec 5) (rd : BitVec 5) (p : BitVec 1) (st : State) : exec (.vrsq t rs1 rd p) st = execVrsq t rs1 rd p st := rfl
theorem exec_vtanh (t : BitVec 4) (rs1 : BitVec 5) (rd : BitVec 5) (p : BitVec 1) (st : State) : exec (.vtanh t rs1 rd p) st = execVtanh t rs1 rd p st := rfl
theorem exec_vscl (t : BitVec 4) (rs2 : BitVec 5) (rs1 : BitVec 5) (rd : BitVec 5) (p : BitVec 1) (st : State) : exec (.vscl t rs2 rs1 rd p) st = execVscl t rs2 rs1 rd p st := rfl
theorem exec_vidx (rs2 : BitVec 5) (rs1 : BitVec 5) (rd : BitVec 5) (p : BitVec 1) (st : State) : exec (.vidx rs2 rs1 rd p) st = execVidx rs2 rs1 rd p st := rfl
theorem exec_vdot (m : BitVec 2) (rs2 : BitVec 5) (rs1 : BitVec 5) (rd : BitVec 5) (p : BitVec 1) (st : State) : exec (.vdot m rs2 rs1 rd p) st = execVdot m rs2 rs1 rd p st := rfl
theorem exec_vmov (rs1 : BitVec 5) (rd : BitVec 5) (p : BitVec 1) (st : State) : exec (.vmov rs1 rd p) st = execVmov rs1 rd p st := rfl
theorem exec_sbind (mode : BitVec 2) (dir : BitVec 1) (port : BitVec 2) (rs2 : BitVec 5) (rs1 : BitVec 5) (stride : BitVec 26) (st : State) : exec (.sbind mode dir port rs2 rs1 stride) st = execSbind mode dir port rs2 rs1 stride st := rfl
theorem exec_sunb (port : BitVec 2) (st : State) : exec (.sunb port) st = execSunb port st := rfl
theorem exec_sstat (p : BitVec 2) (rd : BitVec 5) (p_part2 : BitVec 1) (st : State) : exec (.sstat p rd p_part2) st = execSstat p rd p_part2 st := rfl
theorem exec_lrd (f : BitVec 1) (rd : BitVec 5) (p : BitVec 1) (st : State) : exec (.lrd f rd p) st = execLrd f rd p st := rfl
theorem exec_lwr (rs1 : BitVec 5) (p : BitVec 1) (st : State) : exec (.lwr rs1 p) st = execLwr rs1 p st := rfl
theorem exec_lstat (rd : BitVec 5) (p : BitVec 1) (st : State) : exec (.lstat rd p) st = execLstat rd p st := rfl
theorem exec_tmma (rs2 : BitVec 5) (rs1 : BitVec 5) (kc : BitVec 2) (tb : BitVec 1) (ta : BitVec 1) (acc : BitVec 2) (z : BitVec 1) (rb : BitVec 2) (ra : BitVec 2) (st : State) : exec (.tmma rs2 rs1 kc tb ta acc z rb ra) st = execTmma rs2 rs1 kc tb ta acc z rb ra st := rfl
theorem exec_tzero (c : BitVec 2) (st : State) : exec (.tzero c) st = execTzero c st := rfl
theorem exec_tld (rs1 : BitVec 5) (c : BitVec 2) (st : State) : exec (.tld rs1 c) st = execTld rs1 c st := rfl
theorem exec_tst (rs1 : BitVec 5) (c : BitVec 2) (st : State) : exec (.tst rs1 c) st = execTst rs1 c st := rfl
theorem exec_tactRelu (f : BitVec 1) (c : BitVec 2) (st : State) : exec (.tactRelu f c) st = execTactRelu f c st := rfl
theorem exec_tactGelu (f : BitVec 1) (c : BitVec 2) (st : State) : exec (.tactGelu f c) st = execTactGelu f c st := rfl
theorem exec_tactSilu (f : BitVec 1) (c : BitVec 2) (st : State) : exec (.tactSilu f c) st = execTactSilu f c st := rfl
theorem exec_tstat (rd : BitVec 5) (st : State) : exec (.tstat rd) st = execTstat rd st := rfl
theorem exec_twait (st : State) : exec .twait st = execTwait st := rfl
theorem exec_recordOn (rs2 : BitVec 5) (rs1 : BitVec 5) (st : State) : exec (.recordOn rs2 rs1) st = execRecordOn rs2 rs1 st := rfl
theorem exec_recordOnChain (rs2 : BitVec 5) (rs1 : BitVec 5) (st : State) : exec (.recordOnChain rs2 rs1) st = execRecordOnChain rs2 rs1 st := rfl
theorem exec_recordOff (st : State) : exec .recordOff st = execRecordOff st := rfl
theorem exec_recordMark (rs1 : BitVec 5) (st : State) : exec (.recordMark rs1) st = execRecordMark rs1 st := rfl
theorem exec_reverse (m : BitVec 1) (mv : BitVec 12) (z : BitVec 1) (st : State) : exec (.reverse m mv z) st = execReverse m mv z st := rfl
theorem exec_send (slot : BitVec 11) (km1 : BitVec 4) (vs : BitVec 5) (route : BitVec 29) (st : State) : exec (.send slot km1 vs route) st = execSend slot km1 vs route st := rfl
theorem exec_rsel (slot : BitVec 11) (km1 : BitVec 4) (rs1 : BitVec 5) (mcid : BitVec 5) (ce : BitVec 1) (link : BitVec 4) (st : State) : exec (.rsel slot km1 rs1 mcid ce link) st = execRsel slot km1 rs1 mcid ce link st := rfl
theorem exec_sync (st : State) : exec .sync st = execSync st := rfl
theorem exec_syncv (o : BitVec 1) (rs1 : BitVec 3) (rd : BitVec 3) (st : State) : exec (.syncv o rs1 rd) st = execSyncv o rs1 rd st := rfl
theorem exec_gcall (rs1 : BitVec 5) (st : State) : exec (.gcall rs1) st = execGcall rs1 st := rfl
theorem exec_gret (st : State) : exec .gret st = execGret st := rfl
theorem exec_awset (lr : BitVec 1) (n : BitVec 1) (clr : BitVec 1) (w : BitVec 1) (r : BitVec 1) (rs2 : BitVec 5) (rs1 : BitVec 5) (leni : BitVec 17) (st : State) : exec (.awset lr n clr w r rs2 rs1 leni) st = execAwset lr n clr w r rs2 rs1 leni st := rfl
theorem exec_fld (x : BitVec 1) (z : BitVec 2) (rs2 : BitVec 5) (rs1 : BitVec 5) (rd : BitVec 5) (p : BitVec 1) (st : State) : exec (.fld x z rs2 rs1 rd p) st = execFld x z rs2 rs1 rd p st := rfl
theorem exec_fst (z : BitVec 2) (rs2 : BitVec 5) (rs1 : BitVec 5) (rd : BitVec 5) (p : BitVec 1) (st : State) : exec (.fst z rs2 rs1 rd p) st = execFst z rs2 rs1 rd p st := rfl
theorem exec_fflush (imm : BitVec 1) (g : BitVec 3) (rs2 : BitVec 5) (rs1 : BitVec 5) (p : BitVec 1) (st : State) : exec (.fflush imm g rs2 rs1 p) st = execFflush imm g rs2 rs1 p st := rfl
theorem exec_fpush (s : BitVec 1) (r : BitVec 1) (rs2 : BitVec 5) (rs1 : BitVec 5) (rd : BitVec 5) (p : BitVec 1) (st : State) : exec (.fpush s r rs2 rs1 rd p) st = execFpush s r rs2 rs1 rd p st := rfl
theorem exec_fpf (rs2 : BitVec 5) (rs1 : BitVec 5) (p : BitVec 1) (st : State) : exec (.fpf rs2 rs1 p) st = execFpf rs2 rs1 p st := rfl
theorem exec_pginv (g : BitVec 3) (rs2 : BitVec 5) (rs1 : BitVec 5) (p : BitVec 1) (st : State) : exec (.pginv g rs2 rs1 p) st = execPginv g rs2 rs1 p st := rfl
theorem exec_fqdeq (c : BitVec 3) (rd : BitVec 5) (p : BitVec 1) (st : State) : exec (.fqdeq c rd p) st = execFqdeq c rd p st := rfl
theorem exec_replay (rs1 : BitVec 5) (rd : BitVec 3) (p : BitVec 1) (st : State) : exec (.replay rs1 rd p) st = execReplay rs1 rd p st := rfl
theorem exec_term (rs1 : BitVec 5) (rd : BitVec 3) (p : BitVec 1) (st : State) : exec (.term rs1 rd p) st = execTerm rs1 rd p st := rfl
theorem exec_nop (st : State) : exec .nop st = execNop st := rfl
theorem exec_hint (h : BitVec 22) (p : BitVec 1) (tail : Option (BitVec 30)) (st : State) : exec (.hint h p tail) st = execHint h p tail st := rfl
theorem exec_deferredTrap (a : BitVec 22) (st : State) : exec (.deferredTrap a) st = execDeferredTrap a st := rfl
theorem exec_scrubEnd (kind : BitVec 2) (n : BitVec 32) (st : State) : exec (.scrubEnd kind n) st = execScrubEnd kind n st := rfl
theorem exec_barrierRelease (c : BitVec 15) (n : BitVec 3) (st : State) : exec (.barrierRelease c n) st = execBarrierRelease c n st := rfl
theorem exec_mutexHandoff (c : BitVec 15) (m : BitVec 4) (st : State) : exec (.mutexHandoff c m) st = execMutexHandoff c m st := rfl
theorem exec_fullWake (a : BitVec 22) (st : State) : exec (.fullWake a) st = execFullWake a st := rfl
theorem exec_eccWriteback (key : BitVec 48) (st : State) : exec (.eccWriteback key) st = execEccWriteback key st := rfl
theorem exec_conversionDrained (d : BitVec 4) (st : State) : exec (.conversionDrained d) st = execConversionDrained d st := rfl
theorem exec_conversionWayDone (d : BitVec 4) (st : State) : exec (.conversionWayDone d) st = execConversionWayDone d st := rfl
theorem exec_purgeDone (k : BitVec 6) (st : State) : exec (.purgeDone k) st = execPurgeDone k st := rfl
theorem exec_walkStart (a : BitVec 22) (st : State) : exec (.walkStart a) st = execWalkStart a st := rfl
theorem exec_walkComplete (a : BitVec 22) (st : State) : exec (.walkComplete a) st = execWalkComplete a st := rfl
theorem exec_faultInsertRetry (a : BitVec 22) (st : State) : exec (.faultInsertRetry a) st = execFaultInsertRetry a st := rfl
theorem exec_flush (f : BitVec 6) (st : State) : exec (.flush f) st = execFlush f st := rfl
theorem exec_flushInval (f : BitVec 6) (st : State) : exec (.flushInval f) st = execFlushInval f st := rfl
theorem exec_flushComplete (f : BitVec 6) (st : State) : exec (.flushComplete f) st = execFlushComplete f st := rfl
theorem exec_launch (f : BitVec 6) (st : State) : exec (.launch f) st = execLaunch f st := rfl
theorem exec_launchResumed (f : BitVec 6) (st : State) : exec (.launchResumed f) st = execLaunchResumed f st := rfl
theorem exec_kill (f : BitVec 6) (st : State) : exec (.kill f) st = execKill f st := rfl
theorem exec_completionInterrupt (f : BitVec 6) (st : State) : exec (.completionInterrupt f) st = execCompletionInterrupt f st := rfl
theorem exec_sliceEnd (f : BitVec 6) (st : State) : exec (.sliceEnd f) st = execSliceEnd f st := rfl
theorem exec_switch (f : BitVec 6) (g : BitVec 6) (st : State) : exec (.switch f g) st = execSwitch f g st := rfl
theorem exec_switchDone (f : BitVec 6) (g : BitVec 6) (st : State) : exec (.switchDone f g) st = execSwitchDone f g st := rfl
theorem exec_vfResetStandStop (f : BitVec 6) (st : State) : exec (.vfResetStandStop f) st = execVfResetStandStop f st := rfl
theorem exec_vfResetDone (f : BitVec 6) (st : State) : exec (.vfResetDone f) st = execVfResetDone f st := rfl
theorem exec_dieEarlyRelease (d : BitVec 4) (st : State) : exec (.dieEarlyRelease d) st = execDieEarlyRelease d st := rfl
theorem exec_taskStart (a : BitVec 22) (st : State) : exec (.taskStart a) st = execTaskStart a st := rfl
theorem exec_gangStart (a : BitVec 22) (st : State) : exec (.gangStart a) st = execGangStart a st := rfl
theorem exec_writeThrough (a : BitVec 22) (st : State) : exec (.writeThrough a) st = execWriteThrough a st := rfl
theorem exec_orderedCommit (a : BitVec 22) (st : State) : exec (.orderedCommit a) st = execOrderedCommit a st := rfl
theorem exec_coreArrive (a : BitVec 22) (st : State) : exec (.coreArrive a) st = execCoreArrive a st := rfl
theorem exec_barrierGroupRelease (a : BitVec 22) (st : State) : exec (.barrierGroupRelease a) st = execBarrierGroupRelease a st := rfl
theorem exec_disseminationRound (f : BitVec 6) (d : BitVec 4) (st : State) : exec (.disseminationRound f d) st = execDisseminationRound f d st := rfl
theorem exec_rampSlotBegin (c : BitVec 15) (st : State) : exec (.rampSlotBegin c) st = execRampSlotBegin c st := rfl
theorem exec_exchangeWatchdog (a : BitVec 22) (st : State) : exec (.exchangeWatchdog a) st = execExchangeWatchdog a st := rfl
theorem exec_noProgress (f : BitVec 6) (d : BitVec 4) (st : State) : exec (.noProgress f d) st = execNoProgress f d st := rfl
theorem exec_sendInject (a : BitVec 22) (st : State) : exec (.sendInject a) st = execSendInject a st := rfl
theorem exec_fpushSlot (a : BitVec 22) (st : State) : exec (.fpushSlot a) st = execFpushSlot a st := rfl
theorem exec_pushComplete (a : BitVec 22) (st : State) : exec (.pushComplete a) st = execPushComplete a st := rfl
theorem exec_copyStart (c : BitVec 15) (st : State) : exec (.copyStart c) st = execCopyStart c st := rfl
theorem exec_copyComplete (c : BitVec 15) (st : State) : exec (.copyComplete c) st = execCopyComplete c st := rfl
theorem exec_copyStop (c : BitVec 15) (st : State) : exec (.copyStop c) st = execCopyStop c st := rfl
theorem exec_streamFetch (a : BitVec 22) (port : BitVec 2) (st : State) : exec (.streamFetch a port) st = execStreamFetch a port st := rfl
theorem exec_streamWrite (a : BitVec 22) (port : BitVec 2) (st : State) : exec (.streamWrite a port) st = execStreamWrite a port st := rfl
theorem exec_tileJoinTimeout (a : BitVec 22) (st : State) : exec (.tileJoinTimeout a) st = execTileJoinTimeout a st := rfl
theorem exec_tileComplete (a : BitVec 22) (st : State) : exec (.tileComplete a) st = execTileComplete a st := rfl
theorem exec_tileFaultStop (a : BitVec 22) (st : State) : exec (.tileFaultStop a) st = execTileFaultStop a st := rfl
theorem exec_linkWidthRestore (l : BitVec 20) (st : State) : exec (.linkWidthRestore l) st = execLinkWidthRestore l st := rfl
theorem exec_budgetExhausted (a : BitVec 22) (st : State) : exec (.budgetExhausted a) st = execBudgetExhausted a st := rfl
theorem exec_unwind (a : BitVec 22) (st : State) : exec (.unwind a) st = execUnwind a st := rfl
theorem exec_adjointStepDone (a : BitVec 22) (st : State) : exec (.adjointStepDone a) st = execAdjointStepDone a st := rfl
theorem exec_registerWrite (addr : BitVec 41) (val : BitVec 64) (st : State) : exec (.registerWrite addr val) st = execRegisterWrite addr val st := rfl
theorem exec_wspWrite (val : BitVec 64) (st : State) : exec (.wspWrite val) st = execWspWrite val st := rfl
theorem exec_dsdWrite (val : BitVec 64) (st : State) : exec (.dsdWrite val) st = execDsdWrite val st := rfl
theorem exec_bfmtWrite (c : BitVec 15) (b : BitVec 4) (val : BitVec 64) (st : State) : exec (.bfmtWrite c b val) st = execBfmtWrite c b val st := rfl
theorem exec_bownWrite (c : BitVec 15) (b : BitVec 4) (val : BitVec 64) (st : State) : exec (.bownWrite c b val) st = execBownWrite c b val st := rfl
theorem exec_townWrite (c : BitVec 15) (k : BitVec 5) (val : BitVec 64) (st : State) : exec (.townWrite c k val) st = execTownWrite c k val st := rfl
theorem exec_ltownWrite (l : BitVec 10) (val : BitVec 64) (st : State) : exec (.ltownWrite l val) st = execLtownWrite l val st := rfl
theorem exec_segmentOwnerWrite (d : BitVec 4) (k : BitVec 11) (val : BitVec 64) (st : State) : exec (.segmentOwnerWrite d k val) st = execSegmentOwnerWrite d k val st := rfl
theorem exec_arrive (n : BitVec 3) (rd : BitVec 5) (st : State) : exec (.arrive n rd) st = execArrive n rd st := rfl
theorem exec_arriveNb (n : BitVec 3) (rd : BitVec 5) (st : State) : exec (.arriveNb n rd) st = execArriveNb n rd st := rfl
theorem exec_waitLatch (n : BitVec 3) (rs : BitVec 5) (st : State) : exec (.waitLatch n rs) st = execWaitLatch n rs st := rfl
theorem exec_wait (n : BitVec 3) (rd : BitVec 5) (st : State) : exec (.wait n rd) st = execWait n rd st := rfl
theorem exec_barrierCfgWrite (n : BitVec 3) (rs : BitVec 5) (st : State) : exec (.barrierCfgWrite n rs) st = execBarrierCfgWrite n rs st := rfl
theorem exec_mutexLock (m : BitVec 4) (rd : BitVec 5) (st : State) : exec (.mutexLock m rd) st = execMutexLock m rd st := rfl
theorem exec_mutexUnlock (m : BitVec 4) (st : State) : exec (.mutexUnlock m) st = execMutexUnlock m st := rfl
theorem exec_eventWait (e : BitVec 5) (rd : BitVec 5) (st : State) : exec (.eventWait e rd) st = execEventWait e rd st := rfl
theorem exec_eventSet (e : BitVec 5) (st : State) : exec (.eventSet e) st = execEventSet e st := rfl
theorem exec_remoteEventSend (rs : BitVec 5) (st : State) : exec (.remoteEventSend rs) st = execRemoteEventSend rs st := rfl
theorem exec_remoteEventArrival (st : State) : exec .remoteEventArrival st = execRemoteEventArrival st := rfl
theorem exec_selfTestDone (kind : BitVec 3) (n : BitVec 32) (pass : BitVec 1) (st : State) : exec (.selfTestDone kind n pass) st = execSelfTestDone kind n pass st := rfl
theorem exec_waymaskWrite (d : BitVec 4) (val : BitVec 64) (st : State) : exec (.waymaskWrite d val) st = execWaymaskWrite d val st := rfl
theorem exec_kslotClear (k : BitVec 6) (val : BitVec 64) (st : State) : exec (.kslotClear k val) st = execKslotClear k val st := rfl
theorem exec_hftinvWrite (val : BitVec 64) (st : State) : exec (.hftinvWrite val) st = execHftinvWrite val st := rfl
theorem exec_hostWindowAccess (f : BitVec 6) (off : BitVec 24) (wr : BitVec 1) (sz : BitVec 2) (data : BitVec 64) (st : State) : exec (.hostWindowAccess f off wr sz data) st = execHostWindowAccess f off wr sz data st := rfl
theorem exec_hostApertureAccess (f : BitVec 6) (pa : BitVec 41) (wr : BitVec 1) (sz : BitVec 2) (data : BitVec 64) (st : State) : exec (.hostApertureAccess f pa wr sz data) st = execHostApertureAccess f pa wr sz data st := rfl
theorem exec_flushTailWrite (f : BitVec 6) (val : BitVec 64) (st : State) : exec (.flushTailWrite f val) st = execFlushTailWrite f val st := rfl
theorem exec_launchTailWrite (f : BitVec 6) (val : BitVec 64) (st : State) : exec (.launchTailWrite f val) st = execLaunchTailWrite f val st := rfl
theorem exec_completionHeadWrite (f : BitVec 6) (val : BitVec 64) (st : State) : exec (.completionHeadWrite f val) st = execCompletionHeadWrite f val st := rfl
theorem exec_fabricLaunch (f : BitVec 6) (src : BitVec 12) (rec : BitVec 512) (st : State) : exec (.fabricLaunch f src rec) st = execFabricLaunch f src rec st := rfl
theorem exec_causeInterrupt (st : State) : exec .causeInterrupt st = execCauseInterrupt st := rfl
theorem exec_forcedEviction (f : BitVec 6) (jid : BitVec 32) (st : State) : exec (.forcedEviction f jid) st = execForcedEviction f jid st := rfl
theorem exec_evictionOverrun (c : BitVec 15) (st : State) : exec (.evictionOverrun c) st = execEvictionOverrun c st := rfl
theorem exec_vfReset (f : BitVec 6) (st : State) : exec (.vfReset f) st = execVfReset f st := rfl
theorem exec_peerWithdrawReceived (f : BitVec 6) (d : BitVec 4) (st : State) : exec (.peerWithdrawReceived f d) st = execPeerWithdrawReceived f d st := rfl
theorem exec_vfPause (f : BitVec 6) (st : State) : exec (.vfPause f) st = execVfPause f st := rfl
theorem exec_vfUnpause (f : BitVec 6) (st : State) : exec (.vfUnpause f) st = execVfUnpause f st := rfl
theorem exec_supplyOutOfRange (st : State) : exec .supplyOutOfRange st = execSupplyOutOfRange st := rfl
theorem exec_supplyRestored (st : State) : exec .supplyRestored st = execSupplyRestored st := rfl
theorem exec_supplyShutdown (st : State) : exec .supplyShutdown st = execSupplyShutdown st := rfl
theorem exec_inletOver40 (st : State) : exec .inletOver40 st = execInletOver40 st := rfl
theorem exec_inletOver45 (st : State) : exec .inletOver45 st = execInletOver45 st := rfl
theorem exec_inletRestored (st : State) : exec .inletRestored st = execInletRestored st := rfl
theorem exec_powerCeilingEngage (st : State) : exec .powerCeilingEngage st = execPowerCeilingEngage st := rfl
theorem exec_powerCeilingRelease (st : State) : exec .powerCeilingRelease st = execPowerCeilingRelease st := rfl
theorem exec_coldStart (st : State) : exec .coldStart st = execColdStart st := rfl
theorem exec_warmStart (st : State) : exec .warmStart st = execWarmStart st := rfl
theorem exec_startComplete (st : State) : exec .startComplete st = execStartComplete st := rfl
theorem exec_flitDrop (st : State) : exec .flitDrop st = execFlitDrop st := rfl
theorem exec_rselDelivery (st : State) : exec .rselDelivery st = execRselDelivery st := rfl
theorem exec_flitEjectUnselected (st : State) : exec .flitEjectUnselected st = execFlitEjectUnselected st := rfl
theorem exec_governorWindow (est : BitVec 32) (st : State) : exec (.governorWindow est) st = execGovernorWindow est st := rfl
theorem exec_rampCheck (f : BitVec 6) (jid : BitVec 32) (rise : BitVec 32) (st : State) : exec (.rampCheck f jid rise) st = execRampCheck f jid rise st := rfl
theorem exec_linkNarrow (l : BitVec 20) (wd : BitVec 2) (st : State) : exec (.linkNarrow l wd) st = execLinkNarrow l wd st := rfl
theorem exec_revokeWrite (val : BitVec 64) (st : State) : exec (.revokeWrite val) st = execRevokeWrite val st := rfl
theorem exec_polderDeath (pol : BitVec 12) (st : State) : exec (.polderDeath pol) st = execPolderDeath pol st := rfl
theorem exec_scaleAtomicCombine (st : State) : exec .scaleAtomicCombine st = execScaleAtomicCombine st := rfl
theorem exec_windowAtomicAck (st : State) : exec .windowAtomicAck st = execWindowAtomicAck st := rfl
theorem exec_ownGuestClaim (f : BitVec 6) (u : BitVec 2) (n : BitVec 16) (st : State) : exec (.ownGuestClaim f u n) st = execOwnGuestClaim f u n st := rfl
theorem exec_ownHostClaim (u : BitVec 2) (n : BitVec 16) (st : State) : exec (.ownHostClaim u n) st = execOwnHostClaim u n st := rfl
theorem exec_ownRelease (f : BitVec 6) (u : BitVec 2) (n : BitVec 16) (st : State) : exec (.ownRelease f u n) st = execOwnRelease f u n st := rfl
theorem exec_cstatClear (f : BitVec 6) (hi : BitVec 1) (val : BitVec 64) (st : State) : exec (.cstatClear f hi val) st = execCstatClear f hi val st := rfl
theorem exec_counterSelectWrite (f : BitVec 6) (u : BitVec 2) (n : BitVec 16) (i : BitVec 4) (val : BitVec 64) (st : State) : exec (.counterSelectWrite f u n i val) st = execCounterSelectWrite f u n i val st := rfl
theorem exec_traceRecordWrite (st : State) : exec .traceRecordWrite st = execTraceRecordWrite st := rfl
theorem exec_debugStop (st : State) : exec .debugStop st = execDebugStop st := rfl
theorem exec_debugResume (st : State) : exec .debugResume st = execDebugResume st := rfl
theorem exec_snapOn (st : State) : exec .snapOn st = execSnapOn st := rfl
theorem exec_snapOff (st : State) : exec .snapOff st = execSnapOff st := rfl
theorem exec_debugReplay (ssn : BitVec 32) (st : State) : exec (.debugReplay ssn) st = execDebugReplay ssn st := rfl
theorem exec_haltAll (st : State) : exec .haltAll st = execHaltAll st := rfl
theorem exec_snapshot (f : BitVec 6) (jid : BitVec 32) (st : State) : exec (.snapshot f jid) st = execSnapshot f jid st := rfl
theorem exec_dstatRead (st : State) : exec .dstatRead st = execDstatRead st := rfl
theorem exec_stateWindowWrite (off : BitVec 16) (val : BitVec 64) (st : State) : exec (.stateWindowWrite off val) st = execStateWindowWrite off val st := rfl
theorem exec_flitCheckError (l : BitVec 20) (st : State) : exec (.flitCheckError l) st = execFlitCheckError l st := rfl
theorem exec_remoteAccessArrival (pa : BitVec 41) (op : BitVec 4) (sz : BitVec 2) (key : BitVec 6) (data : BitVec 128) (st : State) : exec (.remoteAccessArrival pa op sz key data) st = execRemoteAccessArrival pa op sz key data st := rfl
theorem exec_fabricIdAssign (id : BitVec 12) (st : State) : exec (.fabricIdAssign id) st = execFabricIdAssign id st := rfl

/-! ## The shared shape -/

/-- The meaning of an instruction is `issue` with some effect, but for FPUSH on a hub core, which is refused before (spec/15 R428). -/
def HasShape (i : Instr) : Prop :=
  ∀ s : State, (∀ sh rem rs2 rs1 rd p, i = .fpush sh rem rs2 rs1 rd p → isHub s.cur = false) →
    ∃ body : Mods → State → M Fin, exec i s = issue i s body


theorem shape_add (w : BitVec 1) (rs2 : BitVec 5) (rs1 : BitVec 5) (rd : BitVec 5) (p : BitVec 1) : HasShape (.add w rs2 rs1 rd p) := fun st _ =>
  ⟨_, by show execAdd w rs2 rs1 rd p st = _; unfold execAdd; rfl⟩
theorem shape_sub (w : BitVec 1) (rs2 : BitVec 5) (rs1 : BitVec 5) (rd : BitVec 5) (p : BitVec 1) : HasShape (.sub w rs2 rs1 rd p) := fun st _ =>
  ⟨_, by show execSub w rs2 rs1 rd p st = _; unfold execSub; rfl⟩
theorem shape_and (w : BitVec 1) (rs2 : BitVec 5) (rs1 : BitVec 5) (rd : BitVec 5) (p : BitVec 1) : HasShape (.and w rs2 rs1 rd p) := fun st _ =>
  ⟨_, by show execAnd w rs2 rs1 rd p st = _; unfold execAnd; rfl⟩
theorem shape_or (w : BitVec 1) (rs2 : BitVec 5) (rs1 : BitVec 5) (rd : BitVec 5) (p : BitVec 1) : HasShape (.or w rs2 rs1 rd p) := fun st _ =>
  ⟨_, by show execOr w rs2 rs1 rd p st = _; unfold execOr; rfl⟩
theorem shape_xor (w : BitVec 1) (rs2 : BitVec 5) (rs1 : BitVec 5) (rd : BitVec 5) (p : BitVec 1) : HasShape (.xor w rs2 rs1 rd p) := fun st _ =>
  ⟨_, by show execXor w rs2 rs1 rd p st = _; unfold execXor; rfl⟩
theorem shape_shl (w : BitVec 1) (rs2 : BitVec 5) (rs1 : BitVec 5) (rd : BitVec 5) (p : BitVec 1) : HasShape (.shl w rs2 rs1 rd p) := fun st _ =>
  ⟨_, by show execShl w rs2 rs1 rd p st = _; unfold execShl; rfl⟩
theorem shape_shr (w : BitVec 1) (rs2 : BitVec 5) (rs1 : BitVec 5) (rd : BitVec 5) (p : BitVec 1) : HasShape (.shr w rs2 rs1 rd p) := fun st _ =>
  ⟨_, by show execShr w rs2 rs1 rd p st = _; unfold execShr; rfl⟩
theorem shape_sha (w : BitVec 1) (rs2 : BitVec 5) (rs1 : BitVec 5) (rd : BitVec 5) (p : BitVec 1) : HasShape (.sha w rs2 rs1 rd p) := fun st _ =>
  ⟨_, by show execSha w rs2 rs1 rd p st = _; unfold execSha; rfl⟩
theorem shape_min (w : BitVec 1) (rs2 : BitVec 5) (rs1 : BitVec 5) (rd : BitVec 5) (p : BitVec 1) : HasShape (.min w rs2 rs1 rd p) := fun st _ =>
  ⟨_, by show execMin w rs2 rs1 rd p st = _; unfold execMin; rfl⟩
theorem shape_max (w : BitVec 1) (rs2 : BitVec 5) (rs1 : BitVec 5) (rd : BitVec 5) (p : BitVec 1) : HasShape (.max w rs2 rs1 rd p) := fun st _ =>
  ⟨_, by show execMax w rs2 rs1 rd p st = _; unfold execMax; rfl⟩
theorem shape_minn (w : BitVec 1) (rs2 : BitVec 5) (rs1 : BitVec 5) (rd : BitVec 5) (p : BitVec 1) : HasShape (.minn w rs2 rs1 rd p) := fun st _ =>
  ⟨_, by show execMinn w rs2 rs1 rd p st = _; unfold execMinn; rfl⟩
theorem shape_maxn (w : BitVec 1) (rs2 : BitVec 5) (rs1 : BitVec 5) (rd : BitVec 5) (p : BitVec 1) : HasShape (.maxn w rs2 rs1 rd p) := fun st _ =>
  ⟨_, by show execMaxn w rs2 rs1 rd p st = _; unfold execMaxn; rfl⟩
theorem shape_mul (w : BitVec 1) (rs2 : BitVec 5) (rs1 : BitVec 5) (rd : BitVec 5) (p : BitVec 1) : HasShape (.mul w rs2 rs1 rd p) := fun st _ =>
  ⟨_, by show execMul w rs2 rs1 rd p st = _; unfold execMul; rfl⟩
theorem shape_mulh (w : BitVec 1) (rs2 : BitVec 5) (rs1 : BitVec 5) (rd : BitVec 5) (p : BitVec 1) : HasShape (.mulh w rs2 rs1 rd p) := fun st _ =>
  ⟨_, by show execMulh w rs2 rs1 rd p st = _; unfold execMulh; rfl⟩
theorem shape_mulhn (w : BitVec 1) (rs2 : BitVec 5) (rs1 : BitVec 5) (rd : BitVec 5) (p : BitVec 1) : HasShape (.mulhn w rs2 rs1 rd p) := fun st _ =>
  ⟨_, by show execMulhn w rs2 rs1 rd p st = _; unfold execMulhn; rfl⟩
theorem shape_div (w : BitVec 1) (rs2 : BitVec 5) (rs1 : BitVec 5) (rd : BitVec 5) (p : BitVec 1) : HasShape (.div w rs2 rs1 rd p) := fun st _ =>
  ⟨_, by show execDiv w rs2 rs1 rd p st = _; unfold execDiv; rfl⟩
theorem shape_divn (w : BitVec 1) (rs2 : BitVec 5) (rs1 : BitVec 5) (rd : BitVec 5) (p : BitVec 1) : HasShape (.divn w rs2 rs1 rd p) := fun st _ =>
  ⟨_, by show execDivn w rs2 rs1 rd p st = _; unfold execDivn; rfl⟩
theorem shape_rem (w : BitVec 1) (rs2 : BitVec 5) (rs1 : BitVec 5) (rd : BitVec 5) (p : BitVec 1) : HasShape (.rem w rs2 rs1 rd p) := fun st _ =>
  ⟨_, by show execRem w rs2 rs1 rd p st = _; unfold execRem; rfl⟩
theorem shape_remn (w : BitVec 1) (rs2 : BitVec 5) (rs1 : BitVec 5) (rd : BitVec 5) (p : BitVec 1) : HasShape (.remn w rs2 rs1 rd p) := fun st _ =>
  ⟨_, by show execRemn w rs2 rs1 rd p st = _; unfold execRemn; rfl⟩
theorem shape_clz (w : BitVec 1) (rs1 : BitVec 5) (rd : BitVec 5) (p : BitVec 1) : HasShape (.clz w rs1 rd p) := fun st _ =>
  ⟨_, by show execClz w rs1 rd p st = _; unfold execClz; rfl⟩
theorem shape_ctz (w : BitVec 1) (rs1 : BitVec 5) (rd : BitVec 5) (p : BitVec 1) : HasShape (.ctz w rs1 rd p) := fun st _ =>
  ⟨_, by show execCtz w rs1 rd p st = _; unfold execCtz; rfl⟩
theorem shape_popc (w : BitVec 1) (rs1 : BitVec 5) (rd : BitVec 5) (p : BitVec 1) : HasShape (.popc w rs1 rd p) := fun st _ =>
  ⟨_, by show execPopc w rs1 rd p st = _; unfold execPopc; rfl⟩
theorem shape_andn (w : BitVec 1) (rs2 : BitVec 5) (rs1 : BitVec 5) (rd : BitVec 5) (p : BitVec 1) : HasShape (.andn w rs2 rs1 rd p) := fun st _ =>
  ⟨_, by show execAndn w rs2 rs1 rd p st = _; unfold execAndn; rfl⟩
theorem shape_orn (w : BitVec 1) (rs2 : BitVec 5) (rs1 : BitVec 5) (rd : BitVec 5) (p : BitVec 1) : HasShape (.orn w rs2 rs1 rd p) := fun st _ =>
  ⟨_, by show execOrn w rs2 rs1 rd p st = _; unfold execOrn; rfl⟩
theorem shape_addi (imm : BitVec 12) (rs1 : BitVec 5) (rd : BitVec 5) (p : BitVec 1) : HasShape (.addi imm rs1 rd p) := fun st _ =>
  ⟨_, by show execAddi imm rs1 rd p st = _; unfold execAddi; rfl⟩
theorem shape_andi (imm : BitVec 12) (rs1 : BitVec 5) (rd : BitVec 5) (p : BitVec 1) : HasShape (.andi imm rs1 rd p) := fun st _ =>
  ⟨_, by show execAndi imm rs1 rd p st = _; unfold execAndi; rfl⟩
theorem shape_ori (imm : BitVec 12) (rs1 : BitVec 5) (rd : BitVec 5) (p : BitVec 1) : HasShape (.ori imm rs1 rd p) := fun st _ =>
  ⟨_, by show execOri imm rs1 rd p st = _; unfold execOri; rfl⟩
theorem shape_xori (imm : BitVec 12) (rs1 : BitVec 5) (rd : BitVec 5) (p : BitVec 1) : HasShape (.xori imm rs1 rd p) := fun st _ =>
  ⟨_, by show execXori imm rs1 rd p st = _; unfold execXori; rfl⟩
theorem shape_shli (w : BitVec 1) (h : BitVec 6) (rs1 : BitVec 5) (rd : BitVec 5) (p : BitVec 1) : HasShape (.shli w h rs1 rd p) := fun st _ =>
  ⟨_, by show execShli w h rs1 rd p st = _; unfold execShli; rfl⟩
theorem shape_shri (w : BitVec 1) (h : BitVec 6) (rs1 : BitVec 5) (rd : BitVec 5) (p : BitVec 1) : HasShape (.shri w h rs1 rd p) := fun st _ =>
  ⟨_, by show execShri w h rs1 rd p st = _; unfold execShri; rfl⟩
theorem shape_shai (w : BitVec 1) (h : BitVec 6) (rs1 : BitVec 5) (rd : BitVec 5) (p : BitVec 1) : HasShape (.shai w h rs1 rd p) := fun st _ =>
  ⟨_, by show execShai w h rs1 rd p st = _; unfold execShai; rfl⟩
theorem shape_lea (imm : BitVec 10) (c : BitVec 2) (rs1 : BitVec 5) (rd : BitVec 5) (p : BitVec 1) : HasShape (.lea imm c rs1 rd p) := fun st _ =>
  ⟨_, by show execLea imm c rs1 rd p st = _; unfold execLea; rfl⟩
theorem shape_ldi (x : BitVec 1) (imm : BitVec 32) (rd : BitVec 5) (p : BitVec 1) : HasShape (.ldi x imm rd p) := fun st _ =>
  ⟨_, by show execLdi x imm rd p st = _; unfold execLdi; rfl⟩
theorem shape_ldih (imm : BitVec 32) (rd : BitVec 5) (p : BitVec 1) : HasShape (.ldih imm rd p) := fun st _ =>
  ⟨_, by show execLdih imm rd p st = _; unfold execLdih; rfl⟩
theorem shape_bnd (rs2 : BitVec 5) (rs1 : BitVec 5) (rd : BitVec 5) (p : BitVec 1) : HasShape (.bnd rs2 rs1 rd p) := fun st _ =>
  ⟨_, by show execBnd rs2 rs1 rd p st = _; unfold execBnd; rfl⟩
theorem shape_bndi (imm : BitVec 12) (rs1 : BitVec 5) (rd : BitVec 5) (p : BitVec 1) : HasShape (.bndi imm rs1 rd p) := fun st _ =>
  ⟨_, by show execBndi imm rs1 rd p st = _; unfold execBndi; rfl⟩
theorem shape_muli (imm : BitVec 12) (rs1 : BitVec 5) (rd : BitVec 5) (p : BitVec 1) : HasShape (.muli imm rs1 rd p) := fun st _ =>
  ⟨_, by show execMuli imm rs1 rd p st = _; unfold execMuli; rfl⟩
theorem shape_addiW (imm : BitVec 12) (rs1 : BitVec 5) (rd : BitVec 5) (p : BitVec 1) : HasShape (.addiW imm rs1 rd p) := fun st _ =>
  ⟨_, by show execAddiW imm rs1 rd p st = _; unfold execAddiW; rfl⟩
theorem shape_bdset (lr : BitVec 1) (esz : BitVec 3) (rs2 : BitVec 5) (rs1 : BitVec 5) (clr : BitVec 1) (n : BitVec 3) (leni : BitVec 24) (p : BitVec 1) : HasShape (.bdset lr esz rs2 rs1 clr n leni p) := fun st _ =>
  ⟨_, by show execBdset lr esz rs2 rs1 clr n leni p st = _; unfold execBdset; rfl⟩
theorem shape_cmp (w : BitVec 1) (c : BitVec 3) (rs2 : BitVec 5) (rs1 : BitVec 5) (rd : BitVec 3) (p : BitVec 1) : HasShape (.cmp w c rs2 rs1 rd p) := fun st _ =>
  ⟨_, by show execCmp w c rs2 rs1 rd p st = _; unfold execCmp; rfl⟩
theorem shape_cmpi (imm : BitVec 9) (c : BitVec 3) (rs1 : BitVec 5) (rd : BitVec 3) (p : BitVec 1) : HasShape (.cmpi imm c rs1 rd p) := fun st _ =>
  ⟨_, by show execCmpi imm c rs1 rd p st = _; unfold execCmpi; rfl⟩
theorem shape_plog (l : BitVec 4) (rs2 : BitVec 3) (rs1 : BitVec 3) (rd : BitVec 3) (p : BitVec 1) : HasShape (.plog l rs2 rs1 rd p) := fun st _ =>
  ⟨_, by show execPlog l rs2 rs1 rd p st = _; unfold execPlog; rfl⟩
theorem shape_sel (n : BitVec 1) (c : BitVec 3) (rs2 : BitVec 5) (rs1 : BitVec 5) (rd : BitVec 5) (p : BitVec 1) : HasShape (.sel n c rs2 rs1 rd p) := fun st _ =>
  ⟨_, by show execSel n c rs2 rs1 rd p st = _; unfold execSel; rfl⟩
theorem shape_pmovToScalar (rd : BitVec 5) (p : BitVec 1) : HasShape (.pmovToScalar rd p) := fun st _ =>
  ⟨_, by show execPmovToScalar rd p st = _; unfold execPmovToScalar; rfl⟩
theorem shape_pmovFromScalar (rs1 : BitVec 5) (p : BitVec 1) : HasShape (.pmovFromScalar rs1 p) := fun st _ =>
  ⟨_, by show execPmovFromScalar rs1 p st = _; unfold execPmovFromScalar; rfl⟩
theorem shape_br (imm : BitVec 18) (n : BitVec 1) (c : BitVec 3) : HasShape (.br imm n c) := fun st _ =>
  ⟨_, by show execBr imm n c st = _; unfold execBr; rfl⟩
theorem shape_j (imm : BitVec 22) : HasShape (.j imm) := fun st _ =>
  ⟨_, by show execJ imm st = _; unfold execJ; rfl⟩
theorem shape_jr (rs1 : BitVec 5) (p : BitVec 1) : HasShape (.jr rs1 p) := fun st _ =>
  ⟨_, by show execJr rs1 p st = _; unfold execJr; rfl⟩
theorem shape_call (imm : BitVec 22) : HasShape (.call imm) := fun st _ =>
  ⟨_, by show execCall imm st = _; unfold execCall; rfl⟩
theorem shape_callr (rs1 : BitVec 5) (p : BitVec 1) : HasShape (.callr rs1 p) := fun st _ =>
  ⟨_, by show execCallr rs1 p st = _; unfold execCallr; rfl⟩
theorem shape_ret (p : BitVec 1) : HasShape (.ret p) := fun st _ =>
  ⟨_, by show execRet p st = _; unfold execRet; rfl⟩
theorem shape_loop (imm : BitVec 18) (c : BitVec 3) : HasShape (.loop imm c) := fun st _ =>
  ⟨_, by show execLoop imm c st = _; unfold execLoop; rfl⟩
theorem shape_repf (n : BitVec 12) (rs1 : BitVec 2) (v : BitVec 4) (l : BitVec 4) : HasShape (.repf n rs1 v l) := fun st _ =>
  ⟨_, by show execRepf n rs1 v l st = _; unfold execRepf; rfl⟩
theorem shape_ldb (imm : BitVec 12) (rs1 : BitVec 5) (rd : BitVec 5) (p : BitVec 1) : HasShape (.ldb imm rs1 rd p) := fun st _ =>
  ⟨_, by show execLdb imm rs1 rd p st = _; unfold execLdb; rfl⟩
theorem shape_ldbn (imm : BitVec 12) (rs1 : BitVec 5) (rd : BitVec 5) (p : BitVec 1) : HasShape (.ldbn imm rs1 rd p) := fun st _ =>
  ⟨_, by show execLdbn imm rs1 rd p st = _; unfold execLdbn; rfl⟩
theorem shape_ldh (imm : BitVec 12) (rs1 : BitVec 5) (rd : BitVec 5) (p : BitVec 1) : HasShape (.ldh imm rs1 rd p) := fun st _ =>
  ⟨_, by show execLdh imm rs1 rd p st = _; unfold execLdh; rfl⟩
theorem shape_ldhn (imm : BitVec 12) (rs1 : BitVec 5) (rd : BitVec 5) (p : BitVec 1) : HasShape (.ldhn imm rs1 rd p) := fun st _ =>
  ⟨_, by show execLdhn imm rs1 rd p st = _; unfold execLdhn; rfl⟩
theorem shape_ldw (imm : BitVec 12) (rs1 : BitVec 5) (rd : BitVec 5) (p : BitVec 1) : HasShape (.ldw imm rs1 rd p) := fun st _ =>
  ⟨_, by show execLdw imm rs1 rd p st = _; unfold execLdw; rfl⟩
theorem shape_ldwn (imm : BitVec 12) (rs1 : BitVec 5) (rd : BitVec 5) (p : BitVec 1) : HasShape (.ldwn imm rs1 rd p) := fun st _ =>
  ⟨_, by show execLdwn imm rs1 rd p st = _; unfold execLdwn; rfl⟩
theorem shape_ldd (imm : BitVec 12) (rs1 : BitVec 5) (rd : BitVec 5) (p : BitVec 1) : HasShape (.ldd imm rs1 rd p) := fun st _ =>
  ⟨_, by show execLdd imm rs1 rd p st = _; unfold execLdd; rfl⟩
theorem shape_stb (imm : BitVec 12) (rs1 : BitVec 5) (rd : BitVec 5) (p : BitVec 1) : HasShape (.stb imm rs1 rd p) := fun st _ =>
  ⟨_, by show execStb imm rs1 rd p st = _; unfold execStb; rfl⟩
theorem shape_sth (imm : BitVec 12) (rs1 : BitVec 5) (rd : BitVec 5) (p : BitVec 1) : HasShape (.sth imm rs1 rd p) := fun st _ =>
  ⟨_, by show execSth imm rs1 rd p st = _; unfold execSth; rfl⟩
theorem shape_stw (imm : BitVec 12) (rs1 : BitVec 5) (rd : BitVec 5) (p : BitVec 1) : HasShape (.stw imm rs1 rd p) := fun st _ =>
  ⟨_, by show execStw imm rs1 rd p st = _; unfold execStw; rfl⟩
theorem shape_std (imm : BitVec 12) (rs1 : BitVec 5) (rd : BitVec 5) (p : BitVec 1) : HasShape (.std imm rs1 rd p) := fun st _ =>
  ⟨_, by show execStd imm rs1 rd p st = _; unfold execStd; rfl⟩
theorem shape_ldx (x : BitVec 1) (n : BitVec 3) (rs1 : BitVec 5) (rd : BitVec 5) (p : BitVec 1) : HasShape (.ldx x n rs1 rd p) := fun st _ =>
  ⟨_, by show execLdx x n rs1 rd p st = _; unfold execLdx; rfl⟩
theorem shape_stx (n : BitVec 3) (rs1 : BitVec 5) (rd : BitVec 5) (p : BitVec 1) : HasShape (.stx n rs1 rd p) := fun st _ =>
  ⟨_, by show execStx n rs1 rd p st = _; unfold execStx; rfl⟩
theorem shape_tags (f : BitVec 1) (rs2 : BitVec 5) (rs1 : BitVec 5) (p : BitVec 1) : HasShape (.tags f rs2 rs1 p) := fun st _ =>
  ⟨_, by show execTags f rs2 rs1 p st = _; unfold execTags; rfl⟩
theorem shape_tagr (f : BitVec 1) (rs1 : BitVec 5) (rd : BitVec 5) (p : BitVec 1) : HasShape (.tagr f rs1 rd p) := fun st _ =>
  ⟨_, by show execTagr f rs1 rd p st = _; unfold execTagr; rfl⟩
theorem shape_tagp (f : BitVec 1) (rs2 : BitVec 5) (rs1 : BitVec 5) (rd : BitVec 5) (p : BitVec 1) : HasShape (.tagp f rs2 rs1 rd p) := fun st _ =>
  ⟨_, by show execTagp f rs2 rs1 rd p st = _; unfold execTagp; rfl⟩
theorem shape_probe (imm : BitVec 8) (k : BitVec 1) (f : BitVec 1) (rs1 : BitVec 5) (s : BitVec 2) (rd : BitVec 3) (p : BitVec 1) : HasShape (.probe imm k f rs1 s rd p) := fun st _ =>
  ⟨_, by show execProbe imm k f rs1 s rd p st = _; unfold execProbe; rfl⟩
theorem shape_bcopy (rs2 : BitVec 5) (rs1 : BitVec 5) (rd : BitVec 5) (p : BitVec 1) : HasShape (.bcopy rs2 rs1 rd p) := fun st _ =>
  ⟨_, by show execBcopy rs2 rs1 rd p st = _; unfold execBcopy; rfl⟩
theorem shape_ldf (imm : BitVec 10) (z : BitVec 1) (rs1 : BitVec 5) (rd : BitVec 5) (p : BitVec 1) : HasShape (.ldf imm z rs1 rd p) := fun st _ =>
  ⟨_, by show execLdf imm z rs1 rd p st = _; unfold execLdf; rfl⟩
theorem shape_ldfc (imm : BitVec 10) (z : BitVec 1) (rs1 : BitVec 5) (rd : BitVec 5) (p : BitVec 1) : HasShape (.ldfc imm z rs1 rd p) := fun st _ =>
  ⟨_, by show execLdfc imm z rs1 rd p st = _; unfold execLdfc; rfl⟩
theorem shape_stf (imm : BitVec 10) (z : BitVec 1) (rs1 : BitVec 5) (rd : BitVec 5) (p : BitVec 1) : HasShape (.stf imm z rs1 rd p) := fun st _ =>
  ⟨_, by show execStf imm z rs1 rd p st = _; unfold execStf; rfl⟩
theorem shape_fec (rs2 : BitVec 5) (rs1 : BitVec 5) (p : BitVec 1) : HasShape (.fec rs2 rs1 p) := fun st _ =>
  ⟨_, by show execFec rs2 rs1 p st = _; unfold execFec; rfl⟩
theorem shape_feq (rs1 : BitVec 5) (rd : BitVec 3) (p : BitVec 1) : HasShape (.feq rs1 rd p) := fun st _ =>
  ⟨_, by show execFeq rs1 rd p st = _; unfold execFeq; rfl⟩
theorem shape_amoAdd (g : BitVec 3) (s : BitVec 5) (rs1 : BitVec 5) (o : BitVec 2) (w : BitVec 1) (r : BitVec 2) (p : BitVec 1) : HasShape (.amoAdd g s rs1 o w r p) := fun st _ =>
  ⟨_, by show execAmoAdd g s rs1 o w r p st = _; unfold execAmoAdd; rfl⟩
theorem shape_amoAnd (g : BitVec 3) (s : BitVec 5) (rs1 : BitVec 5) (o : BitVec 2) (w : BitVec 1) (r : BitVec 2) (p : BitVec 1) : HasShape (.amoAnd g s rs1 o w r p) := fun st _ =>
  ⟨_, by show execAmoAnd g s rs1 o w r p st = _; unfold execAmoAnd; rfl⟩
theorem shape_amoOr (g : BitVec 3) (s : BitVec 5) (rs1 : BitVec 5) (o : BitVec 2) (w : BitVec 1) (r : BitVec 2) (p : BitVec 1) : HasShape (.amoOr g s rs1 o w r p) := fun st _ =>
  ⟨_, by show execAmoOr g s rs1 o w r p st = _; unfold execAmoOr; rfl⟩
theorem shape_amoXor (g : BitVec 3) (s : BitVec 5) (rs1 : BitVec 5) (o : BitVec 2) (w : BitVec 1) (r : BitVec 2) (p : BitVec 1) : HasShape (.amoXor g s rs1 o w r p) := fun st _ =>
  ⟨_, by show execAmoXor g s rs1 o w r p st = _; unfold execAmoXor; rfl⟩
theorem shape_amoMin (g : BitVec 3) (s : BitVec 5) (rs1 : BitVec 5) (o : BitVec 2) (w : BitVec 1) (r : BitVec 2) (p : BitVec 1) : HasShape (.amoMin g s rs1 o w r p) := fun st _ =>
  ⟨_, by show execAmoMin g s rs1 o w r p st = _; unfold execAmoMin; rfl⟩
theorem shape_amoMax (g : BitVec 3) (s : BitVec 5) (rs1 : BitVec 5) (o : BitVec 2) (w : BitVec 1) (r : BitVec 2) (p : BitVec 1) : HasShape (.amoMax g s rs1 o w r p) := fun st _ =>
  ⟨_, by show execAmoMax g s rs1 o w r p st = _; unfold execAmoMax; rfl⟩
theorem shape_amoMinn (g : BitVec 3) (s : BitVec 5) (rs1 : BitVec 5) (o : BitVec 2) (w : BitVec 1) (r : BitVec 2) (p : BitVec 1) : HasShape (.amoMinn g s rs1 o w r p) := fun st _ =>
  ⟨_, by show execAmoMinn g s rs1 o w r p st = _; unfold execAmoMinn; rfl⟩
theorem shape_amoMaxn (g : BitVec 3) (s : BitVec 5) (rs1 : BitVec 5) (o : BitVec 2) (w : BitVec 1) (r : BitVec 2) (p : BitVec 1) : HasShape (.amoMaxn g s rs1 o w r p) := fun st _ =>
  ⟨_, by show execAmoMaxn g s rs1 o w r p st = _; unfold execAmoMaxn; rfl⟩
theorem shape_amoSwap (g : BitVec 3) (s : BitVec 5) (rs1 : BitVec 5) (o : BitVec 2) (w : BitVec 1) (r : BitVec 2) (p : BitVec 1) : HasShape (.amoSwap g s rs1 o w r p) := fun st _ =>
  ⟨_, by show execAmoSwap g s rs1 o w r p st = _; unfold execAmoSwap; rfl⟩
theorem shape_cas (g : BitVec 3) (s : BitVec 5) (rs1 : BitVec 5) (o : BitVec 2) (w : BitVec 1) (r : BitVec 2) (p : BitVec 1) : HasShape (.cas g s rs1 o w r p) := fun st _ =>
  ⟨_, by show execCas g s rs1 o w r p st = _; unfold execCas; rfl⟩
theorem shape_fence (g : BitVec 3) (s : BitVec 5) (o : BitVec 2) : HasShape (.fence g s o) := fun st _ =>
  ⟨_, by show execFence g s o st = _; unfold execFence; rfl⟩
theorem shape_qinit (q : BitVec 5) (rs2 : BitVec 5) (rs1 : BitVec 5) (rd : BitVec 3) (p : BitVec 1) : HasShape (.qinit q rs2 rs1 rd p) := fun st _ =>
  ⟨_, by show execQinit q rs2 rs1 rd p st = _; unfold execQinit; rfl⟩
theorem shape_qenq (q : BitVec 5) (rs1 : BitVec 5) (v : BitVec 1) (rd : BitVec 3) (p : BitVec 1) : HasShape (.qenq q rs1 v rd p) := fun st _ =>
  ⟨_, by show execQenq q rs1 v rd p st = _; unfold execQenq; rfl⟩
theorem shape_qdeq (q : BitVec 5) (v : BitVec 1) (c : BitVec 3) (rd : BitVec 5) (p : BitVec 1) : HasShape (.qdeq q v c rd p) := fun st _ =>
  ⟨_, by show execQdeq q v c rd p st = _; unfold execQdeq; rfl⟩
theorem shape_qcnt (q : BitVec 5) (rd : BitVec 5) (p : BitVec 1) : HasShape (.qcnt q rd p) := fun st _ =>
  ⟨_, by show execQcnt q rd p st = _; unfold execQcnt; rfl⟩
theorem shape_oldest  : HasShape (.oldest ) := fun st _ =>
  ⟨_, by show execOldest  st = _; unfold execOldest; rfl⟩
theorem shape_rds (n : BitVec 12) (rd : BitVec 5) (p : BitVec 1) : HasShape (.rds n rd p) := fun st _ =>
  ⟨_, by show execRds n rd p st = _; unfold execRds; rfl⟩
theorem shape_wrs (n : BitVec 12) (rs1 : BitVec 5) (p : BitVec 1) : HasShape (.wrs n rs1 p) := fun st _ =>
  ⟨_, by show execWrs n rs1 p st = _; unfold execWrs; rfl⟩
theorem shape_trap (c : BitVec 12) : HasShape (.trap c) := fun st _ =>
  ⟨_, by show execTrap c st = _; unfold execTrap; rfl⟩
theorem shape_eret  : HasShape (.eret ) := fun st _ =>
  ⟨_, by show execEret  st = _; unfold execEret; rfl⟩
theorem shape_tend  : HasShape (.tend ) := fun st _ =>
  ⟨_, by show execTend  st = _; unfold execTend; rfl⟩
theorem shape_yield  : HasShape (.yield ) := fun st _ =>
  ⟨_, by show execYield  st = _; unfold execYield; rfl⟩
theorem shape_tspawn (rs2 : BitVec 5) (rs1 : BitVec 5) (rd : BitVec 3) : HasShape (.tspawn rs2 rs1 rd) := fun st _ =>
  ⟨_, by show execTspawn rs2 rs1 rd st = _; unfold execTspawn; rfl⟩
theorem shape_brk (c : BitVec 12) : HasShape (.brk c) := fun st _ =>
  ⟨_, by show execBrk c st = _; unfold execBrk; rfl⟩
theorem shape_trc (t : BitVec 7) (rs2 : BitVec 5) (rs1 : BitVec 5) (p : BitVec 1) : HasShape (.trc t rs2 rs1 p) := fun st _ =>
  ⟨_, by show execTrc t rs2 rs1 p st = _; unfold execTrc; rfl⟩
theorem shape_cnt (c : BitVec 2) (rd : BitVec 5) (p : BitVec 1) : HasShape (.cnt c rd p) := fun st _ =>
  ⟨_, by show execCnt c rd p st = _; unfold execCnt; rfl⟩
theorem shape_cntSel (c : BitVec 2) (rs1 : BitVec 5) (p : BitVec 1) : HasShape (.cntSel c rs1 p) := fun st _ =>
  ⟨_, by show execCntSel c rs1 p st = _; unfold execCntSel; rfl⟩
theorem shape_vld (imm : BitVec 10) (rs1 : BitVec 5) (rd : BitVec 5) (p : BitVec 1) : HasShape (.vld imm rs1 rd p) := fun st _ =>
  ⟨_, by show execVld imm rs1 rd p st = _; unfold execVld; rfl⟩
theorem shape_vldDec (imm : BitVec 10) (rs1 : BitVec 5) (rd : BitVec 5) (p : BitVec 1) : HasShape (.vldDec imm rs1 rd p) := fun st _ =>
  ⟨_, by show execVldDec imm rs1 rd p st = _; unfold execVldDec; rfl⟩
theorem shape_vst (imm : BitVec 10) (rs1 : BitVec 5) (rd : BitVec 5) (p : BitVec 1) : HasShape (.vst imm rs1 rd p) := fun st _ =>
  ⟨_, by show execVst imm rs1 rd p st = _; unfold execVst; rfl⟩
theorem shape_vstCnv (imm : BitVec 10) (rs1 : BitVec 5) (rd : BitVec 5) (p : BitVec 1) : HasShape (.vstCnv imm rs1 rd p) := fun st _ =>
  ⟨_, by show execVstCnv imm rs1 rd p st = _; unfold execVstCnv; rfl⟩
theorem shape_vlds (imm : BitVec 12) (rs1 : BitVec 5) (rd : BitVec 5) (p : BitVec 1) : HasShape (.vlds imm rs1 rd p) := fun st _ =>
  ⟨_, by show execVlds imm rs1 rd p st = _; unfold execVlds; rfl⟩
theorem shape_vsts (imm : BitVec 12) (rs1 : BitVec 5) (rd : BitVec 5) (p : BitVec 1) : HasShape (.vsts imm rs1 rd p) := fun st _ =>
  ⟨_, by show execVsts imm rs1 rd p st = _; unfold execVsts; rfl⟩
theorem shape_vgath (rs2 : BitVec 5) (rs1 : BitVec 5) (rd : BitVec 5) (p : BitVec 1) : HasShape (.vgath rs2 rs1 rd p) := fun st _ =>
  ⟨_, by show execVgath rs2 rs1 rd p st = _; unfold execVgath; rfl⟩
theorem shape_vscat (rs2 : BitVec 5) (rs1 : BitVec 5) (rd : BitVec 5) (p : BitVec 1) : HasShape (.vscat rs2 rs1 rd p) := fun st _ =>
  ⟨_, by show execVscat rs2 rs1 rd p st = _; unfold execVscat; rfl⟩
theorem shape_vadd (t : BitVec 4) (rs2 : BitVec 5) (rs1 : BitVec 5) (rd : BitVec 5) (p : BitVec 1) : HasShape (.vadd t rs2 rs1 rd p) := fun st _ =>
  ⟨_, by show execVadd t rs2 rs1 rd p st = _; unfold execVadd; rfl⟩
theorem shape_vsub (t : BitVec 4) (rs2 : BitVec 5) (rs1 : BitVec 5) (rd : BitVec 5) (p : BitVec 1) : HasShape (.vsub t rs2 rs1 rd p) := fun st _ =>
  ⟨_, by show execVsub t rs2 rs1 rd p st = _; unfold execVsub; rfl⟩
theorem shape_vmul (t : BitVec 4) (rs2 : BitVec 5) (rs1 : BitVec 5) (rd : BitVec 5) (p : BitVec 1) : HasShape (.vmul t rs2 rs1 rd p) := fun st _ =>
  ⟨_, by show execVmul t rs2 rs1 rd p st = _; unfold execVmul; rfl⟩
theorem shape_vmin (t : BitVec 4) (rs2 : BitVec 5) (rs1 : BitVec 5) (rd : BitVec 5) (p : BitVec 1) : HasShape (.vmin t rs2 rs1 rd p) := fun st _ =>
  ⟨_, by show execVmin t rs2 rs1 rd p st = _; unfold execVmin; rfl⟩
theorem shape_vmax (t : BitVec 4) (rs2 : BitVec 5) (rs1 : BitVec 5) (rd : BitVec 5) (p : BitVec 1) : HasShape (.vmax t rs2 rs1 rd p) := fun st _ =>
  ⟨_, by show execVmax t rs2 rs1 rd p st = _; unfold execVmax; rfl⟩
theorem shape_vabs (t : BitVec 4) (rs1 : BitVec 5) (rd : BitVec 5) (p : BitVec 1) : HasShape (.vabs t rs1 rd p) := fun st _ =>
  ⟨_, by show execVabs t rs1 rd p st = _; unfold execVabs; rfl⟩
theorem shape_vneg (t : BitVec 4) (rs1 : BitVec 5) (rd : BitVec 5) (p : BitVec 1) : HasShape (.vneg t rs1 rd p) := fun st _ =>
  ⟨_, by show execVneg t rs1 rd p st = _; unfold execVneg; rfl⟩
theorem shape_vfma (t : BitVec 4) (rs2 : BitVec 5) (rs1 : BitVec 5) (rd : BitVec 5) (p : BitVec 1) : HasShape (.vfma t rs2 rs1 rd p) := fun st _ =>
  ⟨_, by show execVfma t rs2 rs1 rd p st = _; unfold execVfma; rfl⟩
theorem shape_vfms (t : BitVec 4) (rs2 : BitVec 5) (rs1 : BitVec 5) (rd : BitVec 5) (p : BitVec 1) : HasShape (.vfms t rs2 rs1 rd p) := fun st _ =>
  ⟨_, by show execVfms t rs2 rs1 rd p st = _; unfold execVfms; rfl⟩
theorem shape_vfnma (t : BitVec 4) (rs2 : BitVec 5) (rs1 : BitVec 5) (rd : BitVec 5) (p : BitVec 1) : HasShape (.vfnma t rs2 rs1 rd p) := fun st _ =>
  ⟨_, by show execVfnma t rs2 rs1 rd p st = _; unfold execVfnma; rfl⟩
theorem shape_vand (rs2 : BitVec 5) (rs1 : BitVec 5) (rd : BitVec 5) (p : BitVec 1) : HasShape (.vand rs2 rs1 rd p) := fun st _ =>
  ⟨_, by show execVand rs2 rs1 rd p st = _; unfold execVand; rfl⟩
theorem shape_vor (rs2 : BitVec 5) (rs1 : BitVec 5) (rd : BitVec 5) (p : BitVec 1) : HasShape (.vor rs2 rs1 rd p) := fun st _ =>
  ⟨_, by show execVor rs2 rs1 rd p st = _; unfold execVor; rfl⟩
theorem shape_vxor (rs2 : BitVec 5) (rs1 : BitVec 5) (rd : BitVec 5) (p : BitVec 1) : HasShape (.vxor rs2 rs1 rd p) := fun st _ =>
  ⟨_, by show execVxor rs2 rs1 rd p st = _; unfold execVxor; rfl⟩
theorem shape_vandn (rs2 : BitVec 5) (rs1 : BitVec 5) (rd : BitVec 5) (p : BitVec 1) : HasShape (.vandn rs2 rs1 rd p) := fun st _ =>
  ⟨_, by show execVandn rs2 rs1 rd p st = _; unfold execVandn; rfl⟩
theorem shape_vcmp (t : BitVec 4) (c : BitVec 3) (rs2 : BitVec 5) (rs1 : BitVec 5) (rd : BitVec 3) (p : BitVec 1) : HasShape (.vcmp t c rs2 rs1 rd p) := fun st _ =>
  ⟨_, by show execVcmp t c rs2 rs1 rd p st = _; unfold execVcmp; rfl⟩
theorem shape_vsel (m : BitVec 3) (rs2 : BitVec 5) (rs1 : BitVec 5) (rd : BitVec 5) (p : BitVec 1) : HasShape (.vsel m rs2 rs1 rd p) := fun st _ =>
  ⟨_, by show execVsel m rs2 rs1 rd p st = _; unfold execVsel; rfl⟩
theorem shape_vredAdd (t : BitVec 4) (q : BitVec 3) (rs1 : BitVec 5) (rd : BitVec 5) (p : BitVec 1) : HasShape (.vredAdd t q rs1 rd p) := fun st _ =>
  ⟨_, by show execVredAdd t q rs1 rd p st = _; unfold execVredAdd; rfl⟩
theorem shape_vredMax (t : BitVec 4) (q : BitVec 3) (rs1 : BitVec 5) (rd : BitVec 5) (p : BitVec 1) : HasShape (.vredMax t q rs1 rd p) := fun st _ =>
  ⟨_, by show execVredMax t q rs1 rd p st = _; unfold execVredMax; rfl⟩
theorem shape_vredMin (t : BitVec 4) (q : BitVec 3) (rs1 : BitVec 5) (rd : BitVec 5) (p : BitVec 1) : HasShape (.vredMin t q rs1 rd p) := fun st _ =>
  ⟨_, by show execVredMin t q rs1 rd p st = _; unfold execVredMin; rfl⟩
theorem shape_vcvt (s : BitVec 4) (p : BitVec 2) (t : BitVec 4) (rs1 : BitVec 5) (rd : BitVec 5) (p_part2 : BitVec 1) : HasShape (.vcvt s p t rs1 rd p_part2) := fun st _ =>
  ⟨_, by show execVcvt s p t rs1 rd p_part2 st = _; unfold execVcvt; rfl⟩
theorem shape_vbcst (rs1 : BitVec 5) (rd : BitVec 5) (p : BitVec 1) : HasShape (.vbcst rs1 rd p) := fun st _ =>
  ⟨_, by show execVbcst rs1 rd p st = _; unfold execVbcst; rfl⟩
theorem shape_vext (x : BitVec 1) (rs2 : BitVec 5) (rs1 : BitVec 5) (rd : BitVec 5) (p : BitVec 1) : HasShape (.vext x rs2 rs1 rd p) := fun st _ =>
  ⟨_, by show execVext x rs2 rs1 rd p st = _; unfold execVext; rfl⟩
theorem shape_vperm (rs2 : BitVec 5) (rs1 : BitVec 5) (rd : BitVec 5) (p : BitVec 1) : HasShape (.vperm rs2 rs1 rd p) := fun st _ =>
  ⟨_, by show execVperm rs2 rs1 rd p st = _; unfold execVperm; rfl⟩
theorem shape_vmskAnd (rs2 : BitVec 3) (rs1 : BitVec 3) (rd : BitVec 3) (p : BitVec 1) : HasShape (.vmskAnd rs2 rs1 rd p) := fun st _ =>
  ⟨_, by show execVmskAnd rs2 rs1 rd p st = _; unfold execVmskAnd; rfl⟩
theorem shape_vmskOr (rs2 : BitVec 3) (rs1 : BitVec 3) (rd : BitVec 3) (p : BitVec 1) : HasShape (.vmskOr rs2 rs1 rd p) := fun st _ =>
  ⟨_, by show execVmskOr rs2 rs1 rd p st = _; unfold execVmskOr; rfl⟩
theorem shape_vmskXor (rs2 : BitVec 3) (rs1 : BitVec 3) (rd : BitVec 3) (p : BitVec 1) : HasShape (.vmskXor rs2 rs1 rd p) := fun st _ =>
  ⟨_, by show execVmskXor rs2 rs1 rd p st = _; unfold execVmskXor; rfl⟩
theorem shape_vmskAndn (rs2 : BitVec 3) (rs1 : BitVec 3) (rd : BitVec 3) (p : BitVec 1) : HasShape (.vmskAndn rs2 rs1 rd p) := fun st _ =>
  ⟨_, by show execVmskAndn rs2 rs1 rd p st = _; unfold execVmskAndn; rfl⟩
theorem shape_vmskTos (rs1 : BitVec 3) (rd : BitVec 5) (p : BitVec 1) : HasShape (.vmskTos rs1 rd p) := fun st _ =>
  ⟨_, by show execVmskTos rs1 rd p st = _; unfold execVmskTos; rfl⟩
theorem shape_vmskFroms (rs1 : BitVec 5) (rd : BitVec 3) (p : BitVec 1) : HasShape (.vmskFroms rs1 rd p) := fun st _ =>
  ⟨_, by show execVmskFroms rs1 rd p st = _; unfold execVmskFroms; rfl⟩
theorem shape_vmskPopc (rs1 : BitVec 3) (rd : BitVec 5) (p : BitVec 1) : HasShape (.vmskPopc rs1 rd p) := fun st _ =>
  ⟨_, by show execVmskPopc rs1 rd p st = _; unfold execVmskPopc; rfl⟩
theorem shape_vmskFirst (rs1 : BitVec 3) (rd : BitVec 5) (p : BitVec 1) : HasShape (.vmskFirst rs1 rd p) := fun st _ =>
  ⟨_, by show execVmskFirst rs1 rd p st = _; unfold execVmskFirst; rfl⟩
theorem shape_vexp2 (t : BitVec 4) (rs1 : BitVec 5) (rd : BitVec 5) (p : BitVec 1) : HasShape (.vexp2 t rs1 rd p) := fun st _ =>
  ⟨_, by show execVexp2 t rs1 rd p st = _; unfold execVexp2; rfl⟩
theorem shape_vlog2 (t : BitVec 4) (rs1 : BitVec 5) (rd : BitVec 5) (p : BitVec 1) : HasShape (.vlog2 t rs1 rd p) := fun st _ =>
  ⟨_, by show execVlog2 t rs1 rd p st = _; unfold execVlog2; rfl⟩
theorem shape_vrcp (t : BitVec 4) (rs1 : BitVec 5) (rd : BitVec 5) (p : BitVec 1) : HasShape (.vrcp t rs1 rd p) := fun st _ =>
  ⟨_, by show execVrcp t rs1 rd p st = _; unfold execVrcp; rfl⟩
theorem shape_vrsq (t : BitVec 4) (rs1 : BitVec 5) (rd : BitVec 5) (p : BitVec 1) : HasShape (.vrsq t rs1 rd p) := fun st _ =>
  ⟨_, by show execVrsq t rs1 rd p st = _; unfold execVrsq; rfl⟩
theorem shape_vtanh (t : BitVec 4) (rs1 : BitVec 5) (rd : BitVec 5) (p : BitVec 1) : HasShape (.vtanh t rs1 rd p) := fun st _ =>
  ⟨_, by show execVtanh t rs1 rd p st = _; unfold execVtanh; rfl⟩
theorem shape_vscl (t : BitVec 4) (rs2 : BitVec 5) (rs1 : BitVec 5) (rd : BitVec 5) (p : BitVec 1) : HasShape (.vscl t rs2 rs1 rd p) := fun st _ =>
  ⟨_, by show execVscl t rs2 rs1 rd p st = _; unfold execVscl; rfl⟩
theorem shape_vidx (rs2 : BitVec 5) (rs1 : BitVec 5) (rd : BitVec 5) (p : BitVec 1) : HasShape (.vidx rs2 rs1 rd p) := fun st _ =>
  ⟨_, by show execVidx rs2 rs1 rd p st = _; unfold execVidx; rfl⟩
theorem shape_vdot (m : BitVec 2) (rs2 : BitVec 5) (rs1 : BitVec 5) (rd : BitVec 5) (p : BitVec 1) : HasShape (.vdot m rs2 rs1 rd p) := fun st _ =>
  ⟨_, by show execVdot m rs2 rs1 rd p st = _; unfold execVdot; rfl⟩
theorem shape_vmov (rs1 : BitVec 5) (rd : BitVec 5) (p : BitVec 1) : HasShape (.vmov rs1 rd p) := fun st _ =>
  ⟨_, by show execVmov rs1 rd p st = _; unfold execVmov; rfl⟩
theorem shape_sbind (mode : BitVec 2) (dir : BitVec 1) (port : BitVec 2) (rs2 : BitVec 5) (rs1 : BitVec 5) (stride : BitVec 26) : HasShape (.sbind mode dir port rs2 rs1 stride) := fun st _ =>
  ⟨_, by show execSbind mode dir port rs2 rs1 stride st = _; unfold execSbind; rfl⟩
theorem shape_sunb (port : BitVec 2) : HasShape (.sunb port) := fun st _ =>
  ⟨_, by show execSunb port st = _; unfold execSunb; rfl⟩
theorem shape_sstat (p : BitVec 2) (rd : BitVec 5) (p_part2 : BitVec 1) : HasShape (.sstat p rd p_part2) := fun st _ =>
  ⟨_, by show execSstat p rd p_part2 st = _; unfold execSstat; rfl⟩
theorem shape_lrd (f : BitVec 1) (rd : BitVec 5) (p : BitVec 1) : HasShape (.lrd f rd p) := fun st _ =>
  ⟨_, by show execLrd f rd p st = _; unfold execLrd; rfl⟩
theorem shape_lwr (rs1 : BitVec 5) (p : BitVec 1) : HasShape (.lwr rs1 p) := fun st _ =>
  ⟨_, by show execLwr rs1 p st = _; unfold execLwr; rfl⟩
theorem shape_lstat (rd : BitVec 5) (p : BitVec 1) : HasShape (.lstat rd p) := fun st _ =>
  ⟨_, by show execLstat rd p st = _; unfold execLstat; rfl⟩
theorem shape_tmma (rs2 : BitVec 5) (rs1 : BitVec 5) (kc : BitVec 2) (tb : BitVec 1) (ta : BitVec 1) (acc : BitVec 2) (z : BitVec 1) (rb : BitVec 2) (ra : BitVec 2) : HasShape (.tmma rs2 rs1 kc tb ta acc z rb ra) := fun st _ =>
  ⟨_, by show execTmma rs2 rs1 kc tb ta acc z rb ra st = _; unfold execTmma; rfl⟩
theorem shape_tzero (c : BitVec 2) : HasShape (.tzero c) := fun st _ =>
  ⟨_, by show execTzero c st = _; unfold execTzero; rfl⟩
theorem shape_tld (rs1 : BitVec 5) (c : BitVec 2) : HasShape (.tld rs1 c) := fun st _ =>
  ⟨_, by show execTld rs1 c st = _; unfold execTld; rfl⟩
theorem shape_tst (rs1 : BitVec 5) (c : BitVec 2) : HasShape (.tst rs1 c) := fun st _ =>
  ⟨_, by show execTst rs1 c st = _; unfold execTst; rfl⟩
theorem shape_tactRelu (f : BitVec 1) (c : BitVec 2) : HasShape (.tactRelu f c) := fun st _ =>
  ⟨_, by show execTactRelu f c st = _; unfold execTactRelu; rfl⟩
theorem shape_tactGelu (f : BitVec 1) (c : BitVec 2) : HasShape (.tactGelu f c) := fun st _ =>
  ⟨_, by show execTactGelu f c st = _; unfold execTactGelu; rfl⟩
theorem shape_tactSilu (f : BitVec 1) (c : BitVec 2) : HasShape (.tactSilu f c) := fun st _ =>
  ⟨_, by show execTactSilu f c st = _; unfold execTactSilu; rfl⟩
theorem shape_tstat (rd : BitVec 5) : HasShape (.tstat rd) := fun st _ =>
  ⟨_, by show execTstat rd st = _; unfold execTstat; rfl⟩
theorem shape_twait  : HasShape (.twait ) := fun st _ =>
  ⟨_, by show execTwait  st = _; unfold execTwait; rfl⟩
theorem shape_recordOn (rs2 : BitVec 5) (rs1 : BitVec 5) : HasShape (.recordOn rs2 rs1) := fun st _ =>
  ⟨_, by show execRecordOn rs2 rs1 st = _; unfold execRecordOn; rfl⟩
theorem shape_recordOnChain (rs2 : BitVec 5) (rs1 : BitVec 5) : HasShape (.recordOnChain rs2 rs1) := fun st _ =>
  ⟨_, by show execRecordOnChain rs2 rs1 st = _; unfold execRecordOnChain; rfl⟩
theorem shape_recordOff  : HasShape (.recordOff ) := fun st _ =>
  ⟨_, by show execRecordOff  st = _; unfold execRecordOff; rfl⟩
theorem shape_recordMark (rs1 : BitVec 5) : HasShape (.recordMark rs1) := fun st _ =>
  ⟨_, by show execRecordMark rs1 st = _; unfold execRecordMark; rfl⟩
theorem shape_reverse (m : BitVec 1) (mv : BitVec 12) (z : BitVec 1) : HasShape (.reverse m mv z) := fun st _ =>
  ⟨_, by show execReverse m mv z st = _; unfold execReverse; rfl⟩
theorem shape_send (slot : BitVec 11) (km1 : BitVec 4) (vs : BitVec 5) (route : BitVec 29) : HasShape (.send slot km1 vs route) := fun st _ =>
  ⟨_, by show execSend slot km1 vs route st = _; unfold execSend; rfl⟩
theorem shape_rsel (slot : BitVec 11) (km1 : BitVec 4) (rs1 : BitVec 5) (mcid : BitVec 5) (ce : BitVec 1) (link : BitVec 4) : HasShape (.rsel slot km1 rs1 mcid ce link) := fun st _ =>
  ⟨_, by show execRsel slot km1 rs1 mcid ce link st = _; unfold execRsel; rfl⟩
theorem shape_sync  : HasShape (.sync ) := fun st _ =>
  ⟨_, by show execSync  st = _; unfold execSync; rfl⟩
theorem shape_syncv (o : BitVec 1) (rs1 : BitVec 3) (rd : BitVec 3) : HasShape (.syncv o rs1 rd) := fun st _ =>
  ⟨_, by show execSyncv o rs1 rd st = _; unfold execSyncv; rfl⟩
theorem shape_gcall (rs1 : BitVec 5) : HasShape (.gcall rs1) := fun st _ =>
  ⟨_, by show execGcall rs1 st = _; unfold execGcall; rfl⟩
theorem shape_gret  : HasShape (.gret ) := fun st _ =>
  ⟨_, by show execGret  st = _; unfold execGret; rfl⟩
theorem shape_awset (lr : BitVec 1) (n : BitVec 1) (clr : BitVec 1) (w : BitVec 1) (r : BitVec 1) (rs2 : BitVec 5) (rs1 : BitVec 5) (leni : BitVec 17) : HasShape (.awset lr n clr w r rs2 rs1 leni) := fun st _ =>
  ⟨_, by show execAwset lr n clr w r rs2 rs1 leni st = _; unfold execAwset; rfl⟩
theorem shape_fld (x : BitVec 1) (z : BitVec 2) (rs2 : BitVec 5) (rs1 : BitVec 5) (rd : BitVec 5) (p : BitVec 1) : HasShape (.fld x z rs2 rs1 rd p) := fun st _ =>
  ⟨_, by show execFld x z rs2 rs1 rd p st = _; unfold execFld; rfl⟩
theorem shape_fst (z : BitVec 2) (rs2 : BitVec 5) (rs1 : BitVec 5) (rd : BitVec 5) (p : BitVec 1) : HasShape (.fst z rs2 rs1 rd p) := fun st _ =>
  ⟨_, by show execFst z rs2 rs1 rd p st = _; unfold execFst; rfl⟩
theorem shape_fflush (imm : BitVec 1) (g : BitVec 3) (rs2 : BitVec 5) (rs1 : BitVec 5) (p : BitVec 1) : HasShape (.fflush imm g rs2 rs1 p) := fun st _ =>
  ⟨_, by show execFflush imm g rs2 rs1 p st = _; unfold execFflush; rfl⟩
theorem shape_fpush (s : BitVec 1) (r : BitVec 1) (rs2 : BitVec 5) (rs1 : BitVec 5) (rd : BitVec 5) (p : BitVec 1) : HasShape (.fpush s r rs2 rs1 rd p) := fun st h =>
  ⟨_, by show execFpush s r rs2 rs1 rd p st = _; unfold execFpush; rw [if_neg (by simp [h _ _ _ _ _ _ rfl])]⟩
theorem shape_fpf (rs2 : BitVec 5) (rs1 : BitVec 5) (p : BitVec 1) : HasShape (.fpf rs2 rs1 p) := fun st _ =>
  ⟨_, by show execFpf rs2 rs1 p st = _; unfold execFpf; rfl⟩
theorem shape_pginv (g : BitVec 3) (rs2 : BitVec 5) (rs1 : BitVec 5) (p : BitVec 1) : HasShape (.pginv g rs2 rs1 p) := fun st _ =>
  ⟨_, by show execPginv g rs2 rs1 p st = _; unfold execPginv; rfl⟩
theorem shape_fqdeq (c : BitVec 3) (rd : BitVec 5) (p : BitVec 1) : HasShape (.fqdeq c rd p) := fun st _ =>
  ⟨_, by show execFqdeq c rd p st = _; unfold execFqdeq; rfl⟩
theorem shape_replay (rs1 : BitVec 5) (rd : BitVec 3) (p : BitVec 1) : HasShape (.replay rs1 rd p) := fun st _ =>
  ⟨_, by show execReplay rs1 rd p st = _; unfold execReplay; rfl⟩
theorem shape_term (rs1 : BitVec 5) (rd : BitVec 3) (p : BitVec 1) : HasShape (.term rs1 rd p) := fun st _ =>
  ⟨_, by show execTerm rs1 rd p st = _; unfold execTerm; rfl⟩
theorem shape_nop  : HasShape (.nop ) := fun st _ =>
  ⟨_, by show execNop  st = _; unfold execNop; rfl⟩
theorem shape_hint (h : BitVec 22) (p : BitVec 1) (tail : Option (BitVec 30)) : HasShape (.hint h p tail) := fun st _ =>
  ⟨_, by show execHint h p tail st = _; unfold execHint; rfl⟩

theorem major_pfx (f : BitVec 1) (e : BitVec 2) (n : BitVec 1) (g : BitVec 3) (t : BitVec 2) (r : BitVec 3) :
    (Instr.pfx f e n g t r).major = 0x80 := by
  simp only [Instr.major, encode]
  rw [if_pos]
  simp (disch := decide) only [bitsAt, bits_lo, bits_all] <;> rfl

/-- Every instruction with words but a prefix has the shared shape. -/
theorem hasShape (i : Instr) (henc : encode i ≠ none) (hmaj : i.major ≠ 0x80) : HasShape i := by
  cases i with
  | pfx f e n g t r => exact absurd (major_pfx f e n g t r) hmaj
  | add w rs2 rs1 rd p => exact shape_add w rs2 rs1 rd p
  | sub w rs2 rs1 rd p => exact shape_sub w rs2 rs1 rd p
  | and w rs2 rs1 rd p => exact shape_and w rs2 rs1 rd p
  | or w rs2 rs1 rd p => exact shape_or w rs2 rs1 rd p
  | xor w rs2 rs1 rd p => exact shape_xor w rs2 rs1 rd p
  | shl w rs2 rs1 rd p => exact shape_shl w rs2 rs1 rd p
  | shr w rs2 rs1 rd p => exact shape_shr w rs2 rs1 rd p
  | sha w rs2 rs1 rd p => exact shape_sha w rs2 rs1 rd p
  | min w rs2 rs1 rd p => exact shape_min w rs2 rs1 rd p
  | max w rs2 rs1 rd p => exact shape_max w rs2 rs1 rd p
  | minn w rs2 rs1 rd p => exact shape_minn w rs2 rs1 rd p
  | maxn w rs2 rs1 rd p => exact shape_maxn w rs2 rs1 rd p
  | mul w rs2 rs1 rd p => exact shape_mul w rs2 rs1 rd p
  | mulh w rs2 rs1 rd p => exact shape_mulh w rs2 rs1 rd p
  | mulhn w rs2 rs1 rd p => exact shape_mulhn w rs2 rs1 rd p
  | div w rs2 rs1 rd p => exact shape_div w rs2 rs1 rd p
  | divn w rs2 rs1 rd p => exact shape_divn w rs2 rs1 rd p
  | rem w rs2 rs1 rd p => exact shape_rem w rs2 rs1 rd p
  | remn w rs2 rs1 rd p => exact shape_remn w rs2 rs1 rd p
  | clz w rs1 rd p => exact shape_clz w rs1 rd p
  | ctz w rs1 rd p => exact shape_ctz w rs1 rd p
  | popc w rs1 rd p => exact shape_popc w rs1 rd p
  | andn w rs2 rs1 rd p => exact shape_andn w rs2 rs1 rd p
  | orn w rs2 rs1 rd p => exact shape_orn w rs2 rs1 rd p
  | addi imm rs1 rd p => exact shape_addi imm rs1 rd p
  | andi imm rs1 rd p => exact shape_andi imm rs1 rd p
  | ori imm rs1 rd p => exact shape_ori imm rs1 rd p
  | xori imm rs1 rd p => exact shape_xori imm rs1 rd p
  | shli w h rs1 rd p => exact shape_shli w h rs1 rd p
  | shri w h rs1 rd p => exact shape_shri w h rs1 rd p
  | shai w h rs1 rd p => exact shape_shai w h rs1 rd p
  | lea imm c rs1 rd p => exact shape_lea imm c rs1 rd p
  | ldi x imm rd p => exact shape_ldi x imm rd p
  | ldih imm rd p => exact shape_ldih imm rd p
  | bnd rs2 rs1 rd p => exact shape_bnd rs2 rs1 rd p
  | bndi imm rs1 rd p => exact shape_bndi imm rs1 rd p
  | muli imm rs1 rd p => exact shape_muli imm rs1 rd p
  | addiW imm rs1 rd p => exact shape_addiW imm rs1 rd p
  | bdset lr esz rs2 rs1 clr n leni p => exact shape_bdset lr esz rs2 rs1 clr n leni p
  | cmp w c rs2 rs1 rd p => exact shape_cmp w c rs2 rs1 rd p
  | cmpi imm c rs1 rd p => exact shape_cmpi imm c rs1 rd p
  | plog l rs2 rs1 rd p => exact shape_plog l rs2 rs1 rd p
  | sel n c rs2 rs1 rd p => exact shape_sel n c rs2 rs1 rd p
  | pmovToScalar rd p => exact shape_pmovToScalar rd p
  | pmovFromScalar rs1 p => exact shape_pmovFromScalar rs1 p
  | br imm n c => exact shape_br imm n c
  | j imm => exact shape_j imm
  | jr rs1 p => exact shape_jr rs1 p
  | call imm => exact shape_call imm
  | callr rs1 p => exact shape_callr rs1 p
  | ret p => exact shape_ret p
  | loop imm c => exact shape_loop imm c
  | repf n rs1 v l => exact shape_repf n rs1 v l
  | ldb imm rs1 rd p => exact shape_ldb imm rs1 rd p
  | ldbn imm rs1 rd p => exact shape_ldbn imm rs1 rd p
  | ldh imm rs1 rd p => exact shape_ldh imm rs1 rd p
  | ldhn imm rs1 rd p => exact shape_ldhn imm rs1 rd p
  | ldw imm rs1 rd p => exact shape_ldw imm rs1 rd p
  | ldwn imm rs1 rd p => exact shape_ldwn imm rs1 rd p
  | ldd imm rs1 rd p => exact shape_ldd imm rs1 rd p
  | stb imm rs1 rd p => exact shape_stb imm rs1 rd p
  | sth imm rs1 rd p => exact shape_sth imm rs1 rd p
  | stw imm rs1 rd p => exact shape_stw imm rs1 rd p
  | std imm rs1 rd p => exact shape_std imm rs1 rd p
  | ldx x n rs1 rd p => exact shape_ldx x n rs1 rd p
  | stx n rs1 rd p => exact shape_stx n rs1 rd p
  | tags f rs2 rs1 p => exact shape_tags f rs2 rs1 p
  | tagr f rs1 rd p => exact shape_tagr f rs1 rd p
  | tagp f rs2 rs1 rd p => exact shape_tagp f rs2 rs1 rd p
  | probe imm k f rs1 s rd p => exact shape_probe imm k f rs1 s rd p
  | bcopy rs2 rs1 rd p => exact shape_bcopy rs2 rs1 rd p
  | ldf imm z rs1 rd p => exact shape_ldf imm z rs1 rd p
  | ldfc imm z rs1 rd p => exact shape_ldfc imm z rs1 rd p
  | stf imm z rs1 rd p => exact shape_stf imm z rs1 rd p
  | fec rs2 rs1 p => exact shape_fec rs2 rs1 p
  | feq rs1 rd p => exact shape_feq rs1 rd p
  | amoAdd g s rs1 o w r p => exact shape_amoAdd g s rs1 o w r p
  | amoAnd g s rs1 o w r p => exact shape_amoAnd g s rs1 o w r p
  | amoOr g s rs1 o w r p => exact shape_amoOr g s rs1 o w r p
  | amoXor g s rs1 o w r p => exact shape_amoXor g s rs1 o w r p
  | amoMin g s rs1 o w r p => exact shape_amoMin g s rs1 o w r p
  | amoMax g s rs1 o w r p => exact shape_amoMax g s rs1 o w r p
  | amoMinn g s rs1 o w r p => exact shape_amoMinn g s rs1 o w r p
  | amoMaxn g s rs1 o w r p => exact shape_amoMaxn g s rs1 o w r p
  | amoSwap g s rs1 o w r p => exact shape_amoSwap g s rs1 o w r p
  | cas g s rs1 o w r p => exact shape_cas g s rs1 o w r p
  | fence g s o => exact shape_fence g s o
  | qinit q rs2 rs1 rd p => exact shape_qinit q rs2 rs1 rd p
  | qenq q rs1 v rd p => exact shape_qenq q rs1 v rd p
  | qdeq q v c rd p => exact shape_qdeq q v c rd p
  | qcnt q rd p => exact shape_qcnt q rd p
  | oldest  => exact shape_oldest 
  | rds n rd p => exact shape_rds n rd p
  | wrs n rs1 p => exact shape_wrs n rs1 p
  | trap c => exact shape_trap c
  | eret  => exact shape_eret 
  | tend  => exact shape_tend 
  | yield  => exact shape_yield 
  | tspawn rs2 rs1 rd => exact shape_tspawn rs2 rs1 rd
  | brk c => exact shape_brk c
  | trc t rs2 rs1 p => exact shape_trc t rs2 rs1 p
  | cnt c rd p => exact shape_cnt c rd p
  | cntSel c rs1 p => exact shape_cntSel c rs1 p
  | vld imm rs1 rd p => exact shape_vld imm rs1 rd p
  | vldDec imm rs1 rd p => exact shape_vldDec imm rs1 rd p
  | vst imm rs1 rd p => exact shape_vst imm rs1 rd p
  | vstCnv imm rs1 rd p => exact shape_vstCnv imm rs1 rd p
  | vlds imm rs1 rd p => exact shape_vlds imm rs1 rd p
  | vsts imm rs1 rd p => exact shape_vsts imm rs1 rd p
  | vgath rs2 rs1 rd p => exact shape_vgath rs2 rs1 rd p
  | vscat rs2 rs1 rd p => exact shape_vscat rs2 rs1 rd p
  | vadd t rs2 rs1 rd p => exact shape_vadd t rs2 rs1 rd p
  | vsub t rs2 rs1 rd p => exact shape_vsub t rs2 rs1 rd p
  | vmul t rs2 rs1 rd p => exact shape_vmul t rs2 rs1 rd p
  | vmin t rs2 rs1 rd p => exact shape_vmin t rs2 rs1 rd p
  | vmax t rs2 rs1 rd p => exact shape_vmax t rs2 rs1 rd p
  | vabs t rs1 rd p => exact shape_vabs t rs1 rd p
  | vneg t rs1 rd p => exact shape_vneg t rs1 rd p
  | vfma t rs2 rs1 rd p => exact shape_vfma t rs2 rs1 rd p
  | vfms t rs2 rs1 rd p => exact shape_vfms t rs2 rs1 rd p
  | vfnma t rs2 rs1 rd p => exact shape_vfnma t rs2 rs1 rd p
  | vand rs2 rs1 rd p => exact shape_vand rs2 rs1 rd p
  | vor rs2 rs1 rd p => exact shape_vor rs2 rs1 rd p
  | vxor rs2 rs1 rd p => exact shape_vxor rs2 rs1 rd p
  | vandn rs2 rs1 rd p => exact shape_vandn rs2 rs1 rd p
  | vcmp t c rs2 rs1 rd p => exact shape_vcmp t c rs2 rs1 rd p
  | vsel m rs2 rs1 rd p => exact shape_vsel m rs2 rs1 rd p
  | vredAdd t q rs1 rd p => exact shape_vredAdd t q rs1 rd p
  | vredMax t q rs1 rd p => exact shape_vredMax t q rs1 rd p
  | vredMin t q rs1 rd p => exact shape_vredMin t q rs1 rd p
  | vcvt s p t rs1 rd p_part2 => exact shape_vcvt s p t rs1 rd p_part2
  | vbcst rs1 rd p => exact shape_vbcst rs1 rd p
  | vext x rs2 rs1 rd p => exact shape_vext x rs2 rs1 rd p
  | vperm rs2 rs1 rd p => exact shape_vperm rs2 rs1 rd p
  | vmskAnd rs2 rs1 rd p => exact shape_vmskAnd rs2 rs1 rd p
  | vmskOr rs2 rs1 rd p => exact shape_vmskOr rs2 rs1 rd p
  | vmskXor rs2 rs1 rd p => exact shape_vmskXor rs2 rs1 rd p
  | vmskAndn rs2 rs1 rd p => exact shape_vmskAndn rs2 rs1 rd p
  | vmskTos rs1 rd p => exact shape_vmskTos rs1 rd p
  | vmskFroms rs1 rd p => exact shape_vmskFroms rs1 rd p
  | vmskPopc rs1 rd p => exact shape_vmskPopc rs1 rd p
  | vmskFirst rs1 rd p => exact shape_vmskFirst rs1 rd p
  | vexp2 t rs1 rd p => exact shape_vexp2 t rs1 rd p
  | vlog2 t rs1 rd p => exact shape_vlog2 t rs1 rd p
  | vrcp t rs1 rd p => exact shape_vrcp t rs1 rd p
  | vrsq t rs1 rd p => exact shape_vrsq t rs1 rd p
  | vtanh t rs1 rd p => exact shape_vtanh t rs1 rd p
  | vscl t rs2 rs1 rd p => exact shape_vscl t rs2 rs1 rd p
  | vidx rs2 rs1 rd p => exact shape_vidx rs2 rs1 rd p
  | vdot m rs2 rs1 rd p => exact shape_vdot m rs2 rs1 rd p
  | vmov rs1 rd p => exact shape_vmov rs1 rd p
  | sbind mode dir port rs2 rs1 stride => exact shape_sbind mode dir port rs2 rs1 stride
  | sunb port => exact shape_sunb port
  | sstat p rd p_part2 => exact shape_sstat p rd p_part2
  | lrd f rd p => exact shape_lrd f rd p
  | lwr rs1 p => exact shape_lwr rs1 p
  | lstat rd p => exact shape_lstat rd p
  | tmma rs2 rs1 kc tb ta acc z rb ra => exact shape_tmma rs2 rs1 kc tb ta acc z rb ra
  | tzero c => exact shape_tzero c
  | tld rs1 c => exact shape_tld rs1 c
  | tst rs1 c => exact shape_tst rs1 c
  | tactRelu f c => exact shape_tactRelu f c
  | tactGelu f c => exact shape_tactGelu f c
  | tactSilu f c => exact shape_tactSilu f c
  | tstat rd => exact shape_tstat rd
  | twait  => exact shape_twait 
  | recordOn rs2 rs1 => exact shape_recordOn rs2 rs1
  | recordOnChain rs2 rs1 => exact shape_recordOnChain rs2 rs1
  | recordOff  => exact shape_recordOff 
  | recordMark rs1 => exact shape_recordMark rs1
  | reverse m mv z => exact shape_reverse m mv z
  | send slot km1 vs route => exact shape_send slot km1 vs route
  | rsel slot km1 rs1 mcid ce link => exact shape_rsel slot km1 rs1 mcid ce link
  | sync  => exact shape_sync 
  | syncv o rs1 rd => exact shape_syncv o rs1 rd
  | gcall rs1 => exact shape_gcall rs1
  | gret  => exact shape_gret 
  | awset lr n clr w r rs2 rs1 leni => exact shape_awset lr n clr w r rs2 rs1 leni
  | fld x z rs2 rs1 rd p => exact shape_fld x z rs2 rs1 rd p
  | fst z rs2 rs1 rd p => exact shape_fst z rs2 rs1 rd p
  | fflush imm g rs2 rs1 p => exact shape_fflush imm g rs2 rs1 p
  | fpush s r rs2 rs1 rd p => exact shape_fpush s r rs2 rs1 rd p
  | fpf rs2 rs1 p => exact shape_fpf rs2 rs1 p
  | pginv g rs2 rs1 p => exact shape_pginv g rs2 rs1 p
  | fqdeq c rd p => exact shape_fqdeq c rd p
  | replay rs1 rd p => exact shape_replay rs1 rd p
  | term rs1 rd p => exact shape_term rs1 rd p
  | nop  => exact shape_nop 
  | hint h p tail => exact shape_hint h p tail
  | deferredTrap _ => exact absurd rfl henc
  | scrubEnd _ _ => exact absurd rfl henc
  | barrierRelease _ _ => exact absurd rfl henc
  | mutexHandoff _ _ => exact absurd rfl henc
  | fullWake _ => exact absurd rfl henc
  | eccWriteback _ => exact absurd rfl henc
  | conversionDrained _ => exact absurd rfl henc
  | conversionWayDone _ => exact absurd rfl henc
  | purgeDone _ => exact absurd rfl henc
  | walkStart _ => exact absurd rfl henc
  | walkComplete _ => exact absurd rfl henc
  | faultInsertRetry _ => exact absurd rfl henc
  | flush _ => exact absurd rfl henc
  | flushInval _ => exact absurd rfl henc
  | flushComplete _ => exact absurd rfl henc
  | launch _ => exact absurd rfl henc
  | launchResumed _ => exact absurd rfl henc
  | kill _ => exact absurd rfl henc
  | completionInterrupt _ => exact absurd rfl henc
  | sliceEnd _ => exact absurd rfl henc
  | switch _ _ => exact absurd rfl henc
  | switchDone _ _ => exact absurd rfl henc
  | vfResetStandStop _ => exact absurd rfl henc
  | vfResetDone _ => exact absurd rfl henc
  | dieEarlyRelease _ => exact absurd rfl henc
  | taskStart _ => exact absurd rfl henc
  | gangStart _ => exact absurd rfl henc
  | writeThrough _ => exact absurd rfl henc
  | orderedCommit _ => exact absurd rfl henc
  | coreArrive _ => exact absurd rfl henc
  | barrierGroupRelease _ => exact absurd rfl henc
  | disseminationRound _ _ => exact absurd rfl henc
  | rampSlotBegin _ => exact absurd rfl henc
  | exchangeWatchdog _ => exact absurd rfl henc
  | noProgress _ _ => exact absurd rfl henc
  | sendInject _ => exact absurd rfl henc
  | fpushSlot _ => exact absurd rfl henc
  | pushComplete _ => exact absurd rfl henc
  | copyStart _ => exact absurd rfl henc
  | copyComplete _ => exact absurd rfl henc
  | copyStop _ => exact absurd rfl henc
  | streamFetch _ _ => exact absurd rfl henc
  | streamWrite _ _ => exact absurd rfl henc
  | tileJoinTimeout _ => exact absurd rfl henc
  | tileComplete _ => exact absurd rfl henc
  | tileFaultStop _ => exact absurd rfl henc
  | linkWidthRestore _ => exact absurd rfl henc
  | budgetExhausted _ => exact absurd rfl henc
  | unwind _ => exact absurd rfl henc
  | adjointStepDone _ => exact absurd rfl henc
  | registerWrite _ _ => exact absurd rfl henc
  | wspWrite _ => exact absurd rfl henc
  | dsdWrite _ => exact absurd rfl henc
  | bfmtWrite _ _ _ => exact absurd rfl henc
  | bownWrite _ _ _ => exact absurd rfl henc
  | townWrite _ _ _ => exact absurd rfl henc
  | ltownWrite _ _ => exact absurd rfl henc
  | segmentOwnerWrite _ _ _ => exact absurd rfl henc
  | arrive _ _ => exact absurd rfl henc
  | arriveNb _ _ => exact absurd rfl henc
  | waitLatch _ _ => exact absurd rfl henc
  | wait _ _ => exact absurd rfl henc
  | barrierCfgWrite _ _ => exact absurd rfl henc
  | mutexLock _ _ => exact absurd rfl henc
  | mutexUnlock _ => exact absurd rfl henc
  | eventWait _ _ => exact absurd rfl henc
  | eventSet _ => exact absurd rfl henc
  | remoteEventSend _ => exact absurd rfl henc
  | remoteEventArrival  => exact absurd rfl henc
  | selfTestDone _ _ _ => exact absurd rfl henc
  | waymaskWrite _ _ => exact absurd rfl henc
  | kslotClear _ _ => exact absurd rfl henc
  | hftinvWrite _ => exact absurd rfl henc
  | hostWindowAccess _ _ _ _ _ => exact absurd rfl henc
  | hostApertureAccess _ _ _ _ _ => exact absurd rfl henc
  | flushTailWrite _ _ => exact absurd rfl henc
  | launchTailWrite _ _ => exact absurd rfl henc
  | completionHeadWrite _ _ => exact absurd rfl henc
  | fabricLaunch _ _ _ => exact absurd rfl henc
  | causeInterrupt  => exact absurd rfl henc
  | forcedEviction _ _ => exact absurd rfl henc
  | evictionOverrun _ => exact absurd rfl henc
  | vfReset _ => exact absurd rfl henc
  | peerWithdrawReceived _ _ => exact absurd rfl henc
  | vfPause _ => exact absurd rfl henc
  | vfUnpause _ => exact absurd rfl henc
  | supplyOutOfRange  => exact absurd rfl henc
  | supplyRestored  => exact absurd rfl henc
  | supplyShutdown  => exact absurd rfl henc
  | inletOver40  => exact absurd rfl henc
  | inletOver45  => exact absurd rfl henc
  | inletRestored  => exact absurd rfl henc
  | powerCeilingEngage  => exact absurd rfl henc
  | powerCeilingRelease  => exact absurd rfl henc
  | coldStart  => exact absurd rfl henc
  | warmStart  => exact absurd rfl henc
  | startComplete  => exact absurd rfl henc
  | flitDrop  => exact absurd rfl henc
  | rselDelivery  => exact absurd rfl henc
  | flitEjectUnselected  => exact absurd rfl henc
  | governorWindow _ => exact absurd rfl henc
  | rampCheck _ _ _ => exact absurd rfl henc
  | linkNarrow _ _ => exact absurd rfl henc
  | revokeWrite _ => exact absurd rfl henc
  | polderDeath _ => exact absurd rfl henc
  | scaleAtomicCombine  => exact absurd rfl henc
  | windowAtomicAck  => exact absurd rfl henc
  | ownGuestClaim _ _ _ => exact absurd rfl henc
  | ownHostClaim _ _ => exact absurd rfl henc
  | ownRelease _ _ _ => exact absurd rfl henc
  | cstatClear _ _ _ => exact absurd rfl henc
  | counterSelectWrite _ _ _ _ _ => exact absurd rfl henc
  | traceRecordWrite  => exact absurd rfl henc
  | debugStop  => exact absurd rfl henc
  | debugResume  => exact absurd rfl henc
  | snapOn  => exact absurd rfl henc
  | snapOff  => exact absurd rfl henc
  | debugReplay _ => exact absurd rfl henc
  | haltAll  => exact absurd rfl henc
  | snapshot _ _ => exact absurd rfl henc
  | dstatRead  => exact absurd rfl henc
  | stateWindowWrite _ _ => exact absurd rfl henc
  | flitCheckError _ => exact absurd rfl henc
  | remoteAccessArrival _ _ _ _ _ => exact absurd rfl henc
  | fabricIdAssign _ => exact absurd rfl henc

end Sys2Proof.Machine
end

