-- ==== Sys2Proof/Tests/Slice0.lean ====
section
/-! SUPPORT. The model's own tests: words of the manual's encoding tables and what they decode to, ill-formed terms, single
steps, and for every statement a state that meets its hypotheses. -/

namespace Sys2Proof.Tests

set_option Elab.async false

open Sys2Proof Sys2Proof.Machine

/-! ## Words

Each word is written out from the row of its instruction in the opcode tables of spec/08 and the layouts of the instruction's
own rule, with a value of its own in every field. -/

theorem test_words_pfx_to_minn :
    decodeTableWord 32 0x000036D1 = some (.pfx 1 2 1 5 2 4) ∧
    decodeTableWord 32 0x80310404 = some (.add 1 3 2 1 1) ∧
    decodeTableWord 32 0x82310404 = some (.sub 1 3 2 1 1) ∧
    decodeTableWord 32 0x84310404 = some (.and 1 3 2 1 1) ∧
    decodeTableWord 32 0x86310404 = some (.or 1 3 2 1 1) ∧
    decodeTableWord 32 0x88310404 = some (.xor 1 3 2 1 1) ∧
    decodeTableWord 32 0x8A310404 = some (.shl 1 3 2 1 1) ∧
    decodeTableWord 32 0x8C310404 = some (.shr 1 3 2 1 1) ∧
    decodeTableWord 32 0x8E310404 = some (.sha 1 3 2 1 1) ∧
    decodeTableWord 32 0x90310404 = some (.min 1 3 2 1 1) ∧
    decodeTableWord 32 0x92310404 = some (.max 1 3 2 1 1) ∧
    decodeTableWord 32 0x94310404 = some (.minn 1 3 2 1 1) := by decide +kernel

theorem test_words_maxn_to_andn :
    decodeTableWord 32 0x96310404 = some (.maxn 1 3 2 1 1) ∧
    decodeTableWord 32 0x98310404 = some (.mul 1 3 2 1 1) ∧
    decodeTableWord 32 0x9A310404 = some (.mulh 1 3 2 1 1) ∧
    decodeTableWord 32 0x9C310404 = some (.mulhn 1 3 2 1 1) ∧
    decodeTableWord 32 0x9E310404 = some (.div 1 3 2 1 1) ∧
    decodeTableWord 32 0xA0310404 = some (.divn 1 3 2 1 1) ∧
    decodeTableWord 32 0xA2310404 = some (.rem 1 3 2 1 1) ∧
    decodeTableWord 32 0xA4310404 = some (.remn 1 3 2 1 1) ∧
    decodeTableWord 32 0xA6010404 = some (.clz 1 2 1 1) ∧
    decodeTableWord 32 0xA8010404 = some (.ctz 1 2 1 1) ∧
    decodeTableWord 32 0xAA010404 = some (.popc 1 2 1 1) ∧
    decodeTableWord 32 0xAC310404 = some (.andn 1 3 2 1 1) := by decide +kernel

theorem test_words_orn_to_muli :
    decodeTableWord 32 0xAE310404 = some (.orn 1 3 2 1 1) ∧
    decodeTableWord 32 0x8011040C = some (.addi 2049 2 1 1) ∧
    decodeTableWord 32 0x80110414 = some (.andi 2049 2 1 1) ∧
    decodeTableWord 32 0x8011041C = some (.ori 2049 2 1 1) ∧
    decodeTableWord 32 0x80110424 = some (.xori 2049 2 1 1) ∧
    decodeTableWord 32 0x0511042C = some (.shli 1 17 2 1 1) ∧
    decodeTableWord 32 0x05110434 = some (.shri 1 17 2 1 1) ∧
    decodeTableWord 32 0x0511043C = some (.shai 1 17 2 1 1) ∧
    decodeTableWord 32 0x80610444 = some (.lea 513 2 2 1 1) ∧
    decodeTableWord 32 0x0031045C = some (.bnd 3 2 1 1) ∧
    decodeTableWord 32 0x80110464 = some (.bndi 2049 2 1 1) ∧
    decodeTableWord 32 0x8011046C = some (.muli 2049 2 1 1) := by decide +kernel

theorem test_words_addiW_to_callr :
    decodeTableWord 32 0x80110474 = some (.addiW 2049 2 1 1) ∧
    decodeTableWord 32 0x14310484 = some (.cmp 1 2 3 2 1 1) ∧
    decodeTableWord 32 0x80A1048C = some (.cmpi 257 2 2 1 1) ∧
    decodeTableWord 32 0x12310494 = some (.plog 9 3 2 1 1) ∧
    decodeTableWord 32 0x1431049C = some (.sel 1 2 3 2 1 1) ∧
    decodeTableWord 32 0x000004A4 = some (.pmovToScalar 1 1) ∧
    decodeTableWord 32 0x020100A4 = some (.pmovFromScalar 2 1) ∧
    decodeTableWord 32 0x800068C0 = some (.br 131073 1 2) ∧
    decodeTableWord 32 0x800004C8 = some (.j 2097153) ∧
    decodeTableWord 32 0x000100D4 = some (.jr 2 1) ∧
    decodeTableWord 32 0x800004D8 = some (.call 2097153) ∧
    decodeTableWord 32 0x000100E4 = some (.callr 2 1) := by decide +kernel

theorem test_words_ret_to_sth :
    decodeTableWord 32 0x000000EC = some (.ret 1) ∧
    decodeTableWord 32 0x800048F0 = some (.loop 131073 2) ∧
    decodeTableWord 32 0x005A64F8 = some (.repf 5 2 9 9) ∧
    decodeTableWord 32 0x80110504 = some (.ldb 2049 2 1 1) ∧
    decodeTableWord 32 0x8011050C = some (.ldbn 2049 2 1 1) ∧
    decodeTableWord 32 0x80110514 = some (.ldh 2049 2 1 1) ∧
    decodeTableWord 32 0x8011051C = some (.ldhn 2049 2 1 1) ∧
    decodeTableWord 32 0x80110524 = some (.ldw 2049 2 1 1) ∧
    decodeTableWord 32 0x8011052C = some (.ldwn 2049 2 1 1) ∧
    decodeTableWord 32 0x80110534 = some (.ldd 2049 2 1 1) ∧
    decodeTableWord 32 0x8011053C = some (.stb 2049 2 1 1) ∧
    decodeTableWord 32 0x80110544 = some (.sth 2049 2 1 1) := by decide +kernel

theorem test_words_stw_to_stf :
    decodeTableWord 32 0x8011054C = some (.stw 2049 2 1 1) ∧
    decodeTableWord 32 0x80110554 = some (.std 2049 2 1 1) ∧
    decodeTableWord 32 0x1A01055C = some (.ldx 1 5 2 1 1) ∧
    decodeTableWord 32 0x0A010564 = some (.stx 5 2 1 1) ∧
    decodeTableWord 32 0x0831016C = some (.tags 1 3 2 1) ∧
    decodeTableWord 32 0x0A01056C = some (.tagr 1 2 1 1) ∧
    decodeTableWord 32 0x0C31056C = some (.tagp 1 3 2 1 1) ∧
    decodeTableWord 32 0x81C14574 = some (.probe 129 1 1 2 2 1 1) ∧
    decodeTableWord 32 0x0031057C = some (.bcopy 3 2 1 1) ∧
    decodeTableWord 32 0x80610584 = some (.ldf 513 1 2 1 1) ∧
    decodeTableWord 32 0x80710584 = some (.ldfc 513 1 2 1 1) ∧
    decodeTableWord 32 0x8061058C = some (.stf 513 1 2 1 1) := by decide +kernel

theorem test_words_fec_to_cas :
    decodeTableWord 32 0x00310194 = some (.fec 3 2 1) ∧
    decodeTableWord 32 0x02010594 = some (.feq 2 1 1) ∧
    decodeTableWord 32 0xA051599C = some (.amoAdd 5 5 2 2 1 2 1) ∧
    decodeTableWord 32 0xA251599C = some (.amoAnd 5 5 2 2 1 2 1) ∧
    decodeTableWord 32 0xA451599C = some (.amoOr 5 5 2 2 1 2 1) ∧
    decodeTableWord 32 0xA651599C = some (.amoXor 5 5 2 2 1 2 1) ∧
    decodeTableWord 32 0xA851599C = some (.amoMin 5 5 2 2 1 2 1) ∧
    decodeTableWord 32 0xAA51599C = some (.amoMax 5 5 2 2 1 2 1) ∧
    decodeTableWord 32 0xAC51599C = some (.amoMinn 5 5 2 2 1 2 1) ∧
    decodeTableWord 32 0xAE51599C = some (.amoMaxn 5 5 2 2 1 2 1) ∧
    decodeTableWord 32 0xB051599C = some (.amoSwap 5 5 2 2 1 2 1) ∧
    decodeTableWord 32 0xA05159A4 = some (.cas 5 5 2 2 1 2 1) := by decide +kernel

theorem test_words_fence_to_yield :
    decodeTableWord 32 0xA05041A8 = some (.fence 5 5 2) ∧
    decodeTableWord 32 0x283105B4 = some (.qinit 5 3 2 1 1) ∧
    decodeTableWord 32 0x2A0125B4 = some (.qenq 5 2 1 1 1) ∧
    decodeTableWord 32 0x2CA005B4 = some (.qdeq 5 1 2 1 1) ∧
    decodeTableWord 32 0x2E0005B4 = some (.qcnt 5 1 1) ∧
    decodeTableWord 32 0x000001B8 = some .oldest ∧
    decodeTableWord 32 0x005005C4 = some (.rds 5 1 1) ∧
    decodeTableWord 32 0x005101CC = some (.wrs 5 2 1) ∧
    decodeTableWord 32 0x005001D0 = some (.trap 5) ∧
    decodeTableWord 32 0x000001D8 = some .eret ∧
    decodeTableWord 32 0x000001E0 = some .tend ∧
    decodeTableWord 32 0x020001E0 = some .yield := by decide +kernel

theorem test_words_tspawn_to_vgath :
    decodeTableWord 32 0x043105E0 = some (.tspawn 3 2 1) ∧
    decodeTableWord 32 0x005001E8 = some (.brk 5) ∧
    decodeTableWord 32 0x003101F4 = some (.trc 0 3 2 1) ∧
    decodeTableWord 32 0x040005FC = some (.cnt 2 1 1) ∧
    decodeTableWord 32 0x0C0101FC = some (.cntSel 2 2 1) ∧
    decodeTableWord 32 0x80410604 = some (.vld 513 2 1 1) ∧
    decodeTableWord 32 0x80510604 = some (.vldDec 513 2 1 1) ∧
    decodeTableWord 32 0x8041060C = some (.vst 513 2 1 1) ∧
    decodeTableWord 32 0x8051060C = some (.vstCnv 513 2 1 1) ∧
    decodeTableWord 32 0x80110614 = some (.vlds 2049 2 1 1) ∧
    decodeTableWord 32 0x8011061C = some (.vsts 2049 2 1 1) ∧
    decodeTableWord 32 0x00310624 = some (.vgath 3 2 1 1) := by decide +kernel

theorem test_words_vscat_to_vand :
    decodeTableWord 32 0x0031062C = some (.vscat 3 2 1 1) ∧
    decodeTableWord 32 0x00310634 = some (.vadd 0 3 2 1 1) ∧
    decodeTableWord 32 0x02310634 = some (.vsub 0 3 2 1 1) ∧
    decodeTableWord 32 0x04310634 = some (.vmul 0 3 2 1 1) ∧
    decodeTableWord 32 0x06310634 = some (.vmin 0 3 2 1 1) ∧
    decodeTableWord 32 0x08310634 = some (.vmax 0 3 2 1 1) ∧
    decodeTableWord 32 0x0A010634 = some (.vabs 0 2 1 1) ∧
    decodeTableWord 32 0x0C010634 = some (.vneg 0 2 1 1) ∧
    decodeTableWord 32 0x0031063C = some (.vfma 0 3 2 1 1) ∧
    decodeTableWord 32 0x0231063C = some (.vfms 0 3 2 1 1) ∧
    decodeTableWord 32 0x0431063C = some (.vfnma 0 3 2 1 1) ∧
    decodeTableWord 32 0x00310644 = some (.vand 3 2 1 1) := by decide +kernel

theorem test_words_vor_to_vperm :
    decodeTableWord 32 0x02310644 = some (.vor 3 2 1 1) ∧
    decodeTableWord 32 0x04310644 = some (.vxor 3 2 1 1) ∧
    decodeTableWord 32 0x06310644 = some (.vandn 3 2 1 1) ∧
    decodeTableWord 32 0x0631064C = some (.vcmp 0 3 3 2 1 1) ∧
    decodeTableWord 32 0x0A310654 = some (.vsel 5 3 2 1 1) ∧
    decodeTableWord 32 0x0051065C = some (.vredAdd 0 5 2 1 1) ∧
    decodeTableWord 32 0x0251065C = some (.vredMax 0 5 2 1 1) ∧
    decodeTableWord 32 0x0451065C = some (.vredMin 0 5 2 1 1) ∧
    decodeTableWord 32 0x00010664 = some (.vcvt 0 0 0 2 1 1) ∧
    decodeTableWord 32 0x0001066C = some (.vbcst 2 1 1) ∧
    decodeTableWord 32 0x02310674 = some (.vext 1 3 2 1 1) ∧
    decodeTableWord 32 0x0031067C = some (.vperm 3 2 1 1) := by decide +kernel

theorem test_words_vmskAnd_to_vrsq :
    decodeTableWord 32 0x00310684 = some (.vmskAnd 3 2 1 1) ∧
    decodeTableWord 32 0x02310684 = some (.vmskOr 3 2 1 1) ∧
    decodeTableWord 32 0x04310684 = some (.vmskXor 3 2 1 1) ∧
    decodeTableWord 32 0x06310684 = some (.vmskAndn 3 2 1 1) ∧
    decodeTableWord 32 0x08010684 = some (.vmskTos 2 1 1) ∧
    decodeTableWord 32 0x0A010684 = some (.vmskFroms 2 1 1) ∧
    decodeTableWord 32 0x0C010684 = some (.vmskPopc 2 1 1) ∧
    decodeTableWord 32 0x0E010684 = some (.vmskFirst 2 1 1) ∧
    decodeTableWord 32 0x0001068C = some (.vexp2 0 2 1 1) ∧
    decodeTableWord 32 0x0201068C = some (.vlog2 0 2 1 1) ∧
    decodeTableWord 32 0x0401068C = some (.vrcp 0 2 1 1) ∧
    decodeTableWord 32 0x0601068C = some (.vrsq 0 2 1 1) := by decide +kernel

theorem test_words_vtanh_to_tld :
    decodeTableWord 32 0x0801068C = some (.vtanh 0 2 1 1) ∧
    decodeTableWord 32 0x00310694 = some (.vscl 0 3 2 1 1) ∧
    decodeTableWord 32 0x0031069C = some (.vidx 3 2 1 1) ∧
    decodeTableWord 32 0x043106A4 = some (.vdot 2 3 2 1 1) ∧
    decodeTableWord 32 0x000106AC = some (.vmov 2 1 1) ∧
    decodeTableWord 32 0x04000308 = some (.sunb 2) ∧
    decodeTableWord 32 0x04000714 = some (.sstat 2 1 1) ∧
    decodeTableWord 32 0x0200071C = some (.lrd 1 1 1) ∧
    decodeTableWord 32 0x00010324 = some (.lwr 2 1) ∧
    decodeTableWord 32 0x0000072C = some (.lstat 1 1) ∧
    decodeTableWord 32 0x00000B48 = some (.tzero 2) ∧
    decodeTableWord 32 0x00010B50 = some (.tld 2 2) := by decide +kernel

theorem test_words_tst_to_syncv :
    decodeTableWord 32 0x00010B58 = some (.tst 2 2) ∧
    decodeTableWord 32 0x08000B60 = some (.tactRelu 1 2) ∧
    decodeTableWord 32 0x0A000B60 = some (.tactGelu 1 2) ∧
    decodeTableWord 32 0x0C000B60 = some (.tactSilu 1 2) ∧
    decodeTableWord 32 0x00000768 = some (.tstat 1) ∧
    decodeTableWord 32 0x02000368 = some .twait ∧
    decodeTableWord 32 0x00310370 = some (.recordOn 3 2) ∧
    decodeTableWord 32 0x08310370 = some (.recordOnChain 3 2) ∧
    decodeTableWord 32 0x02000370 = some .recordOff ∧
    decodeTableWord 32 0x04010370 = some (.recordMark 2) ∧
    decodeTableWord 32 0x00000390 = some .sync ∧
    decodeTableWord 32 0x06010790 = some (.syncv 1 2 1) := by decide +kernel

theorem test_words_gcall_to_nop :
    decodeTableWord 32 0x00010398 = some (.gcall 2) ∧
    decodeTableWord 32 0x000003A0 = some .gret ∧
    decodeTableWord 32 0x603107B4 = some (.fld 1 2 3 2 1 1) ∧
    decodeTableWord 32 0x223107B4 = some (.fst 2 3 2 1 1) ∧
    decodeTableWord 32 0xD43103B4 = some (.fflush 1 5 3 2 1) ∧
    decodeTableWord 32 0x263107B4 = some (.fpush 1 0 3 2 1 1) ∧
    decodeTableWord 32 0x083103B4 = some (.fpf 3 2 1) ∧
    decodeTableWord 32 0x5A3103B4 = some (.pginv 5 3 2 1) ∧
    decodeTableWord 32 0x002007BC = some (.fqdeq 2 1 1) ∧
    decodeTableWord 32 0x020107BC = some (.replay 2 1 1) ∧
    decodeTableWord 32 0x040107BC = some (.term 2 1 1) ∧
    decodeTableWord 32 0x000003F8 = some .nop := by decide +kernel

theorem test_words_hint_to_hint :
    decodeTableWord 32 0x0000ABF8 = some (.hint 42 0 none) := by decide +kernel

/-! Double words: head first, tail above it (spec/10 R300, R302, spec/12 R355, spec/13 R371, spec/14 R406, spec/15 R414,
R417, R420). -/

theorem test_double_words :
    decodeTableWord 64 0x1234567B00031C4A = some (.ldi 1 0x1234567A 7 0) ∧
    decodeTableWord 64 0x0BADCAFF00019C52 = some (.ldih 0xBADCAFF 7 0) ∧
    decodeTableWord 64 0x02AF37BF0301947A = some (.bdset 0 3 0 6 0 5 0xABCDEF 0) ∧
    decodeTableWord 64 0x8000004300E1A702 = some (.sbind 1 1 2 3 9 0x2000001) ∧
    decodeTableWord 64 0x000000671A690342 = some (.tmma 3 9 2 1 0 1 1 2 1) ∧
    decodeTableWord 64 0x0000000300C00F7A = some (.reverse 1 0x801 1) ∧
    decodeTableWord 64 0x40000007805E3382 = some (.send 0x402 15 3 0x10000001) ∧
    decodeTableWord 64 0x00008C23805E338A = some (.rsel 0x402 15 3 17 1 8) ∧
    decodeTableWord 64 0x0004000700A027AA = some (.awset 0 1 0 1 0 0 9 0x10001) := by decide +kernel

/-! ## Ill-formed terms: one for each check of WellFormed -/

/-- ILLEGAL 1: a reserved value of each field that has one (spec/10 R298, R303, R308, spec/08 R256, R268, spec/12 R335, R343,
R344, R347, R355, spec/15 R417, R429, R430). -/
theorem test_reserved_values :
    ([.shli 1 32 2 1 0, .shri 1 63 2 1 0, .shai 1 40 2 1 0, .cmp 0 6 3 2 1 0, .cmpi 0 7 2 1 0, .loop 0 0, .repf 0 0 0 1,
      .vadd 3 3 2 1 0, .vsub 4 3 2 1 0, .vmul 11 3 2 1 0, .vmin 15 3 2 1 0, .vmax 3 3 2 1 0, .vabs 8 2 1 0, .vneg 10 2 1 0,
      .vfma 5 3 2 1 0, .vfms 6 3 2 1 0, .vfnma 3 3 2 1 0, .vscl 7 3 2 1 0, .vexp2 5 2 1 0, .vlog2 3 2 1 0, .vrcp 5 2 1 0,
      .vrsq 5 2 1 0, .vtanh 5 2 1 0, .vcmp 0 4 3 2 1 0, .vcmp 3 0 3 2 1 0, .vredAdd 3 0 2 1 0, .vredMax 4 0 2 1 0,
      .vredMin 11 0 2 1 0, .vcvt 11 0 0 2 1 0, .vcvt 0 0 11 2 1 0, .vcvt 0 1 0 2 1 0, .vcvt 0 2 1 2 1 0, .vdot 3 3 2 1 0,
      .sbind 2 0 0 3 2 0, .rsel 0 0 2 0 0 9, .fld 1 3 3 2 1 0, .fpush 1 1 3 2 1 0, .pfx 0 0 0 0 3 6, .pfx 0 0 0 0 0 7]
      : List Instr).all (fun i => !i.valueOk && !i.wellFormed) = true := by decide +kernel

/-- ILLEGAL 2: an operand in a field that the form reserves (spec/10 R302, spec/15 R420), and the all-zero hint, which is NOP
(spec/08 R267). -/
theorem test_reserved_operands :
    ([.bdset 1 0 3 2 0 0 1 0, .bdset 0 0 3 2 0 0 1 0, .awset 1 0 0 0 1 3 2 1, .awset 0 0 0 0 1 3 2 1, .hint 0 0 none]
      : List Instr).all (fun i => !i.reservedOk && !i.wellFormed) = true := by decide +kernel

/-- ILLEGAL 8: a vector field of 16 or more (spec/08 R254), in each place that names a vector register. -/
theorem test_vector_fields :
    ([.vld 0 2 16 0, .vldDec 0 2 31 0, .vst 0 2 16 0, .vstCnv 0 2 16 0, .vlds 0 2 16 0, .vsts 0 2 16 0, .vgath 16 2 1 0,
      .vgath 1 2 16 0, .vscat 16 2 1 0, .vscat 1 2 16 0, .vadd 0 16 2 1 0, .vsub 0 3 16 1 0, .vmul 0 3 2 16 0,
      .vmin 0 16 2 1 0, .vmax 0 16 2 1 0, .vabs 0 16 1 0, .vneg 0 2 16 0, .vfma 0 16 2 1 0, .vfms 0 3 16 1 0,
      .vfnma 0 3 2 16 0, .vscl 0 16 2 1 0, .vexp2 0 16 1 0, .vlog2 0 2 16 0, .vrcp 0 16 1 0, .vrsq 0 16 1 0,
      .vtanh 0 16 1 0, .vand 16 2 1 0, .vor 3 16 1 0, .vxor 3 2 16 0, .vandn 16 2 1 0, .vcmp 0 0 16 2 1 0,
      .vcmp 0 0 3 16 1 0, .vsel 0 16 2 1 0, .vredAdd 0 0 16 1 0, .vredMax 0 0 16 1 0, .vredMin 0 0 16 1 0,
      .vcvt 0 0 0 16 1 0, .vbcst 2 16 0, .vext 0 0 16 1 0, .vperm 16 2 1 0, .vidx 0 0 16 0, .vdot 0 16 2 1 0,
      .vmov 16 1 0, .lrd 0 16 0, .lwr 16 0, .send 0 0 16 0, .qenq 0 16 1 0 0, .qdeq 0 1 0 16 0, .fqdeq 0 16 0]
      : List Instr).all (fun i => !i.vectorOk && !i.wellFormed) = true := by decide +kernel

/-- Words that decoding refuses by name: a tail, a bad prefix, a reserved major, a single that should be a double, P where no
prefix is taken, a reserved bit, a reserved value, a vector field (spec/08 R262). -/
theorem test_refused_words :
    ([0x00000003, 0x00004019, 0x000000A8, 0x0000004A, 0x000000C4, 0x800000A0, 0xFEE48888, 0x00004200] : List Nat).map (fun w => decodeTableWord 32 w) = [none, none, none, none, none, none, none, none] := by
  decide +kernel

/-! ## Small states -/

/-- A cluster whose first TCM and first bay belong to polder 0. -/
def cluster0 : Cluster :=
  { Cluster.reset with
    town := vset Cluster.reset.town 0 0x8000000080000000, bown := vset Cluster.reset.bown 0 0x8000000000000000 }

/-- A core at task level that runs entry 0. -/
def core0 : Core := { Core.reset with act := .task, tsk := 0 }

/-- A module in which one core of one cluster moves. -/
def mk (a : Nat) (c : Core) : State := { State.reset with cores := [(a, c)], clusters := [(0, cluster0)], cur := a }

/-- Ordinary core 0 with some of its scalar registers set. -/
def regs (l : List (Nat × W64)) : Core := l.foldl (fun c e => c.setS e.1 e.2) core0

/-- Ordinary core 0 alone. -/
def s0 : State := mk 0 core0

/-- Ordinary core 0 with a prefix in its latch: SAT, PG and N, EW and FTZ as given, RM from FCSR. -/
def prefixed (sat pg neg ew ftz : Nat) (c : Core) : Core :=
  { c with latch := some (BitVec.ofNat 32 (0x19 + sat * 32 + pg * 128 + neg * 1024 + ew * 2048 + ftz * 8192)) }

/-- A job of function 0 on cluster 0. -/
def job0 : Job :=
  { fn := 0, jobid := 7, cookie := 9, pol := 0, pin := false, excl := false, pstep := 0, xdom := 0, clusters := [0]
    landings := [], slotLo := 0, slotHi := 0
    stand := { held := false, evicted := false, halfClock := false, halfNext := false, ramped := false, snapMode := false
               replaying := false, halted := none, diverged := false, stopReq := false, haltAll := false, away := false }
    stuck := [] }

/-- A state with some jobs. -/
def withJobs (s : State) (l : List Job) : State := { s with hub := { s.hub with jobs := l } }

/-- Job 0 with another stand. -/
def jobAs (f : Stand → Stand) : Job := { job0 with stand := f job0.stand }

/-- A state of which something holds after an outcome that is a next state. -/
def next (o : Host.Outcome State Fault Refusal) (p : State → Bool) : Bool :=
  match o with
  | .next t => p t
  | _ => false

/-! ## Hypotheses met: encoding, checks, scalar instructions -/

/-- Every instruction of the list passes the checks before its effect. -/
def iss (s : State) (l : List Instr) : Bool := l.all fun i => decide (Issues i s)

/-- The core fetches that word. -/
def fetches (s : State) (w : W32) : Bool :=
  match s.fetchWord s.me.pc with
  | .ok v => v == w
  | _ => false

/-- The word decodes to that instruction. -/
def decodes (w : W32) (t : Option W32) (i : Instr) : Bool :=
  match decodeWords w t with
  | .ok j => j == i
  | _ => false

theorem wit_WordsDecodeToTheirInstruction : (Instr.cmpi (-3) 2 9 2 0).wellFormed = true ∧ (Instr.vadd 10 15 15 15 1).wellFormed = true :=
  by decide +kernel

theorem wit_AcceptedWordsAreCanonical :
    decodeWords 0x0000244A#32 (some 0x30089A43#32) = .ok (.ldi 0 0x30089A40#32 9 0) ∧
    decodeWords 0xFEA48888#32 (some 0) = .ok (.cmpi (-3) 2 9 2 0) := by
  constructor <;> rfl

/-- Ordinary core 0 at the word of NOP, first in the schedule of a module that does nothing else. -/
def stepping : State := { ((mk 0 { core0 with pc := 0x80000 }).write (scratchBase 0) 4 0x000003F8) with
  sched := [0]
  clusters := [(0, { cluster0 with bfmt := vset cluster0.bfmt 0 1 })] }

theorem wit_StepRunsTheDecodedInstruction :
    let v : State := { stepping.cycle with sched := [] }
    let u : State := { v.clock 0 with cur := 0 }
    stepping.hub.plant.powerOff = false ∧ stepping.agenda = [] ∧ stepping.sched = [0] ∧ v.movable 0 = true ∧
    (v.core 0).xtEnds = false ∧ u.me.freeing.isNone = true ∧ u.me.unwindTo.isNone = true ∧ (u.overBudget 0).isNone = true ∧
    u.trapDue 0 = false ∧ u.me.gang.isNone = true ∧ u.me.replaying = false ∧ u.me.holds.isNone = true ∧
    fetches u 0x000003F8 = true ∧ decodes 0x000003F8 (some 0) .nop = true ∧ u.me.latch.isSome = Instr.nop.pBit := by
  refine ⟨?_, ?_, ?_, ?_, ?_, ?_, ?_, ?_, ?_, ?_, ?_, ?_, ?_, ?_, ?_⟩ <;> first | rfl | decide +kernel

/-- The same core when a load of it waits for a full word that is full now: it holds the load's word. -/
def woken : State := { stepping with
  cores := [(0, { core0 with pc := 0x80000, sleep := .full [3], held := some (0x80000, 0x00000180, none) })], full := [3] }

theorem wit_StepRunsTheDecodedInstruction_held :
    let v : State := { woken.cycle with sched := [] }
    let u : State := { v.clock 0 with cur := 0 }
    v.movable 0 = true ∧ (v.core 0).xtEnds = false ∧ u.me.freeing.isNone = true ∧ u.me.unwindTo.isNone = true ∧
    (u.overBudget 0).isNone = true ∧ u.trapDue 0 = false ∧ u.me.gang.isNone = true ∧ u.me.replaying = false ∧
    u.me.holds = some (0x00000180, none) ∧ decodes 0x00000180 (some 0) (.ldf 0 0 0 0 0) = true ∧
    u.me.latch.isSome = (Instr.ldf 0 0 0 0 0).pBit := by
  refine ⟨?_, ?_, ?_, ?_, ?_, ?_, ?_, ?_, ?_, ?_, ?_⟩ <;> first | rfl | decide +kernel

theorem wit_ChecksBeforeEveryEffect :
    let p := mk 0 (prefixed 0 0 0 0 0 core0)
    let i : Instr := .add 0 3 2 1 0
    let j : Instr := .add 0 3 2 1 1
    let rep (c : Nat) : State := mk 0 { core0 with repc := BitVec.ofNat 64 (c * 2 ^ 52) }
    encode i ≠ none ∧ i.major ≠ 0x80 ∧ encode j ≠ none ∧
    (p.me.latch.isSome = true ∧ i.pBit = false) ∧ (s0.me.latch = none ∧ j.pBit = true) ∧
    (s0.me.latch.isSome = (Instr.fflush 0 0 3 2 0).pBit ∧ classPresent s0.cur (Instr.fflush 0 0 3 2 0).major = false) ∧
    (let q := mk 0 (prefixed 0 0 0 1 0 core0)
     q.me.latch.isSome = j.pBit ∧ classPresent q.cur j.major = true ∧ q.me.mods.acceptedBy j.major = false) ∧
    ((rep 1).me.replaying = true ∧ (rep 4095).me.repPass = 0 ∧ notCapturable (.br 0 0 0) = some 1) := by decide +kernel

theorem wit_FalseGuardDiscards :
    let q := mk 0 (prefixed 0 1 0 0 0 core0)
    let j : Instr := .add 0 3 2 1 1
    encode j ≠ none ∧ j.major ≠ 0x80 ∧ q.me.latch.isSome = j.pBit ∧ classPresent q.cur j.major = true ∧
    q.me.mods.acceptedBy j.major = true ∧ q.me.replaying = false ∧ q.me.guard q.me.mods = false := by decide +kernel

theorem wit_PrefixLoadsTheLatch :
    (mk 0 (prefixed 0 0 0 0 0 core0)).me.latch.isSome = true ∧ s0.me.latch = none ∧ (3 : BitVec 2) = 3 ∧ (2 : BitVec 2) ≠ 3 ∧
    (6 : BitVec 3) ≠ 7 := by decide +kernel

theorem wit_AluResults :
    s0.me.mods.sat = 0 ∧ Issues (aluInstr .add 0 3 2 1 0) s0 ∧ Issues (aluInstr .popc 1 3 2 31 0) s0 := by decide +kernel

theorem wit_SaturatingResults :
    let a := mk 0 (prefixed 1 0 0 0 0 core0)
    let b := mk 0 (prefixed 2 0 0 0 0 core0)
    (Issues (aluInstr .div 1 3 2 1 1) a ∧ a.me.mods.sat = 1) ∧ (Issues (aluInstr .shl 0 3 2 1 1) b ∧ b.me.mods.sat = 2) ∧
    Issues (aluInstr .and 0 3 2 1 1) b ∧ Issues (aluInstr .div 0 3 2 1 1) b := by decide +kernel

theorem wit_ImmediateResults :
    s0.me.mods.sat = 0 ∧ iss s0 [.addi 0x800 2 1 0, .andi 1 2 1 0, .ori 1 2 1 0, .xori 1 2 1 0, .muli 1 2 1 0, .addiW 1 2 1 0, .shli 0 63 2 1 0, .shri 0 0 2 1 0, .shai 0 63 2 1 0, .shli 1 31 2 1 0, .shri 1 32 2 1 0, .shai 1 31 2 1 0] = true := by
  decide +kernel

theorem wit_AddressForm : Issues (.lea 0x3FF 3 2 1 0) s0 := by decide +kernel

theorem wit_ConstantsAndBounds :
    iss s0 [.ldi 0 0xFFFFFFFF 1 0, .ldi 1 0x80000000 1 0, .ldih 1 1 0, .bnd 3 2 1 0, .bndi 0xFFF 2 1 0, .bdset 0 0 0 0 1 7 0 0, .bdset 1 7 3 2 0 7 0 0, .bdset 0 6 0 2 0 0 0xFFFFFF 0] = true := by
  decide +kernel

theorem wit_ComparesWriteOnePredicate :
    Issues (.cmp 1 5 3 2 7 0) s0 ∧ Issues (.cmp 0 6 3 2 0 0) s0 ∧ Issues (.cmpi 0x100 5 2 1 0) s0 ∧ Issues (.cmpi 0 7 2 1 0) s0 := by
  decide +kernel

theorem wit_PredicatesAndSelection :
    iss s0 [.plog 8 7 7 0 0, .sel 1 7 3 2 31 0, .sel 0 0 3 2 0 0, .pmovToScalar 31 0, .pmovFromScalar 0 0] = true := by
  decide +kernel

theorem wit_TransfersOfControl :
    s0.me.repSusp = false ∧ iss s0 [.br 0x20000 1 7, .j 0x200000, .jr 2 0, .loop 1 0, .loop 1 7, .repf 0 0 0 1, .repf 0xFFF 3 15 0] = true := by
  decide +kernel

/-- A core with a window of n frames, an area of m bytes and PTR at its base. -/
def windows (n m : Nat) : Core := { core0 with
  wptr := BitVec.ofNat 64 (n * 8), wsp := BitVec.ofNat 64 (m * 2 ^ 32) }

theorem wit_CallsMoveTheWindow :
    (Issues (.callr 2 0) (mk 0 (regs [(2, 2)])) ∧ (mk 0 (regs [(2, 2)])).me.res ≤ 6) ∧
    (Issues (.call 1) (mk 0 (windows 6 191)) ∧ (mk 0 (windows 6 191)).me.res = 6 ∧
      areaLimit (windows 6 191).wsp < areaPtr (windows 6 191).wsp + 192) ∧
    ((mk 0 (windows 6 192)).me.res = 6 ∧ areaPtr (windows 6 192).wsp + 192 ≤ areaLimit (windows 6 192).wsp ∧
      areaPtr (windows 6 192).wsp + 192 < 2 ^ 16) ∧
    ((mk 0 (windows 5 0)).me.res < 6 ∧ Issues (.call 1) (mk 0 (windows 5 0))) ∧
    (Issues (.ret 0) (mk 0 (windows 1 0)) ∧ (windows 1 0).res ≤ 1 ∧ areaPtr (windows 1 0).wsp = (windows 1 0).floor) ∧
    (1 < (windows 2 0).res) ∧ ((regs [(23, 2)]).s 23).toNat % 4 ≠ 0 ∧
    (let c := { windows 1 0x400 with wsp := setPtr (windows 1 0x400).wsp 192 }
     c.res ≤ 1 ∧ areaPtr c.wsp ≠ c.floor ∧ 192 ≤ areaPtr c.wsp) := by decide +kernel

theorem wit_ScalarFormsChangeOneRegister :
    (scalarDest (.bnd 3 2 1 0) = some 1 ∧ Issues (.bnd 3 2 1 0) (mk 0 (regs [(3, 1)])) ∧
      scalarOperandsOk (.bnd 3 2 1 0) (mk 0 (regs [(3, 1)])) = true) ∧
    (scalarDest (.shli 1 31 2 0 0) = some 0 ∧ scalarOperandsOk (.shli 1 31 2 0 0) s0 = true) ∧
    (scalarDest (.clz 1 2 31 0) = some 31 ∧ Issues (.clz 1 2 31 0) s0 ∧ scalarOperandsOk (.clz 1 2 31 0) s0 = true) := by
  decide +kernel


/-! ## Hypotheses met: memory, traps, system -/

/-- What a check raises. -/
def raised {α : Type} (m : M α) : Option (Cause × W64) :=
  match m with
  | .error (.trap c v) => some (c, v)
  | _ => none

/-- A check passes. -/
def passes {α : Type} (m : M α) : Bool :=
  match m with
  | .ok _ => true
  | _ => false

/-- An access of the core that moves passes, in TCM or scratch, without error and without a halt. -/
def reaches (s : State) (ea : W64) (n : Nat) (k : Access) (reads : Bool) : Bool :=
  match s.localCheck s.cur s.me.ctx s.me.level ea n k with
  | .ok l => l.tagged && l.buffers && passes (s.eccCheck s.cur l n reads) && !s.haltAtHit s.cur
  | _ => false

/-- Core 0 with registers set, in the states above. -/
def at' (l : List (Nat × W64)) : State := mk 0 (regs l)

/-- A task at service level. -/
def service (c : Core) : Core := { c with tsk := 0x400000 }

/-- A task at device level. -/
def device (c : Core) : Core := { c with tsk := 0x800000 }

/-- An empty commit buffer. -/
def buffer0 : Ordered :=
  { lines := [], reads := [], spawns := [], fcsr := 0, srseed := 0, bd := Vector.replicate 8 0
    aw0 := 0, aw1 := 0, gst := 0 }

/-- An ordered task that buffers. -/
def ordered (c : Core) : Core := { c with tsk := 0x1000, ordered := some buffer0 }

/-- Core 0 with another cluster. -/
def inside (c : Core) (k : Cluster) : State := { mk 0 c with clusters := [(0, k)] }

/-- A window on bay 1: R and W as given. -/
def window (r w : Nat) : W64 := BitVec.ofNat 64 (2 ^ 63 + w * 2 ^ 62 + r * 2 ^ 61 + 0x8000 * 2 ^ 32 + 0x88000)

/-- For polder 0, with a first window. -/
def through (w : W64) : Ctx := { pol := 0, wins := ⟨w, 0⟩, depth := 1 }

theorem wit_LocalAccessChecks_bounds :
    raised (s0.localCheck 0 (through 0) 0 0x100000000 4 .load) = some (.polderAccess, 7) ∧
    raised (s0.localCheck 0 (through 0) 0 0x2 4 .load) = some (.align, 4) ∧
    raised (s0.localCheck 0 (through 0) 0 0x4000 4 .load) = some (.polderAccess, 0) ∧
    regionOf 0 0x4000 = none ∧ regionOf 0 0x7FFFFFF = none ∧ regionOf 0 0x100000 = some .event ∧ regionOf 0 0x110000 = some .control ∧
    (s0.die 0).affected 15 = false ∧ s0.shelfBytes 0 < 0x8000000 + 4 ∧
    raised (s0.localCheck 0 (through 0) 0 0xFFFFFF0 4 .load) = raised (α := Unit) (trap .polderAccess 3) := by decide +kernel

theorem wit_LocalAccessChecks_shelf :
    (let s := { s0 with dies := [(0, { Die.reset with convert := some { lo := 8, hi := 12, next := 8, drained := false, agent := 0 } })] }
     raised (s.localCheck 0 (through 0) 0 0xC000000 4 .load) = some (.bermFenced, 11) ∧ (s.die 0).affected 11 = true) ∧
    (let s := { s0 with dies := [(0, { Die.reset with waymask := 0x8000000000000909#64 })] }
     (s.die 0).affected 8 = false ∧ s.shelfBytes 0 = 0x7000000 ∧
     raised (s.localCheck 0 (through 0) 0 0xF000000 4 .load) = some (.polderAccess, 4)) := by decide +kernel

theorem wit_LocalAccessChecks_ownership :
    s0.ownerAt 0 0x88000 (.bay 1) = none ∧ s0.ownerAt 0 0x3FFC (.tcm true) = some 0 ∧
    raised (s0.localCheck 0 (through 0) 0 0x88000 4 .load) = some (.polderAccess, 1) ∧
    raised (s0.localCheck 0 (through (window 0 1)) 0 0x88000 4 .load) = some (.polderAccess, 5) ∧
    raised (s0.localCheck 0 (through (window 1 0)) 0 0x8FFFC 4 .atomic) = some (.writeProtect, 2) ∧
    raised (s0.localCheck 0 (through (window 1 1)) 0 0x90000 4 .atomic) = some (.polderAccess, 1) ∧
    passes (s0.localCheck 0 (through (window 1 1)) 0 0x8FFFC 4 .atomic) = true ∧
    raised ((inside core0 { cluster0 with bfmt := vset cluster0.bfmt 0 1 }).localCheck 0 (through 0) 0 0x80000 4 .store) =
      some (.writeProtect, 1) := by decide +kernel

theorem wit_LocalAccessChecks_tags :
    raised (s0.localCheck 0 (through 0) 0 0xF0000000 4 .load) = some (.tagMismatch, 0xF0) ∧
    raised (s0.localCheck 0 (through 0) 0 0x30000020 4 .load) = some (.tagMismatch, 0x30) ∧
    passes (s0.localCheck 0 (through 0) 0 0x3FFC 4 .store) = true := by decide +kernel

/-- A core whose bd[0] spans 4 words at 0x100. -/
def bounded (c : Core) (e : Nat) : Core :=
  { c with bd := vset c.bd 0 (BitVec.ofNat 64 (2 ^ 63 + e * 2 ^ 56 + 4 * 2 ^ 32 + 0x100)) }

theorem wit_LoadsReadMemory :
    (iss (at' [(1, 0x103)]) [.ldb 0 1 2 0, .ldw 1 1 2 0, .ldx 0 0 2 2 0] = true ∧ (at' [(1, 0x103)]).me.isOrd = false ∧
      reaches (at' [(1, 0x103)]) 0x103 1 .load true = true ∧ raised ((at' [(1, 0x103)]).localCheck 0 s0.me.ctx 0 0x104 4 .load) = none) ∧
    (raised ((at' [(1, 0x103)]).localCheck 0 s0.me.ctx 0 0x103 2 .load) = some (.align, 2)) ∧
    (let c := bounded (regs [(1, 3), (2, 4)]) 2
     iss (mk 0 c) [.ldx 0 0 1 3 0, .ldx 1 0 2 3 0, .ldx 1 1 1 3 0] = true ∧ c.loadOf (.ldx 0 0 1 3 0) = some (true, 4, 0x10C, 3) ∧
     reaches (mk 0 c) 0x10C 4 .load true = true ∧ (bounded c 4).element 0 3 = none) := by decide +kernel

theorem wit_StoresWriteOnlyTheirBytes :
    (iss (at' [(1, 0x3FF8)]) [.std 0 1 2 0] = true ∧ (at' [(1, 0x3FF8)]).me.isOrd = false ∧
      reaches (at' [(1, 0x3FF8)]) 0x3FF8 8 .store false = true) ∧
    (reaches (at' [(1, 0x80000)]) 0x80000 4 .store false = true) ∧
    (raised ((at' [(1, 0x4000)]).localCheck 0 s0.me.ctx 0 0x4000 8 .store) = some (.polderAccess, 0)) ∧
    (let c := bounded (regs [(1, 3), (2, 4)]) 3
     iss (mk 0 c) [.stx 0 1 3 0, .stx 0 2 3 0, .stx 1 1 3 0] = true ∧ c.storeOf (.stx 0 1 3 0) = some (8, 0x118, 0) ∧
     reaches (mk 0 c) 0x118 8 .store false = true ∧ (bounded c 4).element 0 3 = none) := by decide +kernel

theorem wit_OrderedTasksBufferTheirAccesses :
    let s := mk 0 (ordered (regs [(1, 0x80000), (2, 5)]))
    iss s [.stw 0 1 2 0, .ldw 0 1 3 0] = true ∧ reaches s 0x80000 4 .store false = true ∧ reaches s 0x80000 4 .load true = true ∧
    s.me.buffered = true ∧ s.me.ordered = some buffer0 ∧ buffer0.lines.length < 64 ∧ buffer0.reads.length < 64 := by decide +kernel

/-- The granules from a pointer pass. -/
def granulesPass (s : State) (ptr : W64) (k : Access) (tags skip : Bool) (code n : Nat) : Bool :=
  passes (s.checkGranules s.cur s.me.ctx s.me.level ptr k tags skip code n)

theorem wit_TagInstructions :
    (iss (at' [(1, 0x10), (2, 1)]) [.tags 0 2 1 0] = true ∧ iss (at' [(2, 1025)]) [.tags 0 2 1 0] = true ∧
      iss (at' [(1, 0xF0000000), (2, 1)]) [.tags 0 2 1 0, .tagr 0 1 3 0, .tagp 0 2 1 3 0, .tagp 1 2 1 3 0] = true) ∧
    (iss (at' [(1, 0x30000020), (2, 2)]) [.tags 0 2 1 0] = true ∧ (at' [(1, 0x30000020), (2, 2)]).me.isOrd = false ∧
      granulesPass (at' [(1, 0x30000020), (2, 2)]) 0x30000020 .store false false 8 2 = true) ∧
    (let s := at' [(1, 0x3FFF)]
     passes (s.checkReach 0 s0.me.ctx 0 0x3FFF 1 .load) = true ∧ passes (s.eccCheck 0 ⟨.tcm true, 0x3FE0, tcmBase 0 + 0x3FE0⟩ 32 false) = true ∧
     raised (({ s with badTags := [(tcmBase 0 + 0x3FE0) / 32] } : State).eccCheck 0 ⟨.tcm true, 0x3FE0, tcmBase 0 + 0x3FE0⟩ 32 false) =
       some (.uncorrectable, 0x3FE011)) ∧
    (iss (service (regs [(1, 0x110408)]) |> mk 0) [.probe 0 1 0 1 3 3 0] = true ∧ regionOf 0 0x110408 = some .control) ∧
    iss (at' [(1, 0x3FFF)]) [.probe 0 1 0 1 0 3 0, .probe 0xFF 0 0 1 3 3 0, .tags 1 2 1 0, .tagr 1 1 3 0, .probe 0 0 1 1 0 3 0] = true ∧
    isOrdinary (at' []).cur = true ∧ isOrdinary 0x100000 = false := by decide +kernel

theorem wit_FullEmptyInstructions :
    let s := at' [(1, 0x108), (2, 8192)]
    let t : State := { s with full := [(tcmBase 0 + 0x108) / 4, (tcmBase 0 + 0x10C) / 4] }
    (iss s [.ldf 0 1 1 3 0, .ldfc 0 0 1 3 0, .stf 0 1 1 3 0, .feq 1 3 0] = true) ∧ reaches s 0x108 8 .load true = true ∧
    reaches s 0x108 8 .store false = true ∧ reaches s 0x108 4 .load true = true ∧ s.me.isOrd = false ∧
    s.softErrors (tcmBase 0 + 0x108) 4 = [] ∧ s.isFull ((tcmBase 0 + 0x108) / 4) = false ∧ t.isFull ((tcmBase 0 + 0x108) / 4) = true ∧ t.isFull ((tcmBase 0 + 0x10C) / 4) = true ∧
    (iss (at' [(1, 2)]) [.fec 2 1 0] = true ∧ iss (at' [(2, 8193)]) [.fec 2 1 0] = true) ∧
    (iss (at' [(1, 0x1C), (2, 3)]) [.fec 2 1 0] = true ∧ granules 0x1C 12 = 2 ∧
      granulesPass (at' [(1, 0x1C), (2, 3)]) 0 .store true false 10 2 = true) := by decide +kernel

theorem wit_LocalAtomics :
    let s := at' [(1, 0x3FFC), (2, 0x3FF8)]
    iss s [atomicInstr .add 0 1 1 0 1 3 0, atomicInstr .cas 5 31 2 3 0 0 0, atomicInstr .maxn 6 1 1 0 0 0 0, atomicInstr .swap 0 0 1 0 0 0 0] = true ∧
    isOrdinary s.cur = true ∧ s.me.isOrd = false ∧ s.owesPosted = false ∧ reaches s 0x3FFC 4 .atomic true = true ∧
    reaches s 0x3FF8 8 .atomic true = true ∧ raised (s.localCheck 0 s.me.ctx 0 0x3FFC 8 .atomic) = some (.align, 8) := by decide +kernel

/-- A cluster whose queue 0 has entries of 2^e bytes, and its counts. -/
def queued (e : Nat) (h t : BitVec 32) : Cluster :=
  { cluster0 with
    queues := vset cluster0.queues 0 ⟨BitVec.ofNat 64 (2 ^ 63 + 2 ^ 59 + e * 2 ^ 56), h, t⟩ }

theorem wit_HardwareQueues_QINIT :
    (iss (at' [(1, 0x80000)]) [.qinit 0 2 1 3 0] = true ∧ (at' [(1, 0x80000)]).me.isOrd = false) ∧
    (iss (at' [(1, 0x80004), (2, 0x3C)]) [.qinit 0 2 1 3 0] = true) ∧
    (let s := at' [(1, 0x80008), (2, 0x31)]
     iss s [.qinit 0 2 1 3 0] = true ∧ (s.queue 0).valid = false ∧ regionOf 0 0x80008 = some (.bay 0) ∧ granules 0x80008 16 = 1 ∧
     granulesPass s 0x80000 .store true false 10 1 = true) ∧
    (let s := inside (regs [(1, 0x80000), (2, 0x21)]) { cluster0 with
       queues := vset cluster0.queues 0 ⟨0x8000010000000000, 0, 0⟩ }
     (s.queue 0).valid = true ∧ (s.queue 0).pol ≠ s.me.pol) := by decide +kernel

theorem wit_HardwareQueues_QENQ_QDEQ :
    (iss s0 [.qenq 0 1 0 3 0, .qdeq 0 0 3 1 0, .qcnt 0 1 0] = true ∧ (s0.queue 0).valid = false ∧ vget s0.me.qfail s0.me.taskId 0 < 15) ∧
    (let s := inside core0 (queued 2 7 9)
     (s.queue 0).valid = true ∧ (s.queue 0).pol = s.me.pol ∧ (s.queue 0).cap ≤ (s.queue 0).count ∧ (s.queue 0).size < 16 ∧
     reaches s ((s.queue 0).entry (s.queue 0).head) (s.queue 0).size .load true = true) ∧
    (let s := inside core0 (queued 3 7 8)
     (s.queue 0).count < (s.queue 0).cap ∧ (s.queue 0).count ≠ 0 ∧
     reaches s ((s.queue 0).entry (s.queue 0).tail) (s.queue 0).size .store false = true) ∧
    (let s := inside core0 (queued 4 0xFFFFFFFF 0xFFFFFFFF)
     16 ≤ (s.queue 0).size ∧ (s.queue 0).count = 0) ∧
    (let s := mk 0 (ordered core0)
     s.me.isOrd = true ∧ iss s [.qinit 0 2 1 3 0, .qenq 0 1 1 3 0, .qdeq 0 1 3 1 0, .qcnt 0 1 0] = true) := by decide +kernel

theorem wit_TakingATrap :
    let c : Core := { core0 with tvec := 0x80103, latch := some 0x19, repc := 0x0010000000000000 }
    (c.trapc.getLsbD 30 = false ∧ c.tvec ≠ 0 ∧ c.latch = some 0x19 ∧ c.repCount ≠ 0 ∧ c.rev = none) ∧ core0.repCount = 0 := by
  decide +kernel

theorem wit_DoubleTrapStops :
    (s0.me.tvec = 0 ∧ isHub 0 = false ∧ (s0.jobOf 0).isNone = true) ∧
    (((withJobs s0 [job0]).jobOf 0).isSome = true ∧ ({ core0 with trapc := 0x40000000, tvec := 4 } : Core).trapc.getLsbD 30 = true) ∧
    isHub 0x200000 = true ∧ (State.reset.core 0x200000).tvec = 0 := by decide +kernel

theorem wit_TrapsAndReturns :
    (let s := mk 0 { core0 with tvec := 0x80100 }
     iss s [.trap 0xFFF, .brk 0, .eret] = true ∧ s.me.trapc.getLsbD 30 = false ∧ s.me.tvec ≠ 0 ∧ s.me.level = 0 ∧ s.haltAtHit s.cur = false) ∧
    (let s := withJobs s0 [jobAs fun x => { x with replaying := true, haltAll := true }]
     iss s [.brk 0xFFF] = true ∧ s.haltAtHit s.cur = true ∧ s.brkHalts 0xFFF = true ∧ (s.jobOf s.cur).isSome = true) ∧
    (let r (plv : Nat) (pc : W64) := mk 0 { service core0 with trapc := BitVec.ofNat 64 (plv * 2 ^ 28 + 2 ^ 31), trappc := pc }
     iss (r 0 0) [.eret] = true ∧ iss (r 1 2) [.eret] = true ∧ iss (r 2 0) [.eret] = true ∧ iss (r 3 0) [.eret] = true ∧
     (r 1 0).me.level = 1) ∧
    (let d : Deferred := { cause := .copySpan, value := 5, depth := 0, pol := 0 }
     let c : Core := { core0 with tvec := 4, deferred := [d] }
     c.act = .task ∧ c.deferred.find? (fun d => d.depth = c.depth && d.pol == c.pol) = some d ∧
     (mk 0 c).sleepDone 0 = false ∧ c.join.isNone = true ∧ c.trapc.getLsbD 30 = false ∧ c.tvec ≠ 0) ∧
    core0.deferred.find? (fun d => d.depth = core0.depth && d.pol == core0.pol) = none := by decide +kernel

theorem wit_SpecialRegistersRead :
    iss s0 [.rds 9 1 0, .rds 0x40 31 0, .rds 0x30 1 0, .rds 0x2B 1 0] = true ∧ s0.me.level = 0 ∧
    (let s := mk 0x200000 { core0 with tsk := 0x400000 }
     iss s [.rds 0x19 1 0, .rds 0x40 1 0, .rds 0x33 1 0] = true ∧ isHub s.cur = true ∧ isOrdinary s.cur = false ∧ s.me.level = 1) := by
  decide +kernel

theorem wit_SpecialRegistersWritten :
    iss s0 [.wrs 0x41 1 0, .wrs 0x40 1 0, .wrs 0x33 1 0, .wrs 2 1 0, .wrs 0 1 0, .wrs 6 1 0, .wrs 0x28 1 0] = true ∧ s0.me.isOrd = false ∧
    (specKnown 0x41 = false ∧ specKnown 0x40 = true ∧ specPresent 0 0x40 = false ∧ specPresent 0 2 = true ∧ specWritable 2 2 = false ∧
      specWritable 0 0x33 = false) ∧
    (specPresent 0x200000 0x40 = true ∧ specWritable 2 0x40 = true ∧ specWritable 1 0x40 = false) ∧
    iss (mk 0x200000 (device core0)) [.wrs 0x40 1 0] = true ∧ iss (mk 0 (service core0)) [.wrs 0x13 1 0, .wrs 0x10 1 0, .wrs 0x21 1 0] = true := by
  decide +kernel

/-- Core 0 at service level about to write WSP or DSD. -/
def area (x : W64) : Core := service (regs [(1, x)])

/-- The conditions of R55 on a value as a Boolean, and the ownership of the regions. -/
def fits (c : Core) (dsd : Bool) (x : W64) : Bool := by
  refine @decide (c.areaFits dsd x) ?_
  unfold Core.areaFits
  infer_instance

def owns (s : State) (dsd : Bool) (x : W64) : Bool := by
  refine @decide (s.areaOwned dsd x) ?_
  unfold State.areaOwned
  infer_instance

theorem wit_AreaRegisters :
    (iss s0 [.wrs 0x11 1 0, .wrs 0x12 1 0] = true ∧ s0.me.level = 0) ∧
    (iss (mk 0 (area 0x2000000100000000)) [.wrs 0x11 1 0] = true ∧ (mk 0 (area 0)).me.act = .task ∧ (mk 0 (area 0)).me.isOrd = false ∧
      (mk 0 (area 0)).me.level = 1) ∧
    (fits (area 0) false 0x2000_1000_0000 = true ∧ owns (mk 0 (area 0)) false 0x2000_1000_0000 = true ∧
      fits (area 0) false 0x1000_2000_0000 = false ∧ fits (area 0) false 0x4040_2000_0000 = false) ∧
    (fits (area 0) true 0x0C80_2000_1000_0000 = true ∧ fits (area 0) true 0x0100_2000_1000_0000 = true ∧
      fits (area 0) true 0x0480_2000_1000_0000 = false ∧
      owns (mk 0 (area 0)) true 0x0C80_2000_1000_0000 = true) ∧
    (owns (inside (area 0) Cluster.reset) false 0x2000_1000_0000 = false ∧
      owns (inside (area 0) Cluster.reset) true 0x0C80_2000_1000_0000 = false) := by
  decide +kernel

/-- Core 0 whose entry 0 holds e. -/
def entered (c : Core) (e : Entry) : Core := { c with tasks := vset c.tasks 0 e }

theorem wit_TasksEnd :
    (iss (mk 0 { core0 with curpol := 0x40000 }) [.tend, .yield] = true ∧ ({ core0 with curpol := 0x40000 } : Core).depth ≠ 0) ∧
    (iss (mk 0 { core0 with tsk := 0x200000 }) [.tend, .yield] = true ∧ ({ core0 with tsk := 0x200000 } : Core).ex = true) ∧
    (let s := mk 0 (entered core0 0x10003)
     iss s [.tend, .yield] = true ∧ s.me.depth = 0 ∧ s.me.ex = false ∧ (s.closePorts s.cur).me.due = none ∧ s.me.isOrd = false ∧
     s.me.isGang = false ∧ (s.me.entry 0).kept = false ∧ (entered core0 0x10043).entry 0 = 0x10043 ∧
     (0x10043 : Entry).kept = true ∧ (0x10043 : Entry).thresh = 1) ∧
    ((windows 6 1151).depth = 0 ∧ areaLimit (windows 1 1471).wsp < areaPtr (windows 1 1471).wsp + 192 * (windows 1 1471).res + 1280) ∧
    (iss (mk 0 (windows 6 2432)) [.yield] = true ∧ (windows 6 2432).res ≤ 6 ∧
      areaPtr (windows 6 2432).wsp + 192 * (windows 6 2432).res + 1280 ≤ areaLimit (windows 6 2432).wsp) := by decide +kernel

theorem wit_TasksEnd_TSPAWN :
    (iss (at' [(2, 1)]) [.tspawn 2 1 3] = true ∧ iss (at' [(2, 0x180)]) [.tspawn 2 1 3] = true) ∧
    ((0x180 : Entry).refused 0 = true ∧ (0 : Entry).refused 0 = false ∧ (0x100 : Entry).refused 1 = true) ∧
    (let c : Core := { regs [(1, 0x80000)] with tasks := Vector.replicate 64 2 }
     iss (mk 0 c) [.tspawn 2 1 3] = true ∧ (c.entry 0).state ≠ 0 ∧ (c.entry 63).state ≠ 0) ∧
    (let c : Core := { regs [(1, 0x80000)] with tasks := vset (Vector.replicate 64 2) 63 0 }
     (c.entry 63).state = 0 ∧ (c.entry 62).state = 2 ∧ c.ordered.isNone = true ∧ c.isOrd = false) := by decide +kernel

theorem wit_OrderingAndObservation :
    iss s0 [.fence 6 1 1, .fence 0 0 1, .fence 0 1 0, .fence 5 31 3, .oldest, .nop, .hint 0x3FFFFF 0 none, .hint 0 0 (some 1), .trc 0x7F 2 1 0,
      .cnt 3 1 0, .cntSel 0 1 0] = true ∧ isOrdinary s0.cur = true ∧ s0.me.isOrd = false ∧ s0.owesPosted = false ∧ s0.me.level = 0 ∧
    iss (mk 0 (service core0)) [.cntSel 3 1 0] = true ∧ (service core0).buffered = false ∧
    (let s := inside core0 { cluster0 with tuOwn := 0x8000000000000000, tuCtl := 3 }
     (s.unit (unitOf s.cur)).1.extractLsb' 62 2 = 2 ∧ (s.unit (unitOf s.cur)).2.1.getLsbD 0 = true ∧
     (s.unit (unitOf s.cur)).2.1.getLsbD 1 = true ∧ (s.unit (unitOf s.cur)).2.1.getLsbD 16 = false) := by decide +kernel

theorem wit_BlockCopies_BCOPY :
    (iss (at' [(1, 0x4000)]) [.bcopy 2 1 3 0] = true ∧ (at' [(1, 0x4000)]).me.isOrd = false) ∧
    (let s := at' [(1, 0x100), (2, 6), (3, 0x200)]
     iss s [.bcopy 2 1 3 0] = true ∧ s.endFormat 0 0x100 < 2) ∧
    (iss (at' [(1, 0x100), (3, 0x200)]) [.bcopy 2 1 3 0] = true) ∧
    (let s := at' [(1, 0x1FFC), (2, 8), (3, 0x200)]
     s.inOneUnit 0 0x1FFC 8 = false ∧ s.inOneUnit 0 0x200 8 = true) ∧
    (let s := at' [(1, 0x100), (2, 32), (3, 0x11C)]
     s.inOneUnit 0 0x100 32 = true ∧ s.inOneUnit 0 0x11C 32 = true ∧ (0x100 < 0x11C + 32 ∧ 0x11C < 0x100 + 32)) ∧
    (let s := at' [(1, 0x100), (2, 32), (3, 0x120)]
     s.inOneUnit 0 0x120 32 = true ∧ granulesPass s 0x100 .load true false 10 (granules 0x100 32) = true ∧
     granulesPass s 0x120 .engine true false 10 (granules 0x120 32) = true ∧ s.copiesOf 0 < 4 ∧ s.myCluster.copies.length < 32) ∧
    (let s := inside (regs [(1, 0x100), (2, 4), (3, 0x80000)]) { cluster0 with bfmt := vset cluster0.bfmt 0 1 }
     s.endFormat 0 0x80000 = 1 ∧ s.me.level = 0 ∧ granulesPass s 0x80000 .engine true false 10 1 = true) := by decide +kernel

/-- A copy of 8 bytes from 0x100 to dst. -/
def copy0 (dst : W32) (b : Bool) : Copy :=
  { agent := 0, dst := dst, src := 0x100, count := 8, conv := false, ctx := core0.ctx, seed := 0, ts := 0, level := 0, begun := b }

/-- Core 0 whose cluster has that copy at the head of its queue. -/
def copying (x : Copy) : State := inside core0 { cluster0 with copies := [x] }

theorem wit_BlockCopies_engine :
    ((copying (copy0 0x200 false)).cluster 0).copies = [copy0 0x200 false] ∧
    (((copying (copy0 0x200 true)).copyOutcome 0).map (fun r => (r.1, r.2.stop)) = some (copy0 0x200 true, none)) ∧
    ((copying (copy0 0x200 true)).inOneUnit 0 0x100 8 = true ∧ (copying (copy0 0x200 true)).inOneUnit 0 0x200 8 = true ∧ clusterOf 0 = 0) ∧
    (((copying (copy0 0x30000200 true)).copyOutcome 0).map (fun r => r.2.stop.map fun e => (e.1, e.2.2)) =
      some (some (.tagMismatch, 0))) := by decide +kernel


/-! ## Hypotheses met: vectors, tiles, exchange, gates -/

/-- None of the vector registers names a bound port, rd may be written, and the core is at depth 0. -/
def regsOk (s : State) (srcs : List (BitVec 5)) (rd : BitVec 5) : Bool :=
  (srcs ++ [rd]).all (fun r => (s.me.portAt r).isNone) && rd.toNat < 16 && s.me.dom.isEmpty

/-- With no frame of a domain, no value is to be kept. -/
theorem wit_Registers : s0.keepVector 0 = .ok s0 ∧ s0.keepVector 15 = .ok s0 := ⟨rfl, rfl⟩

/-- Core 0 with a prefix in its latch. -/
def withLatch (sat ew : Nat) : State := mk 0 (prefixed sat 0 0 ew 0 core0)

theorem wit_VectorArithmeticByLanes :
    iss s0 [.vadd 5 2 1 3 0, .vneg 10 1 15 0, .vmul 0 2 1 3 0, .vfma 0 2 1 3 0, .vfms 7 2 1 3 0, .vfnma 4 2 1 3 0,
      .vscl 1 2 1 3 0, .vscl 5 2 1 3 0] = true ∧ regsOk s0 [2, 1] 3 = true ∧ regsOk s0 [2, 1] 15 = true ∧
    vty 5 = .int true 8 ∧ vty 10 = .int false 32 ∧ vty 0 = .fp .f32 ∧ s0.me.mods.ew = 0 ∧ s0.me.mods.rm = 6 ∧ s0.me.mods.ftz = false ∧
    (let s := withLatch 1 1
     iss s [.vadd 5 2 1 3 1] = true ∧ s.me.mods.sat = 1 ∧ ewWidth s.me.mods.ew = (vty 5).width ∧
     ewWidth s.me.mods.ew ≠ (vty 7).width) := by decide +kernel

theorem wit_VectorMovesAndMasks :
    iss s0 [.vand 2 1 3 0, .vor 2 1 3 0, .vxor 2 1 3 0, .vandn 2 1 3 0, .vmov 1 3 0, .vsel 7 2 1 3 0, .vperm 2 1 3 0, .vbcst 1 3 0, .vidx 2 1 3 0] = true ∧
    iss s0 [.vext 1 2 1 3 0, .vcmp 0 3 2 1 7 0, .vcmp 9 0 2 1 0 0, .vmskAnd 7 6 5 0, .vmskOr 7 6 5 0, .vmskXor 0 0 0 0, .vmskAndn 7 6 5 0] = true ∧
    iss s0 [.vmskFroms 31 7 0, .vmskTos 7 31 0, .vmskPopc 7 31 0, .vmskFirst 7 31 0] = true ∧ regsOk s0 [2, 1] 3 = true ∧
    s0.me.mods.ew = 0 ∧ iss (withLatch 0 2) [.vand 2 1 3 1] = true ∧ (withLatch 0 2).me.mods.ew ≠ 0 := by decide +kernel

theorem wit_ReductionsConversionsAndFunctions :
    iss s0 [.vredAdd 5 0 1 3 0, .vredMax 10 7 1 3 0, .vredMin 0 0 1 3 0, .vdot 0 2 1 3 0, .vdot 2 2 1 3 0, .vcvt 0 1 1 1 3 0, .vcvt 3 3 0 1 3 0,
      .vcvt 7 0 10 1 3 0] = true ∧ regsOk s0 [2, 1] 3 = true ∧
    (List.range 64).filter (fun k => (s0.me.qr 0).getLsbD k) = [] ∧
    (1 * (512 / max 32 16) + 512 / max 32 16) * min 32 16 ≤ 512 ∧ (3 * (512 / max 8 32) + 512 / max 8 32) * min 8 32 ≤ 512 ∧
    iss s0 [.vexp2 0 1 3 0, .vlog2 0 1 3 0, .vrcp 0 1 3 0, .vrsq 1 1 3 0, .vtanh 2 1 3 0] = true ∧
    (let s := mk 0 { core0 with
       v := vset core0.v 1 0x7F800000, q := vset core0.q 0 1 }
     lane (s.me.vr 1) 32 0 = 0x7F800000 ∧ (List.range 16).filter (fun k => (s.me.qr 0).getLsbD k) = [0]) := by decide +kernel

/-- Core 0 of a cluster whose bay 0 has a format. -/
def formatted (f : Nat) (c : Core) : State := inside c { cluster0 with bfmt := vset cluster0.bfmt 0 (BitVec.ofNat 64 f) }

theorem wit_VectorMemory :
    (let s := at' [(1, 0x100)]
     iss s [.vld 0 1 3 0, .vldDec 0 1 3 0, .vst 0 1 3 0, .vstCnv 0 1 3 0] = true ∧ regsOk s [] 3 = true ∧ s.me.isOrd = false ∧
     s.endFormat 0 0x100 = 0 ∧ reaches s 0x100 64 .load true = true ∧ reaches s 0x100 64 .store false = true) ∧
    (let s := formatted 7 (regs [(1, 0x80000)])
     s.endFormat 0 0x80000 = 7 ∧ itemBytes true 7 = 8 ∧ reaches s 0x80000 8 .load true = true ∧ reaches s 0x86000 8 .load true = true ∧
     reaches s 0x86000 8 .store false = true ∧ reaches s 0x85FF8 8 .store false = true ∧
     passes (s.eccAreas 0 0 (s.itemScales 0 0 0 8 true)) = true ∧ passes (s.eccAreas 0 0 (s.itemSlots 0 0 0)) = true ∧
     passes (s.eccWrites 0 0 (s.encodeItem 0 0 0 (s.me.vr 3) 0 0)) = true) ∧
    (let s := formatted 5 (regs [(1, 0x80000)])
     s.endFormat 0 0x80000 = 5 ∧ itemBytes true 5 = 16 ∧ reaches s 0x80010 16 .load true = true ∧ reaches s 0x80010 16 .store false = true) ∧
    (let s := at' [(1, 0x100)]
     iss s [.vlds 0xFFC 1 3 0, .vsts 4 1 3 0, .vgath 2 1 3 0, .vscat 2 1 3 0] = true ∧ regsOk s [2] 3 = true ∧ ewBytes s.me.mods = 4 ∧
     (List.range 16).all (fun k => reaches s (0x100 + BitVec.ofNat 64 k * 0xFFFFFFFFFFFFFFFC) 4 .load true) = true ∧
     (List.range 16).all (fun k => reaches s (0x100 + BitVec.ofNat 64 k * 4) 4 .store false) = true ∧
     (List.range 16).all (fun k => lane (s.me.vr 2) 32 k == 0) = true ∧ reaches s 0x100 4 .load true = true ∧
     reaches s 0x100 4 .store false = true) := by decide +kernel

/-- An item of a port without a seed. -/
def item0 (v : Vec) : PortItem := { value := v, seed := 0, ts := 0 }

/-- A port bound at 0x100, of n items. -/
def port0 (out : Bool) (n : BitVec 16) (done : Nat) (items : List PortItem) : Port :=
  { Port.reset with
    bound := true, out := out, base := 0x100, count0 := n, count1 := 1, stride0 := 64, done := done, items := items }

/-- Core 0 with port 0 bound. -/
def ported (p : Port) : Core := { service core0 with ports := vset core0.ports 0 p }

/-- The check of an engine passes. -/
def engineOk (s : State) (a : Nat) (x : Ctx) (ea : W64) (n : Nat) : Bool := passes (s.engineCheck a x ea n)

theorem wit_StreamPortsAndLinks_SBIND :
    (iss s0 [.sbind 3 1 3 2 1 0, .sunb 3, .sstat 3 1 0] = true ∧ s0.me.isOrd = false) ∧
    (let s := at' [(2, 0x10001), (1, 0x4000)]
     iss s [.sbind 0 0 0 2 1 0] = true ∧ (s.unbind 0).portUnit 0 0x4000 = none) ∧
    (let s := at' [(2, 0x4000010001), (1, 0x1FC0)]
     iss s [.sbind 0 1 0 2 1 64] = true ∧ (s.unbind 0).portUnit 0 0x1FC0 = some (0, 0x2000) ∧ (0x1FC0 : Nat) % 64 = 0 ∧ 0x1FC0 + 64 ≤ 0x2000) ∧
    (iss (at' [(2, 0x4000010002), (1, 0x1FC0)]) [.sbind 0 0 0 2 1 0] = true ∧ 0x2000 < 0x1FC0 + 64 + 64) := by decide +kernel

theorem wit_StreamPortsAndLinks_ports :
    (let s := mk 0 (ported (port0 true 1 0 []))
     iss s [.vmov 12 3 0, .vmov 1 12 0, .sunb 0, .sstat 0 1 0] = true ∧ s.me.portAt 12 = some (0, port0 true 1 0 []) ∧ s.me.mods.ew = 0 ∧
     s.me.portAt 1 = none ∧ (port0 true 1 0 []).done < (port0 true 1 0 []).total ∧ s.portBytes 0 (port0 true 1 0 []) = 64 ∧
     passes (s.localCheck 0 s.me.ctx s.me.level ((port0 true 1 0 []).item 0) 64 .store) = true ∧ s.me.dom = []) ∧
    (let p := port0 false 1 1 []
     iss (mk 0 (ported p)) [.vmov 12 3 0, .vmov 1 12 0] = true ∧ p.total ≤ p.done ∧ p.out = false) ∧
    ((port0 true 1 1 []).total ≤ (port0 true 1 1 []).done) ∧
    (let p := port0 false 2 0 [item0 5]
     iss (mk 0 (ported p)) [.vmov 12 3 0] = true ∧ regsOk (mk 0 (ported p)) [] 3 = true ∧ p.items = item0 5 :: []) ∧
    (let p := port0 false 2 0 [item0 5]
     p.fetches = true ∧ passes ((mk 0 (ported p)).portItem 0 p (p.item 1)) = true) ∧
    (let p : Port := { port0 false 1 0 [] with base := 0x30000100 }
     p.fetches = true ∧ raised ((mk 0 (ported p)).portItem 0 p (p.item 0)) = some (.tagMismatch, 0x30)) ∧
    (let p := port0 true 1 1 [item0 7]
     engineOk (mk 0 (ported p)) 0 core0.ctx (p.item 0) 64 = true ∧ (ported p).level = 1 ∧ p.mode ≠ 1) := by decide +kernel

theorem wit_StreamPortsAndLinks_links :
    (iss s0 [.lrd 0 3 0, .lrd 1 3 0, .lwr 1 0, .lstat 3 0] = true ∧ regsOk s0 [] 3 = true ∧ s0.me.lw = [] ∧ s0.me.isOrd = false ∧
      (s0.core (eastOf s0.cur)).lw.length < 4) ∧
    (eastOf 7 = 0 ∧ ({ core0 with lw := [9] } : Core).lw = 9 :: []) ∧
    (({ s0 with cores := [(0, core0), (1, { core0 with lw := [1, 2, 3, 4] })] } : State).core (eastOf 0)).lw.length = 4 := by decide +kernel

/-- A core of a tile group of two. -/
def pair (c : Core) : Core := { c with gcfg := 0x200001000 }

/-- Cores 0 and 1 as a tile group. -/
def two (c d : Core) (k : Cluster) : State := { inside c k with cores := [(0, pair c), (1, pair d)] }

/-- A cluster whose bay 0 holds a format and belongs to polder 0. -/
def bay0 (f : Nat) : Cluster := { cluster0 with bfmt := vset cluster0.bfmt 0 (BitVec.ofNat 64 f) }

/-- A join that waits. -/
def waits (kind : Nat) (key : List Nat) : JoinReq :=
  { kind := kind, key := key, since := 0, fail := none, entry := none, result := none, seen := 0, fmts := (0, 0) }

/-- A tile operation. -/
def op (w : TileWork) : TileOp := { work := w, ctx := core0.ctx, seed := 0, ts := 0, entry := none, key := none, fa := 3, fb := 3 }

/-- A core that records with a log from 0x100 to 0x100 + n. -/
def logging (n : Nat) (c : Core) : Core := { c with logb := 0x100, logp := 0x100, logl := BitVec.ofNat 64 (0x100 + n), recm := 1 }

theorem wit_TileInstructions_queue :
    (let s := at' [(1, 0x200)]
     iss s [.tzero 3, .tld 1 0, .tst 1 0, .tactRelu 0 1, .tactGelu 1 2, .tactSilu 0 3, .tstat 3, .twait] = true ∧ s.me.isOrd = false ∧
     s.me.depth = 0 ∧ s.me.tileq = [] ∧ s.me.records = false ∧ s.me.buffered = false ∧ passes (s.sliceChecks 0x200 .load) = true ∧ passes (s.sliceChecks 0x200 .store) = true) ∧
    (let s := mk 0 { core0 with recm := 1, logp := 0x30000000 }
     s.me.records = true ∧ s.logValid 0 = false ∧ iss s [.tactRelu 0 1, .tactRelu 1 1] = true) ∧
    (let s := mk 0 (logging 32 core0)
     s.me.records = true ∧ s.logValid 0 = true ∧ field s.me.logp 0 28 + 32 ≤ field s.me.logl 0 28 ∧
     field s.me.logl 0 28 < field s.me.logp 0 28 + 32 + 512) := by decide +kernel

theorem wit_TileInstructions_TMMA :
    let c : Core := regs [(1, 0x80000), (2, 0x80000)]
    let key := tmmaKey (pair c) 2 0 0 1 0 1
    let s := two c { core0 with join := some (waits 1 key) } (bay0 3)
    let n := two c core0 (bay0 3)
    iss s [.tmma 2 1 2 0 0 3 1 1 0, .tmma 2 1 2 0 0 3 1 2 0] = true ∧ iss n [.tmma 2 1 2 0 0 3 1 1 0] = true ∧ s.me.isOrd = false ∧
    s.me.depth = 0 ∧ s.me.join = none ∧ s.me.rev = none ∧ passes (s.tmmaChecks 2 false false 0x80000 0x80000) = true ∧
    passes (n.tmmaChecks 2 false false 0x80000 0x80000) = true ∧ s.me.records = false ∧
    tileGroup 0 (pair c).tileWidth = [0, 1] ∧ (tileGroup 0 8).all (fun b => b ≤ 1 || !s.waitsAt b 1) = true ∧
    tmmaKey s.me 2 0 0 1 0 1 = key ∧ n.waitsAt 1 1 = false ∧ (n.core 1).tileWidth = n.me.tileWidth := by decide +kernel

/-- Core 0 with one operation in its queue. -/
def tiling (w : TileWork) : State := mk 0 { core0 with tileq := [op w] }

theorem wit_TileInstructions_array :
    (tiling (.tzero 3)).tileFails 0 = false ∧ (tiling (.tact 1 2 false)).tileFails 0 = false ∧ (tiling (.tld 0 0x200)).tileFails 0 = false ∧
    (tiling (.tst 0 0x200)).tileFails 0 = false ∧ ((s0.sliceOf 0 0x200).map fun x => x.bay) = some none ∧
    (tiling (.tzero 3)).me.reissue = [] ∧ (op (.tzero 3)).entry.isNone = true := by decide +kernel

theorem wit_TileInstructions_TMMA_completes :
    let c : Core := { core0 with tileq := [op (.tmma 0x80000 0x80000 2 false false 0 true false false)] }
    let s := two c c (bay0 3)
    (match s.tmmaHeads 0 with
     | some hs => hs.map (fun h => h.agent) == [0, 1] && (s.tmmaFailure hs).isNone && hs.all fun h => h.op.entry.isNone
     | none => false) = true ∧ (s.core 0).reissue = [] := by decide +kernel

theorem wit_TileInstructions_failures :
    (match (tiling (.tld 0 0x30000200)).sliceOf 0 0x30000200 with
     | some x => ((tiling (.tld 0 0x30000200)).sliceFailure 0 (op (.tld 0 0x30000200)) x .load).isSome &&
         ((tiling (.tst 0 0x30000200)).sliceFailure 0 (op (.tst 0 0x30000200)) x .engine).isSome
     | none => false) = true ∧
    (let s : State := { mk 0 { core0 with tvec := 4, join := some (waits 1 []) } with tick := 0x100000 }
     s.joinExpired 0 = true ∧ (s.core 0).trapc.getLsbD 30 = false ∧ (s.core 0).tvec ≠ 0) := by decide +kernel

theorem wit_RecordAndReverse_REC :
    (iss (at' [(1, 0x100), (2, 64)]) [.recordOn 2 1, .recordOnChain 2 1, .recordOff, .recordMark 1] = true ∧
      passes ((at' [(1, 0x100), (2, 64)]).segmentChecks 0x100 64) = true ∧ s0.me.isOrd = false ∧ s0.me.tileq = [] ∧ s0.me.recm = 0) ∧
    (({ core0 with curpol := 0x40000 } : Core).depth ≠ 0 ∧ iss (mk 0 { core0 with curpol := 0x40000 }) [.recordOn 2 1, .recordOff, .recordMark 1, .reverse 0 0 0] = true) ∧
    (({ core0 with recm := 2 } : Core).recm.getLsbD 1 = true) ∧
    (let s := mk 0 (logging 64 (regs [(1, 0x400), (2, 64)]))
     iss s [.recordOnChain 2 1, .recordMark 1] = true ∧ s.me.recm.getLsbD 0 = true ∧ s.logValid 0 = true ∧
     engineOk s 0 s.me.ctx 0x400 32 = true ∧ field s.me.logp 0 28 + 32 ≤ field s.me.logl 0 28 ∧ engineOk s 0 s.me.ctx 0x100 32 = true) ∧
    (let s := mk 0 (logging 0 core0)
     s.logValid 0 = true ∧ field s.me.logl 0 28 < field s.me.logp 0 28 + 32) := by decide +kernel

/-- A walk of REVERSE that has joined. -/
def rev0 (e m : Bool) : Rev := { mark := m, value := 5, seed := 0, ts := 0, flags := 0, ended := e }

/-- A core that walks the log from 0x120 down to 0x100, with a record at its top. -/
def walking (r : Record) : State :=
  (mk 0 { logging 64 core0 with logp := 0x120, rev := some (rev0 false true), recm := 2 }).write (tcmBase 0 + 0x100) 32 r.bytes

theorem wit_RecordAndReverse_REVERSE :
    (iss (mk 0 { core0 with rev := some (rev0 true false) }) [.reverse 1 0xFFF 1] = true) ∧
    (iss (mk 0 (logging 0 core0)) [.reverse 0 0 0] = true ∧ (logging 0 core0).recm.getLsbD 0 = true) ∧
    (let c : Core := { core0 with logp := 0x30000000 }
     (mk 0 c).logValid 0 = false ∧ c.recm.getLsbD 0 = false) ∧
    (let c : Core := { logging 0 core0 with recm := 0 }
     let s := two c { c with join := some (waits 2 [1, 1, 5, 0, 2]) } cluster0
     iss s [.reverse 1 5 1] = true ∧ s.logValid 0 = true ∧ s.me.isOrd = false ∧ s.me.tileq = [] ∧ tileGroup 0 s.me.tileWidth = [0, 1] ∧
     (tileGroup 0 8).all (fun b => b ≤ 1 || !s.waitsAt b 2) = true ∧ [field s.me.recm 1 1, field s.me.gcfg 32 2] = [0, 2]) ∧
    (let c : Core := { logging 0 core0 with rev := some (rev0 false false) }
     c.rev = some (rev0 false false) ∧ c.join = none ∧ field c.logp 0 28 = field c.logb 0 28) ∧
    (let t (r : Record) := match (walking r).logEntry 0 with
       | .ok e => e.rec_ == r && e.rec_.wellFormed e.raw
       | _ => false
     t (Record.blank 1) = true ∧ t { Record.blank 5 with mark := 5 } = true) := by decide +kernel

/-- Core 0 in the exchange routine, with XT. -/
def exch (xt : BitVec 64) (c : Core) : Core := { c with act := .exchange, tsk := 0x200000, xt := xt }

/-- A route that ejects here. -/
def here : BitVec 29 := 0x6000000

theorem wit_ExchangeInstructions_SEND :
    (iss s0 [.send 0 15 15 here, .send 0 15 14 0, .send 0 0 0 here] = true) ∧
    (field here 24 3 = 6 ∧ (0 : BitVec 29).extractLsb' 24 3 ≠ 6) ∧
    (iss (mk 0 (ordered core0)) [.send 0 0 0 here] = true ∧ (ordered core0).isOrd = true) ∧
    (let s (xt : BitVec 64) := mk 0 (exch xt core0)
     iss (s 5) [.send 4 0 0 here, .send 5 15 14 here, .send 6 0 0 here] = true ∧ (s 5).me.ex = true ∧ (s 5).me.isOrd = false ∧
     (s 5).me.sleep ≠ .engine) ∧
    (clusterX 0 + 1 < 160 ∧ (0x0C000000 ||| (0x00C00000 : BitVec 29)).extractLsb' 21 3 = 6) := by decide +kernel

/-- Core 0 that waits in its exchange at a SEND. -/
def sending : State :=
  { ((mk 0 { exch 9 core0 with pc := 0x80000, sleep := .engine }).write (scratchBase 0) 8
      ((0x70 * 8 + 2 + 5 * 2 ^ 21) + 2 ^ 32 * (3 + here.toNat * 4))) with
    clusters := [(0, { cluster0 with bfmt := vset cluster0.bfmt 0 1 })] }

theorem wit_ExchangeInstructions_SEND_INJECT :
    (match sending.fetchInstr with
     | .ok (i, _, _) => i == .send 5 0 0 here
     | _ => false) = true ∧ sending.me.act = .exchange ∧ sending.me.sleep = .engine ∧ sending.me.ex = true := by decide +kernel

/-- A selection of k values from a slot on link 2. -/
def sel0 (slot k : Nat) : Sel :=
  { ptr := 0x100, k := k, slot := slot, link := 2, count := some 3, ctx := core0.ctx, failed := false }

theorem wit_ExchangeInstructions_RSEL :
    (iss s0 [.rsel 0 0 1 0 0 9, .rsel 0 0 1 0 0 8] = true) ∧ (iss (mk 0 (ordered core0)) [.rsel 0 0 1 0 0 8] = true) ∧
    (let s := mk 0 (exch 5 (regs [(1, 0x104)]))
     iss s [.rsel 5 0 1 0 0 8, .rsel 6 0 1 0 0 8] = true ∧ copyable 0 0x104 = true) ∧
    (let s := mk 0 { exch 5 (regs [(1, 0x100)]) with sels := [sel0 8 4] }
     iss s [.rsel 6 1 1 0 0 2, .rsel 12 15 1 7 1 2, .rsel 11 0 1 0 0 2, .rsel 8 0 1 0 0 3] = true ∧ passes (rselPlace s 0x100 16) = true ∧
     s.me.armed.length < 8) ∧
    (let s := mk 0 { exch 5 (regs [(1, 0x100)]) with sels := (List.range 8).map fun k => sel0 (8 + 16 * k) 4 }
     s.me.armed.length = 8 ∧ iss s [.rsel 6 1 1 0 0 2] = true) := by decide +kernel

/-- A flit of core 1 that ejects at core 0 in cycle 9. -/
def flit0 : Flit := { src := 1, idx := 0, cluster := 0, link := 2, cycle := 9, drop := false, data := 0x1122334455667788 }

/-- Core 0 at XT 9 with a selection, and that flit under way. -/
def receiving (l : List Sel) : State :=
  { inside { exch 9 core0 with sels := l } { cluster0 with eject := [(2, 9, 0)] } with flits := [flit0] }

theorem wit_ExchangeInstructions_SYNC :
    (iss s0 [.sync, .syncv 1 7 7] = true ∧ s0.me.ex = false) ∧
    (let s := mk 0 (exch 5 core0)
     iss s [.sync, .syncv 0 0 0] = true ∧ s.copiesOf 0 = 0 ∧ s.flits = [] ∧ s.me.sels = [] ∧ s.me.pushes = []) ∧
    ((exch 5 core0).passed (sel0 2 3) = true ∧ (exch 5 core0).passed (sel0 2 4) = false) := by decide +kernel

theorem wit_FlumeDelivers :
    (let s := { receiving [] with flits := [{ flit0 with drop := true }] }
     s.flits = { flit0 with drop := true } :: []) ∧
    ((receiving []).ejectCore 0 2 9 = some 0 ∧ (receiving []).ejectCore 0 2 10 = none ∧ ((receiving []).core 0).xt.extractLsb' 0 16 = 9 ∧
      agentIn 0 0 = 0) ∧
    (let s := receiving [sel0 8 2]
     (s.core 0).selFor flit0 = some (sel0 8 2) ∧ engineOk { s with flits := [] } 0 core0.ctx 0x108 8 = true ∧
     vget (s.core 0).mc 3 0 ≠ 0xFFFF) ∧
    (let x : Sel := { sel0 9 1 with ptr := 0x30000100 }
     ((receiving [x]).core 0).selFor flit0 = some x ∧
     raised (({ receiving [x] with flits := [] } : State).engineCheck 0 core0.ctx 0x30000100 8) = some (.tagMismatch, 0x30)) ∧
    (let s : State := { receiving [sel0 9 1] with flits := [], badTags := [(scratchBase 0) / 32] }
     let x : Sel := { sel0 9 1 with ptr := 0x80000 }
     x.failed = false ∧ raised (s.engineCheck 0 x.ctx 0x80000 8) = some (.uncorrectable, 0x12)) ∧
    (s0.failed 4 3 = false ∧ ({ s0 with hub := { s0.hub with units := [⟨4, 3, false⟩] } } : State).failed 4 3 = true) := by decide +kernel

/-- A descriptor of function 0 with one gate, its table at physical address 0. -/
def desc1 (dead : Nat) : BitVec 256 := BitVec.ofNat 256 (2 ^ 63 + dead * 2 ^ 62 + 0x80400 * 2 ^ 96 + 2 ^ 153)

/-- Core 0 with room in both of its areas, a handle in s1, and polder 1 with a gate of those flags and entry. -/
def gated (flags entry allow : Nat) (c : Core) : State :=
  let s := mk 0 { c with
    wsp := 0x0000_1000_0000_0000, dsd := 0x0080_2000_1000_1000 }
  ({ s with
     hub := { s.hub with polders := [(1, desc1 0)] } } : State).hubWrite 0 32 (flags + entry * 2 ^ 32 + 64 * 2 ^ 96 + allow * 2 ^ 192)

theorem wit_GatesCallAndReturn_GCALL_denied :
    (iss (at' [(1, 0x100000)]) [.gcall 1] = true ∧ iss (mk 0 { core0 with curpol := 0x800000 }) [.gcall 1] = true ∧
      ({ core0 with curpol := 0x800000 } : Core).depth = 32 ∧ ({ core0 with curpol := 0x200000 } : Core).depth = 8 ∧ core0.dsd.getLsbD 55 = false) ∧
    (descV (s0.desc 1) = false ∧ descDead (desc1 1) = true ∧ descV (desc1 0) = true ∧ descSlcnt (desc1 0) = 1) ∧
    ((gated 0 0 0 core0).gate 1 0).isOpen = false ∧ ((gated 4 0 0 core0).gate 1 0).isOpen = true ∧
    ((gated 0x10004 0 0 core0).gate 1 0).revoked = true ∧ ((gated 4 0 0 core0).gate 1 0).allow.getLsbD 0 = false ∧
    ((gated 4 0 1 core0).gate 1 0).allow.getLsbD 0 = true ∧ ((gated 4 0 1 core0).gate 1 0).rok = false ∧ ((gated 4 0 1 core0).gate 1 0).awmax = 64 := by
  decide +kernel

theorem wit_GatesCallAndReturn_GCALL :
    let s := gated 4 0x80400 1 (regs [(1, 0x100000)])
    iss s [.gcall 1] = true ∧ s.me.join = none ∧ s.me.depth = 0 ∧ (s.gate 1 0).isOpen = true ∧ (s.gate 1 0).revoked = false ∧
    (s.gate 1 0).allow.getLsbD s.me.vf.toNat = true ∧ s.me.aw0.getLsbD 63 = false ∧ s.me.aw1.getLsbD 63 = false ∧ s.me.isOrd = false ∧ passes (s.gateEcc 1 0) = true ∧
    (s.gate 1 0).tile = false ∧ s.me.tileq = [] ∧ s.me.atp.getLsbD 63 = false ∧ (s.gate 1 0).entry.extractLsb' 0 2 = 0 ∧
    areaPtr s.me.wsp + 192 * s.me.res + 64 ≤ areaLimit s.me.wsp ∧ areaPtr s.me.dsd + 64 ≤ areaLimit s.me.dsd ∧
    ((gated 5 0x80400 1 (regs [(1, 0x100000)])).gate 1 0).tile = true ∧ (gated 4 0x80402 1 (regs [(1, 0x100000)])).inflight 1 0 = 0 := by decide +kernel

/-- A frame: polder 0 called gate 0 of polder 1. -/
def frame0 : DomEntry :=
  { caller := 0, callee := 1, gate := 0, cgen := 0, egen := 0, rpc := 0x80004, wptr := 0, tile := false, abort := false, vmask := 0
    savep := 0x1000, aw0 := 0, aw1 := 0 }

/-- A core in that frame. -/
def inFrame : Core :=
  { core0 with
    curpol := 0x40001, dom := [frame0], budget := [9], wsp := 0x0000_1000_0000_0100, dsd := 0x0080_2000_1000_1040, wptr := 0x01000009 }

theorem wit_GatesCallAndReturn_GRET :
    (iss s0 [.gret] = true ∧ s0.me.depth = 0) ∧
    (let s := mk 0 inFrame
     iss s [.gret] = true ∧ s.me.depth = 1 ∧ s.me.dom = [frame0] ∧ s.me.due = none ∧ s.me.res = 1 ∧ areaPtr s.me.wsp = s.me.floor ∧
       passes (s.tcmChecks 0 (s.me.gretReads frame0)) = true ∧ passes (s.gateEcc 1 0) = true) ∧
    (({ inFrame with wsp := 0 } : Core).floor ≠ areaPtr 0) ∧
    (({ inFrame with deferred := [⟨.copySpan, 1, 1, 1⟩] } : Core).due = some ⟨.copySpan, 1, 1, 1⟩) ∧
    ((ported (port0 true 1 0 [])).port 0).bound = true := by decide +kernel

theorem wit_GatesCallAndReturn_AWSET :
    iss s0 [.awset 0 0 1 0 0 0 0 1, .awset 0 1 1 0 0 0 0 0, .awset 0 0 0 0 0 0 1 32, .awset 0 0 0 1 0 0 1 32] = true ∧
    iss (at' [(1, 0x100000020)]) [.awset 0 0 0 0 1 0 1 32] = true ∧ iss (at' [(1, 0x10), (2, 64)]) [.awset 1 0 0 0 1 2 1 0] = true ∧
    (let s := at' [(1, 0x30003FE0)]
     iss s [.awset 0 1 0 1 1 0 1 32, .awset 0 1 0 1 1 0 1 48, .awset 0 1 0 1 1 0 1 64] = true ∧ s.awPlaced 0 0x3FE0 32 = true ∧
     s.reachable 0 0x3FE0 true true = true ∧ s.awPlaced 0 0x3FE0 64 = false) := by decide +kernel

theorem wit_FramesAreDiscarded :
    (let s := gated 0x10004 0x80400 1 inFrame
     descV (s.desc 1) = true ∧ (s.gate 1 0).revoked = true ∧ 0 < descSlcnt (s.desc 1) ∧ s.inflight 1 0 = 0 ∧
     (s.hubWrite 16 4 1).inflight 1 0 = 1 ∧ (s.domAt 0 1) = some frame0 ∧ (s.core 0).unwindTo = none ∧ s.domAt 0 0 = none) ∧
    (descV (s0.desc 5) = false ∧ descDead (desc1 0) = false ∧ s0.hub.jobs = []) ∧
    (let s := (gated 4 0x80400 1 inFrame).hubWrite 20 4 8
     (s.gate 1 0).budget = 8 ∧ (s.core 0).budget[(s.core 0).depth - 1]?.getD 0 = 9) ∧
    (let c := { inFrame with unwindTo := some (1, 3) }
     let s := mk 0 c
     s.domAt 0 1 = some frame0 ∧ passes (s.tcmChecks 0 (s.unwindReads 0 1)) = true ∧
     raised (({ s with badWords := [(tcmBase 0 + 0x1000) / 4] } : State).tcmChecks 0 (s.unwindReads 0 1)) =
       some (.uncorrectable, 0x100001)) := by decide +kernel


/-! ## Hypotheses met: far memory, the hub, the host, tasks, the debugger -/

/-- A far access in landing core 0 or hub core 0 whose page 5 maps that leaf. -/
def farAt (a : Nat) (leaf : W64) (c : Core) : State :=
  let t : Tlb := { pol := 0, page := 5, large := false, leaf := leaf }
  { mk a c with
    dies := [(0, { Die.reset with tlb := [t], ltown := vset Die.reset.ltown 0 0x8000000080000000, segs := [(0, 0x8000000000000000)] })]
    hub := { Hub.reset with tlb := [t] } }

/-- A leaf of this module with R and W: frame n. -/
def leafOf (n : Nat) : W64 := BitVec.ofNat 64 (7 + 0xFFF * 2 ^ 12 + n * 2 ^ 24)

/-- A translation is found, it allows the access, and it leads to that physical address here. -/
def farOk (s : State) (va acc pa : Nat) : Bool :=
  (s.me.l1Find s.me.pol va).isNone && s.me.walked.isNone &&
    match s.tlbFind s.cur s.me.pol va with
    | some t => leafAllows t.leaf acc && !s.remote t.leaf && leafPa t.leaf t.large va == pa && !isDevFrame (pa / 0x10000) && leafCa t.leaf == 0 && s.bridged s.cur pa
    | none => false

theorem wit_FarLoadsAndStores :
    let s := farAt 0x100000 (leafOf 7) (regs [(1, 0x50008), (2, 0), (3, 0xAA)])
    iss s [.fld 0 3 2 1 3 0, .fst 3 2 1 3 0, .fld 1 3 2 1 3 0, .fld 1 2 2 1 3 0, .tagr 1 1 3 0, .probe 0 1 1 1 3 3 0,
      atomicInstr .add 5 1 1 0 0 0 0, atomicInstr .cas 0 31 1 0 1 3 0] = true ∧
    farOk s 0x50008 0 0x70008 = true ∧ farOk s 0x50008 1 0x70008 = true ∧ farOk s 0x50008 3 0x70008 = true ∧
    s.physTag 0x70008 = 0 ∧ passes (s.physEcc 0x70008 8 true ⟨0, 0, false⟩) = true ∧ passes (s.physEcc 0x70008 8 false ⟨0, 0, false⟩) = true ∧ leafKey (leafOf 7) = 0 ∧
    passes (s.physEcc 0x70008 1 true ⟨0, 0, false⟩) = true ∧
    s.bermFind 0x70008 = none ∧ isOrdinary s.cur = false ∧ s.me.sleep = .none ∧ s.tlbFind s.cur s.me.pol 0x60008 = none := by decide +kernel

/-- An L1 line at 0x50000. -/
def line0 : L1Line :=
  { set := 0, way := 0, vtag := 0x14, pol := 0, pa := 0x70000, r := true, w := true, xn := true, ca := 1, key := 0, tags := 0x3210, dirty := 0
    data := 0x1122334455667788, bad := 0, badTags := 0, large := false }

theorem wit_FarLoadsAndStores_elsewhere :
    (let s := farAt 0x100000 (leafOf 7) { regs [(1, 0x50000)] with l1 := [line0] }
     iss s [.fld 0 3 0 1 3 0, .fst 0 0 1 3 0] = true ∧ s.me.l1Find 0 0x50000 = some line0 ∧ line0.tag 0x50000 = 0 ∧ line0.tag 0x5007F = 3) ∧
    (let s := farAt 0x100000 0x7001007 (regs [(1, 0x50000)])
     (s.tlbFind s.cur 0 0x50000).map (fun t => (s.remote t.leaf, leafAllows t.leaf 0)) = some (true, true) ∧
       ({ s.hub with fabric := some 3 } : Hub).fabric.isSome = true ∧ s.hub.fabric.isNone = true) ∧
    (let s := farAt 0x100000 (leafOf 7 + 0x20) (regs [(1, 0x50008)])
     (s.tlbFind s.cur 0 0x50008).map (fun t => (leafCa t.leaf, s.remote t.leaf, leafAllows t.leaf 1)) = some (2, false, true) ∧
     iss s [.fld 0 3 0 1 3 0, .fst 3 0 1 3 0] = true ∧ passes (s.lineEcc 0x70008 ⟨0, 0, true⟩) = true ∧ s.me.l1 = [] ∧
     (s.l1Fill s.cur 0 0x50008 (leafOf 7 + 0x20) false).2.tag 0x50008 = 0) ∧
    (let s := farAt 0x200000 (leafOf 0x1E00000) (device (regs [(1, 0x50000)]))
     iss s [.fld 0 3 0 1 3 0, .fst 3 0 1 3 0] = true ∧
     (s.tlbFind s.cur 0 0x50000).map (fun t => (s.remote t.leaf, isDevFrame (leafPa t.leaf t.large 0x50000 / 0x10000))) = some (false, true) ∧
     passes (s.devRead 0x1E000000000 8) = true ∧ passes (s.devWrite 0x1E000000000 8 3) = true) ∧
    (iss (farAt 0x100000 0 (regs [(1, 0x1000000000000)])) [.fld 0 0 0 1 3 0] = true) ∧
    (iss (farAt 0x100000 0 (regs [(1, 0x50004)])) [.fld 0 3 0 1 3 0] = true) ∧ core0.walked = none := by decide +kernel

/-- A landing push of 8 bytes from the shelf into the TCM of core 0. -/
def push0 : Push :=
  { id := 0, src := 0x8000000, shelf := true, rem := false, cluster := 0, tcm := true, bay := 0, core := 0, off := 0x100, len := 8, tag := 0
    count := some 3, ctx := core0.ctx, task := false, slot := none, progress := 0, seq := none, own := false }

/-- The job of the small states with landing core 0. -/
def job1 : Job := { job0 with landings := [0] }

/-- The destination word of that push. -/
def pushDst : W64 := BitVec.ofNat 64 (8 * 2 ^ 16 + 0x100 * 2 ^ 29 + 2 ^ 59)

/-- The words of an instruction. -/
def wordOf (i : Instr) : Nat :=
  match encode i with
  | some (.one w) => w.toNat
  | _ => 0

theorem wit_FarUpkeepAndPushes :
    (let s := mk 0x100000 (regs [(1, 0x50000), (2, 64)])
     iss s [.fflush 1 5 2 1 0, .fflush 0 6 2 1 0, .fflush 0 2 2 1 0, .fpf 2 1 0, .fpf 0 1 0, .pginv 5 2 1 0, .pginv 6 2 1 0] = true ∧
     s.owesPosted = false ∧ s.me.l1 = [] ∧ s.me.level = 0 ∧ isOrdinary s.cur = false ∧ s.badWords = [] ∧ s.badTags = [] ∧
     s.dies = [] ∧ s.hub.units = []) ∧
    (iss (mk 0x100000 (service (regs [(1, 0x1000000000000)]))) [.pginv 3 0 1 0, .fflush 0 3 0 1 0] = true ∧
      iss (mk 0x100000 (service (regs [(1, 0x50000)]))) [.pginv 4 0 1 0] = true) ∧
    (sget (mk 0x100000 core0).cores 0x100000).isSome = true ∧
    (iss (mk 0x200000 core0) [.fpush 0 0 2 1 3 0] = true ∧ isHub 0x200000 = true) ∧
    (let s := withJobs (farAt 0x100000 0 (exch 5 (regs [(1, 0x8000000), (2, pushDst), (3, 6)]))) [job1]
     iss s [.fpush 1 0 2 1 3 0, .fpush 1 1 2 1 3 0] = true ∧ s.jobOf s.cur = some job1 ∧ s.me.ex = true ∧ s.me.pushes.length < 8 ∧
     passes (fpushChecks true false 0x8000000 pushDst 5 s) = true ∧ passes (fpushChecks true false 0x8000000 pushDst 0x800 s) = true ∧
     raised (fpushChecks true false 0x8000000 pushDst 4 s) = some (.slotViolation, 1) ∧
     raised (fpushChecks true false 0x8000000 (pushDst + 0x1000000000000) 5 s) = some (.polderAccess, 9) ∧
     raised (fpushChecks true false 0x50000 pushDst 5 s) = some (.polderAccess, 14) ∧
     raised (fpushChecks false false 0x1000000000000 pushDst 5 s) = some (.xlate, 8) ∧
     raised (fpushChecks true false 0x8000000 (pushDst + 1) 5 s) = some (.bounds, 0x28) ∧
     raised (fpushChecks true false 0x8000000 pushDst 0x1000 s) = some (.illegal, 2)) := by decide +kernel

theorem wit_FarUpkeepAndPushes_steps :
    (let s := (withJobs (farAt 0x100000 0 { exch 9 (regs [(1, 0x8000000), (2, pushDst), (3, 6)]) with sleep := .engine }) [job1]).write
       (tcmBase 0x100000) 4 (wordOf (.fpush 1 0 2 1 3 0))
     (match s.fetchInstr with
      | .ok (i, _) => i == .fpush 1 0 2 1 3 0
      | _ => false) = true ∧ s.me.act = .exchange ∧ passes (fpushChecks true false (s.me.s 1) (s.me.s 2) (s.me.s 3) s) = true) ∧
    (let s := withJobs (farAt 0x100000 0 { exch 5 core0 with pushes := [push0] }) [job1]
     let t : State := { s with clusters := [(0, cluster0)] }
     push0.chunk 0x100000 0 = push0.len ∧ passes (t.localCheck 0x100000 push0.ctx 1 push0.src 1 .load) = true ∧
     passes (t.localCheck (push0.place 0x100000 0).1 push0.ctx 1 (push0.place 0x100000 0).2 1 .engine) = true ∧ t.hub.waitRecs = [] ∧
     push0.task = false ∧ passes (t.eccCheck 0x100000 ⟨.shelf, 0x8000000, shelfBase 0⟩ 8 true) = true ∧
     passes (t.eccCheck 0 ⟨.tcm false, 0x100, tcmBase 0 + 0x100⟩ 8 false) = true ∧ vget (t.core 0).mc 3 0 ≠ 0xFFFF) := by decide +kernel

/-- A far access to page 5 that waits, and its fault record. -/
def req0 (a : Nat) : FarReq := { agent := a, push := none, ptr := 0x50008, acc := 0, copy := false, progress := 0, pol := 0, own := false }

/-- A record of that request. -/
def rec0 : FaultRec := { bytes := BitVec.ofNat 256 (0x50008 + 3 * 2 ^ 96), req := req0 0x100000, walk := 1, inRing := true, voided := false, fn := 0, later := none }

/-- Landing core 0 that waits for a walk; polder 0 with its table at frame 1, which maps page 5 at level 3 when `there`. -/
def walkable (there : Bool) (r : FarReq) (c : Core) : State :=
  let s := farAt r.agent 0 { c with sleep := .walk, farReq := some r }
  let s : State := { s with hub := { s.hub with polders := [(0, BitVec.ofNat 256 (2 ^ 63 + 1))] } }
  ((s.hubWrite 0x10000 8 (1 + 2 * 2 ^ 24)).hubWrite 0x20000 8 (1 + 3 * 2 ^ 24)).hubWrite 0x30028 8 (if there then (leafOf 7).toNat else 0)

/-- The same with the walk in its unit. -/
def walkingOn (there : Bool) : State :=
  (walkable there (req0 0x100000) core0).setWalks 0x100000 [{ no := 1, pol := 0, page := 5, reqs := [req0 0x100000], read := none, shut := false }]

theorem wit_WalksAndTheFaultQueue_walks :
    (let s := walkable true (req0 0x100000) core0
     (s.core 0x100000).farReq = some (req0 0x100000) ∧ (s.core 0x100000).sleep = .walk ∧ s.walkOf 0x100000 = none ∧ s.walksOf 0x100000 = []) ∧
    (let s := (walkable true (req0 0x100000) core0).setWalks 0x100000 [{ no := 1, pol := 0, page := 5, reqs := [], read := none, shut := false }]
     s.walkOf 0x100000 = none ∧ (s.walksOf 0x100000).length = 1) ∧
    ((walkingOn true).walk 0 0x50008 0 true = .leaf (leafOf 7) false 0x30028 ∧
      ((walkingOn true).walkOf 0x100000).map (fun w => w.reqs) = some [req0 0x100000]) ∧
    ((walkingOn false).walk 0 0x50008 0 true = .fault 1 3 0 false ∧ (walkingOn false).hub.faults = [] ∧ (walkingOn false).hub.waitRecs = []) := by
  decide +kernel

theorem wit_WalksAndTheFaultQueue_records :
    (let s := mk 0x200000 (device core0)
     iss s [.fqdeq 3 1 0, .term 1 3 0, .replay 1 3 0] = true ∧ s.hub.faults = []) ∧
    (let s := walkable true (req0 0x100000) core0
     let t : State := { s with hub := { s.hub with faults := [rec0] }, cur := 0x200000, cores := (0x200000, device (regs [(1, 3)])) :: s.cores }
     iss t [.fqdeq 3 1 0, .term 1 3 0, .replay 1 3 0] = true ∧ t.hub.faults.find? (fun x => x.inRing) = some rec0 ∧
     t.hub.faults.find? (fun x => x.bytes.extractLsb' 96 16 == 3) = some rec0 ∧ (rec0.bytes.extractLsb' 152 8).toNat = t.vfGen 0 ∧
     t.recJob rec0 = none ∧ (withJobs t [job1]).recJob rec0 = some job1 ∧ t.walk 0 0x50008 0 true = .leaf (leafOf 7) false 0x30028) ∧
    (({ rec0 with voided := true } : FaultRec).voided = true) ∧ job1.stand.away = false ∧ rec0.later.isNone = true ∧
    ([rec0].filter (fun x => x.inRing)).length < 1024 := by decide +kernel

theorem wit_EventUnit :
    ((s0.me.act = .task ∨ s0.me.act = .exchange) ∧ isOrdinary s0.cur = true ∧ s0.me.isOrd = false ∧ s0.haltAtHit s0.cur = false ∧
      s0.me.sleep = .none ∧ ((s0.cluster 0).barrier 7).count.toNat ≤ ((s0.cluster 0).barrier 7).arrived + 1) ∧
    (let s := inside { core0 with sleep := .arrive 3 5 } { cluster0 with
       barriers := vset cluster0.barriers 3 { Barrier.reset with count := 2, phase := 6 } }
     ((s.cluster 0).barrier 3).phase ≠ 5 ∧ ¬((s.cluster 0).barrier 3).count.toNat ≤ ((s.cluster 0).barrier 3).arrived + 1 ∧
     (s.me.s 0).extractLsb' 0 6 = 0) ∧
    (let s := inside { core0 with sleep := .wait 3 5 } { cluster0 with
       barriers := vset cluster0.barriers 3 { Barrier.reset with count := 2, phase := 6 } }
     (s.me.act = .task ∨ s.me.act = .exchange) ∧ s.haltAtHit s.cur = false ∧ s.me.sleep = .wait 3 5 ∧ ((s.cluster 0).barrier 3).phase ≠ 5) ∧
    (let s := inside core0 { cluster0 with mutexes := vset cluster0.mutexes 1 ⟨some (0, 0, 0), []⟩ }
     ((s.cluster 0).mutex 1).holder = some (0, 0, 0) ∧ ((s.cluster 0).mutex 0).holder = none ∧ coreIn 0 = 0) ∧
    (((inside core0 { cluster0 with mutexes := vset cluster0.mutexes 1 ⟨none, [(4, 0, 0)]⟩ }).cluster 0).mutex 1).waiters = [(4, 0, 0)] ∧
    (((inside core0 { cluster0 with events := vset cluster0.events 31 ⟨true, []⟩ }).cluster 0).event 31).set = true ∧
    (((inside core0 { cluster0 with events := vset cluster0.events 0 ⟨false, [3]⟩ }).cluster 0).event 0).sleepers = [3] := by decide +kernel

theorem wit_EventUnit_messages :
    ((s0.jobOf 0).isNone = true ∧ clusterOf 0 = 0 ∧ (0 : W64).extractLsb' 20 12 = 0) ∧ (1280 : Nat) > 1279 ∧
    ((withJobs s0 [job0]).jobOf 0 = some job0 ∧ 0 ∈ job0.clusters ∧ 1 ∉ job0.clusters) ∧
    (let s : State := { mk 0 { core0 with sleep := .full [5] } with full := [5], messages := [(0, 4)] }
     (s.core 0).sleep = .full [5] ∧ s.isFull 5 = true ∧ s.messages = (0, 4) :: []) := by decide +kernel

theorem wit_OwnershipAndDeviceRegisters :
    (isHub s0.cur = false ∧ isHub State.reset.cur = true ∧ State.reset.me.act = .task) ∧
    ((0xA : BitVec 64).extractLsb' 0 4 = 10 ∧ (0x7 : BitVec 64).extractLsb' 16 16 = 0) ∧
    (let s := { s0 with dies := [(0, { Die.reset with convert := some { lo := 8, hi := 9, next := 8, drained := true, agent := 0 } })] }
     let t : State := { s with cores := [(0x100000, { core0 with pushes := [{ push0 with progress := 8 }] })] }
     (s.die 0).convert.isSome = true ∧ (s.die 0).waymask.getLsbD 62 = false ∧ (s.core 0x100000).pushes = [] ∧ isLanding 0x100000 = true ∧
     dieOf 0x100000 = 0 ∧ (t.die 0).convert.isSome = true ∧ ((t.core 0x100000).pushes.map fun q => q.progress) = [8]) ∧
    (devReg 0x1E0000001F8 = some (.quota 0 63) ∧ devReg 0x1E000000204 = none ∧ (devReg 0x1E1000021F8).isSome = true) ∧
    (let h : Hub := { Hub.reset with
       keys := vset Hub.reset.keys 1 { kslot := 0x8000000000000002, words := 0 }, units := [⟨1, 3, false⟩] }
     h.units.find? (fun u => u.kind == 1 && u.number == 4 && !u.retired) = none ∧
     (({ s0 with hub := h } : State).keySlot 1).kslot.getLsbD 63 = true ∧
     h.units.find? (fun u => u.kind == 1 && u.number == 3 && !u.retired) = some ⟨1, 3, false⟩) := by decide +kernel

/-- Function 0 with window region 0, whose bytes are written by w, and frame 0 granted. -/
def hosted (l : List (Nat × Nat × Nat)) : State :=
  let s : State := { s0 with hub := { s0.hub with
    wreg := vset s0.hub.wreg 0 0x8000000000000000, hftbase := 0x8000000000000001, hftCache := [] } }
  l.foldl (fun t e => t.write (windowBase + e.1) e.2.1 e.2.2) (s.write 0x10000 1 0x80)

/-- A launch record: operation, clusters, image bytes, polder. -/
def launch0 (op clus len : Nat) : Nat := op + clus * 2 ^ 144 + 7 * 2 ^ 160 + len * 2 ^ 384

/-- What the first act of a launch on cluster 5 leaves. -/
def loading0 : Loading :=
  { clusters := [5], placed := { cl := [], plan := { guards := [], ejects := [], insts := [] } }, units := [(1, 80)], tagging := [], before := none }

theorem wit_HostAndLaunches_accesses :
    (s0.region 0 = none ∧ (hosted []).region 0 = some windowBase ∧ (hosted []).regions 0 = [0]) ∧
    (apReg 0 = some (.counter 0 0 0) ∧ (hosted []).rangeGranted 0 0x0 8 = true ∧ (hosted []).rangeGranted 0 0x10000 8 = false ∧
      (hosted []).rangeGranted 0 0xFFF8 16 = false) ∧
    (let c : Nat := 1 + 32 * 2 ^ 128
     let s := hosted [(0xF000, 32, c), (0xF800, 8, 1)]
     s.nextFlush 0 = some (BitVec.ofNat 256 c) ∧ s.flushOk 0 (BitVec.ofNat 256 c) = true) ∧
    (let c : Nat := 2 + 32 * 2 ^ 128 + 16 * 2 ^ 192
     let s := hosted [(0xF000, 32, c), (0xF800, 8, 1)]
     s.nextFlush 0 = some (BitVec.ofNat 256 c) ∧ s.flushOk 0 (BitVec.ofNat 256 c) = false) := by decide +kernel

theorem wit_HostAndLaunches_records :
    (let t (r : Nat) := hosted [(0xE000, 64, r), (0xF818, 8, 1)]
     (t (launch0 1 1 64)).nextRecord 0 = some (BitVec.ofNat 512 (launch0 1 1 64)) ∧ (t (launch0 1 1 64)).takesRecords 0 = true ∧
     (t (launch0 1 1 64)).hub.plant.accepting = true ∧ recBad false (BitVec.ofNat 512 (launch0 1 1 64)) = false ∧
     recBad false (BitVec.ofNat 512 (launch0 1 0 64)) = true ∧ recBad false (BitVec.ofNat 512 (launch0 3 1 64)) = true ∧
     recBad false (BitVec.ofNat 512 (launch0 2 0 0)) = false ∧ recOp (BitVec.ofNat 512 (launch0 2 0 0)) = 2 ∧
     (t (launch0 1 1 64)).polderOf 0 0 = false ∧ (t 0).placedAt 0 0 = false ∧
     (t (launch0 2 0 0)).nextKill 0 = some (0, BitVec.ofNat 512 (launch0 2 0 0)) ∧ ((t 0).func 0).taken = [] ∧
     ((t 0).func 0).flush.stopped = false) ∧
    (let s := (hosted []).modFunc 0 fun x => { x with waiting := some (BitVec.ofNat 512 (launch0 1 1 64)) }
     (s.func 0).waiting = some (BitVec.ofNat 512 (launch0 1 1 64)) ∧ (s.func 0).loading.isNone = true ∧ s.hub.plant.accepting = true ∧
     s.takesRecords 0 = true) ∧
    (let l : Loading := loading0
     let s := (hosted []).modFunc 0 fun x => { x with waiting := some (BitVec.ofNat 512 (launch0 1 1 64)), loading := some l }
     (s.func 0).loading = some l ∧ s.launchTurn 0 false = true ∧ s.failed 1 80 = false ∧
     (({ s with hub := { s.hub with units := [⟨1, 80, true⟩] } } : State).failed 1 80 = true)) ∧
    (s0.vfState 0 = 0 ∧ (s0.setVfState 0 4).vfState 0 = 4) ∧
    ((s0.func 0).ltab.getLsbD 63 = false ∧ (0x8000000000FFF000 : W64).getLsbD 63 = true) ∧
    (s0.modHub fun h => { h with causeIrqPend := true }).hub.causeIrqPend = true ∧
    ((s0.modFunc 0 fun x => { x with irqPend := true }).func 0).irqPend = true := by decide +kernel

/-- Function 0 and function 1 at work on the same partition, 20 ms on; the turn of function 0 ends or not. -/
def sharing (ending : Bool) (debt : Nat) (f : Stand → Stand) : State :=
  let s := withJobs { s0 with tick := 45000000 } [jobAs f, { job0 with fn := 1, jobid := 8, clusters := [1] }]
  ((s.setVfState 0 1).modFunc 0 fun x => { x with ending := ending }).modFunc 1 fun x => { x with debt := debt }

theorem wit_FunctionsShareTheModule_slices :
    ((sharing false 0 id).jobsOf 0 ≠ [] ∧ (sharing false 0 id).vfState 0 = 1 ∧ ((sharing false 0 id).func 0).ending = false ∧
      (sharing false 0 id).shared 0 = true ∧ (sharing false 0 id).exclusive 0 = false ∧ (sharing false 0 id).sliceOver 0 = true) ∧
    ((withJobs s0 [job0]).shared 0 = false) ∧
    (let s := sharing true 0 fun x => { x with held := true }
     (s.func 0).ending = true ∧ s.allHeld 0 = true ∧ s.vfState 0 = 1 ∧ s.partOf 0 = s.partOf 1 ∧ s.hasWork 1 = true ∧ s.vfState 1 ≠ 4 ∧ s.nextTurn 0 = some 1 ∧ (s.setVfState 1 3).nextTurn 0 = some 0 ∧
     (s.func 1).debt < s.sliceTicks 1 ∧ s.saveFrames 0 * 0x10000 < s.areaEnd 0 + s.imageBytes job0) ∧
    ((sharing true (20000 * 2250) id).sliceTicks 1 ≤ ((sharing true (20000 * 2250) id).func 1).debt) ∧
    (let s := (sharing true 0 fun x => { x with held := true }).modFunc 0 fun x => { x with vfsave := 0x100000000000 }
     s.areaEnd 0 + s.imageBytes job0 ≤ s.saveFrames 0 * 0x10000) := by decide +kernel

/-- A saved stand of a job on cluster 1. -/
def saved1 : Saved :=
  { fn := 1, jobid := 8, cores := [(32, core0)], clusters := [(1, cluster0)], ltown := [], guards := [], banks := [], units := [], mem := []
    tags := [], full := [], foreign := false, off := 0, size := 0x10000 }

theorem wit_FunctionsShareTheModule_switches :
    (let j : Job := { jobAs (fun x => { x with away := true }) with fn := 1, jobid := 8, clusters := [1] }
     let s := ((withJobs s0 [j]).setVfState 1 2).modHub fun h => { h with saves := [saved1] }
     s.jobsOf 0 = [] ∧ s.jobsOf 1 = [j] ∧ s.vfState 1 = 2 ∧ s.hub.saves.find? (fun y => y.ofJob j) = some saved1 ∧
     (saved1.cores.map fun e => e.1).Nodup ∧ s.hub.faults = []) ∧
    (let s := sharing true 0 id
     s.hub.jobs.find? (fun k => k.fn == 0 && k.jobid == 7 && !k.stand.held && !k.stand.away) = some job0 ∧ s.evictable job0 = true ∧
     s.holdsStands 0 = true ∧ s.jobOf (agentIn 0 0) = some job0 ∧ s.me.tileq = [] ∧ (s.me.port 0).items = []) ∧
    (s0.vfState 0 ≠ 4 ∧ (s0.setVfState 0 3).vfState 0 = 3 ∧ (s0.setVfState 0 4).vfState 0 = 4 ∧ (s0.setVfState 0 4).jobsOf 0 = []) ∧
    (({ job0 with xdom := 0x8000 } : Job).xdom.getLsbD 15 = true) := by decide +kernel

/-- A firmware image: its header, one section header, and one placement record for the TCM of hub core 0 with tag 3. -/
def firmware0 : List Byte :=
  ([0x7F, 0x45, 0x4C, 0x46, 2, 1, 1, 0, 0, 0, 0, 0, 0, 0, 0, 0, 2, 0, 0x46, 0x56, 1, 0, 0, 0] : List Byte) ++ List.replicate 16 0 ++
    [64, 0, 0, 0, 0, 0, 0, 0, 1, 0, 0, 0, 0, 0, 0, 0, 0, 0, 64, 0, 1, 0, 0, 0] ++
    [0, 0, 0, 0, 1, 0, 0, 0x70] ++ List.replicate 16 0 ++ [128, 0, 0, 0, 0, 0, 0, 0, 32, 0, 0, 0, 0, 0, 0, 0] ++ List.replicate 24 0 ++
    List.replicate 12 0 ++ [5, 0, 3, 0] ++ List.replicate 16 0

theorem wit_PlantAndLinks_firmware :
    let s : State := s0.modPlant fun x => { x with starting := true }
    let b := (s.modPlant fun x => { x with starting := false }).reaccept.reclock
    s.hub.plant.starting = true ∧ s.hub.plant.verified = true ∧
    (match parseImage (bytesReader firmware0) 1 with
     | some q => q.places.map (fun p => (p.kind, p.mask, p.tag)) == [(5, 0, 3)] &&
         ((List.range q.places.length).foldlM (fun (w : State) n => w.loadHub q.image q.places n) b).isSome
     | none => false) = true := by decide +kernel

theorem wit_PlantAndLinks :
    (let p := s0.hub.plant
     p.supplyBad = false ∧ p.inletHot = false ∧ p.inletOver = false ∧ p.ceiling = false ∧ p.powerOff = false ∧ p.signed = true ∧ p.verified = true ∧ p.starting = false ∧
     ({ p with starting := true } : Plant).starting = true ∧ ({ p with verified := false } : Plant).verified = false) ∧
    (let x : Job := { job0 with pin := true, pstep := 10 }
     (withJobs s0 [x]).hub.jobs.find? (fun k => k.fn == 0 && k.jobid == 7 && k.pin) = some x ∧ 10 * 11 < 12 * 10 ∧ 11 * 10 ≤ 10 * 11) ∧
    ((withJobs s0 [job0]).linkIdle 0 = true ∧ (withJobs s0 [job0]).failed 4 0 = false) ∧
    (let p : Posted := { agent := 0, op := AtOp.add.code, size := 8, pa := 0, home := 1, key := 0, value := 1, done := false }
     p.joins p = true ∧ p.done = false) ∧
    (s0.bermFind 0 = none ∧ 0 + 8 ≤ hbmEnd ∧ hbmEnd < hbmEnd - 4 + 8) := by decide +kernel

/-- Core 0 with no task, its entry 0 as given. -/
def idle0 (e : Entry) : Core := { core0 with act := .idle, tasks := vset core0.tasks 0 e }

theorem wit_TasksAndSupersteps_starts :
    (let s := mk 0 (idle0 (2 + 0x80400 * 2 ^ 96))
     s.taskReady 0 = some 0 ∧ ((s.core 0).entry 0).state = 2 ∧ (s.core 0).again = [] ∧ isHub 0 = false) ∧
    (let s := mk 0 { idle0 4 with yields := [(0, 1280)], wsp := 1280 }
     s.taskReady 0 = some 0 ∧ passes (s.tcmChecks 0 (yieldReads (s.core 0).spillBase)) = true ∧ (s.core 0).spillBase < 2 ^ 16) ∧
    (let e : Entry := 2 + 2 ^ 8 + 2 * 2 ^ 9 + 0x80400 * 2 ^ 96
     let s : State := { mk 0 (idle0 e) with cores := [(0, idle0 e), (1, idle0 0)] }
     s.gangReady 0 = some 0 ∧ e.width = 2 ∧ s.failed 2 0 = false ∧ s.failed 2 1 = false) := by decide +kernel

/-- Core 0 in an ordered task that waits to be the oldest, at TEND. -/
def oldest0 : State :=
  { (mk 0 { ordered core0 with sleep := .oldest, pc := 0x80000, tasks := vset core0.tasks 0 0x83 }).write (scratchBase 0) 4 (wordOf .tend) with
    clusters := [(0, { cluster0 with bfmt := vset cluster0.bfmt 0 1 })] }

theorem wit_TasksAndSupersteps_commits :
    (oldest0.core 0).sleep = .oldest ∧ (oldest0.core 0).buffered = true ∧ oldest0.isOldest 0 = true ∧ (oldest0.core 0).ordered = some buffer0 ∧
    passes (oldest0.commit 0) = true ∧ passes ((oldest0.closePorts 0).commit 0) = true ∧ iss oldest0 [.tend] = true ∧
    (match oldest0.fetchInstr with
     | .ok (i, _) => i == .tend
     | _ => false) = true ∧ (oldest0.core 0).due = none ∧ buffer0.lines = [] := by decide +kernel

/-- The job of the small states with core 0 doing something, in domains m. -/
def member0 (act : Activity) (m : BitVec 16) (c : Core) : State := withJobs (mk 0 { c with act := act, member := m }) [job0]

/-- The small states hold no error. -/
theorem wit_Sound : s0.Sound := by
  refine ⟨rfl, rfl, fun _ => rfl, fun d l h => ?_, fun a l h => ?_⟩
  · have hd : (s0.die d).lines = [] := rfl
    rw [hd] at h
    exact absurd h List.not_mem_nil
  · have ha : (s0.core a).l1 = [] := by
      by_cases h0 : a = 0
      · subst h0
        rfl
      · simp [s0, mk, State.core, sget, Ne.symm h0, State.reset, Core.reset]
    rw [ha] at h
    exact absurd h List.not_mem_nil

theorem wit_TasksAndSupersteps_barriers :
    ((member0 .idle 1 core0).mayArrive 0 = true) ∧
    (let s := member0 .atWork 1 core0
     s.jobOf 0 = some job0 ∧ s.runs 0 = true ∧ s.groupOf job0 0 = [0] ∧ s.releasable job0 [0] = true ∧ s.allFree job0 = true ∧ s.maskOf 0 = 1) ∧
    (let s := member0 .atWork 2 { core0 with xpc := 0x80000 }
     s.releasable job0 [0] = true ∧ (s.maskOf 0).getLsbD 0 = false ∧ s.groupOf job0 0 = [0]) ∧
    (let s := member0 .atExchange 1 { core0 with syncv := some (true, true, 3) }
     (s.core 0).l1.isEmpty = true ∧ ((s.core 0).port 0).items.isEmpty = true ∧
     s.releasable job0 [0] = true ∧ (s.core 0).atExchangeEnd = true ∧ s.vfState 0 ≠ 4 ∧ s.hub.broken = []) := by decide +kernel

theorem wit_TasksAndSupersteps_watchdogs :
    (let s := member0 .task 2 { core0 with sleep := .full [5], tvec := 4 }
     sget ({ job0 with stuck := [(1, 5)] } : Job).stuck 1 = some 5 ∧ 4096 ≤ ((5000 : W64) - 5).toNat ∧
     s.stuckMembers { job0 with stuck := [(1, 5)] } 1 = some [0] ∧ s.blocked 0 = some 1 ∧ (s.core 0).tvec ≠ 0 ∧ (s.core 0).trapc.getLsbD 30 = false) ∧
    (let c := { exch 0xFFFE core0 with tvec := 4 }
     c.act = .exchange ∧ c.sleep ≠ .barrier ∧ (c.xt.extractLsb' 0 16).toNat < 0xFFFF) ∧
    (let s := mk 0 { core0 with gated := true }
     (s.core 0).gated = true ∧ s.runs 0 = true ∧ (s.core 0).since.toNat + (s.cluster 0).slot * 1152 ≤ s.tick.toNat) ∧
    (let j : Job := { job0 with xdom := 2 }
     let s := withJobs (mk 0 { core0 with act := .atWork, member := 2 }) [j]
     j.agents.find? (fun x => bit (s.maskOf x) 1) = some 0 ∧ s.gathered j (s.groupOf j 0) = true ∧ s.roundsDone 0 1 = 0) := by decide +kernel

/-- The number of rounds that a domain must complete is a free value of the model: the hypothesis of a due round asks for one. -/
theorem wit_TasksAndSupersteps_rounds (h : 0 < Config.spanRounds 0 1 0) :
    let j : Job := { job0 with xdom := 2 }
    let s := withJobs (mk 0 { core0 with act := .atWork, member := 2 }) [j]
    s.roundsDone j.fn 1 < s.roundsDue j 1 := h

/-- A record of function 0 from unit 0. -/
def trace0 : TraceRec := { bytes := 0, unit := 0, fn := 0, pol := some 0 }

theorem wit_CounterBanksAndTraceBuffers :
    (0 < unitCount 0 ∧ 63 < unitCount 0 ∧ 20479 < unitCount 1 ∧ 20499 < unitCount 2 ∧ unitCount 3 = 0) ∧
    ((s0.own 0 63).extractLsb' 62 2 = 0 ∧ s0.mayClaim 1 0 63 = true ∧ s0.mayClaim 1 1 0 = false) ∧
    (let b : Bank := { Bank.reset 16 with own := 0x4000000000000005 }
     let s := s0.setBank 0 63 b
     (s.own 0 63).extractLsb' 62 2 = 1 ∧ holds (s.bankAt 0 63).own 5 = true ∧ holds (s.bankAt 0 63).own 6 = false ∧ 15 < b.sel.length ∧
     15 < b.ctr.length) ∧
    (let s := s0.modHub fun h => { h with traces := [trace0] }
     s.traceNext = some trace0 ∧ s.tracePlace trace0 = none) ∧
    (let s := ((walkable true (req0 0x100000) core0).modHub fun h => { h with traces := [trace0] }).modFunc 0 fun x =>
       { x with tbctl := 0x53001 }
     (s.tracePlace trace0).isSome = true) := by decide +kernel

/-- A snapshot of the job. -/
def snap0 : Snapshot :=
  { ssn := 4, tick := 0, image := { saved1 with fn := 0, jobid := 7, cores := [(0, core0)], clusters := [(0, cluster0)] } }

theorem wit_Debugger :
    (s0.debugged.isNone = true ∧ (withJobs s0 [job0]).debugged = some job0) ∧
    (let j := jobAs fun x => { x with halted := some 0 }
     let s := withJobs (mk 0 { core0 with act := .halted }) [j]
     s.debugged = some j ∧ j.stand.halted ≠ none ∧ (s.core 0).act = .halted ∧ s.shows 0 = true) ∧
    (let j := jobAs fun x => { x with held := true, stopReq := true }
     let s := (withJobs s0 [j]).modHub fun h => { h with snaps := [snap0] }
     s.debugged = some j ∧ s.holdsStands 0 = false ∧ s.jobNow j = j ∧ (snap0.image.cores.map fun e => e.1).Nodup ∧
     s.hub.snaps.find? (fun x => x.image.ofJob j && x.ssn.toNat == 4) = some snap0 ∧ s.shows 0 = true ∧
     passes (s.writeSpec 0 0x33 4) = true ∧ specKnown 0x33 = true ∧ specPresent 0 0x33 = true ∧ specWritable 2 0x33 = true) ∧
    (let j := jobAs fun x => { x with held := true, snapMode := true }
     (withJobs s0 [j]).hub.jobs.find? (fun k => k.fn == 0 && k.jobid == 7 && k.stand.snapMode && k.stand.held) = some j) := by decide +kernel

theorem wit_MemoryStaysCanonical :
    Memory.wf s0.mem = true ∧ Memory.wf (hosted [(0, 8, 5)]).mem = true ∧ (exec .nop s0 = .next (s0.after .nop id)) := by
  refine ⟨?_, ?_, ?_⟩ <;> first | rfl | decide +kernel


/-! ## Hypotheses met: the clauses of wider statements -/

theorem wit_ImmediateResults_saturating :
    let a := mk 0 (prefixed 1 0 0 0 0 core0)
    let b := mk 0 (prefixed 2 0 0 0 0 core0)
    (a.me.mods.sat = 1 ∧ iss a [.addi 0x7FF 2 1 1, .muli 0x800 2 1 1, .addiW 1 2 1 1] = true ∧ a.me.latch.isSome = ((1 : BitVec 1) == 1)) ∧
    (b.me.mods.sat = 2 ∧ iss b [.shli 0 63 2 1 1, .shli 1 31 2 1 1, .shli 1 32 2 1 1] = true ∧ b.me.latch.isSome = ((1 : BitVec 1) == 1)) := by
  decide +kernel

theorem wit_HardwareQueues_vectors :
    (let s := inside core0 (queued 6 7 8)
     iss s [.qenq 0 1 1 3 0, .qdeq 0 1 3 1 0] = true ∧ (s.queue 0).valid = true ∧ (s.queue 0).pol = s.me.pol ∧ 16 ≤ (s.queue 0).size ∧
     (s.queue 0).count < (s.queue 0).cap ∧ (s.queue 0).count ≠ 0 ∧ s.me.portAt 1 = none ∧ regsOk s [] 1 = true ∧ isOrdinary s.cur = true ∧
     reaches s ((s.queue 0).entry (s.queue 0).tail) (s.queue 0).size .store false = true ∧
     reaches s ((s.queue 0).entry (s.queue 0).head) (s.queue 0).size .load true = true) ∧
    (let s := inside core0 (queued 4 7 9)
     iss s [.qenq 0 1 1 3 0] = true ∧ 16 ≤ (s.queue 0).size ∧ (s.queue 0).cap ≤ (s.queue 0).count) ∧
    (let s := mk 0 { windows 6 2432 with qfail := vset core0.qfail 0 15 }
     iss s [.qdeq 0 0 3 1 0, .qdeq 0 1 3 1 0] = true ∧ s.me.isOrd = false ∧ (s.queue 0).valid = false ∧ 15 ≤ vget s.me.qfail s.me.taskId 0 ∧
     s.me.ex = false ∧ s.me.act = .task ∧ s.me.isGang = false ∧ s.me.depth = 0 ∧ s.me.res = 6 ∧
     areaPtr s.me.wsp + 192 * s.me.res + 1280 = areaLimit s.me.wsp ∧ (s.closePorts 0).me.act = .task) := by decide +kernel

/-- Hub core 0 at FPUSH, with and without what the other checks ask for. -/
theorem wit_ChecksBeforeEveryEffect_FPUSH : isHub (mk 0x200000 core0).cur = true ∧ (mk 0x200000 core0).Lawful .nop ∧
    s0.Lawful (.fpush 1 0 2 1 3 0) :=
  ⟨by decide, fun _ => by simp, fun h => by exact absurd h (by decide)⟩

theorem wit_TasksEnd_TSPAWN_waiting :
    let c : Core := { regs [(1, 0x80000)] with tasks := vset (vset (Vector.replicate 64 2) 5 0x10001) 63 0 }
    iss (mk 0 c) [.tspawn 2 1 3] = true ∧ (c.entry 5).state = 1 ∧ ¬(c.entry 5).thresh ≤ (vget c.mc (c.entry 5).mcid 0).toNat ∧
    (let d : Core := { c with tasks := vset c.tasks 5 1 }
     (d.entry 5).state = 1 ∧ (d.entry 5).thresh ≤ (vget d.mc (d.entry 5).mcid 0).toNat) ∧ (c.entry 63).state = 0 := by decide +kernel

/-- Without prefix fields every type is taken. -/
theorem wit_ReductionsConversionsAndFunctions_takes (t : BitVec 4) : (vty t).takes s0.me.mods false :=
  ⟨.inl (by decide), fun _ _ _ => ⟨by decide, by decide, .inr (by decide)⟩⟩

theorem wit_ReductionsConversionsAndFunctions_forms :
    (let s := mk 0 { core0 with
       q := vset core0.q 0 3, v := vset core0.v 1 0x3F8000003F800000 }
     iss s [.vredAdd 0 0 1 3 0, .vredMax 0 0 1 3 0] = true ∧ (s.redNode .add .f32 0 1 (Nat.log2 (512 / 32)) 0).1.isSome = true ∧ (s.redNode .add .bf16 0 1 (Nat.log2 (512 / 16)) 0).1.isSome = true) ∧
    (0x8000, 0xFC00, 1) ∈ trnTable .f16 [((fun c => c.2.1), true, 1), ((fun c => c.2.1), true, 1), ((fun c => c.2.1), false, 0), ((fun c => c.2.2), false, 2)] ∧
    (0x7F80, 0, 0) ∈ trnTable .bf16 [((fun c => c.2.1), false, 1), ((fun c => c.2.1), true, 1), ((fun _ => 0), false, 0), ((fun _ => 0), true, 0)] ∧
    Fmt.f16.operand false 0x7E01 = .nan ∧ Fmt.bf16.operand false 0xC000 = .fin true 128 64 ∧
    (let s := withLatch 1 0
     s.me.mods.sat ≠ 0 ∧ iss s [.vcvt 0 0 0 1 3 1, .vcvt 0 0 1 1 3 1] = true ∧ Fmt.f32.decode 0xFF800000 = .inf true) := by decide +kernel

theorem wit_StreamPortsAndLinks_operands :
    (let p := port0 false 2 0 [item0 5]
     let s := mk 0 (ported p)
     let i : Instr := .vadd 5 1 12 3 0
     let r := s.asRegisters [1, 12]
     vectorSources i = [1, 12] ∧ s.me.portAt 1 = none ∧ s.me.portAt 12 = some (0, p) ∧ p.out = false ∧ p.items = [item0 5] ∧
     r.me.vr 12 = (item0 5).value ∧ vectorDest i = some 3 ∧ s.me.portAt 3 = none ∧
     next (exec i r) (fun t => decide (r.Completes t)) = true) ∧
    (let p := port0 true 1 0 []
     let s := mk 0 (ported p)
     let i : Instr := .vadd 5 2 1 12 0
     let r := s.modMe fun c => c.setPort 0 Port.reset
     vectorDest i = some 12 ∧ s.me.portAt 12 = some (0, p) ∧ p.out = true ∧ p.done < p.total ∧ p.items.length < 4 ∧ vectorSources i = [2, 1] ∧
     passes (s.localCheck 0 s.me.ctx s.me.level (p.item 0) (s.portBytes 0 p) .store) = true ∧
     next (exec i r) (fun t => decide (r.Completes t)) = true) := by decide +kernel

theorem wit_StreamPortsAndLinks_writes :
    (let p : Port := { port0 true 1 1 [item0 7] with mode := 1, base := 0x80000 }
     let s := inside (ported p) { cluster0 with bfmt := vset cluster0.bfmt 0 5 }
     s.endFormat 0 (p.item 0) = 5 ∧ itemBytes true 5 = 16 ∧ (p.bound = true ∧ p.out = true ∧ p.items = [item0 7]) ∧ (ported p).isOrd = false ∧
     engineOk s 0 (ported p).ctx 0x80000 16 = true ∧ passes (s.localCheck 0 (ported p).ctx (ported p).level 0x80000 16 .engine) = true ∧
     s.badWords = [] ∧ s.badTags = [] ∧ 0x80000 % 0x8000 + 16 ≤ 0x8000) ∧
    (let p : Port := { port0 true 1 1 [item0 7] with mode := 1, base := 0x30080000 }
     let s := inside (ported p) { cluster0 with bfmt := vset cluster0.bfmt 0 7 }
     itemBytes true 7 ≤ 16 ∧ s.endFormat 0 (p.item 0) = 7 ∧
     raised (s.localCheck 0 (ported p).ctx (ported p).level 0x30080000 8 .engine) = some (.tagMismatch, 0x30)) ∧
    (let c : Core := { core0 with ports := vset core0.ports 0 (port0 true 1 1 [item0 7]) }
     c.level = 0 ∧ engineOk (mk 0 c) 0 c.ctx 0x100 64 = true) := by decide +kernel

theorem wit_FramesAreDiscarded_death :
    (let s := withJobs (gated 4 0x80400 1 inFrame) [job0]
     s.basedIn job0 0 = true ∧ s.basedIn job0 1 = false ∧ descV (s.desc 1) = true ∧ descDead (s.desc 1) = false ∧
     inFrame.depth ≤ inFrame.dom.length ∧ inFrame.unwindTo.isNone = true ∧ (s.domAt 0 1).map (fun e => e.callee) = some 1) ∧
    (let s := withJobs (gated 4 0x80400 1 core0) [{ job0 with pol := 1 }]
     s.basedIn { job0 with pol := 1 } 1 = true ∧ s.jobFrames { job0 with pol := 1 } = []) ∧
    (withJobs (hosted []) [job0]).region 0 = some windowBase ∧ ((hosted []).func 0).owed = [] := by decide +kernel

theorem wit_WalksAndTheFaultQueue_places :
    ((walkingOn true).walkOf 0x100000).map (fun w => ((walkingOn true).walkable 0x100000 w, w.read.isNone)) = some (true, true) ∧
    ((walkingOn true).tablesBad ((walkingOn true).readsOf 0 5)).isNone = true ∧
    (let r : FarReq := { req0 0x100000 with own := true }
     let s := (walkable true r core0).setWalks 0x100000 [{ no := 1, pol := 0, page := 5, reqs := [], read := none, shut := true }]
     (s.core 0x100000).farReq = some r ∧ s.walkOf 0x100000 = none ∧ (s.walksOf 0x100000).length < walkSlots 0x100000) ∧
    (let s := withJobs (walkable true (req0 0x100000) core0) [{ job1 with stand := { job1.stand with evicted := true } }]
     (s.recJob rec0).map (fun j => (j.stand.away, j.stand.evicted)) = some (false, true)) := by decide +kernel

/-- The stand's page 5 holds an image that its launch record asks for: one cluster, one bay of code. -/
def image0 : List (Nat × Nat × Nat) :=
  [(0, 8, 0x00010102464C457F), (16, 8, 0x0000000156460002), (40, 8, 64), (48, 8, 0), (56, 8, 0x0000000200400000), (64, 8, 0x7000000600000000),
   (88, 8, 192), (96, 8, 16), (128, 8, 0x7000000100000000), (152, 8, 208), (160, 8, 32), (192, 8, 0x0000000100000000), (208, 8, 1),
   (216, 8, 0x0003FF0000000000), (224, 8, 0x0000000000000000 + 0xFFFF), (232, 8, 0)]

/-- A launch record of that image, at page 5. -/
def record0 : BitVec 512 := BitVec.ofNat 512 (launch0 1 1 240 + 0x50000 * 2 ^ 448)

/-- Function 0 with that record at its head and partition 0 of one cluster; polder 0 is the function's. -/
def launching (l : Option Loading) : State :=
  let s := walkable true (req0 0x100000) core0
  let s : State := image0.foldl (fun (t : State) e => t.hubWrite (0x70000 + e.1) e.2.1 e.2.2) s
  ({ s with hub := { s.hub with
     wreg := vset s.hub.wreg 0 0x8000000000000000, part := vset s.hub.part 0 0x8000000000000000 } } : State).modFunc 0 fun x =>
       { x with waiting := some record0, loading := l }

theorem wit_HostAndLaunches_images :
    let s := launching none
    (s.parsed record0).isSome = true ∧ s.hub.plant.accepting = true ∧ s.takesRecords 0 = true ∧ (s.func 0).waiting = some record0 ∧
    (match s.launchNow 0 record0 with
     | .go l => l.clusters == [0] && (l.placed.cl.map fun e => e.2.2) == [[(0, 0)]] && !s.unitsLost l
     | _ => false) = true := by decide +kernel

/-- That launch as its first act leaves it, and later. -/
def loading1 (tags : List Tagging) (b : Option Before) : Loading :=
  { clusters := [0], placed := { cl := [(0, 0, [(0, 0)])], plan := { guards := [], ejects := [], insts := [] } }, units := [(3, 0), (1, 0)]
    tagging := tags, before := b }

/-- What stood in cluster 0. -/
def before0 : Before := { clusters := [(0, cluster0)], span := [], mem := [], tags := [], full := [] }

/-- 1,024 granules of bay 0 to be tagged 3. -/
def tagging0 : Tagging := { cluster := 0, key := scratchBase 0, count := 0x400, tag := 3 }

/-- A use of what an image holds, where it is one. -/
def withImage (s : State) (p : Parsed → Bool) : Bool :=
  match s.parsed record0 with
  | some x => p x
  | none => false

theorem wit_HostAndLaunches_loading :
    (let l := loading1 [] none
     let s := launching (some l)
     s.launchTurn 0 (record0.getLsbD 129) = true ∧ s.unitsLost l = false ∧ (s.cluster 0).ctlBad = false ∧ (s.func 0).again = false ∧
     withImage s (fun p => match s.giveOut record0 p l with
       | some (t, m) => m.tagging == [tagging0] && m.before.isSome && (t.core 0).setup == [0] && ((t.core 0).entry 0).state == 2
       | none => false) = true ∧
     (let t : State := { s with clusters := [(0, { cluster0 with ctlBad := true })] }
      (t.cluster 0).ctlBad = true) ∧
     withImage s (fun p => (s.giveOut record0 p { l with placed := { l.placed with cl := [(0, 0, [(5, 0)])] } }).isNone) = true) ∧
    (let l := loading1 [tagging0] (some before0)
     let s := launching (some l)
     (s.func 0).loading = some l ∧ l.tagging ≠ [] ∧ clusterOf 7 = 0 ∧ (∀ g, g < 64 → g ≠ 0 → (s.func g).loading.isNone = true)) := by
  decide +kernel

theorem wit_HostAndLaunches_started :
    let l := loading1 [] (some before0)
    let s := launching (some l)
    l.before.isSome = true ∧ l.tagging = [] ∧ l.placed.cl.map (fun e => e.2.1) = l.clusters ∧
    withImage s (fun p => (s.load 0 record0 p l.placed).isSome) = true ∧
    withImage s (fun p => (s.load 0 record0 p { l.placed with cl := [(0, 0, [(5, 0)])] }).isNone) = true ∧
    (let t : State := { s with hub := { s.hub with units := [⟨1, 0, false⟩] } }
     t.failed 1 0 = true ∧ (1, 0) ∈ l.units ∧ t.unitsLost l = true) := by decide +kernel

theorem wit_HostAndLaunches_aperture : debugReg 0 = true ∧ debugReg 0x10000 = true ∧ debugReg 8 = false ∧ debugReg 0xFFFF8 = false ∧
    (0x400000 : Nat) ≤ (0x4FFFF8 : BitVec 24).toNat ∧ (0x4FFFF8 : BitVec 24).toNat < 0x500000 := by decide +kernel

theorem wit_FunctionsShareTheModule_pending :
    ((sharing true 0 fun x => { x with held := true }).messages = [] ∧ ((sharing true 0 id).func 0).loading.isNone = true ∧
      (sharing true 0 id).areaEnd 0 = 0) ∧
    (let s := launching none
     s.waitsTurn 0 = true ∧ s.jobsOf 0 = [] ∧ s.partOf 0 = s.partOf 1) ∧
    (let s := withJobs s0 [{ job0 with fn := 1, xdom := 8 }]
     s.hub.jobs.map (fun j => (j.fn, j.xdom.getLsbD 3)) = [(1, true)]) ∧
    (∃ j ∈ (sharing false 0 id).jobsOf 0, j.stand.away = false) := by
  refine ⟨by decide +kernel, by decide +kernel, by decide +kernel, job0, by decide +kernel, rfl⟩

theorem wit_PlantAndLinks_starting :
    (let s := (s0.modPlant fun x => { x with starting := true, supplyBad := true }).setDie 0 { Die.reset with served := true, released := false }
     s.hub.plant.starting = true ∧ (s.die 0).served = true ∧ s.hub.plant.verified = true ∧ s.hub.plant.inletOver = false) ∧
    s0.hub.history.Nodup ∧ s0.hub.plant.powerOff = false ∧
    (let s := member0 .atWork 2 { core0 with xpc := 0x80000 }
     s.widthDue 0 = true ∧ s0.widthDue 0 = false) := by decide +kernel

theorem wit_TasksAndSupersteps_entries :
    (let s := mk 0 { idle0 (2 + 0x80400 * 2 ^ 96) with setup := [1] }
     s.taskReady 0 = some 0 ∧ 0 ∉ (s.core 0).setup ∧ 0 ∉ (s.core 0).again) ∧
    (let s := mk 0 { idle0 4 with yields := [(0, 1472)], wsp := 1472 }
     s.taskReady 0 = some 0 ∧ ((s.core 0).entry 0).state = 4 ∧ passes (s.tcmChecks 0 (yieldReads (s.core 0).spillBase)) = true) := by decide +kernel

theorem wit_CounterBanksAndTraceBuffers_written :
    let s := ((walkable true (req0 0x100000) core0).modHub fun h => { h with traces := [trace0] }).modFunc 0 fun x => { x with tbctl := 0x53001 }
    (s.tracePlace trace0).map (fun e => (e.1, e.2.1, e.2.2.1, e.2.2.2.1)) = some (leafOf 7, false, 0x30028, 0x50000) ∧
    s.remote (leafOf 7) = false ∧ (s.hubRead 0x30028 8).testBit 63 = false ∧ leafCa (leafOf 7) = 0 ∧ (leafPa (leafOf 7) false 0x50000) < hbmEnd ∧
    s.bermFind (leafPa (leafOf 7) false 0x50000) = none ∧
    ((s.setAccessed 0x30028).hubRead 0x30028 8).testBit 63 = true ∧ unitCount 2 = 20500 ∧
    (let t := ((s.setAccessed 0x30028).setUnit 0 0x8000000000000000 3 false)
     (t.own 2 0).extractLsb' 62 2 = 2) := by decide +kernel

theorem wit_Debugger_commands :
    (let j := jobAs fun x => { x with haltAll := true }
     let s := withJobs s0 [j]
     s.debugged = some j ∧ s.hub.faults = []) ∧
    (s0.areaEnd 0 = 0 ∧ (s0.modHub fun h => { h with snaps := [snap0] }).areaEnd 0 = 0x10000) := by decide +kernel


/-! ## Single steps: expected values worked out by hand from the rules named -/

/-- Scalar register n of core 0 after instruction i in the state with those registers. -/
def gives (l : List (Nat × W64)) (i : Instr) (n : Nat) (v : W64) : Bool := next (exec i (at' l)) fun t => t.me.s n == v

/-- The same under a prefix with SAT. -/
def givesSat (sat : Nat) (l : List (Nat × W64)) (i : Instr) (n : Nat) (v : W64) : Bool :=
  next (exec i (mk 0 (prefixed sat 0 0 0 0 (regs l)))) fun t => t.me.s n == v

/-- The instruction takes that trap. -/
def takes (s : State) (i : Instr) (c : Cause) (v : W64) : Bool :=
  next (exec i (s.modMe fun k => { k with tvec := 0x80100 })) fun t =>
    (t.me.trapc.extractLsb' 0 8).toNat == c.code && t.me.trapv == v && t.me.pc == 0x80100

/-- spec/10 R296: wrap, sign, .w results sign-extended, division corners. -/
theorem test_alu :
    gives [(2, 0xFFFFFFFFFFFFFFFF), (3, 2)] (.add 0 3 2 1 0) 1 1 ∧ gives [(2, 0x7FFFFFFF), (3, 1)] (.add 1 3 2 1 0) 1 0xFFFFFFFF80000000 ∧
    gives [(2, 1), (3, 3)] (.sub 0 3 2 1 0) 1 0xFFFFFFFFFFFFFFFE ∧ gives [(2, 0x8000000000000000), (3, 1)] (.min 0 3 2 1 0) 1 0x8000000000000000 ∧
    gives [(2, 0x8000000000000000), (3, 1)] (.minn 0 3 2 1 0) 1 1 ∧ gives [(2, 0xFFFFFFFFFFFFFFFF), (3, 2)] (.mulh 0 3 2 1 0) 1 0xFFFFFFFFFFFFFFFF ∧
    gives [(2, 0xFFFFFFFFFFFFFFFF), (3, 2)] (.mulhn 0 3 2 1 0) 1 1 ∧ gives [(2, 7)] (.div 0 3 2 1 0) 1 0xFFFFFFFFFFFFFFFF ∧
    gives [(2, 7)] (.rem 0 3 2 1 0) 1 7 ∧ gives [(2, 0xFFFFFFFFFFFFFFF9), (3, 2)] (.div 0 3 2 1 0) 1 0xFFFFFFFFFFFFFFFD := by decide +kernel

theorem test_alu_bits :
    gives [(2, 0xF0), (3, 0x3C)] (.andn 0 3 2 1 0) 1 0xC0 ∧ gives [(2, 1), (3, 65)] (.shl 0 3 2 1 0) 1 2 ∧
    gives [(2, 0x80000000), (3, 31)] (.sha 1 3 2 1 0) 1 0xFFFFFFFFFFFFFFFF ∧ gives [(2, 0x80000000), (3, 31)] (.shr 1 3 2 1 0) 1 1 ∧
    gives [] (.clz 1 2 1 0) 1 32 ∧ gives [(2, 0x100)] (.ctz 0 2 1 0) 1 8 ∧ gives [(2, 0xFFFFFFFF00000001)] (.popc 1 2 1 0) 1 1 := by decide +kernel

/-- SAT 1 clamps to the signed range, SAT 2 to the natural one (spec/03 R115, spec/10 R296). -/
theorem test_saturation :
    givesSat 1 [(2, 0x7FFFFFFFFFFFFFFF), (3, 1)] (.add 0 3 2 1 1) 1 0x7FFFFFFFFFFFFFFF ∧ givesSat 2 [(2, 1), (3, 3)] (.sub 0 3 2 1 1) 1 0 ∧
    givesSat 1 [(2, 0x80000000), (3, 0xFFFFFFFF)] (.div 1 3 2 1 1) 1 0x7FFFFFFF := by decide +kernel

/-- Immediates are sign-extended; LDI zero-extends, LDI.x sign-extends, LDIH replaces the high half (spec/10 R297 to R300). -/
theorem test_immediates :
    gives [(2, 5)] (.addi 0x800 2 1 0) 1 0xFFFFFFFFFFFFF805 ∧ gives [] (.addi 0xFFF 0 3 0) 3 0xFFFFFFFFFFFFFFFF ∧
    gives [(2, 0x7FFFFFFF)] (.addiW 1 2 1 0) 1 0xFFFFFFFF80000000 ∧ gives [(2, 0xF0F)] (.andi 0xF00 2 1 0) 1 0xF00 ∧
    gives [(2, 1)] (.shli 0 63 2 1 0) 1 0x8000000000000000 ∧ gives [] (.ldi 0 0x80000000 1 0) 1 0x80000000 ∧
    gives [] (.ldi 1 0x80000000 1 0) 1 0xFFFFFFFF80000000 ∧ gives [(1, 7)] (.ldih 0xABCD 1 0) 1 0x0000ABCD00000007 := by decide +kernel

/-- s0 reads as zero and a write to it is discarded (spec/10 R292). -/
theorem test_zero_register : gives [(2, 5), (3, 6)] (.add 0 3 2 0 0) 0 0 := by decide +kernel

/-- BND traps at the limit with TRAPV 8, BNDI with 9; below it they pass the value on (spec/10 R301). -/
theorem test_bounds :
    takes (at' [(2, 5), (3, 5)]) (.bnd 3 2 1 0) .bounds 8 ∧ gives [(2, 4), (3, 5)] (.bnd 3 2 1 0) 1 4 ∧
    takes (at' [(2, 4095)]) (.bndi 4095 2 1 0) .bounds 9 ∧ gives [(2, 4094)] (.bndi 4095 2 1 0) 1 4094 := by decide +kernel

/-- PLOG reads its table at 2 pa + pb; SEL takes rs1 when the predicate holds (spec/10 R304, R305). -/
theorem test_predicates :
    (let s := mk 0 { regs [(2, 7), (3, 9)] with p := 0x04 }
     next (exec (.plog 4 1 2 5 0) s) (fun t => t.me.pr 5) && next (exec (.plog 4 2 1 5 0) s) (fun t => !t.me.pr 5)
       && next (exec (.sel 0 2 3 2 1 0) s) (fun t => t.me.s 1 == 7) && next (exec (.sel 1 2 3 2 1 0) s) (fun t => t.me.s 1 == 9)) = true := by
  decide +kernel

/-- A false guard discards the instruction and its prefix (spec/08 R259). -/
theorem test_guard :
    next (exec (.add 0 3 2 1 1) (mk 0 (prefixed 0 1 0 0 0 (regs [(2, 5)])))) (fun t => t.me.s 1 == 0 && t.me.latch.isNone && t.me.pc == 4) = true := by
  decide +kernel

/-- Loads extend and are little-endian; LDBN does not extend (spec/11 R313). -/
theorem test_loads :
    (let s := (at' [(1, 0x100)]).write (tcmBase 0 + 0x100) 4 0x80FF0201
     next (exec (.ldw 0 1 2 0) s) (fun t => t.me.s 2 == 0xFFFFFFFF80FF0201) && next (exec (.ldb 2 1 2 0) s) (fun t => t.me.s 2 == 0xFFFFFFFFFFFFFFFF)
       && next (exec (.ldbn 3 1 2 0) s) (fun t => t.me.s 2 == 0x80)) = true := by decide +kernel

/-- A store reaches its own bytes only, and an unaligned one traps (spec/11 R314, spec/01 R27). -/
theorem test_stores :
    next (exec (.stw 0 1 2 0) (at' [(1, 0x100), (2, 0x1122334455667788)])) (fun t =>
      t.read (tcmBase 0 + 0x100) 8 == 0x55667788 && t.byte (tcmBase 0 + 0xFF) == 0) = true ∧
    takes (at' [(1, 0x102)]) (.stw 0 1 2 0) .align 4 ∧ takes (at' [(1, 0x100000000)]) (.stb 0 1 2 0) .polderAccess 7 := by decide +kernel

/-- AMO returns the old value and writes the sum; CAS writes only on equality (spec/11 R325). -/
theorem test_atomics :
    (let s := (at' [(1, 0x100), (24, 5), (25, 9)]).write (tcmBase 0 + 0x100) 8 5
     next (exec (atomicInstr .add 0 1 1 0 0 0 0) s) (fun t => t.me.s 24 == 5 && t.read (tcmBase 0 + 0x100) 8 == 10)
       && next (exec (atomicInstr .cas 0 1 1 0 0 0 0) s) (fun t => t.read (tcmBase 0 + 0x100) 8 == 9)) = true ∧
    takes (at' [(1, 0x100)]) (atomicInstr .add 0 0 1 0 0 0 0) .illegal 5 := by decide +kernel

/-- STF sets the words full, LDFC empties them, LDF on an empty word stalls (spec/11 R318). -/
theorem test_full_empty :
    next (exec (.stf 0 0 1 2 0) (at' [(1, 0x100), (2, 7)])) (fun t => t.isFull ((tcmBase 0 + 0x100) / 4)) = true ∧
    next (exec (.ldfc 0 0 1 3 0) { at' [(1, 0x100)] with full := [(tcmBase 0 + 0x100) / 4] }) (fun t => t.full == []) = true ∧
    next (exec (.ldf 0 0 1 3 0) (at' [(1, 0x100)])) (fun t => t.me.sleep == .full [(tcmBase 0 + 0x100) / 4] && t.me.pc == 0) = true := by decide +kernel

/-- TAGS writes a granule tag; the old pointer then mismatches (spec/11 R316, spec/01 R27). -/
theorem test_tags :
    next (exec (.tags 0 2 1 0) (at' [(1, 0x30000020), (2, 1)])) (fun t => t.tag ((tcmBase 0 + 0x20) / 32) == 3 && t.tag ((tcmBase 0 + 0x40) / 32) == 0) = true ∧
    takes { at' [(1, 0x20)] with tags := [((tcmBase 0 + 0x20) / 32, 3)] } (.ldw 0 1 2 0) .tagMismatch 3 := by decide +kernel

/-- Branches are relative to the instruction's own word; CALL moves the window by 16 registers (spec/10 R307 to R309). -/
theorem test_control :
    next (exec (.br 0x3FFFF 0 0) (mk 0 { core0 with pc := 0x80000 })) (fun t => t.me.pc == 0x7FFFC) = true ∧
    next (exec (.br 3 1 0) (mk 0 { core0 with pc := 0x80000 })) (fun t => t.me.pc == 0x80004) = true ∧
    next (exec (.loop 0x3FFFF 2) (mk 0 { regs [(2, 2)] with pc := 0x80000 })) (fun t => t.me.s 2 == 1 && t.me.pc == 0x7FFFC) = true ∧
    next (exec (.loop 0x3FFFF 2) (at' [(2, 1)])) (fun t => t.me.s 2 == 0 && t.me.pc == 4) = true ∧
    next (exec (.callr 2 0) (mk 0 { regs [(2, 0x80100), (24, 77)] with pc := 0x80000 })) (fun t => t.me.pc == 0x80100 && t.me.s 8 == 77) = true := by
  decide +kernel

/-- TRAP saves the next address and its code, ERET returns (spec/15 R432, R433). -/
theorem test_traps :
    next (exec (.trap 0xABC) (mk 0 { core0 with tvec := 0x80100, pc := 0x40 })) (fun t =>
      t.me.trappc == 0x44 && t.me.trapv == 0x10ABC && t.me.level == 1 && t.me.pc == 0x80100) = true ∧
    next (exec .eret (mk 0 { service core0 with trappc := 0x44, trapc := 0x40000000 })) (fun t => t.me.pc == 0x44 && t.me.level == 0) = true ∧
    takes s0 .eret .privilege 1 := by decide +kernel

/-- A double trap stops the core (spec/06 R221). -/
theorem test_double_trap : next (exec (.trap 0) s0) (fun t => t.me.act == .stopped) = true := by decide +kernel

/-- Lanes of f32: 1.5 + 2.25 = 3.75, rounded once; integer lanes wrap (spec/12 R339, R338). -/
theorem test_vectors :
    next (exec (.vadd 0 2 1 3 0) (mk 0 { core0 with v := vset (vset core0.v 1 0x3FC00000) 2 0x40100000 })) (fun t => lane (t.me.vr 3) 32 0 == 0x40700000) = true ∧
    next (exec (.vadd 8 2 1 3 0) (mk 0 { core0 with v := vset (vset core0.v 1 0xFF01) 2 0x0103 })) (fun t => (t.me.vr 3).extractLsb' 0 16 == (0x0004 : BitVec 16)) = true ∧
    next (exec (.vneg 0 1 3 0) s0) (fun t => lane (t.me.vr 3) 32 5 == 0x80000000) = true := by decide +kernel

/-- An operand NaN gives the canonical NaN; a comparison with it is NE only (spec/03 R104, spec/12 R343). -/
theorem test_nan :
    (let s := mk 0 { core0 with v := vset core0.v 1 0x7F800001 }
     next (exec (.vmul 0 2 1 3 0) s) (fun t => lane (t.me.vr 3) 32 0 == 0x7FC00000) && next (exec (.vcmp 0 1 2 1 4 0) s) (fun t => t.me.qr 4 == 1)) = true := by
  decide +kernel

/-- SEND puts one flit for each value under way; a late one traps (spec/15 R414). -/
theorem test_send :
    next (exec (.send 5 1 0 here) (mk 0 (exch 5 core0))) (fun t => t.flits.length == 2 && t.flits.map (fun f => f.cycle) == [9, 10]) = true ∧
    takes (mk 0 (exch 6 core0)) (.send 5 0 0 here) .slotViolation 1 := by decide +kernel

/-- GCALL enters the callee, clears the globals and the windows, and GRET undoes it (spec/15 R421, R423). -/
theorem test_gates :
    next (exec (.gcall 1) (gated 4 0x80400 1 (regs [(1, 0x100000), (5, 9)]))) (fun t =>
      t.me.pc == 0x80400 && t.me.pol == 1 && t.me.depth == 1 && t.me.s 5 == 0 && t.inflight 1 0 == 1) = true ∧
    next (exec .gret ((gated 4 0x80400 1 inFrame).modMe fun c => inFrame)) (fun t => t.me.pc == 0x80004 && t.me.pol == 0 && t.me.depth == 0) = true := by decide +kernel

/-- The bytes 0 to 31, first byte lowest. -/
def counting : Nat := ofBytes16 (fun i => i) + ofBytes16 (fun i => i + 16) * 2 ^ 128

/-- AES-256 of FIPS 197, C.3: key bytes 0x00 to 0x1F (spec/04 R143). -/
theorem test_cipher :
    aesEncrypt (aesKeys counting) (ofBytes16 fun i => 17 * i) = 0x8960494B9049FCEABF456751CAB7A28E ∧
    aesDecrypt (aesKeys counting) 0x8960494B9049FCEABF456751CAB7A28E = ofBytes16 fun i => 17 * i := by decide +kernel

/-- XTS: the first data of vector 10 of IEEE 1619, data unit 0xFF (spec/04 R143). -/
theorem test_granule_cipher :
    (let k1 : Nat := 0x2776966649575999699370245777496226357174286053234590452818281827
     let k2 : Nat := 0x9245947409820551379993169741880295278333646284239397585326594131
     xtsGranule true (BitVec.ofNat 512 (k1 + k2 * 2 ^ 256)) 0xFF counting =
       0x3BE6A314D412AEA45723485E3F8000EA9BCF70E3996C83E48603772F103A3B1C) := by decide +kernel

end Sys2Proof.Tests
end

section
/-! The plant, starts, the governor and the scale links (O56): what the operations of the hub that they share leave unchanged, what
each event does, and the statement. -/

namespace Sys2Proof.Machine

/-! ## Folds -/

/-- A fold changes no part of its state that no step changes. The result of a step has a name of its own, so that the kernel
compares states and not projections of unreduced steps. -/
theorem foldl_keeps {α β σ : Type} (p : σ → β) (g : σ → α → σ) (l : List α) (s : σ)
    (h : ∀ s t, ∀ x ∈ l, g s x = t → p t = p s) : p (l.foldl g s) = p s := by
  induction l generalizing s with
  | nil => rfl
  | cons x l ih =>
    exact (ih _ fun s t y hy => h s t y (List.mem_cons_of_mem _ hy)).trans (h s _ x List.mem_cons_self rfl)

/-- A fold that may fail keeps every reflexive and transitive relation that its steps keep. -/
theorem foldlM_keeps {α σ : Type} {R : σ → σ → Prop} (refl : ∀ s, R s s) (trans : ∀ {a b c}, R a b → R b c → R a c)
    {g : σ → α → Option σ} (h : ∀ s x t, g s x = some t → R s t) (l : List α) (s t : σ)
    (ht : l.foldlM g s = some t) : R s t := by
  induction l generalizing s with
  | nil => obtain rfl : s = t := by simpa using ht
           exact refl s
  | cons x l ih =>
    rw [List.foldlM_cons, Option.bind_eq_bind, Option.bind_eq_some_iff] at ht
    obtain ⟨m, hm, ht⟩ := ht
    exact trans (h s x m hm) (ih m ht)

/-! ## Writes of the hub -/

/-- Bytes written change memory alone. -/
theorem State.write_eq (s : State) (k n x : Nat) : s.write k n x = { s with mem := (s.write k n x).mem } := by
  induction n generalizing s k x with
  | zero => rfl
  | succ n ih =>
    show (s.setByte k _).write (k + 1) n (x / 256) = _
    rw [ih]; rfl

/-- A write in a window region changes memory alone. -/
theorem State.winPut_eq (s : State) (f off n x : Nat) :
    s.winPut f off n x = { s with mem := (s.winPut f off n x).mem } := by
  unfold State.winPut
  split
  · exact s.write_eq _ n x
  · rfl

/-- Without a region of the function a write in it does nothing. -/
theorem State.winPut_of_no_region (s : State) {f : Nat} (off n x : Nat) (h : s.region f = none) : s.winPut f off n x = s := by
  unfold State.winPut; rw [h]

/-- The regions of a function are those that the hub's region registers name. -/
theorem State.region_congr {s t : State} (f : Nat) (h : t.hub.wreg = s.hub.wreg) : t.region f = s.region f := by
  unfold State.region State.regions
  rw [h]

/-- An entry of the cause table changes memory and what the hub keeps of the table. -/
theorem State.recordCause_eq (s : State) (r : CauseRec) : ∃ m a b c,
    s.recordCause r = { s with mem := m, hub := { s.hub with causeTail := a, causeLost := b, causeIrqPend := c } } := by
  unfold State.recordCause
  dsimp only
  split
  · rw [State.winPut_eq]
    exact ⟨_, _, _, _, rfl⟩
  · rw [State.winPut_eq, State.winPut_eq]
    exact ⟨_, _, _, _, rfl⟩

section
variable (s : State) (r : CauseRec)

@[simp] theorem State.recordCause_cores : (s.recordCause r).cores = s.cores := by
  obtain ⟨m, a, b, c, h⟩ := s.recordCause_eq r; rw [h]
@[simp] theorem State.recordCause_dies : (s.recordCause r).dies = s.dies := by
  obtain ⟨m, a, b, c, h⟩ := s.recordCause_eq r; rw [h]
@[simp] theorem State.recordCause_jobs : (s.recordCause r).hub.jobs = s.hub.jobs := by
  obtain ⟨m, a, b, c, h⟩ := s.recordCause_eq r; rw [h]
@[simp] theorem State.recordCause_plant : (s.recordCause r).hub.plant = s.hub.plant := by
  obtain ⟨m, a, b, c, h⟩ := s.recordCause_eq r; rw [h]
@[simp] theorem State.recordCause_units : (s.recordCause r).hub.units = s.hub.units := by
  obtain ⟨m, a, b, c, h⟩ := s.recordCause_eq r; rw [h]

end

/-! ## What HBM writes leave of the hub -/

@[simp] theorem State.rekey_hub (s : State) (g : Nat) (key : Option (BitVec 512)) : (s.rekey g key).hub = s.hub := by
  simp only [State.rekey, apply_ite State.hub, State.write_hub, ite_self]

@[simp] theorem State.rekeys_hub (s : State) (g : Nat) (key : Option (BitVec 512)) (n : Nat) :
    (s.rekeys g key n).hub = s.hub := by
  induction n generalizing s g with
  | zero => rfl
  | succ n ih => exact (ih _ _).trans (s.rekey_hub g key)

@[simp] theorem State.hbmWrite_hub (s : State) (pa k n x mask : Nat) : (s.hbmWrite pa k n x mask).hub = s.hub := by
  unfold State.hbmWrite
  split
  · rfl
  · simp

@[simp] theorem State.hubWrite_hub (s : State) (pa n x : Nat) : (s.hubWrite pa n x).hub = s.hub := by
  unfold State.hubWrite
  split
  · simp
  · split
    · split
      · rfl
      · simp
    · simp

@[simp] theorem State.gateLeave_hub (s : State) (pol : BitVec 12) (g : Nat) : (s.gateLeave pol g).hub = s.hub := by
  simp only [State.gateLeave, apply_ite State.hub, State.hubWrite_hub, ite_self]

@[simp] theorem State.leaveFrames_hub (s : State) (l : List (Nat × DomEntry)) : (s.leaveFrames l).hub = s.hub := by
  unfold State.leaveFrames
  exact foldl_keeps State.hub _ l s fun s t x _ (h : s.gateLeave x.2.callee x.2.gate.toNat = t) => by rw [← h]; simp

/-! ## The end of every job -/

@[simp] theorem State.modFunc_jobs (s : State) (f : Nat) (g : Func → Func) : (s.modFunc f g).hub.jobs = s.hub.jobs := rfl

@[simp] theorem State.setVfState_jobs (s : State) (f n : Nat) : (s.setVfState f n).hub.jobs = s.hub.jobs := rfl

@[simp] theorem State.winPut_hub (s : State) (f off n x : Nat) : (s.winPut f off n x).hub = s.hub := by
  rw [State.winPut_eq]

@[simp] theorem State.writeCompletion_jobs (s : State) (f : Nat) (r : BitVec 256) :
    (s.writeCompletion f r).hub.jobs = s.hub.jobs := by
  unfold State.writeCompletion
  dsimp only
  split
  · rfl
  · split <;> simp

@[simp] theorem State.complete_jobs (s : State) (f : Nat) (r : BitVec 256) : (s.complete f r).hub.jobs = s.hub.jobs := by
  unfold State.complete
  split <;> simp

@[simp] theorem State.settleIdle_jobs (s : State) (f : Nat) : (s.settleIdle f).hub.jobs = s.hub.jobs := by
  unfold State.settleIdle
  dsimp only
  split
  · rfl
  · split <;> simp

@[simp] theorem State.modCore_if_listed_hub (s : State) (l : List Nat) (f : Core → Core) :
    (l.foldl (fun (s : State) a => if (sget s.cores a).isSome then s.modCore a f else s) s).hub = s.hub :=
  foldl_keeps State.hub _ l s fun s t a _ h => by subst h; split <;> rfl

@[simp] theorem State.modCluster_if_listed_hub (s : State) (l : List Nat) (f : Cluster → Cluster) :
    (l.foldl (fun (s : State) c => if (sget s.clusters c).isSome then s.modCluster c f else s) s).hub = s.hub :=
  foldl_keeps State.hub _ l s fun s t a _ h => by subst h; split <;> rfl

/-- A job taken off the module: of the list of jobs, that one alone goes. -/
theorem State.dropJob_jobs (s : State) (j : Job) : (s.dropJob j).hub.jobs = s.hub.jobs.filter fun k => !k.same j := by
  unfold State.dropJob
  by_cases h : j.stand.away = true <;> simp [h, State.modHub, Hub.releaseLinks]

theorem State.endJob_jobs (s : State) (j : Job) (st : Status) (a c : Nat) :
    (s.endJob j st a c).hub.jobs = s.hub.jobs.filter fun k => !k.same j := by
  unfold State.endJob
  simp [State.dropJob_jobs]

theorem Job.same_self (j : Job) : j.same j = true := by simp [Job.same]

/-- Jobs ended one after the other: what is left of the list is the same job as none of them. -/
theorem State.mem_jobs_of_endJobs (l : List Job) (st : Status) (a c : Nat) (s : State) (k : Job)
    (hk : k ∈ (l.foldl (fun (s : State) j => s.endJob j st a c) s).hub.jobs) :
    k ∈ s.hub.jobs ∧ ∀ j ∈ l, k.same j = false := by
  induction l generalizing s with
  | nil => exact ⟨hk, by simp⟩
  | cons j l ih =>
    obtain ⟨hmem, hall⟩ := ih _ hk
    rw [State.endJob_jobs, List.mem_filter] at hmem
    obtain ⟨hin, hne⟩ := hmem
    refine ⟨hin, fun i hi => ?_⟩
    rcases List.mem_cons.1 hi with rfl | hi
    · simpa using hne
    · exact hall i hi

@[simp] theorem State.putMemory_hub (s : State) (span : List (Nat × Nat)) (mem : List Host.Cell)
    (tags : List (Nat × BitVec 4)) (full : List Nat) : (s.putMemory span mem tags full).hub = s.hub := by
  unfold State.putMemory
  extract_lets s₁ s₂ s₃
  calc (full.foldl _ s₃).hub = s₃.hub := foldl_keeps State.hub _ full s₃ fun _ _ _ _ h => by subst h; rfl
    _ = s₂.hub := foldl_keeps State.hub _ tags s₂ fun _ _ _ _ h => by subst h; rfl
    _ = s₁.hub := foldl_keeps State.hub _ mem s₁ fun _ _ _ _ h => by subst h; rfl
    _ = s.hub := foldl_keeps State.hub _ span s fun _ _ _ _ h => by subst h; rfl

@[simp] theorem State.undoLoad_jobs (s : State) (f : Nat) : (s.undoLoad f).hub.jobs = s.hub.jobs := by
  unfold State.undoLoad
  dsimp only
  split
  · rfl
  · rw [State.putMemory_hub]
    exact foldl_keeps (fun t : State => t.hub.jobs) _ _ (s.modFunc f _) fun _ _ _ _ h => by subst h; rfl

/-- No job is left when every one is contained. -/
theorem State.containAll_jobs (s : State) : s.containAll.hub.jobs = [] := by
  refine List.eq_nil_iff_forall_not_mem.2 fun k hk => ?_
  obtain ⟨hmem, hall⟩ := State.mem_jobs_of_endJobs _ _ _ _ _ k hk
  rw [foldl_keeps (fun t : State => t.hub.jobs) _ _ _ fun s t f _ (h : s.undoLoad f = t) => by
    rw [← h]
    exact s.undoLoad_jobs f] at hmem
  have hself := hall k hmem
  rw [k.same_self] at hself
  cases hself

/-! ## The dies -/

@[simp] theorem State.modHub_hub (s : State) (f : Hub → Hub) : (s.modHub f).hub = f s.hub := rfl

@[simp] theorem State.die_modHub (s : State) (f : Hub → Hub) (d : Nat) : (s.modHub f).die d = s.die d := rfl

theorem State.die_modDie (s : State) (a d : Nat) (f : Die → Die) :
    (s.modDie a f).die d = if a = d then f (s.die d) else s.die d := by
  show (s.setDie a _).die d = _
  rw [State.die_setDie]
  split
  · next h => rw [h]
  · rfl

/-- Each die of a list changed once. -/
theorem State.die_foldl_modDie (l : List Nat) (hl : l.Nodup) (f : Die → Die) (s : State) (d : Nat) :
    (l.foldl (fun (s : State) d => s.modDie d f) s).die d = if d ∈ l then f (s.die d) else s.die d := by
  induction l generalizing s with
  | nil => simp
  | cons a l ih =>
    obtain ⟨ha, hl⟩ := List.nodup_cons.1 hl
    rw [List.foldl_cons, ih hl, State.die_modDie]
    by_cases hd : a = d
    · subst hd; simp [ha]
    · simp [hd, Ne.symm hd]

theorem State.foldl_modDie_eq (l : List Nat) (f : Die → Die) (s : State) :
    ∃ x, l.foldl (fun (s : State) d => s.modDie d f) s = { s with dies := x } := by
  induction l generalizing s with
  | nil => exact ⟨_, rfl⟩
  | cons a l ih =>
    obtain ⟨x, h⟩ := ih (s.modDie a f)
    exact ⟨x, h⟩

theorem State.fenceDies_die (s : State) {d : Nat} (h : d < 16) : (s.fenceDies.die d).released = false := by
  unfold State.fenceDies
  rw [State.die_foldl_modDie _ List.nodup_range, if_pos (List.mem_range.2 h)]

@[simp] theorem State.fenceDies_hub (s : State) : s.fenceDies.hub = s.hub := by
  obtain ⟨x, h⟩ := s.foldl_modDie_eq (List.range 16) fun x => { x with released := false, served := x.served || x.released }
  unfold State.fenceDies
  rw [h]

theorem State.restoreDies_die (s : State) {d : Nat} (h : d < 16) :
    (s.restoreDies.die d).released = (!s.hub.plant.starting || (s.die d).released || (s.die d).served) := by
  unfold State.restoreDies
  dsimp only
  rw [State.die_foldl_modDie _ List.nodup_range, if_pos (List.mem_range.2 h)]

theorem State.restoreDies_eq (s : State) : ∃ x, s.restoreDies = { s with dies := x } := by
  unfold State.restoreDies
  exact s.foldl_modDie_eq _ _

/-! ## Dies and jobs after an event of the plant -/

/-- Every job is over and no array die takes work (spec/00 R7, R8). -/
def State.OutOfService (t : State) : Prop :=
  t.hub.jobs = [] ∧ t.hub.plant.accepting = false ∧ ∀ d, d < 16 → (t.die d).released = false

/-- Every array die takes work. -/
def State.InService (t : State) : Prop := t.hub.plant.accepting = true ∧ ∀ d, d < 16 → (t.die d).released = true

/-- Of s, the dies of early service are those that t has released, and t takes launches if there is one (spec/07 R249). -/
def State.EarlyService (s t : State) : Prop :=
  (∀ d, d < 16 → (t.die d).released = ((s.die d).released || (s.die d).served)) ∧
    (t.hub.plant.accepting = true ↔ ∃ d, d < 16 ∧ (t.die d).released = true)

/-- Every stand takes the half clock, or the full one, at its next boundary. -/
def State.ClocksAtNext (t : State) (b : Bool) : Prop := ∀ j ∈ t.hub.jobs, j.stand.halfNext = b

/-- Nothing of the plant forbids the return of the dies to service. -/
def Plant.Sound (p : Plant) : Prop := p.inletOver = false ∧ p.supplyBad = false ∧ p.verified = true

/-- What a return to service changes: dies, and whether launches are taken. -/
theorem State.reaccept_eq (s : State) : ∃ x b,
    s.reaccept = { s with dies := x, hub := { s.hub with plant := { s.hub.plant with accepting := b } } } := by
  unfold State.reaccept
  dsimp only
  split
  · exact ⟨_, _, rfl⟩
  · obtain ⟨x, h⟩ := s.restoreDies_eq
    rw [h]
    exact ⟨_, _, rfl⟩

theorem State.reaccept_of_sound {s : State} (h : s.hub.plant.Sound) :
    s.reaccept = s.restoreDies.modPlant fun p =>
      { p with accepting := !p.starting || (List.range 16).any fun d => (s.restoreDies.die d).released } := by
  obtain ⟨hover, hbad, hver⟩ := h
  simp [State.reaccept, hover, hbad, hver]

theorem State.restoreDies_hub (s : State) : s.restoreDies.hub = s.hub := by
  obtain ⟨x, h⟩ := s.restoreDies_eq
  rw [h]

theorem State.reaccept_accepting {s : State} (h : s.hub.plant.Sound) :
    s.reaccept.hub.plant.accepting =
      (!s.hub.plant.starting || (List.range 16).any fun d => (s.restoreDies.die d).released) := by
  rw [State.reaccept_of_sound h]
  simp only [State.modPlant, State.modHub_hub, State.restoreDies_hub]

theorem State.reaccept_die {s : State} (h : s.hub.plant.Sound) (d : Nat) : s.reaccept.die d = s.restoreDies.die d := by
  rw [State.reaccept_of_sound h, State.modPlant, State.die_modHub]

/-- Outside a start every die returns to service. -/
theorem State.reaccept_inService {s : State} (h : s.hub.plant.Sound) (hs : s.hub.plant.starting = false) :
    s.reaccept.InService := by
  refine ⟨by simp [State.reaccept_accepting h, hs], fun d hd => ?_⟩
  rw [State.reaccept_die h, State.restoreDies_die s hd, hs]
  rfl

/-- In a start the dies of early service return. -/
theorem State.reaccept_earlyService {s : State} (h : s.hub.plant.Sound) (hs : s.hub.plant.starting = true) :
    s.EarlyService s.reaccept := by
  refine ⟨fun d hd => ?_, ?_⟩
  · rw [State.reaccept_die h, State.restoreDies_die s hd, hs]
    rfl
  · simp [State.reaccept_accepting h, hs, State.reaccept_die h]

/-! ## Clocks -/

theorem State.reclock_clocks (s : State) : s.reclock.ClocksAtNext s.halfNow := by
  intro j hj
  obtain ⟨k, -, rfl⟩ := List.mem_map.1 hj
  rfl

theorem State.reclock_jobs_length (s : State) : s.reclock.hub.jobs.length = s.hub.jobs.length := List.length_map ..

/-! ## Tests of units -/

@[simp] theorem State.scrub_hub (s : State) (k n : Nat) : (s.scrub k n).hub = s.hub := rfl

@[simp] theorem State.scrub_dies (s : State) (k n : Nat) : (s.scrub k n).dies = s.dies := rfl

@[simp] theorem State.containEntry_plant (s : State) (k n : Nat) (b : Bool) (f : Nat) :
    (s.containEntry k n b f).hub.plant = s.hub.plant := s.recordCause_plant _

@[simp] theorem State.containEntry_dies (s : State) (k n : Nat) (b : Bool) (f : Nat) :
    (s.containEntry k n b f).dies = s.dies := s.recordCause_dies _

@[simp] theorem State.zeroUnit_hub (s : State) (kind n : Nat) : (s.zeroUnit kind n).hub = s.hub := by
  unfold State.zeroUnit
  split
  case h_1 => simp [State.bumpWgen]
  case h_4 =>
    rw [foldl_keeps State.hub _ _ _ fun s t a _ h => by rw [← h]; exact s.setCore_hub a _]
    simp
  all_goals simp

@[simp] theorem State.zeroUnit_dies (s : State) (kind n : Nat) : (s.zeroUnit kind n).dies = s.dies := by
  unfold State.zeroUnit
  split
  case h_1 => simp [State.bumpWgen]
  case h_4 =>
    rw [foldl_keeps State.dies _ _ _ fun s t a _ h => by rw [← h]; exact s.setCore_dies a _]
    simp
  all_goals simp

/-- What the plant and the dies are told of a unit's test: nothing. -/
def State.SamePlant (s t : State) : Prop := t.hub.plant = s.hub.plant ∧ t.dies = s.dies

theorem State.failTest_samePlant (s : State) (k n : Nat) : s.SamePlant (s.failTest k n) := by
  unfold State.failTest State.SamePlant
  dsimp only
  split <;> simp [State.retireBay]

theorem State.passTest_samePlant (s : State) (k n : Nat) : s.SamePlant (s.passTest k n) := by
  unfold State.passTest State.SamePlant
  simp [State.clearErrors]

theorem State.passService_samePlant (s : State) (k n : Nat) : s.SamePlant (s.passService k n) := by
  unfold State.passService State.SamePlant
  simp

/-- A test of units leaves the plant and the dies as they are. -/
theorem State.retest_samePlant (s : State) : s.SamePlant s.retest := by
  unfold State.retest
  refine Prod.ext_iff.1 (foldl_keeps (fun t : State => (t.hub.plant, t.dies)) _ _ s fun s t u _ h => ?_)
  dsimp only at h
  subst h
  refine Prod.ext_iff.2 ?_
  split
  · exact State.failTest_samePlant { s with free := s.free + 1 } _ _
  · split
    · exact State.passTest_samePlant { s with free := s.free + 1 } _ _
    · exact State.passService_samePlant { s with free := s.free + 1 } _ _

theorem State.moduleEvent_samePlant (s : State) (v : Nat) : s.SamePlant (s.moduleEvent v) :=
  ⟨s.recordCause_plant _, s.recordCause_dies _⟩

theorem State.SamePlant.trans {s t u : State} (h : s.SamePlant t) (g : t.SamePlant u) : s.SamePlant u :=
  ⟨g.1.trans h.1, g.2.trans h.2⟩

theorem State.SamePlant.die {s t : State} (h : s.SamePlant t) (d : Nat) : t.die d = s.die d := by
  unfold State.die; rw [h.2]

/-! ## Supply (spec/00 R7) -/

section
variable (s : State)

/-- What both limits of the plant do: every job is contained, the dies are fenced, and no launch is taken. -/
theorem State.outOfService_of_contained (f : Plant → Plant) (hf : ∀ p, (f p).accepting = false) (v : Nat) :
    ((s.containAll.fenceDies.modPlant f).moduleEvent v).OutOfService := by
  obtain ⟨hplant, -⟩ := (s.containAll.fenceDies.modPlant f).moduleEvent_samePlant v
  refine ⟨?_, by rw [hplant]; exact hf _, fun d hd => ?_⟩
  · rw [State.moduleEvent, State.recordCause_jobs]
    simp [State.modPlant, State.containAll_jobs]
  · rw [(State.moduleEvent_samePlant _ v).die, State.modPlant, State.die_modHub, State.fenceDies_die _ hd]

theorem exec_supplyOutOfRange_ends (h : s.hub.plant.supplyBad = false) :
    ∃ t, exec .supplyOutOfRange s = .next t ∧ t.OutOfService ∧ t.hub.plant.supplyBad = true := by
  refine ⟨_, by rw [exec_supplyOutOfRange, execSupplyOutOfRange, h]; rfl, s.outOfService_of_contained _ (fun _ => rfl) 6, ?_⟩
  rw [(State.moduleEvent_samePlant _ 6).1]
  rfl

theorem exec_inletOver45_ends (h : s.hub.plant.inletOver = false) :
    ∃ t, exec .inletOver45 s = .next t ∧ t.OutOfService ∧ t.hub.plant.inletOver = true := by
  refine ⟨_, by rw [exec_inletOver45, execInletOver45, h]; rfl, s.outOfService_of_contained _ (fun _ => rfl) 2, ?_⟩
  rw [(State.moduleEvent_samePlant _ 2).1]
  rfl

end

/-! ## Supply, coolant and ceiling restored (spec/00 R5 to R8, spec/16 R458) -/

theorem State.EarlyService.of_die {s u t : State} (h : u.EarlyService t) (hd : ∀ d, u.die d = s.die d) :
    s.EarlyService t := by
  refine ⟨fun d hlt => ?_, h.2⟩
  rw [h.1 d hlt, hd]

theorem State.reaccept_clocks {s : State} {b : Bool} (h : s.ClocksAtNext b) : s.reaccept.ClocksAtNext b := by
  obtain ⟨x, c, hr⟩ := s.reaccept_eq
  rw [hr]
  exact h

theorem exec_supplyRestored_back (s : State) (h : s.hub.plant.supplyBad = true) :
    ∃ t, exec .supplyRestored s = .next t ∧ t.hub.plant.supplyBad = false ∧
      (s.hub.plant.inletOver = false → s.hub.plant.verified = true → s.hub.plant.starting = false → t.InService) ∧
      (s.hub.plant.inletOver = false → s.hub.plant.verified = true → s.hub.plant.starting = true → s.EarlyService t) := by
  let a : State := s.modPlant fun p => { p with supplyBad := false }
  let u : State := a.retest.moduleEvent 7
  have hau : a.SamePlant u := a.retest_samePlant.trans (a.retest.moduleEvent_samePlant 7)
  have hplant : u.hub.plant = { s.hub.plant with supplyBad := false } := hau.1
  have hdie (d : Nat) : u.die d = s.die d := hau.die d
  have hsound (ho : s.hub.plant.inletOver = false) (hv : s.hub.plant.verified = true) : u.hub.plant.Sound := by
    rw [hplant]; exact ⟨ho, rfl, hv⟩
  have hstart : u.hub.plant.starting = s.hub.plant.starting := by rw [hplant]
  refine ⟨u.reaccept, by rw [exec_supplyRestored, execSupplyRestored, h]; rfl, ?_, fun ho hv hs => ?_, fun ho hv hs => ?_⟩
  · obtain ⟨x, b, hr⟩ := u.reaccept_eq
    rw [hr, hplant]
  · exact State.reaccept_inService (hsound ho hv) (hstart.trans hs)
  · exact (State.reaccept_earlyService (hsound ho hv) (hstart.trans hs)).of_die hdie

theorem exec_inletOver40_halves (s : State) (h : s.hub.plant.inletHot = false) :
    ∃ t, exec .inletOver40 s = .next t ∧ t.hub.plant.inletHot = true ∧ t.ClocksAtNext true ∧ t.cores = s.cores ∧
      t.hub.jobs.length = s.hub.jobs.length := by
  let u : State := (s.modPlant fun p => { p with inletHot := true }).reclock
  refine ⟨u.moduleEvent 1, by rw [exec_inletOver40, execInletOver40, h]; rfl, ?_, ?_, u.recordCause_cores _, ?_⟩
  · rw [(u.moduleEvent_samePlant 1).1]; rfl
  · unfold State.ClocksAtNext
    rw [State.moduleEvent, State.recordCause_jobs]
    exact State.reclock_clocks _
  · rw [State.moduleEvent, State.recordCause_jobs]
    exact State.reclock_jobs_length _

theorem exec_inletRestored_back (s : State) (h : s.hub.plant.inletHot = true ∨ s.hub.plant.inletOver = true) :
    ∃ t, exec .inletRestored s = .next t ∧ t.hub.plant.inletHot = false ∧ t.hub.plant.inletOver = false ∧
      t.ClocksAtNext (s.hub.plant.ceiling || s.hub.plant.starting) ∧
      (s.hub.plant.inletOver = true → s.hub.plant.supplyBad = false → s.hub.plant.verified = true →
        s.hub.plant.starting = false → t.InService) ∧
      (s.hub.plant.inletOver = true → s.hub.plant.supplyBad = false → s.hub.plant.verified = true →
        s.hub.plant.starting = true → s.EarlyService t) := by
  let a : State := s.modPlant fun p => { p with inletHot := false, inletOver := false }
  let b : State := if s.hub.plant.inletOver then a.retest else a
  let u : State := (b.moduleEvent 3).reclock
  have hab : a.SamePlant (b.moduleEvent 3) := by
    refine State.SamePlant.trans ?_ (b.moduleEvent_samePlant 3)
    show a.SamePlant (if _ then _ else _)
    split
    · exact a.retest_samePlant
    · exact ⟨rfl, rfl⟩
  have hplant : u.hub.plant = { s.hub.plant with inletHot := false, inletOver := false } := hab.1
  have hdie (d : Nat) : u.die d = s.die d := hab.die d
  have hclocks : u.ClocksAtNext (s.hub.plant.ceiling || s.hub.plant.starting) := by
    have hnow : (b.moduleEvent 3).halfNow = (s.hub.plant.ceiling || s.hub.plant.starting) := by
      rw [State.halfNow, hab.1]; rfl
    exact hnow ▸ State.reclock_clocks _
  have hgo : exec .inletRestored s = .next (if s.hub.plant.inletOver then u.reaccept else u) := by
    rw [exec_inletRestored, execInletRestored, if_pos (by simpa using h)]; rfl
  cases hover : s.hub.plant.inletOver
  case false =>
    refine ⟨u, by rw [hgo, hover]; rfl, by rw [hplant], by rw [hplant], hclocks, ?_, ?_⟩ <;> simp
  case true =>
    have hsound (hb : s.hub.plant.supplyBad = false) (hv : s.hub.plant.verified = true) : u.hub.plant.Sound := by
      rw [hplant]; exact ⟨rfl, hb, hv⟩
    have hstart : u.hub.plant.starting = s.hub.plant.starting := by rw [hplant]
    obtain ⟨x, c, hr⟩ := u.reaccept_eq
    refine ⟨u.reaccept, by rw [hgo, hover]; rfl, by rw [hr, hplant], by rw [hr, hplant], State.reaccept_clocks hclocks,
      fun _ hb hv hs => ?_, fun _ hb hv hs => ?_⟩
    · exact State.reaccept_inService (hsound hb hv) (hstart.trans hs)
    · exact (State.reaccept_earlyService (hsound hb hv) (hstart.trans hs)).of_die hdie

theorem exec_powerCeilingEngage_halves (s : State) (h : s.hub.plant.ceiling = false) :
    ∃ t, exec .powerCeilingEngage s = .next t ∧ t.hub.plant.ceiling = true ∧ t.ClocksAtNext true ∧ t.cores = s.cores := by
  let a : State := s.modPlant fun p => { p with ceiling := true }
  refine ⟨a.reclock.moduleEvent 4, by rw [exec_powerCeilingEngage, execPowerCeilingEngage, h]; rfl, ?_, ?_,
    a.reclock.recordCause_cores _⟩
  · rw [(a.reclock.moduleEvent_samePlant 4).1]; rfl
  · unfold State.ClocksAtNext
    rw [State.moduleEvent, State.recordCause_jobs]
    have hnow : a.halfNow = true := by simp [a, State.halfNow, State.modPlant]
    exact hnow ▸ a.reclock_clocks

theorem exec_powerCeilingRelease_clocks (s : State) (h : s.hub.plant.ceiling = true) :
    ∃ t, exec .powerCeilingRelease s = .next t ∧ t.hub.plant.ceiling = false ∧
      t.ClocksAtNext (s.hub.plant.inletHot || s.hub.plant.starting) ∧ t.cores = s.cores := by
  let a : State := s.modPlant fun p => { p with ceiling := false }
  obtain ⟨hplant, -⟩ := a.moduleEvent_samePlant 5
  refine ⟨(a.moduleEvent 5).reclock, by rw [exec_powerCeilingRelease, execPowerCeilingRelease, h]; rfl, ?_, ?_,
    a.recordCause_cores _⟩
  · show (a.moduleEvent 5).hub.plant.ceiling = false
    rw [hplant]; rfl
  · have hnow : (a.moduleEvent 5).halfNow = (s.hub.plant.inletHot || s.hub.plant.starting) := by
      rw [State.halfNow, hplant]; simp [a, State.modPlant]
    exact hnow ▸ State.reclock_clocks _

theorem exec_supplyShutdown_powersOff (s : State) :
    ∃ t, exec .supplyShutdown s = .next t ∧ t.hub.plant.powerOff = true ∧ t.hub.jobs = [] ∧ t.cores = [] ∧
      (∀ k, t.byte k = 0) ∧ t.hub.history = s.hub.history ∧ t.hub.firmware = s.hub.firmware :=
  ⟨s.unpowered, rfl, rfl, rfl, rfl, fun _ => rfl, rfl, rfl⟩

/-! ## Tests of units in a start (spec/07 R245 to R248)

A start leaves the physical function without a window region, so what the hub records of the tests reaches no memory. -/

theorem vget_replicate {α : Type} (n i : Nat) (x : α) : vget (Vector.replicate n x) i x = x := by
  unfold vget
  rw [Vector.getElem?_replicate]
  split <;> rfl

theorem State.region_of_reset {s : State} (h : s.hub.wreg = Hub.reset.wreg) (f : Nat) : s.region f = none := by
  have hreg : s.regions f = [] := by
    refine List.filter_eq_nil_iff.2 fun k _ => ?_
    rw [h, show Hub.reset.wreg = Vector.replicate 64 0 from rfl, vget_replicate]
    simp [bit]
  simp [State.region, hreg]

theorem State.recordCause_of_no_region (s : State) (r : CauseRec) (h : s.region 0 = none) :
    s.recordCause r = s.modHub fun x => { x with causeLost := x.causeLost + 1 } := by
  unfold State.recordCause
  rw [if_pos (by simp [h])]
  dsimp only
  rw [State.winPut_of_no_region]
  · rfl
  · exact (State.region_congr (s := s) 0 rfl).trans h

/-- Every register of a cluster is at its reset value, but for what BSTAT says of its bays. -/
def State.Fresh (t : State) : Prop := ∀ c, { t.cluster c with bstat := Cluster.reset.bstat } = Cluster.reset

/-- The parts of a state that no test of a start touches. -/
def State.besidesTests (s : State) : State :=
  { s with
    clusters := [], full := [], free := 0
    hub := { s.hub with units := [], history := [], causeTail := 0, causeLost := 0, causeIrqPend := false } }

/-- What tests of the units L of a start leave: units may be retired and entered in the history, and words of L emptied. -/
structure State.Tested (L : List (Nat × Nat)) (s t : State) : Prop where
  rest    : t.besidesTests = s.besidesTests
  fresh   : s.Fresh → t.Fresh
  full_of : ∀ w, t.isFull w = true → s.isFull w = true
  full_eq : ∀ w, (∀ u ∈ L, unitHolds u.1 u.2 (4 * w) = false) → t.isFull w = s.isFull w
  units   : ∀ u ∈ t.hub.units, u ∈ s.hub.units ∨ (u.retired = true ∧ (u.kind, u.number) ∈ t.hub.history)
  kept    : ∀ u ∈ s.hub.units, u ∈ t.hub.units
  history : ∀ u ∈ s.hub.history, u ∈ t.hub.history

namespace State.Tested
variable {L : List (Nat × Nat)} {s t u : State}

theorem refl (L : List (Nat × Nat)) (s : State) : Tested L s s :=
  ⟨rfl, id, fun _ => id, fun _ _ => rfl, fun _ => .inl, fun _ => id, fun _ => id⟩

theorem trans (h : Tested L s t) (g : Tested L t u) : Tested L s u where
  rest := g.rest.trans h.rest
  fresh := g.fresh ∘ h.fresh
  full_of w := h.full_of w ∘ g.full_of w
  full_eq w hw := (g.full_eq w hw).trans (h.full_eq w hw)
  units v hv := by
    rcases g.units v hv with hv | hv
    · exact (h.units v hv).imp_right fun hr => ⟨hr.1, g.history _ hr.2⟩
    · exact .inr hv
  kept v := g.kept v ∘ h.kept v
  history v := g.history v ∘ h.history v

theorem hubRest (h : Tested L s t) : t.besidesTests.hub = s.besidesTests.hub := congrArg State.hub h.rest

theorem region (h : Tested L s t) (f : Nat) : t.region f = s.region f := by
  have hw : t.besidesTests.hub.wreg = s.besidesTests.hub.wreg := congrArg Hub.wreg h.hubRest
  exact State.region_congr f hw

/-- An entry of the cause table, where the ring has no place. -/
theorem recordCause (L : List (Nat × Nat)) (s : State) (r : CauseRec) (h : s.region 0 = none) :
    Tested L s (s.recordCause r) := by
  rw [State.recordCause_of_no_region s r h]
  exact ⟨rfl, id, fun _ => id, fun _ _ => rfl, fun _ => .inl, fun _ => id, fun _ => id⟩

theorem foldl {α : Type} {L : List (Nat × Nat)} {g : State → α → State}
    (hg : ∀ s x, s.region 0 = none → Tested L s (g s x)) (l : List α) {s : State} (h : s.region 0 = none) :
    Tested L s (l.foldl g s) := by
  induction l generalizing s with
  | nil => exact refl L s
  | cons x l ih => exact (hg s x h).trans (ih (((hg s x h).region 0).trans h))

end State.Tested

theorem Cluster.reset_queues_emptied (p : QDesc → Bool) :
    Cluster.reset.queues.map (fun q => if q.valid && p q then QDesc.empty else q) = Cluster.reset.queues := by
  unfold Cluster.reset
  rw [Vector.map_replicate]
  rfl

/-- A fresh cluster has no valid queue, so the retirement of a bay empties none. -/
theorem State.retireBay_fresh (s : State) (c b : Nat) (h : s.Fresh) : (s.retireBay c b).Fresh := by
  intro d
  by_cases hd : c = d
  · subst hd
    have hc := h c
    have hq := congrArg Cluster.queues hc
    dsimp only at hq
    rw [State.retireBay, State.cluster_modCluster_same]
    calc _ = { ({ s.cluster c with bstat := Cluster.reset.bstat } : Cluster) with
            queues := (s.cluster c).queues.map fun q => if q.valid && q.bay = b then QDesc.empty else q } := rfl
      _ = Cluster.reset := by
        rw [hc, hq, Cluster.reset_queues_emptied fun q => q.bay = b]
  · have : (s.retireBay c b).cluster d = s.cluster d := by
      unfold State.retireBay State.modCluster
      rw [State.cluster_setCluster, if_neg hd]
    rw [this]
    exact h d

theorem State.Tested.retireBay (L : List (Nat × Nat)) (s : State) (c b : Nat) : Tested L s (s.retireBay c b) :=
  ⟨rfl, s.retireBay_fresh c b, fun _ => id, fun _ _ => rfl, fun _ => .inl, fun _ => id, fun _ => id⟩

/-- A unit retired, in the list of units and in the history: the common part of both kinds of failed test. -/
theorem State.Tested.retired {L : List (Nat × Nat)} {s : State} {units : List FailedUnit} {k n : Nat}
    (hnew : ∀ u ∈ units, u ∈ s.hub.units ∨ u = { kind := k, number := n, retired := true })
    (hold : ∀ u ∈ s.hub.units, u ∈ units) :
    Tested L s (s.modHub fun h => { h with
      units := units, history := if h.history.contains (k, n) then h.history else h.history ++ [(k, n)] }) where
  rest := rfl
  fresh := id
  full_of _ := id
  full_eq _ _ := rfl
  units u hu := by
    refine (hnew u hu).imp_right ?_
    rintro rfl
    refine ⟨rfl, ?_⟩
    dsimp only [State.modHub_hub]
    split
    · next h => simpa using h
    · simp
  kept := hold
  history u hu := by
    dsimp only [State.modHub_hub]
    split
    · exact hu
    · exact List.mem_append_left _ hu

/-- What follows the retirement of a unit: its bay marked, and an entry of the cause table. -/
theorem State.Tested.marked {L : List (Nat × Nat)} {s t : State} (h : Tested L s t) (hr : s.region 0 = none)
    (k n f : Nat) : Tested L s ((if k = 1 then t.retireBay (n / 16) (n % 16) else t).containEntry k n true f) := by
  have hb : Tested L s (if k = 1 then t.retireBay (n / 16) (n % 16) else t) := by
    split
    · exact h.trans (.retireBay L t _ _)
    · exact h
  exact hb.trans (.recordCause L _ _ ((hb.region 0).trans hr))

theorem State.Tested.retireUnit (L : List (Nat × Nat)) (s : State) (u : Nat × Nat) (h : s.region 0 = none) :
    Tested L s (s.retireUnit u) := by
  unfold State.retireUnit
  refine State.Tested.marked (State.Tested.retired (fun v hv => ?_) fun v hv => ?_) h u.1 u.2 _
  · split at hv
    · exact .inl hv
    · simpa using hv
  · split
    · exact hv
    · exact List.mem_append_left _ hv

theorem State.Tested.withFree (L : List (Nat × Nat)) (s : State) (n : Nat) : Tested L s { s with free := n } :=
  ⟨rfl, id, fun _ => id, fun _ _ => rfl, fun _ => .inl, fun _ => id, fun _ => id⟩

/-- Every unit tested, as at a cold start. -/
theorem State.Tested.testAll (L : List (Nat × Nat)) (s : State) (h : s.region 0 = none) : Tested L s s.testAll :=
  (State.Tested.withFree L s _).trans (State.Tested.foldl (State.Tested.retireUnit L) _ h)

/-- A unit that is not listed fails its test. -/
theorem State.failTest_units {s : State} {k n : Nat} (h : s.failed k n = false) :
    (s.hub.units.filter fun u => !(u.kind == k && u.number == n)) = s.hub.units := by
  refine List.filter_eq_self.2 fun u hu => ?_
  have hne := List.any_eq_false.1 h u hu
  cases hsame : (u.kind == k && u.number == n)
  · rfl
  · exact absurd hsame hne

theorem State.failTest_eq {s : State} {k n : Nat} (h : s.failed k n = false) : s.failTest k n =
    let t := s.modHub fun h => { h with
      units := s.hub.units ++ [{ kind := k, number := n, retired := true }]
      history := if h.history.contains (k, n) then h.history else h.history ++ [(k, n)] }
    (if k = 1 then t.retireBay (n / 16) (n % 16) else t).containEntry k n true (s.unitFn k n) := by
  unfold State.failTest State.modHub
  dsimp only
  rw [State.failTest_units h]

theorem State.Tested.failTest (L : List (Nat × Nat)) (s : State) {k n : Nat} (h : s.region 0 = none)
    (hf : s.failed k n = false) : Tested L s (s.failTest k n) := by
  rw [State.failTest_eq hf]
  refine State.Tested.marked (State.Tested.retired (fun v hv => ?_) fun v hv => List.mem_append_left _ hv) h k n _
  simpa using hv

theorem State.failTest_failed {s : State} {k n : Nat} (hf : s.failed k n = false) (k' n' : Nat) :
    (s.failTest k n).failed k' n' = (s.failed k' n' || (k == k' && n == n')) := by
  rw [State.failTest_eq hf]
  unfold State.failed State.containEntry
  rw [State.recordCause_units]
  split <;> simp [State.retireBay]

/-- A unit in service passes its test. -/
theorem State.Tested.passService {L : List (Nat × Nat)} (s : State) {k n : Nat} (h : s.region 0 = none)
    (hmem : (k, n) ∈ L) : Tested L s (s.passService k n) := by
  refine State.Tested.trans (t := { s with full := s.full.filter fun w => !unitHolds k n (4 * w) }) ?_ (.recordCause L _ _ h)
  have hfull (w : Nat) : ({ s with full := s.full.filter fun w => !unitHolds k n (4 * w) } : State).isFull w =
      (s.isFull w && !unitHolds k n (4 * w)) := by
    rw [Bool.eq_iff_iff]
    simp [State.isFull, nmem]
  refine ⟨rfl, id, fun w hw => ?_, fun w hw => ?_, fun _ => .inl, fun _ => id, fun _ => id⟩
  · rw [hfull] at hw
    simp at hw
    exact hw.1
  · rw [hfull, hw _ hmem]
    simp

theorem State.passService_failed (s : State) (k n k' n' : Nat) : (s.passService k n).failed k' n' = s.failed k' n' := by
  unfold State.failed State.passService State.containEntry
  rw [State.recordCause_units]

/-- The test of one unit in service or out of it, by what the free values say (log entry 79). -/
def State.testOne (s : State) (u : Nat × Nat) : State :=
  let t : State := { s with free := s.free + 1 }
  if !Config.testPasses s.free then t.failTest u.1 u.2 else if t.failed u.1 u.2 then t.passTest u.1 u.2 else t.passService u.1 u.2

theorem State.retest_eq (s : State) : s.retest =
    (s.hub.history.filter fun u => !s.hub.units.any fun v => v.kind == u.1 && v.number == u.2 && v.retired).foldl
      State.testOne s := rfl

/-- The test of a unit that is not listed zeroes nothing, and lists at most that unit. -/
theorem State.Tested.testOne {L : List (Nat × Nat)} (s : State) {u : Nat × Nat} (h : s.region 0 = none)
    (hf : s.failed u.1 u.2 = false) (hmem : u ∈ L) :
    Tested L s (s.testOne u) ∧ ∀ v, s.failed v.1 v.2 = false → u ≠ v → (s.testOne u).failed v.1 v.2 = false := by
  unfold State.testOne
  let t : State := { s with free := s.free + 1 }
  have hfree : Tested L s t := .withFree L s _
  have hft : t.failed u.1 u.2 = false := hf
  dsimp only
  split
  · refine ⟨hfree.trans (.failTest L t h hft), fun v hv hne => ?_⟩
    rw [State.failTest_failed hft, Bool.or_eq_false_iff]
    exact ⟨hv, by simpa [Prod.ext_iff] using hne⟩
  · rw [if_neg (by rw [hft]; decide)]
    refine ⟨hfree.trans (.passService t h hmem), fun v hv _ => ?_⟩
    rw [State.passService_failed]
    exact hv

theorem State.Tested.foldl_testOne {L : List (Nat × Nat)} (l : List (Nat × Nat)) (s : State) (h : s.region 0 = none)
    (hsub : l ⊆ L) (hnd : l.Nodup) (hf : ∀ u ∈ l, s.failed u.1 u.2 = false) : Tested L s (l.foldl State.testOne s) := by
  induction l generalizing s with
  | nil => exact .refl L s
  | cons u l ih =>
    obtain ⟨hul, hnd⟩ := List.nodup_cons.1 hnd
    obtain ⟨hone, hothers⟩ := State.Tested.testOne s h (hf u List.mem_cons_self) (hsub List.mem_cons_self)
    refine hone.trans (ih _ ((hone.region 0).trans h) (fun v hv => hsub (List.mem_cons_of_mem _ hv)) hnd fun v hv => ?_)
    exact hothers v (hf v (List.mem_cons_of_mem _ hv)) fun he => hul (he ▸ hv)

/-- The tests of a warm start: every listed unit is retired and therefore not tested, so none is zeroed as it passes. -/
theorem State.Tested.retest (s : State) (h : s.region 0 = none) (hu : ∀ u ∈ s.hub.units, u.retired = true)
    (hnd : s.hub.history.Nodup) : Tested s.hub.history s s.retest := by
  rw [State.retest_eq]
  refine State.Tested.foldl_testOne _ s h (fun _ hm => (List.mem_filter.1 hm).1) (hnd.filter _) fun u hm => ?_
  refine List.any_eq_false.2 fun v hv => ?_
  have hnot := (List.mem_filter.1 hm).2
  simp only [Bool.not_eq_true', List.any_eq_false] at hnot
  simpa [hu v hv] using hnot v hv

/-! ## Cold and warm starts (spec/07 R247, R248) -/

theorem sget_unreleased : ∀ d, d < 16 → sget unreleased d = some { Die.reset with released := false } := by
  decide

theorem die_unreleased {s : State} (h : s.dies = unreleased) {d : Nat} (hd : d < 16) :
    s.die d = { Die.reset with released := false } := by
  unfold State.die
  rw [h]
  exact congrArg (fun o => o.getD Die.reset) (sget_unreleased d hd)

theorem State.Tested.fields {L : List (Nat × Nat)} {s t : State} (h : Tested L s t) :
    t.cores = s.cores ∧ t.dies = s.dies ∧ t.mem = s.mem ∧ t.tags = s.tags ∧ t.keyed = s.keyed ∧ t.tick = s.tick := by
  refine ⟨?_, ?_, ?_, ?_, ?_, ?_⟩
  · exact (congrArg State.cores h.rest :)
  · exact (congrArg State.dies h.rest :)
  · exact (congrArg State.mem h.rest :)
  · exact (congrArg State.tags h.rest :)
  · exact (congrArg State.keyed h.rest :)
  · exact (congrArg State.tick h.rest :)

theorem State.Tested.hubFields {L : List (Nat × Nat)} {s t : State} (h : Tested L s t) :
    t.hub.jobs = s.hub.jobs ∧ t.hub.plant = s.hub.plant ∧ t.hub.fabric = s.hub.fabric ∧ t.hub.firmware = s.hub.firmware := by
  refine ⟨?_, ?_, ?_, ?_⟩
  · exact (congrArg Hub.jobs h.hubRest :)
  · exact (congrArg Hub.plant h.hubRest :)
  · exact (congrArg Hub.fabric h.hubRest :)
  · exact (congrArg Hub.firmware h.hubRest :)

/-- The module as a cold start finds it before the tests: what flash holds is left. -/
def State.coldBegun (s : State) : State :=
  { State.reset with cores := [], dies := unreleased, hub := s.hub.started, free := s.free }.modPlant fun p =>
    { p with verified := p.signed, report := !p.signed }

theorem exec_coldStart_keeps_flash (s : State) :
    ∃ t, exec .coldStart s = .next t ∧ t.cores = [] ∧ t.Fresh ∧ t.hub.jobs = [] ∧ (∀ k, t.byte k = 0) ∧
      (∀ d, d < 16 → (t.die d).released = false) ∧ t.hub.plant.starting = true ∧ t.hub.plant.accepting = false ∧
      t.hub.plant.powerOff = false ∧ t.hub.plant.verified = s.hub.plant.signed ∧ t.hub.plant.report = !s.hub.plant.signed ∧
      (∀ u ∈ s.hub.history, u ∈ t.hub.history) ∧
      (∀ u ∈ t.hub.units, u.retired = true ∧ (u.kind, u.number) ∈ t.hub.history) ∧
      t.hub.firmware = s.hub.firmware ∧ t.hub.fabric = none ∧ t.tick = 0 := by
  have h : State.Tested [] s.coldBegun s.coldBegun.testAll := .testAll [] _ (State.region_of_reset rfl 0)
  obtain ⟨hcores, hdies, hmem, -, -, htick⟩ := h.fields
  obtain ⟨hjobs, hplant, hfabric, hfirm⟩ := h.hubFields
  refine ⟨s.coldBegun.testAll, rfl, hcores, h.fresh fun _ => rfl, hjobs, fun k => ?_, fun d hd => ?_, ?_, ?_, ?_, ?_, ?_,
    h.history, fun u hu => ?_, hfirm, hfabric, htick⟩
  · unfold State.byte
    rw [hmem]; rfl
  · rw [die_unreleased hdies hd]
  · rw [hplant]; rfl
  · rw [hplant]; rfl
  · rw [hplant]; rfl
  · rw [hplant]; rfl
  · rw [hplant]; rfl
  · exact (h.units u hu).resolve_left List.not_mem_nil

/-- The module as a warm start finds it before the tests, the bays of retired units not yet marked. -/
def State.warmBegun (s : State) : State :=
  { s with
    cores := [], clusters := [], dies := unreleased, flits := [], messages := [], cur := hubCore0, sched := [], agenda := []
    free := s.free + 1
    hub := { s.hub.started with units := s.hub.units.filter fun u => u.retired, fabric := s.hub.fabric } }

/-- The bays of the units that stay retired marked again. -/
def State.warmMarked (s : State) : State :=
  ((s.hub.units.filter fun u => u.retired).filter fun u => u.kind == 1).foldl
    (fun (t : State) u => t.retireBay (u.number / 16) (u.number % 16)) s.warmBegun

theorem State.warmStart_eq (s : State) :
    s.warmStart = if Config.historySigned s.free then s.warmMarked.retest else s.warmMarked.testAll := rfl

theorem State.warmMarked_hub (s : State) : s.warmMarked.hub = s.warmBegun.hub := by
  unfold State.warmMarked
  exact foldl_keeps State.hub _ _ _ fun t u x _ (h : t.retireBay (x.number / 16) (x.number % 16) = u) => by rw [← h]; rfl

theorem State.warmStart_tested (s : State) (hnd : s.hub.history.Nodup) : Tested s.hub.history s.warmBegun s.warmStart := by
  have hreg : s.warmBegun.region 0 = none := State.region_of_reset rfl 0
  have hmark : Tested s.hub.history s.warmBegun s.warmMarked :=
    .foldl (fun t u _ => .retireBay _ t (u.number / 16) (u.number % 16)) _ hreg
  have hreg' : s.warmMarked.region 0 = none := (hmark.region 0).trans hreg
  have hhist : s.warmMarked.hub.history = s.hub.history := by rw [s.warmMarked_hub]; rfl
  rw [State.warmStart_eq]
  refine hmark.trans ?_
  split
  · refine hhist ▸ State.Tested.retest _ hreg' (fun u hu => ?_) (hhist.symm ▸ hnd)
    rw [s.warmMarked_hub] at hu
    exact (List.mem_filter.1 hu).2
  · exact .testAll _ _ hreg'

theorem exec_warmStart_keeps_memory (s : State) (hp : s.hub.plant.powerOff = false) (hnd : s.hub.history.Nodup) :
    ∃ t, exec .warmStart s = .next t ∧ (∀ k, t.byte k = s.byte k) ∧
      (∀ g, t.tag g = s.tag g) ∧ (∀ w, t.isFull w = true → s.isFull w = true) ∧
      (∀ w, (∀ u ∈ s.hub.history, unitHolds u.1 u.2 (4 * w) = false) → t.isFull w = s.isFull w) ∧ t.keyed = s.keyed ∧ t.tick = s.tick ∧
      t.cores = [] ∧ t.Fresh ∧ t.hub.jobs = [] ∧ t.hub.fabric = s.hub.fabric ∧ t.hub.plant.starting = true ∧
      t.hub.plant.accepting = false ∧ (∀ u ∈ s.hub.units, u.retired = true → u ∈ t.hub.units) ∧
      (∀ u ∈ t.hub.units, u.retired = true) ∧ (∀ u ∈ s.hub.history, u ∈ t.hub.history) ∧
      (∀ d, d < 16 → (t.die d).released = false ∧ (t.die d).lines = []) := by
  have h := s.warmStart_tested hnd
  obtain ⟨hcores, hdies, hmem, htags, hkeyed, htick⟩ := h.fields
  obtain ⟨hjobs, hplant, hfabric, -⟩ := h.hubFields
  refine ⟨s.warmStart, by rw [exec_warmStart, execWarmStart, hp]; rfl, fun k => ?_, fun g => ?_, h.full_of, h.full_eq, hkeyed,
    htick, hcores, h.fresh fun _ => rfl, hjobs, hfabric, ?_, ?_, fun u hu hret => ?_, fun u hu => ?_, h.history, fun d hd => ?_⟩
  · unfold State.byte
    rw [hmem]; rfl
  · unfold State.tag
    rw [htags]; rfl
  · rw [hplant]; rfl
  · rw [hplant]; rfl
  · exact h.kept u (List.mem_filter.2 ⟨hu, hret⟩)
  · rcases h.units u hu with hold | hnew
    · exact (List.mem_filter.1 hold).2
    · exact hnew.1
  · rw [die_unreleased hdies hd]
    exact ⟨rfl, rfl⟩

/-! ## The release of dies (spec/07 R249, spec/00 R11) -/

theorem exec_dieEarlyRelease_releases (s : State) (d : BitVec 4) (hs : s.hub.plant.starting = true)
    (hv : s.hub.plant.verified = true) (hb : s.hub.plant.supplyBad = false) (ho : s.hub.plant.inletOver = false) :
    ∃ t, exec (.dieEarlyRelease d) s = .next t ∧ (t.die d.toNat).released = true ∧ t.hub.plant.accepting = true ∧
      t.cores = s.cores ∧ s.SameMemory t := by
  refine ⟨(s.modDie d.toNat fun x => { x with released := true }).modPlant fun p => { p with accepting := true }, ?_, ?_, rfl, rfl,
    fun _ => rfl, fun _ => rfl, fun _ => rfl⟩
  · rw [exec_dieEarlyRelease, execDieEarlyRelease, if_pos (by simp [hs, hv, hb, ho])]
    rfl
  · rw [State.modPlant, State.die_modHub, State.die_modDie_same]

theorem exec_start_unverified (s : State) (d : BitVec 4) (h : s.hub.plant.verified = false) :
    exec (.dieEarlyRelease d) s = .next s ∧ exec .startComplete s = .next s := by
  constructor
  · rw [exec_dieEarlyRelease, execDieEarlyRelease, if_neg (by simp [h])]
    rfl
  · rw [exec_startComplete, execStartComplete, if_neg (by simp [h])]
    rfl

/-! ## What the loader writes (spec/09 R288) -/

/-- t is s but for bytes of memory and full/empty bits. -/
def State.SameButContents (s t : State) : Prop := t = { s with mem := t.mem, full := t.full }

namespace State.SameButContents
variable {s t u : State}

theorem refl (s : State) : s.SameButContents s := rfl

theorem trans (h : s.SameButContents t) (g : t.SameButContents u) : s.SameButContents u := by
  unfold State.SameButContents at h g ⊢
  rw [h] at g
  exact g

theorem write (s : State) (k n x : Nat) : s.SameButContents (s.write k n x) := by
  unfold State.SameButContents
  rw [s.write_eq k n x]

theorem putImm (s : State) (k v : Nat) : s.SameButContents (s.putImm k v) := write s _ _ _

theorem fields (h : s.SameButContents t) : t.cores = s.cores ∧ t.dies = s.dies ∧ t.hub = s.hub ∧ t.tags = s.tags := by
  obtain ⟨m, f, rfl⟩ : ∃ m f, t = { s with mem := m, full := f } := ⟨_, _, h⟩
  exact ⟨rfl, rfl, rfl, rfl⟩

end State.SameButContents

theorem need_bind_eq_some {α : Type} {b : Bool} {f : Unit → Option α} {y : α} :
    ((need b).bind f) = some y ↔ b = true ∧ f () = some y := by
  cases b <;> simp [need]

theorem State.fillWords_sameButContents (s : State) (w n : Nat) : s.SameButContents (s.fillWords w n) := by
  induction n generalizing s w with
  | zero => exact .refl s
  | succ n ih => exact State.SameButContents.trans (t := s.setFull w) rfl (ih _ _)

theorem State.fillRange_sameButContents (s : State) (k n : Nat) : s.SameButContents (s.fillRange k n) := by
  unfold State.fillRange
  split
  · exact .refl s
  · exact s.fillWords_sameButContents _ _

theorem State.loadBytes_sameButContents {s t : State} {rd : Reader} {off key n : Nat}
    (h : s.loadBytes rd off key n = some t) : s.SameButContents t := by
  unfold State.loadBytes at h
  simp only [Option.bind_eq_bind, Option.pure_def, Option.bind_eq_some_iff, Option.some.injEq] at h
  obtain ⟨m, hm, rfl⟩ := h
  refine State.SameButContents.trans (foldlM_keeps .refl .trans (fun s i u hu => ?_) _ _ _ hm) (m.fillRange_sameButContents _ _)
  obtain ⟨b, -, hb⟩ := Option.bind_eq_some_iff.1 hu
  obtain rfl := Option.some.inj hb
  rfl

theorem State.putBranch_sameButContents {s t : State} {key n : Nat} {x : Int} (h : s.putBranch key n x = some t) :
    s.SameButContents t := by
  unfold State.putBranch at h
  simp only [Option.bind_eq_bind, Option.pure_def, need_bind_eq_some, Option.some.injEq] at h
  exact h.2 ▸ .write s _ _ _

theorem State.relocate_sameButContents {s t : State} {m : Image} {p : Plan} {base : Nat → Option Nat} {c key here : Nat}
    {text : Bool} {r : Reloc} (h : s.relocate m p base c key here text r = some t) : s.SameButContents t := by
  unfold State.relocate at h
  simp only [Option.bind_eq_bind, Option.pure_def] at h
  split at h
  · obtain ⟨x, -, hx⟩ := Option.bind_eq_some_iff.1 h
    obtain rfl := Option.some.inj hx
    exact .write s _ _ _
  split at h
  · obtain ⟨x, -, hx⟩ := Option.bind_eq_some_iff.1 h
    obtain rfl := Option.some.inj (need_bind_eq_some.1 hx).2
    exact .write s _ _ _
  obtain ⟨v, -, h⟩ := Option.bind_eq_some_iff.1 h
  split at h
  · obtain rfl := Option.some.inj (need_bind_eq_some.1 h).2
    split
    · exact .putImm s _ _
    · exact .write s _ _ _
  split at h
  · obtain rfl := Option.some.inj (need_bind_eq_some.1 h).2
    split
    · exact .trans (.putImm s _ _) (.putImm _ _ _)
    · exact .write s _ _ _
  split at h
  · exact State.putBranch_sameButContents h
  split at h
  · exact State.putBranch_sameButContents h
  · cases h

theorem State.loadPlacement_sameButContents {s t : State} {m : Image} {pl : Plan} {base : Nat → Option Nat} {n c key : Nat}
    (h : s.loadPlacement m pl base n c key = some t) : s.SameButContents t := by
  unfold State.loadPlacement at h
  simp only [Option.bind_eq_bind, Option.bind_eq_some_iff] at h
  obtain ⟨b, -, u, hu, ht⟩ := h
  refine State.SameButContents.trans (foldlM_keeps .refl .trans (fun s e v hv => ?_) _ _ _ hu)
    (foldlM_keeps .refl .trans (fun s e v hv => ?_) _ _ _ ht)
  · split at hv
    · exact State.loadBytes_sameButContents hv
    · exact Option.some.inj hv ▸ .refl s
  · obtain ⟨rs, -, hrs⟩ := Option.bind_eq_some_iff.1 hv
    refine foldlM_keeps .refl .trans (fun s r v hr => ?_) _ _ _ hrs
    exact State.relocate_sameButContents (need_bind_eq_some.1 hr).2

/-! ## Granule tags -/

theorem State.tag_setTag (s : State) (g j : Nat) (t : BitVec 4) : (s.setTag g t).tag j = if g = j then t else s.tag j := by
  unfold State.tag State.setTag
  dsimp only
  split
  · next h => rw [sget_serase]; split <;> simp [h]
  · rw [sget_sset]; split <;> rfl

theorem State.tag_setTags (n g j : Nat) (t : BitVec 4) (s : State) :
    (s.setTags g n t).tag j = if g ≤ j ∧ j < g + n then t else s.tag j := by
  induction n generalizing g s with
  | zero => rw [if_neg (by omega)]; rfl
  | succ n ih =>
    show ((s.setTag g t).setTags (g + 1) n t).tag j = _
    rw [ih, State.tag_setTag]
    by_cases hin : g + 1 ≤ j ∧ j < g + 1 + n
    · rw [if_pos hin, if_pos (by omega)]
    · rw [if_neg hin]
      by_cases hg : g = j
      · rw [if_pos hg, if_pos (by omega)]
      · rw [if_neg hg, if_neg (by omega)]

theorem sget_filter {α : Type} (l : List (Nat × α)) (p : Nat → Bool) (k : Nat) (h : p k = true) :
    sget (l.filter fun e => p e.1) k = sget l k := by
  induction l with
  | nil => rfl
  | cons e l ih =>
    obtain ⟨j, x⟩ := e
    by_cases hj : j = k
    · subst hj; simp [h, sget]
    · cases hp : p j <;> simp [hp, sget, hj, ih]

@[simp] theorem State.scrub_cores (s : State) (k n : Nat) : (s.scrub k n).cores = s.cores := rfl

/-- A scrub leaves the tags of granules outside it. -/
theorem State.tag_scrub_outside (s : State) {k n g : Nat} (h : g < k / 32 ∨ k / 32 + n / 32 ≤ g) :
    (s.scrub k n).tag g = s.tag g := by
  show (sget (s.tags.filter fun e => !(decide (k / 32 ≤ e.1) && decide (e.1 < k / 32 + n / 32))) g).getD 0 = _
  rw [sget_filter s.tags (fun j => !(decide (k / 32 ≤ j) && decide (j < k / 32 + n / 32)))]
  · rfl
  · rcases h with h | h
    · simp [Nat.not_le.2 h]
    · simp [Nat.not_lt.2 h]

/-! ## The start of the hub cores (spec/18 R464) -/

/-- Hub core a is started on the section of placement p: at the first byte of its TCM, at device level, its granules tagged. -/
def State.HubStarted (t : State) (p : Placement) : Prop :=
  let a := hubCore0 + p.mask
  (t.core a).act = .task ∧ (t.core a).pc = 0 ∧ (t.core a).level = 2 ∧
    ∀ g, g < 0x200 → t.tag (tcmBase a / 32 + g) = BitVec.ofNat 4 p.tag

/-- The first granule of a hub core's TCM. -/
theorem tcmBase_hub_granule (m : Nat) : tcmBase (hubCore0 + m) / 32 = 2 ^ 39 + hubCore0 * 0x200 + m * 0x200 := by
  unfold tcmBase
  omega

/-- A hub core's TCM scrubbed and tagged anew: its granules have the tag. -/
theorem State.tag_hubTcm (s : State) (m tag g : Nat) (h : g < 0x200) :
    ((s.scrub (tcmBase (hubCore0 + m)) 0x4000).tagUnit (tcmBase (hubCore0 + m)) 0x200 tag).tag
      (tcmBase (hubCore0 + m) / 32 + g) = BitVec.ofNat 4 tag := by
  rw [State.tagUnit, State.tag_setTags, if_pos ⟨Nat.le_add_right .., by omega⟩]

/-- … and those of another hub core's TCM stay. -/
theorem State.tag_hubTcm_other (s : State) {m n : Nat} (tag g : Nat) (hne : n ≠ m) (h : g < 0x200) :
    ((s.scrub (tcmBase (hubCore0 + m)) 0x4000).tagUnit (tcmBase (hubCore0 + m)) 0x200 tag).tag
      (tcmBase (hubCore0 + n) / 32 + g) = s.tag (tcmBase (hubCore0 + n) / 32 + g) := by
  have hm := tcmBase_hub_granule m
  have hn := tcmBase_hub_granule n
  have hapart : n * 0x200 + 0x200 ≤ m * 0x200 ∨ m * 0x200 + 0x200 ≤ n * 0x200 := by omega
  rw [State.tagUnit, State.tag_setTags, if_neg (by omega), State.tag_scrub_outside _ (by omega)]

theorem State.startHubCore_core (s : State) (n : Nat) : let c := (s.startHubCore n).core (hubCore0 + n)
    c.act = .task ∧ c.pc = 0 ∧ c.level = 2 := by
  unfold State.startHubCore
  rw [State.core_setCore_same]
  exact ⟨rfl, rfl, show field Core.tskReset 22 2 = 2 by decide⟩

theorem State.startHubCore_core_other (s : State) {m n : Nat} (h : n ≠ m) :
    (s.startHubCore m).core (hubCore0 + n) = s.core (hubCore0 + n) := by
  unfold State.startHubCore
  exact State.core_setCore_other s _ (by omega)

/-- What the load of one placement of the firmware does: its own hub core is started, and one that was started stays so. -/
theorem State.loadHub_started {s t : State} {m : Image} {ps : List Placement} {n : Nat} (h : s.loadHub m ps n = some t) :
    (t.hub = s.hub ∧ t.dies = s.dies) ∧ ∃ p, ps[n]? = some p ∧ t.HubStarted p ∧
      ∀ q : Placement, q.mask ≠ p.mask → s.HubStarted q → t.HubStarted q := by
  unfold State.loadHub at h
  simp only [Option.bind_eq_bind, Option.pure_def] at h
  obtain ⟨p, hp, h⟩ := Option.bind_eq_some_iff.1 h
  obtain ⟨u, hu, ht⟩ := Option.bind_eq_some_iff.1 (need_bind_eq_some.1 h).2
  obtain rfl := Option.some.inj ht
  obtain ⟨hcores, hdies, hhub, htags⟩ := (State.loadPlacement_sameButContents hu).fields
  have htag (g : Nat) : (u.startHubCore p.mask).tag g =
      ((s.scrub (tcmBase (hubCore0 + p.mask)) 0x4000).tagUnit (tcmBase (hubCore0 + p.mask)) 0x200 p.tag).tag g :=
    congrArg (fun l => (sget l g).getD 0) htags
  refine ⟨⟨hhub.trans ?_, hdies.trans ?_⟩, p, hp, ?_, fun q hq hs => ?_⟩
  · simp [State.tagUnit]
  · simp [State.tagUnit]
  · obtain ⟨hact, hpc, hlevel⟩ := u.startHubCore_core p.mask
    refine ⟨hact, hpc, hlevel, fun g hg => ?_⟩
    rw [htag, s.tag_hubTcm _ _ _ hg]
  · have hcore : u.core (hubCore0 + q.mask) = s.core (hubCore0 + q.mask) := by
      unfold State.core
      rw [hcores]
      simp [State.tagUnit]
    unfold State.HubStarted
    dsimp only
    rw [u.startHubCore_core_other hq, hcore]
    obtain ⟨hact, hpc, hlevel, htags⟩ := hs
    refine ⟨hact, hpc, hlevel, fun g hg => ?_⟩
    rw [htag, s.tag_hubTcm_other _ _ hq hg, htags g hg]

/-- The load of the first k placements, whose hub cores are distinct: each of their cores is started. -/
theorem State.loadHubs_started {s t : State} {m : Image} {ps : List Placement} (hnd : (ps.map (·.mask)).Nodup) (k : Nat)
    (hk : k ≤ ps.length) (h : (List.range k).foldlM (fun (w : State) n => w.loadHub m ps n) s = some t) :
    ∀ i, i < k → ∀ p, ps[i]? = some p → t.HubStarted p := by
  induction k generalizing t with
  | zero => intro i hi; omega
  | succ k ih =>
    rw [List.range_succ, List.foldlM_append, Option.bind_eq_bind] at h
    obtain ⟨u, hu, ht⟩ := Option.bind_eq_some_iff.1 h
    replace ht : u.loadHub m ps k = some t := by simpa using ht
    obtain ⟨-, q, hq, hstart, hstay⟩ := State.loadHub_started ht
    intro i hi p hp
    by_cases hik : i = k
    · subst hik
      obtain rfl := Option.some.inj (hp.symm.trans hq)
      exact hstart
    · refine hstay p (fun he => hik ?_) (ih (by omega) hu i (by omega) p hp)
      refine (List.getElem?_inj (l := ps.map (·.mask)) (by rw [List.length_map]; omega) hnd).1 ?_
      simp [hp, hq, he]

/-- The load of placements leaves the hub and the dies. -/
theorem State.loadHubs_keeps {s t : State} {m : Image} {ps : List Placement} (l : List Nat)
    (h : l.foldlM (fun (w : State) n => w.loadHub m ps n) s = some t) : t.hub = s.hub ∧ t.dies = s.dies :=
  foldlM_keeps (R := fun s t : State => t.hub = s.hub ∧ t.dies = s.dies) (fun _ => ⟨rfl, rfl⟩)
    (fun {_ _ _} h g => ⟨g.1.trans h.1, g.2.trans h.2⟩) (fun _ _ _ hu => (State.loadHub_started hu).1) l s t h

theorem State.startHub_of_unreadable {s : State} (h : parseImage (bytesReader s.hub.firmware) 1 = none) : s.startHub = s := by
  unfold State.startHub
  rw [h]
  rfl

theorem State.startHub_of_loaded {s u : State} {q : Parsed} (h : parseImage (bytesReader s.hub.firmware) 1 = some q)
    (hnd : (q.places.map (·.mask)).Nodup)
    (hu : (List.range q.places.length).foldlM (fun (w : State) n => w.loadHub q.image q.places n) s = some u) :
    s.startHub = u := by
  unfold State.startHub
  simp [h, need, hnd, hu]

theorem State.startHub_keeps (s : State) : s.startHub.hub = s.hub ∧ s.startHub.dies = s.dies := by
  unfold State.startHub
  simp only [Option.bind_eq_bind]
  generalize hx : Option.bind _ _ = x
  cases x with
  | none => exact ⟨rfl, rfl⟩
  | some u =>
    obtain ⟨p, -, h⟩ := Option.bind_eq_some_iff.1 hx
    exact State.loadHubs_keeps _ (need_bind_eq_some.1 h).2

/-- The module at the end of a start, its hub cores still idle. -/
def State.startEnded (s : State) : State := (s.modPlant fun x => { x with starting := false }).reaccept.reclock

theorem State.startEnded_clocks (s : State) : s.startEnded.ClocksAtNext (s.hub.plant.inletHot || s.hub.plant.ceiling) := by
  let a : State := s.modPlant fun x => { x with starting := false }
  obtain ⟨x, b, hr⟩ := a.reaccept_eq
  have hnow : a.reaccept.halfNow = (s.hub.plant.inletHot || s.hub.plant.ceiling) := by
    rw [State.halfNow, hr]; simp [a, State.modPlant]
  exact hnow ▸ a.reaccept.reclock_clocks

theorem exec_startComplete_starts (s : State) (hs : s.hub.plant.starting = true) (hv : s.hub.plant.verified = true) :
    ∃ t, exec .startComplete s = .next t ∧ t.hub.plant.starting = false ∧
      (s.hub.plant.supplyBad = false → s.hub.plant.inletOver = false → t.InService) ∧
      t.ClocksAtNext (s.hub.plant.inletHot || s.hub.plant.ceiling) ∧
      (parseImage (bytesReader s.hub.firmware) 1 = none → t.cores = s.cores) ∧
      (∀ q u, parseImage (bytesReader s.hub.firmware) 1 = some q → (q.places.map (·.mask)).Nodup →
        (List.range q.places.length).foldlM (fun (w : State) n => w.loadHub q.image q.places n) s.startEnded = some u →
        t = u ∧ ∀ y ∈ q.places, t.HubStarted y) := by
  let a : State := s.modPlant fun x => { x with starting := false }
  obtain ⟨x, b, hr⟩ := a.reaccept_eq
  obtain ⟨hhub, hdies⟩ := s.startEnded.startHub_keeps
  have hfirm : s.startEnded.hub.firmware = s.hub.firmware := by
    show a.reaccept.hub.firmware = _
    rw [hr]; rfl
  have hcores : s.startEnded.cores = s.cores := by
    show a.reaccept.cores = _
    rw [hr]; rfl
  refine ⟨s.startEnded.startHub, by rw [exec_startComplete, execStartComplete, if_pos (by simp [hs, hv])]; rfl, ?_,
    fun hb ho => ?_, ?_, fun hnone => ?_, fun q u hq hnd hu => ?_⟩
  · rw [hhub]
    show a.reaccept.hub.plant.starting = false
    rw [hr]; rfl
  · obtain ⟨hacc, hrel⟩ := State.reaccept_inService (s := a) ⟨ho, hb, hv⟩ rfl
    refine ⟨by rw [hhub]; exact hacc, fun d hd => ?_⟩
    unfold State.die
    rw [hdies]
    exact hrel d hd
  · unfold State.ClocksAtNext
    rw [hhub]
    exact s.startEnded_clocks
  · rw [State.startHub_of_unreadable (hfirm ▸ hnone), hcores]
  · rw [State.startHub_of_loaded (hfirm.symm ▸ hq) hnd hu]
    refine ⟨rfl, fun y hy => ?_⟩
    obtain ⟨i, hi, rfl⟩ := List.getElem_of_mem hy
    exact State.loadHubs_started hnd _ (Nat.le_refl _) hu i hi _ (List.getElem?_eq_getElem hi)

theorem State.sameMemory_of {s t : State} (hm : t.mem = s.mem) (hg : t.tags = s.tags) (hf : t.full = s.full) : s.SameMemory t := by
  refine ⟨fun k => ?_, fun g => ?_, fun w => ?_⟩
  · unfold State.byte; rw [hm]
  · unfold State.tag; rw [hg]
  · unfold State.isFull; rw [hf]

/-! ## Ballast (spec/16 R457) -/

/-- The first of 0 to n that satisfies p, or n. -/
theorem find_range_getD (n : Nat) (p : Nat → Bool) : let k := ((List.range (n + 1)).find? p).getD n
    k ≤ n ∧ (∀ m, m < k → p m = false) ∧ (p k = true ∨ k = n) := by
  rcases h : (List.range (n + 1)).find? p with _ | k
  · rw [List.find?_range_eq_none] at h
    exact ⟨(Nat.le_refl _), fun m (hm : m < n) => by simpa using h m (by omega), .inr rfl⟩
  · obtain ⟨hp, hk, hbefore⟩ := List.find?_range_eq_some.1 h
    exact ⟨by simpa [Nat.lt_succ_iff] using hk, fun m hm => by simpa using hbefore m hm, .inl hp⟩

/-- Events of clusters counted change clusters alone. -/
theorem State.countCluster_eq (s : State) (c ev n f : Nat) : ∃ x, s.countCluster c ev n f = { s with clusters := x } := by
  unfold State.countCluster
  split
  · exact ⟨_, rfl⟩
  · exact ⟨_, rfl⟩

theorem State.foldl_countCluster_eq (s : State) (l : List (Nat × Nat)) :
    ∃ x, l.foldl (fun (s : State) e => s.countCluster e.1 9 64 (s.baseFn (agentIn e.1 (8 * e.2)))) s = { s with clusters := x } := by
  induction l generalizing s with
  | nil => exact ⟨_, rfl⟩
  | cons e l ih =>
    rw [List.foldl_cons]
    obtain ⟨x, hx⟩ := s.countCluster_eq e.1 9 64 (s.baseFn (agentIn e.1 (8 * e.2)))
    rw [hx]
    exact ih _

/-- The estimate of a window with n rows in ballast. -/
def ballastTotal (est : BitVec 32) (n : Nat) : Nat := est.toNat + if n = 0 then 0 else Config.ballastPower n

theorem exec_governorWindow_fewest (est : BitVec 32) (s : State) :
    ∃ t n, exec (.governorWindow est) s = .next t ∧ n ≤ s.eligibleRows.length ∧ t.hub.ballast = s.eligibleRows.take n ∧
      (∀ m, m < n → ballastTotal est m < s.hub.nextFloor) ∧
      (s.hub.nextFloor ≤ ballastTotal est n ∨ n = s.eligibleRows.length) ∧
      t.hub.floor = BitVec.ofNat 32 s.hub.nextFloor ∧ t.hub.estimate = BitVec.ofNat 32 (ballastTotal est n) ∧
      t.cores = s.cores ∧ s.SameMemory t := by
  let n := ((List.range (s.eligibleRows.length + 1)).find? fun n => decide (s.hub.nextFloor ≤ ballastTotal est n)).getD
    s.eligibleRows.length
  let u : State := s.modHub fun h =>
    { h with
      floor := BitVec.ofNat 32 s.hub.nextFloor, estimate := BitVec.ofNat 32 (ballastTotal est n)
      ballast := s.eligibleRows.take n }
  obtain ⟨x, hx⟩ := u.foldl_countCluster_eq (s.eligibleRows.take n)
  obtain ⟨hle, hleast, hlast⟩ := find_range_getD s.eligibleRows.length fun n => decide (s.hub.nextFloor ≤ ballastTotal est n)
  refine ⟨{ u with clusters := x }, n, ?_, hle, rfl, fun m hm => ?_, ?_, rfl, rfl, rfl, State.sameMemory_of rfl rfl rfl⟩
  · rw [← hx]
    rfl
  · simpa using hleast m hm
  · simpa using hlast

/-! ## The rise of a pinned stand (spec/16 R459) -/

theorem exec_rampCheck_steep (f : BitVec 6) (jid rise : BitVec 32) (j : Job) (s : State)
    (hj : s.hub.jobs.find? (fun k => k.fn == f && k.jobid == jid && k.pin) = some j)
    (h : j.pstep.toNat * 11 < rise.toNat * 10) :
    ∃ t k, exec (.rampCheck f jid rise) s = .next t ∧ t.cores = s.cores ∧
      k ∈ t.hub.jobs ∧ k.same j = true ∧ k.stand.ramped = true ∧ k.stand.halfClock = true := by
  rw [exec_rampCheck, execRampCheck, hj]
  dsimp only
  rw [if_pos (by simpa using h)]
  refine ⟨_, { j with stand := { j.stand with ramped := true, halfClock := true } }, rfl, ?_, ?_, by simp [Job.same], rfl, rfl⟩
  · simp [State.modJob, State.hubTrace]
  · simp only [State.modJob, State.modHub_hub, State.recordCause_jobs, State.hubTrace]
    refine List.mem_map.2 ⟨j, List.mem_of_find?_eq_some hj, ?_⟩
    rw [if_pos j.same_self]

theorem exec_rampCheck_gentle (f : BitVec 6) (jid rise : BitVec 32) (j : Job) (s : State)
    (hj : s.hub.jobs.find? (fun k => k.fn == f && k.jobid == jid && k.pin) = some j)
    (h : rise.toNat * 10 ≤ j.pstep.toNat * 11) :
    ∃ t, exec (.rampCheck f jid rise) s = .next t ∧ t.cores = s.cores ∧
      t.hub.jobs = s.hub.jobs ∧ t.hub.causeTail = s.hub.causeTail ∧ s.SameMemory t := by
  rw [exec_rampCheck, execRampCheck, hj]
  dsimp only
  rw [if_neg (by simpa using h)]
  exact ⟨_, rfl, rfl, rfl, rfl, State.sameMemory_of rfl rfl rfl⟩

/-! ## Link widths (spec/16 R460) -/

theorem exec_linkNarrow_sets (l : BitVec 20) (wd : BitVec 2) (s : State) (hw : wd = 1 ∨ wd = 2)
    (hi : s.linkIdle l.toNat = true) (hf : s.failed 4 l.toNat = false) :
    ∃ t, exec (.linkNarrow l wd) s = .next t ∧
      (∀ k, sget t.hub.narrow k = if k = l.toNat then some wd else sget s.hub.narrow k) ∧ t.cores = s.cores ∧
      s.SameMemory t := by
  rw [exec_linkNarrow, execLinkNarrow, if_pos (by simpa [hi, hf] using hw)]
  refine ⟨_, rfl, fun k => ?_, rfl, State.sameMemory_of rfl rfl rfl⟩
  rw [State.modHub_hub, sget_sset]
  by_cases hk : k = l.toNat
  · rw [if_pos hk.symm, if_pos hk]
  · rw [if_neg (Ne.symm hk), if_neg hk]

theorem exec_linkWidthRestore_waits (l : BitVec 20) (s : State) (h : s.widthDue l.toNat = false) :
    exec (.linkWidthRestore l) s = .next s := by
  rw [exec_linkWidthRestore, execLinkWidthRestore, if_neg (by simp [h])]
  rfl

theorem exec_linkWidthRestore_clears (l : BitVec 20) (s : State) (h : s.widthDue l.toNat = true) :
    ∃ t, exec (.linkWidthRestore l) s = .next t ∧
      (∀ k, sget t.hub.narrow k = if k = l.toNat then none else sget s.hub.narrow k) ∧ t.cores = s.cores ∧
      s.SameMemory t := by
  rw [exec_linkWidthRestore, execLinkWidthRestore, if_pos h]
  refine ⟨_, rfl, fun k => ?_, rfl, State.sameMemory_of rfl rfl rfl⟩
  rw [State.modHub_hub, sget_serase]
  by_cases hk : k = l.toNat
  · rw [if_pos hk.symm, if_pos hk]
  · rw [if_neg (Ne.symm hk), if_neg hk]

/-! ## Posted atomics of the reduction window (spec/04 R157, R158) -/

theorem exec_scaleAtomicCombine_adds (p q : Posted) (s : State) (hpq : s.hub.posted = [p, q]) (hp : p.done = false)
    (hj : p.joins q = true) (hop : p.op = AtOp.add.code) :
    ∃ t, exec .scaleAtomicCombine s = .next t ∧ t.cores = s.cores ∧ s.SameMemory t ∧ t.hub.posted =
      [{ p with value := BitVec.ofNat 64 ((p.value.toNat + q.value.toNat) % 2 ^ (8 * p.size)) }, { q with done := true }] := by
  refine ⟨_, rfl, rfl, State.sameMemory_of rfl rfl rfl, ?_⟩
  have hadd : AtOp.ofCode p.op = .add := by rw [hop]; rfl
  rw [State.modHub_hub]
  simp [hpq, combine, hp, hj, hadd, AtOp.apply, w64]

theorem exec_windowAtomicAck_oldest (p : Posted) (rest : List Posted) (s : State) (h : s.hub.posted = p :: rest) :
    ∃ t, exec .windowAtomicAck s = .next t ∧ t.cores = s.cores ∧ s.SameMemory t ∧
      t.hub.sent = s.hub.sent ++ [{ home := p.home, pa := p.pa, size := p.size, key := p.key, op := some p.op, value := p.value
                                    other := 0 }] ∧ (∀ q ∈ t.hub.posted, q ∈ rest) ∧
      ∀ q ∈ rest, q.done = false → q ∈ t.hub.posted := by
  rw [exec_windowAtomicAck, execWindowAtomicAck, State.ackPosted, h]
  refine ⟨_, rfl, rfl, State.sameMemory_of rfl rfl rfl, rfl, fun q hq => (List.mem_filter.1 hq).1, fun q hq hd => ?_⟩
  exact List.mem_filter.2 ⟨hq, by simp [hd]⟩

theorem exec_fabricIdAssign_holds (id : BitVec 12) (s : State) :
    ∃ t, exec (.fabricIdAssign id) s = .next t ∧ t.cores = s.cores ∧ s.SameMemory t ∧
      t.hub.fabric = some (s.hub.fabric.getD id) :=
  ⟨_, rfl, rfl, State.sameMemory_of rfl rfl rfl, rfl⟩

/-! ## HBM under keys (spec/04 R143) -/

theorem sget_eq_find {α : Type} (l : List (Nat × α)) (k : Nat) : sget l k = (l.find? fun e => e.1 == k).map (·.2) := by
  induction l with
  | nil => rfl
  | cons e l ih =>
    by_cases h : e.1 = k
    · simp [sget, h]
    · simp [sget, h, ih]

theorem State.writtenKey_eq (s : State) (g : Nat) : s.writtenKey g = sget s.keyed g := (sget_eq_find s.keyed g).symm

theorem State.byte_congr {s t : State} (h : t.mem = s.mem) (k : Nat) : t.byte k = s.byte k := by
  unfold State.byte
  rw [h]

/-- A granule made ready for a key: as it is where it has that key; else its bytes are rewritten, in w. -/
theorem State.rekey_cases (s : State) (g : Nat) (key : Option (BitVec 512)) :
    (s.writtenKey g = key ∧ s.rekey g key = s) ∨
      ∃ w x l, w = s.write (g * 32) 32 x ∧ s.rekey g key = { w with keyed := l } ∧ sget l g = key := by
  unfold State.rekey
  split
  · next h => exact .inl ⟨h, rfl⟩
  · refine .inr ⟨_, _, _, rfl, rfl, ?_⟩
    cases key with
    | none => simp [sget_serase]
    | some w => simp

theorem State.writtenKey_rekey (s : State) (g : Nat) (key : Option (BitVec 512)) : (s.rekey g key).writtenKey g = key := by
  obtain ⟨h, heq⟩ | ⟨w, x, l, -, heq, hl⟩ := s.rekey_cases g key
  · rw [heq, h]
  · rw [heq, State.writtenKey_eq]
    exact hl

theorem State.byte_rekey_outside (s : State) {g j : Nat} (key : Option (BitVec 512)) (h : j / 32 ≠ g) :
    (s.rekey g key).byte j = s.byte j := by
  obtain ⟨-, heq⟩ | ⟨w, x, l, hw, heq, -⟩ := s.rekey_cases g key
  · rw [heq]
  · calc (s.rekey g key).byte j = w.byte j := by rw [heq]; rfl
      _ = s.byte j := by rw [hw, State.byte_write_outside 32 (g * 32) x j s (by omega)]

@[simp] theorem State.rekey_cores (s : State) (g : Nat) (key : Option (BitVec 512)) : (s.rekey g key).cores = s.cores := by
  obtain ⟨-, heq⟩ | ⟨w, x, l, hw, heq, -⟩ := s.rekey_cases g key
  · rw [heq]
  · calc (s.rekey g key).cores = w.cores := by rw [heq]
      _ = s.cores := by rw [hw, State.write_cores]

/-- HBM written under the key of its reader reads as its bytes. -/
theorem State.hbmRead_of_key (s : State) (k n pa : Nat) (h : ∀ j, j < n → s.writtenKey ((pa + j) / 32) = s.keyWords k) :
    s.hbmRead pa k n = s.read pa n := by
  induction n generalizing pa with
  | zero => rfl
  | succ n ih =>
    have hhead : s.writtenKey (pa / 32) = s.keyWords k := h 0 (Nat.succ_pos n)
    have htail : ∀ j, j < n → s.writtenKey ((pa + 1 + j) / 32) = s.keyWords k := fun j hj => by
      rw [Nat.add_right_comm]
      exact h (j + 1) (Nat.succ_lt_succ hj)
    unfold State.hbmRead State.read
    rw [State.granuleByte, if_pos hhead, ih (pa + 1) htail, Nat.div_add_mod' pa 32]

theorem State.hbmRead_congr {s t : State} (hm : t.mem = s.mem) (hk : t.keyed = s.keyed) (hh : t.hub.keys = s.hub.keys)
    (pa k n : Nat) : t.hbmRead pa k n = s.hbmRead pa k n := by
  have hbyte (j : Nat) : t.byte j = s.byte j := State.byte_congr hm j
  have hread (j m : Nat) : t.read j m = s.read j m := State.read_congr t s m j fun i _ _ => hbyte i
  induction n generalizing pa with
  | zero => rfl
  | succ n ih =>
    unfold State.hbmRead State.granuleByte State.writtenKey State.keyWords
    rw [hk, hh, hbyte, hread, ih]

@[simp] theorem State.hbmRead_answerWith (s : State) (x : W64) (pa k n : Nat) :
    (s.answerWith x).hbmRead pa k n = s.hbmRead pa k n :=
  State.hbmRead_congr (s := s) (t := s.answerWith x) rfl rfl rfl pa k n

theorem State.hbmRead_lt (s : State) (pa k n : Nat) : s.hbmRead pa k n < 256 ^ n := by
  induction n generalizing pa with
  | zero => simp [State.hbmRead]
  | succ n ih =>
    unfold State.hbmRead
    have hb := (s.granuleByte (pa / 32) (pa % 32) (s.keyWords k)).isLt
    have := ih (pa + 1)
    rw [Nat.pow_succ]
    omega

/-- A write of n bytes within one granule: the granule under the writer's key, then the bytes. -/
theorem State.hbmWrite_granule (s : State) {pa k n x : Nat} (hn : 0 < n) (h : pa % 32 + n ≤ 32) :
    s.hbmWrite pa k n x (2 ^ n - 1) = ((s.rekey (pa / 32) (s.keyWords k)).cleanWords pa n (2 ^ n - 1)).write pa n x := by
  have hone : (pa + n - 1) / 32 - pa / 32 + 1 = 1 := by omega
  unfold State.hbmWrite
  rw [if_neg (by omega), hone, ← State.writeMasked_all]
  rfl

theorem State.hbmRead_hbmWrite (s : State) {pa k n x : Nat} (hn : 0 < n) (h : pa % 32 + n ≤ 32) :
    (s.hbmWrite pa k n x (2 ^ n - 1)).hbmRead pa k n = x % 256 ^ n := by
  rw [s.hbmWrite_granule hn h, State.hbmRead_of_key, State.read_write]
  intro j hj
  have hg : (pa + j) / 32 = pa / 32 := by omega
  have hkey := s.writtenKey_rekey (pa / 32) (s.keyWords k)
  rw [State.writtenKey_eq] at hkey
  rw [hg, State.writtenKey_eq, State.write_keyed, State.cleanWords_keyed, hkey]
  unfold State.keyWords
  rw [State.write_hub, State.cleanWords_hub, State.rekey_hub]

theorem State.byte_hbmWrite_other (s : State) {pa k n x j : Nat} (hn : 0 < n) (h : pa % 32 + n ≤ 32) (hj : j / 32 ≠ pa / 32) :
    (s.hbmWrite pa k n x (2 ^ n - 1)).byte j = s.byte j := by
  rw [s.hbmWrite_granule hn h, State.byte_write_outside n pa x j _ (by omega)]
  exact s.byte_rekey_outside _ hj

theorem State.hbmWrite_granule_cores (s : State) {pa k n x : Nat} (hn : 0 < n) (h : pa % 32 + n ≤ 32) :
    (s.hbmWrite pa k n x (2 ^ n - 1)).cores = s.cores := by
  rw [s.hbmWrite_granule hn h]
  simp

/-! ## Accesses that pass the berm by (spec/04 R126 to R131) -/

/-- Events of a die counted change dies alone, … -/
theorem State.countDie_eq (s : State) (d ev n f : Nat) : ∃ x, s.countDie d ev n f = { s with dies := x } := by
  unfold State.countDie
  split
  · exact ⟨_, rfl⟩
  · exact ⟨_, rfl⟩

/-- … and no line of a berm. -/
theorem State.bermFind_countDie (s : State) (d ev n f pa : Nat) : (s.countDie d ev n f).bermFind pa = s.bermFind pa := by
  have hlines : ((s.countDie d ev n f).die (stackOf pa)).lines = (s.die (stackOf pa)).lines := by
    unfold State.countDie
    split
    · rfl
    · rw [State.die_modDie]
      split <;> rfl
  unfold State.bermFind
  rw [hlines]

/-- A corrected error of HBM noted: memory, cores and the lines of the berms stay. -/
theorem State.hbmSoft_keeps (s : State) (pa vf : Nat) : (s.hbmSoft pa vf).cores = s.cores ∧ (s.hbmSoft pa vf).mem = s.mem ∧
    (s.hbmSoft pa vf).tags = s.tags ∧ (s.hbmSoft pa vf).full = s.full ∧ ∀ qa, (s.hbmSoft pa vf).bermFind qa = s.bermFind qa := by
  unfold State.hbmSoft
  split
  · exact ⟨rfl, rfl, rfl, rfl, fun _ => rfl⟩
  · dsimp only
    generalize hu : State.modHub _ _ = u
    obtain ⟨x, hx⟩ := u.countDie_eq (stackOf pa) 14 1 vf
    refine ⟨?_, ?_, ?_, ?_, fun qa => ?_⟩
    · rw [hx, ← hu]; rfl
    · rw [hx, ← hu]; rfl
    · rw [hx, ← hu]; rfl
    · rw [hx, ← hu]; rfl
    · rw [State.bermFind_countDie, ← hu]; rfl

/-- An access that allocates nothing, where no line holds the address, is served by none. -/
theorem State.serve_of_miss (s : State) {pa : Nat} {v : Via} (hv : v.cache = false) (hm : s.bermFind pa = none) :
    s.serve pa v = (s, none) := by
  have hmis : s.bermMismatch pa v.vf v.key = s := by unfold State.bermMismatch; rw [hm]
  unfold State.serve
  rw [if_neg (by simp [hv])]
  dsimp only
  rw [hmis, hm]

theorem State.physRead_of_miss (s : State) {pa : Nat} (n : Nat) {v : Via} (hpa : pa < hbmEnd) (hv : v.cache = false)
    (hm : s.bermFind pa = none) : s.physRead pa n v = (s.hbmSoft pa v.vf, s.hbmRead pa v.key n) := by
  unfold State.physRead
  rw [if_neg (by omega), s.serve_of_miss hv hm]

theorem State.physWrite_of_miss (s : State) {pa : Nat} (n x mask : Nat) {v : Via} (hpa : pa < hbmEnd) (hv : v.cache = false)
    (hm : s.bermFind pa = none) : s.physWrite pa n x mask v = s.hbmWrite pa v.key n x mask := by
  have hpass : s.bypass pa n mask = s := by unfold State.bypass; rw [hm]
  unfold State.physWrite
  rw [if_neg (by omega), s.serve_of_miss hv hm]
  dsimp only
  rw [hpass]

/-! ## Atomics (spec/11 R325) -/

theorem toSigned_eq_toInt {n : Nat} (hn : 0 < n) (x : Nat) : toSigned n x = (BitVec.ofNat n x).toInt := by
  obtain ⟨m, rfl⟩ : ∃ m, n = m + 1 := ⟨n - 1, by omega⟩
  unfold toSigned
  rw [BitVec.toInt_eq_toNat_cond, BitVec.toNat_ofNat]
  have hp : 2 ^ (m + 1) = 2 * 2 ^ m := by rw [Nat.pow_succ, Nat.mul_comm]
  dsimp only
  rw [Nat.add_sub_cancel]
  by_cases hneg : 2 ^ m ≤ x % 2 ^ (m + 1)
  · rw [if_pos hneg, if_neg (by omega)]
    simp
  · rw [if_neg hneg, if_pos (by omega)]

/-- The model's atomic on numbers is R325's on words. -/
theorem AtOp.apply_eq_atomicValue (op : AtOp) {n old : Nat} (hn : 0 < n) (h : old < 2 ^ n) (d e : Nat) :
    op.apply n old d e = (atomicValue op (BitVec.ofNat n old) (BitVec.ofNat n d) (BitVec.ofNat n e)).toNat := by
  have hold : (BitVec.ofNat n old).toNat = old := Nat.mod_eq_of_lt h
  have hd : (BitVec.ofNat n d).toNat = d % 2 ^ n := rfl
  have hle : ((BitVec.ofNat n old).sle (BitVec.ofNat n d) = true) = (toSigned n old ≤ toSigned n (d % 2 ^ n)) := by
    have hmod : BitVec.ofNat n (d % 2 ^ n) = BitVec.ofNat n d := by
      apply BitVec.eq_of_toNat_eq
      simp
    rw [toSigned_eq_toInt hn, toSigned_eq_toInt hn, hmod, BitVec.sle_eq_decide, decide_eq_true_eq]
  have hule : ((BitVec.ofNat n old).ule (BitVec.ofNat n d) = true) = (old ≤ d % 2 ^ n) := by
    rw [BitVec.ule_eq_decide, decide_eq_true_eq, hold, hd]
  have heq : (BitVec.ofNat n old = BitVec.ofNat n d) = (old = d % 2 ^ n) := by
    rw [BitVec.toNat_eq, hold, hd]
  cases op <;> simp only [AtOp.apply, atomicValue, BitVec.toNat_add, BitVec.toNat_and, BitVec.toNat_or, BitVec.toNat_xor,
    apply_ite BitVec.toNat, hold, hd, hle, hule, heq]
  case minn => exact Nat.min_def
  case maxn => exact Nat.max_def
  case cas => rfl

/-- A field of a word, as a word of another width. -/
theorem ofNat_field {w : Nat} (b : BitVec w) (lo len n : Nat) :
    BitVec.ofNat n (field b lo len) = (b.extractLsb' lo len).setWidth n := by
  apply BitVec.eq_of_toNat_eq
  simp [field, BitVec.extractLsb'_toNat]

theorem arrivalAtomic_of_code (x : AtOp) : arrivalAtomic (x.code + 2) = some x := by cases x <;> rfl

/-! ## Accesses of peer modules (spec/01 R41, spec/04 R143) -/

section
variable {pa : BitVec 41} {op : BitVec 4} {sz : BitVec 2} {key : BitVec 6} {data : BitVec 128} {s : State}

theorem exec_remoteAccessArrival_ignored (h : hbmEnd < pa.toNat + 2 ^ sz.toNat ∨ pa.toNat % 2 ^ sz.toNat ≠ 0) :
    exec (.remoteAccessArrival pa op sz key data) s = .next s := by
  rw [exec_remoteAccessArrival, execRemoteAccessArrival]
  dsimp only
  rw [if_pos (by simpa using h)]
  rfl

/-- An aligned access of at most 8 bytes lies within one granule. -/
theorem aligned_within_granule (a : Nat) (sz : BitVec 2) (h : a % 2 ^ sz.toNat = 0) : a % 32 + 2 ^ sz.toNat ≤ 32 := by
  have hsz := sz.isLt
  generalize sz.toNat = z at h hsz
  match z, hsz with
  | 0, _ | 1, _ | 2, _ | 3, _ => omega

variable (hfit : pa.toNat + 2 ^ sz.toNat ≤ hbmEnd) (hal : pa.toNat % 2 ^ sz.toNat = 0) (hmiss : s.bermFind pa.toNat = none)
include hfit hal hmiss

theorem exec_remoteAccessArrival_read :
    ∃ t, exec (.remoteAccessArrival pa 0 sz key data) s = .next t ∧ t.cores = s.cores ∧ s.SameMemory t ∧
      t.hub.answer = BitVec.ofNat 64 (s.hbmRead pa.toNat key.toNat (2 ^ sz.toNat)) := by
  have hpa : pa.toNat < hbmEnd := by have := Nat.two_pow_pos sz.toNat; omega
  obtain ⟨hcores, hmem, htags, hfull, -⟩ := s.hbmSoft_keeps pa.toNat 0
  refine ⟨(s.hbmSoft pa.toNat 0).answerWith (w64 (s.hbmRead pa.toNat key.toNat (2 ^ sz.toNat))), ?_, hcores,
    State.sameMemory_of hmem htags hfull, rfl⟩
  rw [exec_remoteAccessArrival, execRemoteAccessArrival]
  dsimp only
  rw [if_neg (by simpa using ⟨hfit, hal⟩), if_neg (by decide), s.physRead_of_miss _ hpa rfl hmiss]
  rfl

theorem exec_remoteAccessArrival_write :
    ∃ t, exec (.remoteAccessArrival pa 1 sz key data) s = .next t ∧ t.cores = s.cores ∧
      t.hbmRead pa.toNat key.toNat (2 ^ sz.toNat) = data.toNat % 256 ^ 2 ^ sz.toNat ∧
      ∀ k, k / 32 ≠ pa.toNat / 32 → t.byte k = s.byte k := by
  have hpa : pa.toNat < hbmEnd := by have := Nat.two_pow_pos sz.toNat; omega
  have hin := aligned_within_granule pa.toNat sz hal
  have hn := Nat.two_pow_pos sz.toNat
  refine ⟨s.hbmWrite pa.toNat key.toNat (2 ^ sz.toNat) data.toNat (2 ^ 2 ^ sz.toNat - 1), ?_, s.hbmWrite_granule_cores hn hin,
    s.hbmRead_hbmWrite hn hin, fun k hk => s.byte_hbmWrite_other hn hin hk⟩
  rw [exec_remoteAccessArrival, execRemoteAccessArrival]
  dsimp only
  rw [if_neg (by simpa using ⟨hfit, hal⟩), if_pos rfl, s.physWrite_of_miss _ _ _ hpa rfl hmiss]
  rfl

theorem exec_remoteAccessArrival_atomic (x : AtOp) (hop : op.toNat = x.code + 2) :
    ∃ t, exec (.remoteAccessArrival pa op sz key data) s = .next t ∧ t.cores = s.cores ∧
      let n := 2 ^ sz.toNat
      let old := s.hbmRead pa.toNat key.toNat n
      t.hub.answer = BitVec.ofNat 64 old ∧ t.hbmRead pa.toNat key.toNat n = (atomicValue x (BitVec.ofNat (8 * n) old)
        ((data.extractLsb' 0 64).setWidth (8 * n)) ((data.extractLsb' 64 64).setWidth (8 * n))).toNat ∧
      ∀ k, k / 32 ≠ pa.toNat / 32 → t.byte k = s.byte k := by
  have hpa : pa.toNat < hbmEnd := by have := Nat.two_pow_pos sz.toNat; omega
  have hin := aligned_within_granule pa.toNat sz hal
  have hn := Nat.two_pow_pos sz.toNat
  generalize hN : 2 ^ sz.toNat = n at *
  dsimp only
  obtain ⟨hcores, hmem, -, -, hfind⟩ := s.hbmSoft_keeps pa.toNat 0
  let u : State := s.hbmSoft pa.toNat 0
  let old : Nat := s.hbmRead pa.toNat key.toNat n
  let new : Nat := x.apply (8 * n) old (field data 0 64) (field data 64 64)
  have hpow : (256 : Nat) ^ n = 2 ^ (8 * n) := by rw [Nat.pow_mul]
  have hold : old < 2 ^ (8 * n) := hpow ▸ s.hbmRead_lt _ _ _
  have hnew : new = (atomicValue x (BitVec.ofNat (8 * n) old)
      ((data.extractLsb' 0 64).setWidth (8 * n)) ((data.extractLsb' 64 64).setWidth (8 * n))).toNat := by
    refine (x.apply_eq_atomicValue (by omega) hold _ _).trans ?_
    rw [ofNat_field, ofNat_field]
  refine ⟨(u.hbmWrite pa.toNat key.toNat n new (2 ^ n - 1)).answerWith (w64 old), ?_, ?_, rfl, ?_, fun k hk => ?_⟩
  · have h0 : op ≠ 0 := fun h => by rw [h] at hop; exact absurd hop (by simp)
    have h1 : op ≠ 1 := fun h => by rw [h] at hop; exact absurd hop (by simp)
    rw [exec_remoteAccessArrival, execRemoteAccessArrival]
    dsimp only
    rw [hN, if_neg (by simpa using ⟨hfit, hal⟩), if_neg h1, s.physRead_of_miss _ hpa rfl hmiss]
    dsimp only
    rw [if_neg h0, hop, arrivalAtomic_of_code]
    dsimp only
    rw [State.physWrite_of_miss _ _ _ _ hpa rfl ((hfind _).trans hmiss)]
    rfl
  · exact (u.hbmWrite_granule_cores hn hin).trans hcores
  · rw [State.hbmRead_answerWith, u.hbmRead_hbmWrite hn hin, hnew]
    exact Nat.mod_eq_of_lt (hpow ▸ (atomicValue x _ _ _).isLt)
  · refine (u.byte_hbmWrite_other hn hin hk).trans ?_
    unfold State.byte
    rw [hmem]

end

/-! ## The statement -/

/-- Settles O56: one lemma above for each event. -/
theorem plantAndLinks : Obligations.PlantAndLinks := by
  unfold Obligations.PlantAndLinks
  refine ⟨fun s => ⟨exec_supplyOutOfRange_ends s, exec_supplyRestored_back s, exec_supplyShutdown_powersOff s,
      exec_inletOver40_halves s, exec_inletOver45_ends s, exec_inletRestored_back s, exec_powerCeilingEngage_halves s,
      exec_powerCeilingRelease_clocks s, exec_coldStart_keeps_flash s, exec_warmStart_keeps_memory s,
      exec_dieEarlyRelease_releases s, exec_start_unverified s, exec_startComplete_starts s⟩,
    exec_governorWindow_fewest,
    fun f jid rise j s hj => ⟨exec_rampCheck_steep f jid rise j s hj, exec_rampCheck_gentle f jid rise j s hj⟩,
    fun l wd s => ⟨exec_linkNarrow_sets l wd s, exec_linkWidthRestore_waits l s, exec_linkWidthRestore_clears l s⟩,
    exec_scaleAtomicCombine_adds, exec_windowAtomicAck_oldest,
    fun pa op sz key data s => ⟨exec_remoteAccessArrival_ignored, fun hfit hal hmiss => ⟨?_, ?_, ?_⟩⟩,
    exec_fabricIdAssign_holds⟩
  · rintro rfl
    exact exec_remoteAccessArrival_read hfit hal hmiss
  · rintro rfl
    exact exec_remoteAccessArrival_write hfit hal hmiss
  · exact exec_remoteAccessArrival_atomic hfit hal hmiss

end Sys2Proof.Machine
end

section
/-! The host's accesses and launches (O54): a state in which FLUSH_INVAL leaves a line that it must not, and the refutation.

`State` holds dies as a list, so a state may list one die twice. `State.die` reads the first entry, and O54 speaks of the lines in it
alone; `State.bermSweep` walks every entry. A line of the second entry, in the flushed range and with a dirty sector in error, is kept by
`State.bermInval`, which puts it in the first entry in place of the line at its set and way. -/

namespace Sys2Proof.Machine.DieListedTwice

/-! ## The state -/

/-- FLUSH_INVAL of the granule at address 0, with COOKIE 0 (spec/04 R154). -/
def command : BitVec 256 := BitVec.ofNat 256 (2 + 32 * 2 ^ 128)

/-- A line in way 0 of set 0 whose sector 0 alone is valid and dirty; `bad` marks its sectors in error. -/
def lineOf (ptag : Nat) (bad : BitVec 4) : BermLine :=
  { set := 0, way := 0, ptag := ptag, vf := 0, key := 0, valid := 1, dirty := 1, tags := 0, data := 0, bad := bad, badTags := 0 }

/-- The one line of die 0, sound and 16 MiB beyond the flushed range. -/
def outside : BermLine := lineOf 1 0

/-- The line of the entry that die 0's first entry hides, in the flushed range and in error. -/
def hidden : BermLine := lineOf 0 1

/-- Die 0 listed twice; function 0 with window region 0, frame 0 granted, and the command at the head of its flush ring. -/
def state : State :=
  { State.reset with
    dies := [(0, { Die.reset with lines := [outside] }), (0, { Die.reset with lines := [hidden] })]
    hub := { Hub.reset with
      wreg := vset Hub.reset.wreg 0 0x8000000000000000#64, hftbase := 0x8000000000000001#64, hftCache := [(0, 0x80#8)] }
    mem := [(windowBase + 0xF000, 2#8), (windowBase + 0xF010, 32#8), (windowBase + 0xF800, 1#8)] }

/-! ## The hypotheses of O54's clause on flush commands -/

theorem region_eq : state.region 0 = some windowBase := by decide +kernel

theorem nextFlush_eq : state.nextFlush 0 = some command := by decide +kernel

theorem flushOk_eq : state.flushOk 0 command = true := by decide +kernel

theorem cores_l1_nil : ∀ e ∈ state.cores, e.2.l1 = [] := by decide +kernel

/-- The lines that `State.die` shows: those of the first entry of die 0, and no others. -/
theorem mem_die_lines_iff (d : Nat) (l : BermLine) : l ∈ (state.die d).lines ↔ d = 0 ∧ l = outside := by
  by_cases hd : d = 0
  · subst hd
    exact List.mem_singleton.trans (and_iff_right rfl).symm
  · have hnone : sget state.dies d = none := by simp [state, sget, Ne.symm hd]
    simp [State.die, hnone, Die.reset, hd]

theorem outside_home : stackOf outside.pa = 0 ∧ outside.set < 2 ^ 17 := by decide +kernel

/-! ## What the command does -/

theorem outside_not_in_range :
    ¬((command.extractLsb' 192 64).toNat < outside.pa + 128 ∧
      outside.pa < (command.extractLsb' 192 64).toNat + (command.extractLsb' 128 64).toNat) := by decide +kernel

/-- The hidden line now stands where the line outside the range stood. -/
theorem takeFlush_lines : ((state.takeFlush 0 true).die 0).lines = [hidden] := by decide +kernel

theorem outside_ne_hidden : outside ≠ hidden := by decide +kernel

end Sys2Proof.Machine.DieListedTwice

namespace Sys2Proof.Machine

open DieListedTwice in
/-- Refutes O54, in its clause on FLUSH_INVAL: a state that lists die 0 twice meets every hypothesis, and the command replaces a sound
line outside its range by the line in error of the hidden entry. -/
theorem not_hostAndLaunches : ¬ Obligations.HostAndLaunches := by
  unfold Obligations.HostAndLaunches
  intro h
  obtain ⟨-, -, -, hflush, -⟩ := h
  have home : ∀ d, ∀ l ∈ (state.die d).lines, stackOf l.pa = d ∧ l.set < 2 ^ 17 := by
    intro d l hl
    obtain ⟨rfl, rfl⟩ := (mem_die_lines_iff d l).1 hl
    exact outside_home
  have sound : ∀ d, ∀ l ∈ (state.die d).lines, l.bad = 0 := by
    intro d l hl
    obtain ⟨rfl, rfl⟩ := (mem_die_lines_iff d l).1 hl
    rfl
  obtain ⟨-, hinval⟩ := hflush 0 command windowBase state nextFlush_eq region_eq home
  obtain ⟨t, ht, -, hlines⟩ := hinval (by decide)
  have hstep : state.takeFlush 0 true = t := Host.Outcome.next.inj ht
  have hmem : outside ∈ (t.die 0).lines :=
    (hlines cores_l1_nil sound flushOk_eq 0 outside).2 ⟨(mem_die_lines_iff 0 outside).2 ⟨rfl, rfl⟩, outside_not_in_range⟩
  rw [← hstep, takeFlush_lines] at hmem
  exact outside_ne_hidden (List.mem_singleton.1 hmem)

end Sys2Proof.Machine
end

section
/-! The state after reset (O28): what each part of it reads as. -/

namespace Sys2Proof.Machine

/-! ## The state after reset (spec/06 R199) -/

theorem State.me_reset : State.reset.me = { Core.reset with act := .task } := rfl

theorem State.core_reset_of_ne {a : Nat} (h : a ≠ hubCore0) : State.reset.core a = Core.reset := by
  simp [State.core, State.reset, sget, Ne.symm h]

theorem State.func_reset (f : Nat) : State.reset.func f = Func.reset := vget_replicate 64 f Func.reset

theorem State.die_reset (d : Nat) : State.reset.die d = Die.reset := rfl

theorem State.cluster_reset (c : Nat) : State.reset.cluster c = Cluster.reset := rfl

/-- After reset every scalar register reads zero. -/
theorem State.s_reset (k : Nat) : State.reset.me.s k = 0 := by
  rw [State.me_reset]
  have hframe : vget Core.reset.frames { Core.reset with act := .task }.cwp zeroFrame = Vector.replicate 24 0 :=
    vget_replicate 6 _ (Vector.replicate 24 0)
  unfold Core.s
  split
  · rfl
  · split
    · exact vget_replicate 8 k 0
    · rw [hframe]
      exact vget_replicate 24 (k - 8) 0

/-- After reset every predicate but p0 is false. -/
theorem State.pr_reset {k : Nat} (h : 1 ≤ k) : State.reset.me.pr k = false := by
  have h0 : k ≠ 0 := by omega
  have hp : State.reset.me.p = 0 := rfl
  simp [Core.pr, bit, h0, hp]

theorem State.vfctl_reset (f : Nat) : field (State.reset.func f).vfctl 16 16 = 20000 ∧
    field (State.reset.func f).vfctl 32 8 = 1 ∧ State.reset.vfState f = 0 ∧ State.reset.vfGen f = 0 := by
  unfold State.vfState State.vfGen
  rw [State.func_reset]
  decide

theorem Die.cways_reset : Die.reset.cways = 8 := by decide

theorem Die.waymask_reset : field Die.reset.waymask 8 5 = 8 ∧ bit Die.reset.waymask 63 = true := by decide

theorem Die.quota_reset {f : Nat} (h : f < 64) : vget Die.reset.quota f 0 = 16 := by
  simp [Die.reset, vget, h]

/-- After reset a bay is raw: FORMAT is 0. -/
theorem State.bayFormat_reset (c b : Nat) : State.reset.bayFormat c b = 0 := by
  unfold State.bayFormat State.bfmt
  rw [State.cluster_reset]
  by_cases hb : b < 16
  · have hword : vget Cluster.reset.bfmt b 0 = 0x3F80000000000000#64 := by simp [Cluster.reset, vget, hb]
    rw [hword]
    decide
  · have hword : vget Cluster.reset.bfmt b 0 = 0 := by simp [Cluster.reset, vget, hb]
    rw [hword]
    decide

theorem State.bayOwner_reset (c b : Nat) : State.reset.bayOwner c b = none := by
  have hword : vget Cluster.reset.bown b 0 = 0 := vget_replicate 16 b 0
  unfold State.bayOwner
  rw [State.cluster_reset, hword]
  decide

theorem State.barrier_reset (c n : Nat) : (vget (State.reset.cluster c).barriers n Barrier.reset).count = 1 := by
  have hbar : vget Cluster.reset.barriers n Barrier.reset = Barrier.reset := vget_replicate 8 n Barrier.reset
  rw [State.cluster_reset, hbar]
  rfl

/-- Settles O28: each part of the state is at its reset value, and the maps and lists are empty. -/
theorem resetState : Obligations.ResetState := by
  unfold Obligations.ResetState
  refine ⟨rfl, rfl, by decide, rfl, rfl, rfl, rfl, rfl, rfl, fun k _ => State.s_reset k, rfl,
    fun k h _ => State.pr_reset h, fun k _ => vget_replicate 16 k 0, fun k => vget_replicate 8 k 0,
    fun a h => ?_, fun p => ?_, rfl, rfl, rfl, rfl, State.vfctl_reset,
    fun d => ⟨Die.cways_reset, Die.waymask_reset.1, Die.waymask_reset.2, fun f hf => Die.quota_reset hf, rfl, rfl⟩,
    fun c b => ⟨State.bayFormat_reset c b, State.bayOwner_reset c b, fun n _ => State.barrier_reset c n⟩,
    fun k => rfl, fun g => rfl, fun w => rfl, State.wf_reset⟩
  · rw [State.core_reset_of_ne h]
    rfl
  · show descV 0 = false
    decide

end Sys2Proof.Machine
end

section
/-! Traps (O29, O30): TRAPC and the core on entry, what the cause table and the rings of completions receive, and the two statements. -/

namespace Sys2Proof.Machine

/-! ## Bit fields -/

/-- A field reads what was written in it. -/
theorem field_setField_same {k lo n : Nat} (w : BitVec k) (x : Nat) (h : lo + n ≤ k) :
    field (setField w lo n x) lo n = x % 2 ^ n := by
  obtain ⟨m, rfl⟩ : ∃ m, k = lo + (n + m) := ⟨k - (lo + n), by omega⟩
  have hlow : w.toNat % 2 ^ lo < 2 ^ lo := Nat.mod_lt _ (Nat.two_pow_pos lo)
  have hlo : 2 ^ lo * (w.toNat / 2 ^ lo) + w.toNat % 2 ^ lo = w.toNat := Nat.div_add_mod _ _
  have hhi : 2 ^ n * (w.toNat / 2 ^ lo / 2 ^ n) + w.toNat / 2 ^ lo % 2 ^ n = w.toNat / 2 ^ lo := Nat.div_add_mod _ _
  have hcleared : w.toNat - w.toNat / 2 ^ lo % 2 ^ n * 2 ^ lo + x % 2 ^ n * 2 ^ lo =
      2 ^ lo * (2 ^ n * (w.toNat / 2 ^ lo / 2 ^ n) + x % 2 ^ n) + w.toNat % 2 ^ lo := by
    generalize w.toNat / 2 ^ lo / 2 ^ n = q at *
    generalize w.toNat / 2 ^ lo % 2 ^ n = f at *
    rw [← hhi, Nat.mul_add] at hlo
    rw [Nat.mul_add, Nat.mul_comm f, Nat.mul_comm (x % 2 ^ n)]
    omega
  unfold field setField field
  rw [BitVec.toNat_ofNat, Nat.shiftRight_eq_div_pow, Nat.shiftRight_eq_div_pow, Nat.shiftLeft_eq, Nat.shiftLeft_eq, hcleared,
    Nat.pow_add 2 lo, Nat.mod_mul_right_div_self, Nat.mod_mod_of_dvd _ (Nat.pow_dvd_pow 2 (Nat.le_add_right n m)),
    Nat.mul_add_div (Nat.two_pow_pos lo), Nat.div_eq_of_lt hlow, Nat.add_zero, Nat.mul_add_mod, Nat.mod_mod]

/-! ## TRAPC on entry (spec/06 R220) -/

theorem Core.level_lt (c : Core) : c.level < 4 := Nat.mod_lt _ (by decide)

theorem Core.setLevel_level (c : Core) {l : Nat} (h : l < 4) : (c.setLevel l).level = l :=
  (field_setField_same c.tsk l (by decide)).trans (Nat.mod_eq_of_lt h)

theorem Cause.code_lt (k : Cause) : k.code < 256 := by cases k <;> decide

/-- The fields of TRAPC on entry fill it without a carry. -/
theorem Core.trapcFor_toNat (c : Core) (k : Cause) : (c.trapcFor k).toNat =
    k.code + c.level * 2 ^ 28 + 2 ^ 30 + b2n c.latch.isSome * 2 ^ 31 + (c.latch.getD 0).toNat * 2 ^ 32 := by
  have hcode := k.code_lt
  have hlevel := c.level_lt
  have hword := (c.latch.getD 0).isLt
  have hvalid : b2n c.latch.isSome < 2 := by cases c.latch.isSome <;> decide
  unfold Core.trapcFor w64
  rw [BitVec.toNat_ofNat]
  omega

section
variable (c : Core) (k : Cause)

theorem Core.trapcFor_cause : ((c.trapcFor k).extractLsb' 0 8).toNat = k.code := by
  have hcode := k.code_lt
  rw [BitVec.extractLsb'_toNat, c.trapcFor_toNat, Nat.shiftRight_eq_div_pow]
  omega

theorem Core.trapcFor_reserved : (c.trapcFor k).extractLsb' 8 20 = 0 := by
  have hcode := k.code_lt
  apply BitVec.eq_of_toNat_eq
  rw [BitVec.extractLsb'_toNat, c.trapcFor_toNat, Nat.shiftRight_eq_div_pow]
  show _ = 0
  omega

theorem Core.trapcFor_level : ((c.trapcFor k).extractLsb' 28 2).toNat = c.level := by
  have hcode := k.code_lt
  have hlevel := c.level_lt
  rw [BitVec.extractLsb'_toNat, c.trapcFor_toNat, Nat.shiftRight_eq_div_pow]
  omega

theorem Core.trapcFor_active : (c.trapcFor k).getLsbD 30 = true := by
  have hcode := k.code_lt
  have hlevel := c.level_lt
  rw [BitVec.getLsbD, c.trapcFor_toNat, Nat.testBit_eq_decide_div_mod_eq, decide_eq_true_iff]
  omega

theorem Core.trapcFor_valid : (c.trapcFor k).getLsbD 31 = c.latch.isSome := by
  have hcode := k.code_lt
  have hlevel := c.level_lt
  rw [BitVec.getLsbD, c.trapcFor_toNat, Nat.testBit_eq_decide_div_mod_eq]
  cases c.latch.isSome
  · rw [decide_eq_false_iff_not, b2n, if_neg Bool.false_ne_true]
    omega
  · rw [decide_eq_true_iff, b2n, if_pos rfl]
    omega

theorem Core.trapcFor_latch {w : W32} (h : c.latch = some w) : (c.trapcFor k).extractLsb' 32 32 = w := by
  have hcode := k.code_lt
  have hlevel := c.level_lt
  have hword := w.isLt
  apply BitVec.eq_of_toNat_eq
  rw [BitVec.extractLsb'_toNat, c.trapcFor_toNat, Nat.shiftRight_eq_div_pow, h]
  simp only [Option.isSome_some, Option.getD_some, b2n, if_true]
  omega

end

/-! ## The core that takes a trap (spec/06 R219) -/

/-- The vector with its two low bits cleared. -/
theorem append_zero_eq_and (x : W64) : (x.extractLsb' 2 30 ++ (0 : BitVec 2) : W32) = x.setWidth 32 &&& 0xFFFFFFFC#32 := by
  have hmask : ∀ i < 32, (0xFFFFFFFC#32).getLsbD i = decide (2 ≤ i) := by decide
  apply BitVec.eq_of_getLsbD_eq
  intro i hi
  rw [BitVec.getLsbD_and, hmask i hi, BitVec.getLsbD_append, BitVec.getLsbD_setWidth]
  by_cases h : i < 2
  · simp [h]
  · have hback : 2 + (i - 2) = i := by omega
    have hlt : i - 2 < 30 := by omega
    simp [h, hi, hback, hlt, Nat.le_of_not_lt h]

/-- Without a REVERSE under way nothing is added to the flags. -/
theorem Core.leaveJoin_fcsr (c : Core) (h : c.rev = none) : c.leaveJoin.fcsr = c.fcsr := by
  unfold Core.leaveJoin Core.dropJoin
  split <;> simp [h]

section
variable (c : Core) (k : Cause) (v : W64) (pc : W32)

theorem Core.enterTrap_s (r : Nat) : (c.enterTrap k v pc).s r = c.s r := by
  unfold Core.s Core.cwp
  simp

theorem Core.enterTrap_fcsr (h : c.rev = none) : (c.enterTrap k v pc).fcsr = c.fcsr := by
  simp only [Core.enterTrap, Core.setLevel_fcsr, Core.leaveGang_fcsr, c.leaveJoin_fcsr h]

theorem Core.enterTrap_tsk : (c.enterTrap k v pc).tsk =
    (c.leaveJoin.leaveGang.setLevel (if c.level < 1 then 1 else c.level)).tsk := by
  simp only [Core.enterTrap]

/-- A trap raises the level to runtime and never lowers it. -/
theorem Core.enterTrap_level : (c.enterTrap k v pc).level = if c.level = 0 then 1 else c.level := by
  have hlevel := c.level_lt
  rw [Core.level, c.enterTrap_tsk]
  refine (Core.setLevel_level _ (by split <;> omega)).trans ?_
  simp only [Nat.lt_one_iff]

theorem Core.enterTrap_pc : (c.enterTrap k v pc).pc = c.tvec.setWidth 32 &&& 0xFFFFFFFC#32 := append_zero_eq_and c.tvec

end

/-! ## Window regions -/

theorem State.region_bounds {s : State} {f b : Nat} (h : s.region f = some b) :
    windowBase ≤ b ∧ b + 0x10000 ≤ windowBase + 0x400000 := by
  unfold State.region at h
  obtain ⟨k, hk, rfl⟩ := Option.map_eq_some_iff.1 h
  have hlt : k < 64 := List.mem_range.1 (List.mem_filter.1 (List.mem_of_mem_head? hk)).1
  omega

/-- A write within a window region leaves every byte outside the host window. -/
theorem State.byte_winPut_outside (s : State) (f off n x : Nat) {k : Nat} (hfit : off + n ≤ 0x10000)
    (hk : k < windowBase ∨ windowBase + 0x400000 ≤ k) : (s.winPut f off n x).byte k = s.byte k := by
  unfold State.winPut
  split
  · next b hb =>
    have hin := State.region_bounds hb
    exact State.byte_write_outside n (b + off) x k s (by omega)
  · rfl

/-! ## Entries of the cause table (spec/07 R241) -/

@[simp] theorem State.recordCause_clusters (s : State) (r : CauseRec) : (s.recordCause r).clusters = s.clusters := by
  obtain ⟨m, a, b, c, h⟩ := s.recordCause_eq r; rw [h]

@[simp] theorem State.recordCause_funcs (s : State) (r : CauseRec) : (s.recordCause r).hub.funcs = s.hub.funcs := by
  obtain ⟨m, a, b, c, h⟩ := s.recordCause_eq r; rw [h]

@[simp] theorem State.recordCause_wreg (s : State) (r : CauseRec) : (s.recordCause r).hub.wreg = s.hub.wreg := by
  obtain ⟨m, a, b, c, h⟩ := s.recordCause_eq r; rw [h]

@[simp] theorem State.recordCause_core (s : State) (r : CauseRec) (b : Nat) : (s.recordCause r).core b = s.core b := by
  simp only [State.core, State.recordCause_cores]

/-- One entry more of the cause table in t than in s, or one more lost. -/
def State.OneMoreEntry (s t : State) : Prop :=
  t.hub.causeTail = s.hub.causeTail + 1 ∧ t.hub.causeLost = s.hub.causeLost ∨
    t.hub.causeTail = s.hub.causeTail ∧ t.hub.causeLost = s.hub.causeLost + 1

theorem State.recordCause_oneMore (s : State) (r : CauseRec) : s.OneMoreEntry (s.recordCause r) := by
  unfold State.recordCause
  dsimp only
  split
  · exact .inr (by simp)
  · exact .inl (by simp)

theorem State.byte_recordCause_outside (s : State) (r : CauseRec) {k : Nat}
    (hk : k < windowBase ∨ windowBase + 0x400000 ≤ k) : (s.recordCause r).byte k = s.byte k := by
  unfold State.recordCause
  dsimp only
  split
  · exact State.byte_winPut_outside _ _ _ _ _ (by decide) hk
  · exact (State.byte_winPut_outside _ _ _ _ _ (by decide) hk).trans
      (State.byte_winPut_outside _ _ _ _ _ (by omega) hk)

/-! ## Trace records (spec/16 R444) -/

/-- A trace record changes the hub's list of them and nothing else. -/
theorem State.trace_eq (s : State) (a sel ty p : Nat) :
    ∃ l, s.trace a sel ty p = s.modHub fun h => { h with traces := l } := by
  unfold State.trace
  dsimp only
  split
  · exact ⟨_, rfl⟩
  · exact ⟨s.hub.traces, rfl⟩

/-! ## Taking a trap -/

/-- A trap that a handler takes: the core's entry, an entry of the cause table, and perhaps a trace record. -/
theorem State.trapEntry_handled {s : State} {a : Nat} (k : Cause) (v : W64) (pc : W32)
    (hact : (s.core a).trapc.getLsbD 30 = false) (hvec : (s.core a).tvec ≠ 0) : ∃ l, s.trapEntry a k v pc =
      ((s.setCore a ((s.core a).enterTrap k v pc)).recordCause (coreCause a (s.core a) 0 false k v)).modHub fun h =>
        { h with traces := l } := by
  have hgo : (bit (s.core a).trapc 30 || decide ((s.core a).tvec = 0)) = false := by rw [bit, hact, decide_eq_false hvec]; rfl
  unfold State.trapEntry
  simp only [hgo, Bool.false_eq_true, if_false]
  exact State.trace_eq _ _ _ _ _

/-- Settles O29: the core's registers by the entry of that core, the rest by the entry of the cause table. That PC has the two low bits
of TVEC cleared is the model's choice (log entry 33). -/
theorem takingATrap : Obligations.TakingATrap := by
  unfold Obligations.TakingATrap
  intro s a cause v pc hact hvec c t d
  obtain ⟨l, ht⟩ : ∃ l, t = _ := State.trapEntry_handled cause v pc hact hvec
  have hcore (b : Nat) : t.core b = (s.setCore a (c.enterTrap cause v pc)).core b := by rw [ht]; simp [c]
  have hd : d = c.enterTrap cause v pc := (hcore a).trans (s.core_setCore_same a _)
  rw [hd]
  refine ⟨rfl, rfl, c.trapcFor_cause cause, c.trapcFor_reserved cause, c.trapcFor_level cause, c.trapcFor_active cause,
    c.trapcFor_valid cause, fun w hw => c.trapcFor_latch cause hw, c.enterTrap_level .., c.enterTrap_pc .., rfl,
    fun hrep => ⟨decide_eq_true hrep, c.enterTrap_repc ..⟩, c.enterTrap_s cause v pc, c.enterTrap_p .., c.enterTrap_v ..,
    c.enterTrap_q .., c.enterTrap_curpol .., c.enterTrap_dom .., c.enterTrap_aw0 .., c.enterTrap_aw1 .., c.enterTrap_tvec ..,
    c.enterTrap_fcsr cause v pc, fun b hb => ?_, ?_, ?_, ?_, fun k hk => ?_⟩
  · exact (hcore b).trans (s.core_setCore_other _ (Ne.symm hb))
  · rw [ht]; simp
  · rw [ht]; simp
  · rw [ht]
    exact (s.setCore a _).recordCause_oneMore _
  · rw [ht]
    exact (s.setCore a _).byte_recordCause_outside _ hk

/-! ## What the hub keeps for a function -/

theorem State.func_modFunc {f : Nat} (s : State) (g : Func → Func) (h : f < 64) : (s.modFunc f g).func f = g (s.func f) := by
  show vget (vset s.hub.funcs f _) f Func.reset = _
  rw [vget_vset _ _ _ _ _ h, if_pos rfl]
  rfl

theorem State.func_congr {s t : State} (f : Nat) (h : t.hub.funcs = s.hub.funcs) : t.func f = s.func f := by
  unfold State.func
  rw [h]

@[simp] theorem State.func_winPut (s : State) (f g off n x : Nat) : (s.winPut f off n x).func g = s.func g :=
  State.func_congr g (by simp)

theorem State.dropJob_funcs (s : State) (j : Job) : (s.dropJob j).hub.funcs = s.hub.funcs := by
  unfold State.dropJob
  by_cases h : j.stand.away = true <;> simp [h, Hub.releaseLinks]

theorem State.dropJob_wreg (s : State) (j : Job) : (s.dropJob j).hub.wreg = s.hub.wreg := by
  unfold State.dropJob
  by_cases h : j.stand.away = true <;> simp [h, Hub.releaseLinks]

/-! ## Completions (spec/07 R230, R242) -/

/-- In t, function f has one completion r more than in s: owed to it, or in the next place of its ring with an interrupt pending; a
function without a window region has neither. -/
def State.OneMoreCompletion (s t : State) (f : Nat) (r : BitVec 256) : Prop :=
  (t.func f).owed = (s.func f).owed ++ [r] ∨
    (∃ b, s.region f = some b ∧ (t.func f).irqPend = true ∧ (t.func f).owed = (s.func f).owed ∧
      (t.func f).compl.hub = (s.func f).compl.hub + 1 ∧
      t.read (b + 0xE800 + 32 * ((s.func f).compl.hub.toNat % 64)) 32 = r.toNat) ∨
    (s.region f = none ∧ (t.func f).owed = (s.func f).owed ∧ (t.func f).compl = (s.func f).compl)

/-- The bytes of a completion in the ring are read back after the count of completions is written beside the ring. -/
theorem State.read_ring (s : State) {f b : Nat} (h : s.region f = some b) (n x : Nat) (r : BitVec 256) :
    ((s.winPut f (0xE800 + 32 * (n % 64)) 32 r.toNat).winPut f 0xF828 8 x).read (b + 0xE800 + 32 * (n % 64)) 32 = r.toNat := by
  have hput : s.winPut f (0xE800 + 32 * (n % 64)) 32 r.toNat = s.write (b + 0xE800 + 32 * (n % 64)) 32 r.toNat := by
    rw [State.winPut, h]
    simp only [Nat.add_assoc]
  have hregion : (s.write (b + 0xE800 + 32 * (n % 64)) 32 r.toNat).region f = some b :=
    (State.region_congr f (by simp)).trans h
  rw [hput, State.winPut, hregion]
  dsimp only
  rw [State.read_write_outside _ _ _ _ _ _ (by omega), State.read_write]
  exact Nat.mod_eq_of_lt r.isLt

/-- A completion that is not STARTED, written by the hub. -/
theorem State.writeCompletion_oneMore (s : State) {f : Nat} {r : BitVec 256} (hf : f < 64) (hr : field r 0 8 ≠ 0) :
    s.OneMoreCompletion (s.writeCompletion f r) f r := by
  unfold State.writeCompletion
  dsimp only
  split
  · next hnone => exact .inr (.inr ⟨hnone, rfl, rfl⟩)
  · next hsome =>
    split
    · exact .inl (by rw [State.func_modFunc _ _ hf])
    · obtain ⟨b, hb⟩ := Option.ne_none_iff_exists'.1 hsome
      refine .inr (.inl ⟨b, hb, ?_⟩)
      rw [State.func_modFunc _ _ hf]
      exact ⟨by simp [hr], by simp, by simp, s.read_ring hb _ _ r⟩

theorem State.complete_oneMore (s : State) {f : Nat} {r : BitVec 256} (hf : f < 64) (hr : field r 0 8 ≠ 0) :
    s.OneMoreCompletion (s.complete f r) f r := by
  unfold State.complete
  split
  · exact s.writeCompletion_oneMore hf hr
  · exact .inl (by rw [State.func_modFunc _ _ hf])

/-- Nothing of a function's completions changes when its last job is gone. -/
theorem State.settleIdle_func (s : State) {f : Nat} (hf : f < 64) :
    ((s.settleIdle f).func f).owed = (s.func f).owed ∧ ((s.settleIdle f).func f).compl = (s.func f).compl ∧
      ((s.settleIdle f).func f).irqPend = (s.func f).irqPend := by
  unfold State.settleIdle
  dsimp only
  split
  · exact ⟨rfl, rfl, rfl⟩
  · split
    · rw [State.setVfState, State.func_modFunc _ _ hf, State.func_modFunc _ _ hf]
      exact ⟨rfl, rfl, rfl⟩
    · rw [State.func_modFunc _ _ hf]
      exact ⟨rfl, rfl, rfl⟩

theorem State.settleIdle_mem (s : State) (f : Nat) : (s.settleIdle f).mem = s.mem := by
  unfold State.settleIdle
  dsimp only
  split
  · rfl
  · split <;> rfl

/-- Reading depends on the memory alone. -/
theorem State.read_congr_mem {s t : State} (h : t.mem = s.mem) (k n : Nat) : t.read k n = s.read k n :=
  State.read_congr t s n k fun j _ _ => by unfold State.byte; rw [h]

theorem State.OneMoreCompletion.settleIdle {s t : State} {f : Nat} {r : BitVec 256} (h : s.OneMoreCompletion t f r) (hf : f < 64) :
    s.OneMoreCompletion (t.settleIdle f) f r := by
  obtain ⟨howed, hcompl, hirq⟩ := t.settleIdle_func hf
  unfold State.OneMoreCompletion
  rw [howed, hcompl, hirq]
  simp only [State.read_congr_mem (t.settleIdle_mem f)]
  exact h

theorem State.OneMoreCompletion.congr_left {s u t : State} {f : Nat} {r : BitVec 256} (h : u.OneMoreCompletion t f r)
    (hfuncs : u.hub.funcs = s.hub.funcs) (hwreg : u.hub.wreg = s.hub.wreg) : s.OneMoreCompletion t f r := by
  unfold State.OneMoreCompletion at h
  rw [State.func_congr f hfuncs, State.region_congr f hwreg] at h
  exact h

theorem complBytes_status (st : Status) (cookie : W64) (jobid : BitVec 32) (ssn lo hi agent cause : Nat) :
    field (complBytes st cookie jobid ssn lo hi agent cause) 0 8 = st.code := by
  have hcode : st.code < 256 := by cases st <;> decide
  unfold field complBytes
  rw [BitVec.toNat_ofNat, Nat.shiftRight_zero]
  omega

theorem State.endJob_oneMore (s : State) (j : Job) {st : Status} (agent cause : Nat) (hst : st.code ≠ 0) :
    s.OneMoreCompletion (s.endJob j st agent cause) j.fn.toNat
      (complBytes st j.cookie j.jobid (s.jobSsn j) j.slotLo.toNat j.slotHi.toNat agent cause) := by
  have hf : j.fn.toNat < 64 := j.fn.isLt
  have hr : field (complBytes st j.cookie j.jobid (s.jobSsn j) j.slotLo.toNat j.slotHi.toNat agent cause) 0 8 ≠ 0 := by
    rw [complBytes_status]
    exact hst
  exact (((s.dropJob j).complete_oneMore hf hr).settleIdle hf).congr_left (s.dropJob_funcs j) (s.dropJob_wreg j)

/-! ## Jobs -/

theorem State.jobOf_not_away {s : State} {a : Nat} {j : Job} (h : s.jobOf a = some j) : j.stand.away = false := by
  have hfound := List.find?_some h
  cases haway : j.stand.away
  · rfl
  · simp [haway] at hfound

/-- The superstep of a job on the module depends on SSN and membership of the cores alone. -/
theorem State.jobSsn_congr {s t : State} {j : Job} (haway : j.stand.away = false)
    (hssn : ∀ b, (t.core b).ssn = (s.core b).ssn) (hmember : ∀ b, (t.core b).member = (s.core b).member) :
    t.jobSsn j = s.jobSsn j := by
  have hview (u : State) : u.viewOf j = u := by simp [State.viewOf, haway]
  have hmask : t.maskOf = s.maskOf := funext fun b => by unfold State.maskOf; rw [hmember]
  unfold State.jobSsn
  dsimp only
  rw [hview, hview, hmask, hssn]

/-! ## Fences of units that no job owns (spec/07 R246) -/

/-- A unit fenced for no job ends none: no core changes. -/
theorem State.core_fence_none (s : State) (k n agent cause b : Nat) : (s.fence k n none agent cause).core b = s.core b := by
  unfold State.fence
  split
  · rfl
  · exact (State.recordCause_core _ _ b).trans (State.core_modHub s b _)

theorem State.fence_none_failed (s : State) (k n agent cause : Nat) : (s.fence k n none agent cause).failed k n = true := by
  unfold State.fence
  split
  · next h => exact h
  · unfold State.failed State.containEntry
    simp

/-! ## Double traps (spec/06 R221) -/

/-- The state in which core a has stopped in a double trap and the cause table has its entry. -/
def State.stopped (s : State) (a : Nat) (k : Cause) (v : W64) : State :=
  (s.modCore a fun c => { c with act := .stopped, sleep := .none }).recordCause (coreCause a (s.core a) 0 true k v)

section
variable (s : State) (a : Nat) (k : Cause) (v : W64)

theorem State.core_stopped_same : (s.stopped a k v).core a = { s.core a with act := .stopped, sleep := .none } :=
  (State.recordCause_core _ _ a).trans (State.core_setCore_same s a _)

theorem State.core_stopped_other {b : Nat} (h : b ≠ a) : (s.stopped a k v).core b = s.core b :=
  (State.recordCause_core _ _ b).trans (State.core_setCore_other s _ (Ne.symm h))

theorem State.stopped_oneMore : s.OneMoreEntry (s.stopped a k v) :=
  State.recordCause_oneMore (s.modCore a _) _

theorem State.stopped_jobs : (s.stopped a k v).hub.jobs = s.hub.jobs := State.recordCause_jobs _ _

theorem State.stopped_jobOf : (s.stopped a k v).jobOf a = s.jobOf a := by
  unfold State.jobOf
  rw [State.stopped_jobs]

theorem State.stopped_jobSsn {j : Job} (haway : j.stand.away = false) : (s.stopped a k v).jobSsn j = s.jobSsn j := by
  have hcore (b : Nat) : ((s.stopped a k v).core b).ssn = (s.core b).ssn ∧
      ((s.stopped a k v).core b).member = (s.core b).member := by
    by_cases h : b = a
    · subst h
      rw [State.core_stopped_same]
      exact ⟨rfl, rfl⟩
    · rw [State.core_stopped_other s a k v h]
      exact ⟨rfl, rfl⟩
  exact State.jobSsn_congr haway (fun b => (hcore b).1) fun b => (hcore b).2

end

/-- A trap while a handler is active, or without a vector, is a double trap. -/
theorem State.trapEntry_double {s : State} {a : Nat} (k : Cause) (v : W64) (pc : W32)
    (h : (s.core a).trapc.getLsbD 30 = true ∨ (s.core a).tvec = 0) : s.trapEntry a k v pc = s.doubleTrap a k v := by
  have hstop : (bit (s.core a).trapc 30 || decide ((s.core a).tvec = 0)) = true := by
    rwa [Bool.or_eq_true, decide_eq_true_iff]
  unfold State.trapEntry
  simp only [hstop, if_true]

section
variable {s : State} {a : Nat} (k : Cause) (v : W64)

/-- A core of no job stops, and that is all. -/
theorem State.doubleTrap_of_noJob (hhub : isHub a = false) (hjob : s.jobOf a = none) :
    s.doubleTrap a k v = s.stopped a k v := by
  have hnone := (s.stopped_jobOf a k v).trans hjob
  unfold State.stopped at hnone ⊢
  simp only [State.doubleTrap, hhub, hnone, Bool.false_eq_true, if_false]

theorem State.doubleTrap_of_job (hhub : isHub a = false) {j : Job} (hjob : s.jobOf a = some j) :
    s.doubleTrap a k v = (s.stopped a k v).endJob j .trapped a k.code := by
  have hsome := (s.stopped_jobOf a k v).trans hjob
  unfold State.stopped at hsome ⊢
  simp only [State.doubleTrap, hhub, hsome, Bool.false_eq_true, if_false]

theorem State.doubleTrap_of_hub (hhub : isHub a = true) :
    s.doubleTrap a k v = (s.stopped a k v).fence 2 a none a k.code := by
  simp only [State.doubleTrap, State.stopped, hhub, if_true]

end

/-- Settles O30, by the kind of core and its job. -/
theorem doubleTrapStops : Obligations.DoubleTrapStops := by
  unfold Obligations.DoubleTrapStops
  intro s a cause v pc h t
  have ht : t = s.doubleTrap a cause v := State.trapEntry_double cause v pc h
  have hstop := s.core_stopped_same a cause v
  refine ⟨fun hhub hjob => ?_, fun j hhub hjob => ?_, fun hhub => ?_⟩
  · rw [ht, State.doubleTrap_of_noJob cause v hhub hjob]
    exact ⟨hstop, fun b hb => s.core_stopped_other a cause v hb, s.stopped_oneMore a cause v⟩
  · have hends := (s.stopped a cause v).endJob_oneMore j (st := .trapped) a cause.code (by decide)
    rw [s.stopped_jobSsn a cause v (State.jobOf_not_away hjob)] at hends
    rw [ht, State.doubleTrap_of_job cause v hhub hjob]
    refine ⟨fun k hk => ?_, hends.congr_left (State.recordCause_funcs _ _) (State.recordCause_wreg _ _)⟩
    rw [State.endJob_jobs] at hk
    simpa using (List.mem_filter.1 hk).2
  · rw [ht, State.doubleTrap_of_hub cause v hhub, State.core_fence_none, hstop]
    exact ⟨rfl, State.fence_none_failed _ 2 a a cause.code⟩

end Sys2Proof.Machine
end
